-- ==== Sys2Proof/Word.lean ====
section
/-! DEFINITION. The word types of the ZH9 and their plainest arithmetic. -/

namespace Sys2Proof

/-- One byte (R8). -/
abbrev Byte := BitVec 8
/-- A 32-bit element of the register array (R105). -/
abbrev Word32 := BitVec 32
/-- A 64-bit scalar (R108). -/
abbrev Word64 := BitVec 64
/-- The five sticky flags NV [4], DZ [3], OF [2], UF [1], NX [0] (R109, R178). -/
abbrev Flags := BitVec 5

/-- Field `[hi:lo]` of a Nat image, as `bits(x, hi, lo)` of R10. -/
def natBits (x hi lo : Nat) : Nat := (x >>> lo) % 2 ^ (hi + 1 - lo)

/-- Ceiling division, as the latency formulas write it. -/
def ceilDiv (a b : Nat) : Nat := (a + b - 1) / b

end Sys2Proof
end

