-- ==== Sys2Proof/Config.lean ====
section
/-! DEFINITION. What the specification leaves open (free values: constants with no body, so that nothing can be
proved of what they are) and the few constants of the part. -/

namespace Sys2Proof.Config

/-- DESIGN CHOICE (log 2). The free values of the machine, drawn one after another by the counter `State.free`: every
choice the specification leaves open (a landing cycle, old or new contents of a sector, an undefined byte). -/
opaque free : Nat → BitVec 64

/-- R23. The ML-DSA-65 signature over an attestation report, 3,309 bytes: Ronilor's identity key never leaves it, so the
value is free. -/
opaque signature : List Nat → BitVec (8 * 3309)

/-- R22. The 64-byte SHAKE256 digest of some bytes: the function is named and not defined here, so its values are free. -/
opaque shake256 : List (BitVec 8) → BitVec 512

/-- R22. ML-DSA-65 verification (FIPS 204): public key, digest, signature. -/
opaque mlDsaVerify : List (BitVec 8) → BitVec 512 → List (BitVec 8) → Bool

/-- R22. The digest of the Eminaelle public key that the fuses hold. -/
opaque keyDigest : BitVec 512

/-- R23. The module's serial number: not stated, so it is free. -/
opaque serial : Nat

/-- R1. Cores per cluster, clusters per die, dies per module. -/
def coresPerCluster : Nat := 8
/-- R1. -/
def clustersPerDie : Nat := 6
/-- R1. -/
def dies : Nat := 9
/-- R1. Cores of a module: 432. -/
def coresPerModule : Nat := 432
/-- R40. Cycles of one absolute slot. -/
def slotCycles : Nat := 88
/-- R12. Bytes of one HBM stack: 48 GiB = 0x00C_0000_0000. -/
def stackBytes : Nat := 0xC00000000

end Sys2Proof.Config
end

