-- ==== Sys2Proof/Machine/Store.lean ====
section
/-! DEFINITION. Sparse maps in one canonical form: keys strictly rising, no entry equal to the default. Every register
file, the register array and memory are such maps, so that equal contents are equal data. -/

namespace Sys2Proof.Machine

/-- A sparse map from numbers to values: key and value pairs, the keys rising. -/
abbrev SMap (α : Type) := List (Nat × α)

/-- The value at key `k`; `d` is what an unlisted key reads as. -/
def mget {α : Type} (d : α) : SMap α → Nat → α
  | [], _ => d
  | (k', v) :: m, k => if k = k' then v else if k < k' then d else mget d m k

/-- Put `v` at key `k`, keeping the canonical form: writing the default removes the entry. -/
def mset {α : Type} [DecidableEq α] (d : α) : SMap α → Nat → α → SMap α
  | [], k, v => if v = d then [] else [(k, v)]
  | (k', v') :: m, k, v =>
    if k = k' then (if v = d then m else (k, v) :: m)
    else if k < k' then (if v = d then (k', v') :: m else (k, v) :: (k', v') :: m)
    else (k', v') :: mset d m k v

/-- The canonical form: every key above the bound `lo`, keys strictly rising, no default value listed. -/
def mwfFrom {α : Type} [DecidableEq α] (d : α) : Nat → SMap α → Bool
  | _, [] => true
  | lo, (k, v) :: m => decide (lo ≤ k) && decide (v ≠ d) && mwfFrom d (k + 1) m

/-- The canonical form of a whole map. -/
def mwf {α : Type} [DecidableEq α] (d : α) (m : SMap α) : Bool := mwfFrom d 0 m

/-- Put each of a list of keyed values. -/
def msetMany {α : Type} [DecidableEq α] (d : α) (m : SMap α) (l : List (Nat × α)) : SMap α :=
  l.foldl (fun m p => mset d m p.1 p.2) m

/-- Memory: bytes by address (Host.Cell); an unlisted address reads as zero (log 4; R96 for lexemes). -/
abbrev Memory := List Host.Cell

/-- What a byte that nothing has written reads as (log 4, DESIGN CHOICE except for lexemes, R96). -/
def Memory.unwritten : Byte := 0#8

/-- Memory is canonical. -/
def Memory.wf (m : Memory) : Bool := mwf Memory.unwritten m

/-- One byte. -/
def Memory.read (m : Memory) (a : Nat) : Byte := mget Memory.unwritten m a

/-- Write one byte. -/
def Memory.write (m : Memory) (a : Nat) (v : Byte) : Memory := mset Memory.unwritten m a v

/-- `n` bytes from `a`, the lowest address first (R8). -/
def Memory.readBytes (m : Memory) (a n : Nat) : List Byte := (List.range n).map fun i => m.read (a + i)

/-- Write bytes from `a` upward. -/
def Memory.writeBytes : Memory → Nat → List Byte → Memory
  | m, _, [] => m
  | m, a, b :: bs => Memory.writeBytes (m.write a b) (a + 1) bs

/-- Little-endian value of bytes (R8). -/
def bytesToNat : List Byte → Nat
  | [] => 0
  | b :: bs => b.toNat + 256 * bytesToNat bs

/-- The `n` little-endian bytes of a value (R8). -/
def natToBytes : Nat → Nat → List Byte
  | 0, _ => []
  | n + 1, v => BitVec.ofNat 8 v :: natToBytes n (v / 256)

end Sys2Proof.Machine
end

