-- ==== Sys2Proof/Syntax.lean ====
section
/-! DEFINITION. The steps of the ZH9: one constructor for each row of spec/opcode_table.json. Rows 0–77 and
INVALIDATION_COMPLETE are events of the module; the others are slot operations of a bundle (R94, R282–R287). -/

namespace Sys2Proof

abbrev SReg := BitVec 6
abbrev GReg := BitVec 4
abbrev PReg := BitVec 4
abbrev Tok := BitVec 6

/-- The guard of an S-slot operation, or the condition of a B-slot operation (R282, R287). -/
structure Guard where
  neg : Bool
  g : GReg
  deriving DecidableEq, Repr

/-- A V-slot word: every field of R283. `sub` is bits [8:5], read as `rnd`, `sat` or SUB by each row (R280). -/
structure VOp where
  slot1 : Bool
  nf : Bool
  neg : Bool
  p : PReg
  d : BitVec 13
  a : BitVec 13
  b : BitVec 13
  sub : BitVec 4
  fmt : BitVec 5
  deriving DecidableEq, Repr

/-- An MCALL word (R284): tokens, elastic code, COMP and the routine-specific flags [9:5]. -/
structure MOp where
  produce : Tok
  c1 : Tok
  c2 : Tok
  c3 : Tok
  elastic : BitVec 4
  comp : Bool
  spec : BitVec 5
  deriving DecidableEq, Repr

/-- Which of the two C slots holds the operation (R94). -/
abbrev CSlot := Bool

/-- R95, R26. A replaceable unit, or one that a map bit stands for. -/
inductive HwUnit where
  | cluster (s : Nat)
  | stack (s : Nat)
  | port (p : Nat)
  | cxl (p : Nat)
  | csp (d : Nat)
  | core (g : Nat)
  | slice (s : Nat)
  | die (d : Nat)
  deriving DecidableEq, Repr

/-- R22. An image and its ML-DSA-65 signature. -/
structure Image where
  bytes : List Byte
  sig : List Byte
  deriving DecidableEq, Repr

/-- R21. The images of stage 4: die firmware, link firmware and system-software loader. -/
structure Firmware where
  die : Image
  link : Image
  loader : Image
  deriving DecidableEq, Repr

/-- R35. What the host sets of PTP with the module id: the domainNumber and grandmaster eligibility. -/
structure PtpSettings where
  domain : Byte
  eligible : Bool
  deriving DecidableEq, Repr

/-- R26. The outcome of training or testing a unit that failed at first: the one retry. -/
structure UnitRetry where
  unit : HwUnit
  retryOk : Bool
  deriving DecidableEq, Repr

/-- R41. The status a header reports for one flit of reverse slot n − 2. -/
inductive FlitStatus where
  | ok
  | unc
  | stale
  deriving DecidableEq, Repr

/-- R47. A remote access as it travels in a SERV entry. -/
inductive RemoteOp where
  | load (size : Nat)
  | store (data : List Byte)
  /-- A vector's elements or rows at several places of the module, each its local physical address and its bytes (R369). -/
  | gather (runs : List (Nat × Nat))
  | scatter (runs : List (Nat × List Byte))
  | amo (op : BitVec 4) (size : Nat) (v : Word64)
  | cas (size : Nat) (old new : Word64)
  | arrive
  | expect (k : Word32)
  deriving DecidableEq, Repr

/-- R124. What the flits of a tagged COPY say: the command's number at its module, the tag, and each frame that it writes
entirely with how many of its flits write there. -/
structure FrameTags where
  cmd : Nat
  tag : BitVec 16
  frames : List (Nat × Nat)
  deriving DecidableEq, Repr

/-- What a flit carries (R45, R48, R386, R389). -/
inductive FlitBody where
  /-- A SEND flit: its 256 bytes go to the port's slot buffer (R387). -/
  | send (data : List Byte)
  /-- A piece of a COPY: bytes written at local physical addresses of the destination (R422). -/
  | copy (runs : List (Nat × List Byte)) (tags : Option FrameTags)
  /-- The payload flit of a PUTSIG message (R388). -/
  | sigPayload (runs : List (Nat × List Byte))
  /-- The signal flit: barrier arrival (flag = none) or 64-bit flag write (R388). -/
  | signal (addr : Nat) (flag : Option Word64)
  /-- A collective's flit; the first one carries the fields of the descriptor (R389). -/
  | coll (fields : Option (List Word64)) (data : List Byte)
  /-- A remote request: the number it has at this hop, the global physical address and the access (R47). -/
  | request (id addr : Nat) (op : RemoteOp)
  /-- The response to the request of that number: performed or failed, and the data (R47). -/
  | response (id : Nat) (ok : Bool) (data : List Byte)
  deriving DecidableEq, Repr

/-- One flit as it travels (R40, R49): the port, absolute slot and position it travels in; the module, port, slot and
position it was first sent from (its routing fields, by which a resent or forwarded flit is known, R45, R51); final
destination, group, generation. -/
structure Flit where
  port : Nat
  slot : Nat
  idx : Nat
  src : Nat
  sport : Nat
  orig : Nat
  oidx : Nat
  dst : Nat
  group : BitVec 10
  gen : BitVec 6
  body : FlitBody
  /-- FEC corrected the flit (R42). -/
  fec : Bool
  /-- FEC failed, or the CRC-32C failed after correction (R42). -/
  bad : Bool
  /-- A forwarding module found it uncorrectable and forwarded it marked bad (R51). -/
  marked : Bool
  /-- This is a resent flit (R51). -/
  replay : Bool
  deriving DecidableEq, Repr

/-- R35, R41. The PTP event fields of a slot header: domain, and the time it is stamped with at the start of the slot. -/
structure PtpEvent where
  domain : Byte
  time : Nat
  deriving DecidableEq, Repr

/-- R35, R37. The PTP event fields of a header that arrived, and the offset estimate that PTP makes of them. -/
structure PtpReading where
  event : PtpEvent
  offs : BitVec 8
  deriving DecidableEq, Repr

/-- R194. A doubleword written to +0x18 of a coded region entry. -/
structure RegionWrite where
  entry : Nat
  v : Word64
  deriving DecidableEq, Repr

/-- A 48-bit S word's load or store width and space fields (R282). -/
structure MemRef where
  a : SReg
  space : BitVec 2
  width : BitVec 3
  deriving DecidableEq, Repr

/-- The steps of the part. -/
inductive Instr where
  -- bring-up and management (R20–R28)
  | ronilorStart (a b : Image) (key : List Byte)
  | linkTraining (ucieOk edge01Ok selfTest01Ok : Bool) (units : List UnitRetry)
  | hbmTraining (units : List UnitRetry)
  | firmwareLoad (images : Firmware) (key : List Byte)
  | ptpLock (elected : Bool) (parent : Option (Nat × Word64)) (units : List UnitRetry) (cxl : List Nat)
  | attestationRequest (nonce : BitVec 256)
  | moduleReset
  | setModuleId (id : BitVec 12) (d : BitVec 4) (ptp : PtpSettings) (time : Option Word64)
  | bootstatFailsWrite (v : Word32)
  | thermalWarning (die : Nat)
  | lossOfLock (portDown : Bool)
  -- the fabric (R31–R53, R425)
  | slotHeaderReceive (port slot : Nat) (skew : Int) (ptp : PtpReading) (status : List FlitStatus)
      (late : List (Nat × Nat × FlitStatus))
  | flitReceive (f : Flit)
  | remoteRequest (f : Flit) (id addr : Nat) (op : RemoteOp)
  | remoteResponse (f : Flit) (id : Nat) (answer : Option (List Byte))
  | ltarm (a : Word64)
  | ltstop (v : Word64)
  | groupActivate (g : BitVec 10) (v : Byte)
  | finjWrite (word1 : Bool) (v : Word64)
  -- timetables, tasks and the pool (R54–R93, R426, R427)
  | ttArm (die : Nat) (t : Word64)
  | ttStop (die : Nat) (v : Word64)
  | ttEntryRead (die : Nat)
  | codePreload (core : Nat)
  | scratchpadLoad (core : Nat)
  | taskStart (core : Nat)
  | loadFailure (core : Nat)
  | latePolicy (core : Nat)
  | poolPreempt (core : Nat)
  | taskResume (core : Nat)
  | taskRerun (core : Nat)
  | overrun (core : Nat)
  | taskRetire (core : Nat)
  | faultLogConfig (size : Bool) (v : Word64)
  | poolPost (v : Word64)
  | poolCancel (v : Word64)
  | backgroundPost (die : Nat)
  | registerWrite (addr : Nat) (v : Word64)
  -- translation, caches, coded regions (R130–R141, R193–R213)
  | xinv (v : Word64)
  | translationMiss (core : Nat)
  | walkComplete (core : Nat)
  | slcfgWrite (slice : Nat) (v : Word64)
  | wmodeChangeComplete (slice : Nat)
  | l2Eviction (line : Nat)
  | regionFlush (w : RegionWrite)
  | regionFlushComplete (entry : Nat)
  | codedAccess (addr len : Nat) (write : Option (List Byte))
  | codedWriteback (block : Nat) (fails : Bool)
  -- errors and events of a core (R99–R103, R245–R258)
  | memerr (core : Nat)
  | resultLand (core : Nat)
  | waitRelease (core : Nat)
  | trapEntry (core : Nat)
  | timingReport (core : Nat)
  | drainDiversion (core : Nat)
  | drainDeferralKill (core : Nat)
  | stubTimeoutKill (core : Nat)
  -- engines (R157–R162, R350–R392)
  | copyStart (core : Nat)
  | copyComplete (core : Nat)
  | cflushComplete (core : Nat)
  | routineStart (core : Nat)
  | routineComplete (core : Nat)
  | rescaleComplete (core : Nat)
  | collectiveStart (die : Nat)
  | collectiveComplete (die : Nat) (ok : Bool) (contrib : List (List Byte))
  -- text indices (R95)
  | pause (n : BitVec 12)
  -- S slot: integer (R291–R294)
  | add (g : Guard) (d a b : SReg)
  | sub (g : Guard) (d a b : SReg)
  | mul (g : Guard) (d a b : SReg)
  | mulh (g : Guard) (d a b : SReg)
  | mulhu (g : Guard) (d a b : SReg)
  | div (g : Guard) (d a b : SReg)
  | divu (g : Guard) (d a b : SReg)
  | rem (g : Guard) (d a b : SReg)
  | remu (g : Guard) (d a b : SReg)
  | and (g : Guard) (d a b : SReg)
  | or (g : Guard) (d a b : SReg)
  | xor (g : Guard) (d a b : SReg)
  | andn (g : Guard) (d a b : SReg)
  | shl (g : Guard) (d a b : SReg)
  | shr (g : Guard) (d a b : SReg)
  | sar (g : Guard) (d a b : SReg)
  | rol (g : Guard) (d a b : SReg)
  | min (g : Guard) (d a b : SReg)
  | max (g : Guard) (d a b : SReg)
  | minu (g : Guard) (d a b : SReg)
  | maxu (g : Guard) (d a b : SReg)
  | clz (g : Guard) (d a : SReg)
  | popc (g : Guard) (d a : SReg)
  | pdep (g : Guard) (d a b : SReg)
  | pext (g : Guard) (d a b : SReg)
  | addi (g : Guard) (d a : SReg) (imm : BitVec 17)
  | andi (g : Guard) (d a : SReg) (imm : BitVec 17)
  | ori (g : Guard) (d a : SReg) (imm : BitVec 17)
  | xori (g : Guard) (d a : SReg) (imm : BitVec 17)
  | shli (g : Guard) (d a : SReg) (c : BitVec 6)
  | shri (g : Guard) (d a : SReg) (c : BitVec 6)
  | sari (g : Guard) (d a : SReg) (c : BitVec 6)
  | lui (g : Guard) (d : SReg) (v : BitVec 29)
  -- S slot: compare, select, predicates (R295–R298)
  | cmp (g : Guard) (d : GReg) (a b : SReg) (cc : BitVec 4)
  | cmpi (g : Guard) (d : GReg) (a : SReg) (cc : BitVec 4) (imm : BitVec 13)
  | sel (g : Guard) (d a b : SReg) (s : GReg)
  | glog (g : Guard) (d a b : GReg) (op : BitVec 4)
  | puni (g : Guard) (d : GReg) (p : PReg)
  -- S slot: floating point (R299–R302)
  | fadd (g : Guard) (d a b : SReg) (rnd : BitVec 3) (fmt : BitVec 5)
  | fsub (g : Guard) (d a b : SReg) (rnd : BitVec 3) (fmt : BitVec 5)
  | fmul (g : Guard) (d a b : SReg) (rnd : BitVec 3) (fmt : BitVec 5)
  | ffma (g : Guard) (d a b c : SReg) (rnd : BitVec 3) (fmt : BitVec 5)
  | fdiv (g : Guard) (d a b : SReg) (rnd : BitVec 3) (fmt : BitVec 5)
  | fsqrt (g : Guard) (d a : SReg) (rnd : BitVec 3) (fmt : BitVec 5)
  | fmin (g : Guard) (d a b : SReg) (rnd : BitVec 3) (fmt : BitVec 5)
  | fmax (g : Guard) (d a b : SReg) (rnd : BitVec 3) (fmt : BitVec 5)
  | fcvt (g : Guard) (d a : SReg) (rnd : BitVec 3) (dfmt sfmt : BitVec 5) (sat : Bool)
  | fcmp (g : Guard) (d : GReg) (a b : SReg) (cc : BitVec 4) (fmt : BitVec 5)
  -- S slot: memory (R303–R308)
  | ld (g : Guard) (d : SReg) (m : MemRef) (off : BitVec 12)
  | st (g : Guard) (b : SReg) (m : MemRef) (off : BitVec 12)
  | amo (g : Guard) (d b : SReg) (m : MemRef) (op : BitVec 4) (off : BitVec 8)
  | cas (g : Guard) (d b : SReg) (m : MemRef) (off : BitVec 12)
  -- S slot: system registers and parameters (R309–R313)
  | mfs (g : Guard) (d : SReg) (sr : BitVec 12)
  | mts (g : Guard) (a : SReg) (sr : BitVec 12)
  | mtsTemp (g : Guard) (a : SReg)
  | mtsLsc (g : Guard) (a : SReg)
  | mtsLscr (g : Guard) (a : SReg)
  | mtsTripKix (g : Guard) (a : SReg) (kix : Bool)
  | mtsHot (g : Guard) (a : SReg) (n : BitVec 3)
  | mtsRslim (g : Guard) (a : SReg)
  | mtsTcause (g : Guard) (a : SReg)
  | mtsCctr (g : Guard) (a : SReg)
  | mpset (g : Guard) (m : BitVec 3) (a : SReg) (imm : BitVec 17)
  | cdset (g : Guard) (n : BitVec 4) (w : BitVec 3) (a : SReg)
  | launch (g : Guard) (d : GReg) (a : SReg)
  -- V slots (R314–R349)
  | vadd (v : VOp)
  | vsub (v : VOp)
  | vmul (v : VOp)
  | vfma (v : VOp)
  | vfms (v : VOp)
  | vfnma (v : VOp)
  | vdiv (v : VOp)
  | vsqrt (v : VOp)
  | vmin (v : VOp)
  | vmax (v : VOp)
  | vabs (v : VOp)
  | vneg (v : VOp)
  | vexp2 (v : VOp)
  | vlog2 (v : VOp)
  | vsqacc (v : VOp)
  | vcmul (v : VOp)
  | vcfma (v : VOp)
  | vconj (v : VOp)
  | vand (v : VOp)
  | vor (v : VOp)
  | vxor (v : VOp)
  | vshl (v : VOp)
  | vshr (v : VOp)
  | vsar (v : VOp)
  | vcvt (v : VOp)
  | vqnt (v : VOp)
  | vdqnt (v : VOp)
  | vmxq (v : VOp)
  | vmxd (v : VOp)
  | vmov (v : VOp)
  | vbcast (v : VOp)
  | vperm (v : VOp)
  | vbitx (v : VOp)
  | vlane (v : VOp)
  | vred (v : VOp)
  | vextr (v : VOp)
  | vins (v : VOp)
  | vcmp (v : VOp)
  | vsel (v : VOp)
  | vflag (v : VOp)
  | vrnd (v : VOp)
  | plog (v : VOp)
  | pmov (v : VOp)
  | scmp (v : VOp)
  | qlog (v : VOp)
  | qnot (v : VOp)
  | qblend (v : VOp)
  | qcol (v : VOp)
  | qhard (v : VOp)
  | qmov (v : VOp)
  | qgrad (v : VOp)
  | qbgrad (v : VOp)
  | qpgrad (v : VOp)
  -- M slot (R350–R368)
  | gemm (m : MOp)
  | gemmt (m : MOp)
  | conv (m : MOp)
  | cgemm (m : MOp)
  | gate (m : MOp)
  | accrd (m : MOp)
  | accclr (m : MOp)
  | skinit (m : MOp)
  | skfold (m : MOp)
  | skshrink (m : MOp)
  | skmerge (m : MOp)
  | skrd (m : MOp)
  | skwr (m : MOp)
  | userRoutineCall (rtn : BitVec 8) (m : MOp)
  | userRoutineLoad (rtn : BitVec 8) (m : MOp)
  | mstop (t : Tok)
  | mstat (mp : BitVec 3) (clr : Bool)
  -- C slots (R369–R384)
  | ldv (c1 : CSlot) (v : BitVec 13) (b : SReg) (off : BitVec 13) (space : BitVec 2)
  | stv (c1 : CSlot) (v : BitVec 13) (b : SReg) (off : BitVec 13) (space : BitVec 2)
  | ldvs (c1 : CSlot) (v : BitVec 13) (b s tag : SReg) (space : BitVec 2)
  | stvs (c1 : CSlot) (v : BitVec 13) (b s : SReg) (space : BitVec 2)
  | ldx (c1 : CSlot) (v : BitVec 13) (b : SReg) (i : BitVec 13) (space : BitVec 2)
  | stx (c1 : CSlot) (v : BitVec 13) (b : SReg) (i : BitVec 13) (space : BitVec 2)
  | ldt (c1 : CSlot) (t : BitVec 5) (b p tag : SReg) (cols : Bool) (space : BitVec 2)
  | stt (c1 : CSlot) (t : BitVec 5) (b p : SReg) (cols : Bool) (space : BitVec 2)
  | copy (c1 : CSlot) (cd : BitVec 4) (time : SReg) (produce k1 k2 k3 : Tok)
  | arrive (c1 : CSlot) (a : SReg) (space : BitVec 2)
  | expect (c1 : CSlot) (a : SReg) (space : BitVec 2) (k : SReg)
  | tokclr (c1 : CSlot) (t : Tok)
  | cflush (c1 : CSlot) (a l : SReg) (inv : Bool) (produce : Tok)
  -- N slot (R385–R392, R286)
  | send (port : BitVec 5) (v : BitVec 13) (x : BitVec 15)
  | recv (port : BitVec 5) (v : BitVec 13) (x : BitVec 15)
  | recvadd (port : BitVec 5) (v : BitVec 13) (x : BitVec 15)
  | recvsq (port : BitVec 5) (v : BitVec 13) (x : BitVec 15)
  | putsig (chan : BitVec 3) (v : BitVec 13) (q : SReg)
  | ncoll (q : SReg) (produce : Tok)
  | nwait (x : BitVec 15)
  -- B slot (R393–R412)
  | br (g : Guard) (target : BitVec 15)
  | brc (g : Guard) (a : SReg)
  | call (g : Guard) (target : BitVec 15)
  | ret (g : Guard)
  | loop (target : BitVec 15)
  | loopr (target : BitVec 15) (d : BitVec 3)
  | bswap (g : Guard) (target : BitVec 15)
  | ifence (g : Guard)
  | waitb (g : Guard) (a gen : SReg) (space : BitVec 2)
  | waitt (g : Guard) (t : Tok)
  | waitc (g : Guard) (a : SReg) (n : BitVec 14)
  | hold (g : Guard) (a : SReg) (n : BitVec 14)
  | done (g : Guard)
  | yield (g : Guard) (target : BitVec 15)
  | trap (g : Guard) (e : BitVec 14)
  | ebreak (g : Guard) (e : BitVec 14)
  | savex (g : Guard) (a : SReg)
  | restx (g : Guard) (a : SReg)
  | acq (g : Guard) (a : SReg) (space : BitVec 2)
  | rel (g : Guard) (a : SReg) (space : BitVec 2)
  | fence (g : Guard) (scope : BitVec 3)
  | invalidationComplete (die : Nat)
  | leaveHoldover (port : Nat)
  -- steps without operands: bring-up and module events, the quote, the no-ops
  | mapPublish
  | bringUpWatchdog
  | ptpLockTimeout
  | fenceListClear
  | thermalStop
  | powerOverloadStop
  | slotSend
  | signalApply
  | linkTimetableStart
  | linkTimetableEnd
  | poolTake
  | barrierUpdate
  | quote
  | mnop
  | cnop
  | nnop
  | bnop
  deriving DecidableEq, Repr

end Sys2Proof
end

