-- ==== Sys2Proof/Machine/State.lean ====
section
/-! DEFINITION. The state of one ZH9 module, as plain data: everything the specification gives it, plus the model's own
bookkeeping (the input queue, the counter of free values, the records that free choices are made from), which is named
as such where it stands and in INVENTORY.md. -/

namespace Sys2Proof.Machine

/-- R108. A dependence token: done-ok, pending or done-error. -/
inductive TokState where
  | ok
  | pending
  | err
  deriving DecidableEq, Repr

/-- R72. The state of a core. -/
inductive Phase where
  | idle
  | run
  | drain
  | ended
  deriving DecidableEq, Repr

/-- R245–R250. A trap that has been raised and not yet entered, or an asynchronous report (R251). -/
structure TrapRec where
  code : BitVec 8
  slot : BitVec 3
  whole : Bool
  async : Bool
  detail : BitVec 56
  /-- The cause is a failed walk, which yields to every issue-time cause (R250). -/
  byWalk : Bool
  deriving DecidableEq, Repr

/-- R245. A trap on its way into the handler: TEPC, CLEAN and the issue count H at which the handler issues. -/
structure TrapEntry where
  cause : TrapRec
  tepc : BitVec 15
  clean : Bool
  due : Nat
  deriving DecidableEq, Repr

/-- What an operation in flight writes when it lands (R99, R101): the element was fixed at issue. -/
inductive Effect where
  | s (n : Nat) (v : Word64)
  | g (n : Nat) (v : Bool)
  | t (key : Nat) (v : Word32)
  | p (n lane : Nat) (v : Bool)
  | pAll (n : Nat) (v : BitVec 64)
  | q (n lane : Nat) (v : Word32) (lineage : Byte)
  | mp (n : Nat) (v : Word64)
  | cd (key : Nat) (v : Word64)
  | sys (n : Nat) (v : Word64)
  | sflg (f : Flags)
  | lflg (lane : Nat) (f : Flags)
  | lclr (lane : Nat)
  | laneStore (key : Nat) (bytes : List Byte)
  /-- A lane store that the core's own loads see from issue count `due` only (STT, R373). -/
  | laneSlow (key : Nat) (bytes : List Byte) (due : Nat)
  | tokClr (n : Nat)
  | mstop (n : Nat)
  | restx (rsd : BitVec 18)
  /-- Nothing is written; the operation still counts for H and CLEAN until its bound (R245, R248). -/
  | nothing
  deriving DecidableEq, Repr

/-- An operation in flight: lands at issue count `due` (R99). `bounded` operations count for H and CLEAN at their bound
(R245), which is `bound`. -/
structure Pend where
  due : Nat
  bound : Nat
  eff : Effect
  deriving DecidableEq, Repr

/-- R98, R112, R246. Of what the bundle to issue next is the delay bundle. -/
inductive DelayOf where
  | none
  | branch
  | loop
  deriving DecidableEq, Repr

/-- R98, R257, R399. What a taken branch does when its target issues: nothing more; a half swap; or the re-issue of a
wait and of the empty bundles that RESTX restored. -/
inductive RedirKind where
  | plain
  | swap
  | restx (wait : Option (BitVec 40))
  deriving DecidableEq, Repr

/-- A taken branch whose target has not issued. -/
structure Redir where
  target : BitVec 15
  kind : RedirKind
  deriving DecidableEq, Repr

/-- R401. What a frozen core waits for. -/
inductive WaitKind where
  /-- Generation `gen` of the barrier at local physical `addr`; `bound` 0 in space 0 (R402); `seen` is the cycle from
  which a completion at the home is seen. -/
  | barrier (addr : Nat) (gen : Word32) (bound : Nat) (seen : Option Nat)
  /-- A barrier at a global physical address of another module, watched through SERV requests (R402, R47): done when a
  response says so. -/
  | remoteBarrier (id addr : Nat) (done : Bool)
  | token (n : Nat)
  | cycle (until_ : Nat)
  deriving DecidableEq, Repr

/-- R103. A wait freeze in progress, with the wait's B-slot image for WAITOP (R254). -/
structure Wait where
  kind : WaitKind
  image : BitVec 40
  deriving DecidableEq, Repr

/-- R139. One installed translation of a die's translation unit. -/
structure TuEntry where
  die : Nat
  /-- First virtual address of the page, and its size. -/
  va : Nat
  size : Nat
  /-- Global physical address of the page. -/
  pa : Nat
  rd : Bool
  wr : Bool
  nl1 : Bool
  deriving DecidableEq, Repr

/-- R140. Whose access a walk serves: the core's, that of BTE command `seq`, or that of matrix routine `seq`. -/
inductive WalkFor where
  | core
  | bte (seq : Nat)
  | mu (seq : Nat)
  deriving DecidableEq, Repr

/-- R140. A walk the shadow context has to make or is making: the cycle of the miss, what it will install (`none`: it
fails), the cycle it ends once started, the table entry whose read met an uncorrectable error (R139), and whose access it
serves. -/
structure Walk where
  since : Nat
  va : Nat
  entry : Option TuEntry
  ends : Option Nat
  bad : Option Nat
  owner : WalkFor
  deriving DecidableEq, Repr

/-- R60, R61, R70. What starts a task: the entry's or pool entry's fields. -/
structure Launch where
  /-- Pool index, for a pool task. -/
  pool : Option Nat
  die : Nat
  entry : Nat
  pass : Nat
  /-- The core's bit in the record's masks. -/
  bit : Nat
  /-- Start tick E (R56), or the take cycle of a pool task. -/
  tick : Nat
  cls : BitVec 2
  pre : Bool
  dep : Bool
  rerun : Bool
  latep : BitVec 2
  /-- R83. The entry and pass that the task depends on; none: it runs as if DEP = 0. -/
  prev : Option (Nat × Nat)
  budget : BitVec 32
  pdAddr : Word64
  args : Word64
  imgAddr : Word64
  imgSize : BitVec 19
  taskId : Word32
  /-- The program descriptor as read (R61). -/
  pd : BitVec 512
  deriving DecidableEq, Repr

/-- R73–R79. A task that is to start on a core: its loads and its late policy. -/
structure Incoming where
  l : Launch
  /-- Cycle the code preload completes, once begun (R75). -/
  code : Option Nat
  /-- Cycle the scratchpad load (or the whole load) completes, once begun. -/
  spad : Option Nat
  /-- The late policy has been applied (R79). -/
  late : Bool
  /-- This is a rerun (R84). -/
  isRerun : Bool
  /-- A read of an image failed (R427). -/
  failed : Bool
  /-- Its initial-register list as the load read it: number and value of each entry (R62, R75). -/
  inits : List (Nat × Nat)
  /-- Its late policy asked for the pre-emption of the task that held the core (R79). -/
  asked : Bool
  /-- Of a rerun: CAUSE and TEPC of the first ending (R84, R427). -/
  firstEnd : BitVec 8 × BitVec 15
  deriving DecidableEq, Repr

/-- The task that holds a core (R72). -/
structure Task where
  l : Launch
  isRerun : Bool
  /-- First start (R87). -/
  firstStart : Nat
  /-- While the task holds the core, the cycle at which its budget is used up; while it is suspended, the cycles it has
  left; none = no budget (R85, R109). -/
  budget : Option Nat
  deriving DecidableEq, Repr

/-- R81. A suspended task, its resume stub and its remaining budget, and the reload once begun. -/
structure Susp where
  task : Task
  stub : BitVec 15
  reload : Option Nat
  failed : Bool
  /-- Its initial-register list as the reload read it (R81). -/
  inits : List (Nat × Nat)
  deriving DecidableEq, Repr

/-- R86, R87. How a task ended. -/
inductive EndKind where
  | done
  | fault (cause : BitVec 8)
  | overrun
  | kill (cause : BitVec 8)
  | thermal
  deriving DecidableEq, Repr

/-- R254. A drain request waiting to be served: its cause, why it was made, and when. -/
inductive DrainWhy where
  | late
  | pool
  | overrun
  | thermal
  deriving DecidableEq, Repr

/-- R254, R255. `since`: the cycle it arrived; `last`: the cycle of the latest request it has taken in (R93). -/
structure DrainReq where
  cause : BitVec 8
  why : DrainWhy
  since : Nat
  last : Nat
  deriving DecidableEq, Repr

/-- R374, R384. A command in the BTE buffer. `words` are the eight descriptor words with the table's codes resolved (COPY), or
the range (CFLUSH). -/
structure Cmd where
  isFlush : Bool
  inv : Bool
  words : List Word64
  /-- Start cycle C and the issue number that orders equal C (R375). -/
  c : Nat
  seq : Nat
  produce : Tok
  consume : List Tok
  slot : BitVec 3
  ckey : Word64
  cctr : Word64
  deriving DecidableEq, Repr

/-- R146, R208. One single write: its runs of bytes at local physical addresses, all inside one 16-byte sector, one lexeme of a
lexicon window (R398) or one block of the coded view. -/
abbrev WriteUnit := List (Nat × List Byte)

/-- R381. A running command. -/
structure Running where
  cmd : Cmd
  finish : Nat
  /-- No walk, read or write has failed so far. -/
  ok : Bool
  /-- The single writes still to land, each with its cycle (R381). -/
  writes : List (Nat × WriteUnit)
  /-- The cycle by which the BTE, which moves 64 bytes a cycle and serves commands in the order they started, has moved its
  bytes at the earliest (R381). -/
  moved : Nat
  /-- Destination sectors written so far (R161). -/
  wrote : Nat
  /-- Frames it writes entirely and has still to tag (R124). -/
  frames : List Nat
  /-- What its flits say of the frames it writes entirely, for a remote command (R124). -/
  tags : Option FrameTags
  tag : BitVec 16
  /-- Its barrier's local address (R161). -/
  barrier : Option Nat
  /-- Scalar register of the running CRC, and the CRC (R380). -/
  crc : Option (SReg × Word32)
  remote : Bool
  dest : Nat
  /-- Arming slot of the timetable whose entries carry a remote command (R45, R425). -/
  tab : Nat
  /-- Flits of a remote command still unsent, each its address runs, and flits whose status has not returned (R422, R52). -/
  unsent : List (List (Nat × List Byte))
  awaiting : Nat
  /-- Coded blocks and lines a CFLUSH has still to act on (R207, R384). -/
  blocks : List (Nat × Nat)
  lines : List Nat
  deriving DecidableEq, Repr

/-- R354. What a matrix routine does when it completes. -/
structure MuResult where
  /-- Accumulators emptied and untagged, before the writes. -/
  clr : List Nat
  /-- Accumulators made non-empty, with the routine's tag (R191). -/
  full : List Nat
  /-- Bases of the pairs that hold FP64 (R357). -/
  f64 : List Nat
  m : List (Nat × Word32)
  tiles : List (Nat × Word32)
  /-- Writes at local physical addresses, none across a 16-byte sector. -/
  mem : List (Nat × List Byte)
  sk : List (Nat × BitVec 256)
  flags : Flags
  ok : Bool
  err : BitVec 8
  micro : List (Nat × Word64)
  /-- Number, first microword and count of a routine loaded (R366). -/
  loaded : Option (Nat × Nat × Nat)
  deriving DecidableEq, Repr

/-- R367. A chunk a user routine has fetched: its format, its values by row (or column) and place. -/
structure Chunk where
  fmt : Nat
  rows : List (List Nat)
  deriving DecidableEq, Repr

/-- R367. A running user routine: its micro-registers, its next microword and the cycle it executes, its chunks and what it
has done so far. -/
structure UserRun where
  y : List Word64
  pc : Nat
  next : Nat
  a : Chunk
  b : Chunk
  full : List Nat
  flags : Flags
  /-- Writes that a core may not see before the token is observed (R354). -/
  late : List (Nat × List Byte)
  deriving DecidableEq, Repr

/-- R350–R354. A routine on one of the pipes: waiting for its tokens (`start = none`) or running. What its rules fix at issue
is held here: its parameters with the table's codes resolved, the draw's key and counter, the rotation, the loss scale and
the data it reads at issue. -/
structure Routine where
  seq : Nat
  rtn : Nat
  op : MOp
  mp : List Word64
  issue : Nat
  start : Option Nat
  lat : Nat
  finish : Nat
  occM : List Nat
  occK : List Nat
  /-- Accumulators and sketches it makes non-empty (R191). -/
  fillM : List Nat
  fillK : List Nat
  ckey : Word64
  cctr : Word64
  rot : BitVec 6
  lsc : Byte
  words : List Word32
  usr : Option UserRun
  result : Option MuResult
  deriving DecidableEq, Repr

/-- R366. A loaded user routine: its first microword and its count. -/
structure UserRtn where
  first : Nat
  count : Nat
  deriving DecidableEq, Repr

/-- One core (R3, R94–R117): its registers, its sequencer, its engines and what the scheduler holds for it. -/
structure Core where
  phase : Phase
  /-- Next CYC at which the core takes its turn (the model's own, log 2). -/
  turn : Nat
  -- register files (R105, R108)
  sreg : SMap Word64
  greg : SMap Bool
  preg : SMap (BitVec 64)
  qval : SMap Word32
  qlin : SMap Byte
  tile : SMap Word32
  macc : SMap Word32
  mfull : SMap Bool
  mtag : SMap Byte
  /-- Bases of the accumulator pairs that hold FP64 elements (R357). -/
  mf64 : SMap Bool
  sk : SMap (BitVec 256)
  mp : SMap Word64
  cd : SMap Word64
  dt : SMap TokState
  /-- Tokens that the bundle of cycle `newTokAt` has made pending, as they stood before it: what a start of that cycle checks
  (R353, R375; the model's own record). -/
  newTok : List (Nat × TokState)
  newTokAt : Nat
  lflag : SMap Flags
  lane : SMap Byte
  -- system registers (R109)
  tstart : Word64
  taskId : Word32
  sflg : Flags
  trip : Word32
  kix : Word32
  olc : Word32
  rot : BitVec 6
  holdc : Word32
  pausec : BitVec 12
  temp : Word32
  tinv : Word32
  ckey : Word64
  cctr : Word64
  lsc : Byte
  ft : SMap Word64
  tvec : BitVec 15
  tcause : BitVec 8
  tepc : BitVec 15
  tinfo : Word64
  draintab : BitVec 21
  rslim : Word64
  frzc : Word64
  rsdepth : BitVec 18
  hot : SMap Word64
  -- sequencer (R94–R103)
  pc : BitVec 15
  /-- A sequential advance ran past position 32,767: the position of the index that did it (R97). -/
  pastEnd : Option (BitVec 15)
  /-- Active half and bank (R96): false = A. -/
  half : Bool
  /-- The branch whose delay bundle issues next. -/
  redir : Option Redir
  delay : DelayOf
  /-- What the bundle now issuing leaves for after it: its own target and the kind of its delay bundle. -/
  nextRedir : Option Redir
  nextDelay : DelayOf
  /-- RSDEPTH and hardware depth as the bundle now issuing sees them (R396). -/
  rsd0 : BitVec 18
  h0 : Nat
  /-- The target of a taken BSWAP is next: the halves swap in the cycle it issues (R399). -/
  swapping : Bool
  /-- The quote's empty bundle has issued; its literal is next (R95, R98). -/
  inQuote : Bool
  /-- The empty bundles being issued belong to an index of the text (R95). -/
  pausing : Bool
  /-- The empty bundles of a HOLD, an NWAIT or a RESTX are issuing (R406, R409). -/
  holding : Bool
  /-- The position that follows that HOLD or NWAIT in text order, where the text has it (R246). -/
  holdPos : Option (BitVec 15)
  /-- A hold that NWAIT began, with its awaited absolute slot (R286). -/
  nwait : Option Nat
  /-- The target of a RESTX is next: the wait it re-issues, and then its empty bundles (R257). -/
  resuming : Option (Option (BitVec 40))
  rs : List (BitVec 15)
  icnt : Nat
  pend : List Pend
  wait : Option Wait
  /-- A wait that RESTX re-issues before RPC (R257). -/
  rewait : Option (BitVec 40)
  walks : List Walk
  raised : Option TrapRec
  entering : Option TrapEntry
  handler : Bool
  reports : List TrapRec
  /-- R252. An error on its way to the core: its code, its address, and the position and the slot of the access (R247). -/
  memerr : Option (BitVec 8 × Nat × BitVec 15 × BitVec 3)
  -- drain (R254–R258)
  drainReq : Option DrainReq
  drainWhy : DrainWhy
  drainAt : Nat
  waitr : Bool
  waitop : BitVec 40
  -- task (R72–R91)
  task : Option Task
  ending : Option EndKind
  endCyc : Nat
  queue : List Incoming
  susp : Option Susp
  /-- How the core's tasks of timetable entries ended: entry, pass, and whether with DONE (R83); those that no entry read or
  to be read can depend on are left out. -/
  ends : List (Nat × Nat × Bool)
  -- memory-side records
  /-- L1 sectors by sector number of the global physical address (R128). -/
  l1 : SMap (Option (BitVec 128))
  /-- Bytes overwritten by this bundle's stores: what the same bundle's loads still read (R123). -/
  bold : SMap (Option Byte)
  /-- One more than the cycle of the last FENCE.cp; 0 for none (R156; the model's own record, log 8). -/
  fenceCp : Nat
  /-- Lane-slice bytes that a STT has stored and the core's loads still see as they were: issue count and byte (R373). -/
  laneSlow : SMap (List (Nat × Byte))
  /-- Lane-slice sectors with an uncorrectable error, key 256·lane + sector (R252, R253). -/
  lanePoison : SMap (Option Bool)
  /-- Of the writes into the idle half and bank that no IFENCE has marked, by address: the cycle of each, and the byte before it, the
  oldest first (R398; the model's own record, log 9). -/
  unfetched : SMap (List (Nat × Byte))
  /-- Number of the free values from which the half swap under way takes what fetch sees of those writes (R398, the model's own). -/
  swapDraw : Nat
  /-- End of the outstanding coded-view access, as an issue count (R198). -/
  codedBusy : Nat
  -- BTE (R374–R384)
  bte : List Cmd
  running : List Running
  seq : Nat
  /-- One more than the cycle of the BTE's last start (R375). -/
  bteLast : Nat
  -- matrix unit (R350–R368)
  rtns : List Routine
  muFlags : Flags
  muErr : BitVec 8
  /-- The cycle at which a rescale completes, and the sectors it has still to write (R192). -/
  rescale : Option (Nat × List (Nat × List Byte))
  micro : SMap Word64
  user : SMap (Option UserRtn)
  -- ports: SEND and receive cursors by port and slot (R385)
  cursor : SMap Nat
  deriving DecidableEq, Repr

/-- R115 and log 12. A core that no task has started on: the start state of R115 with nothing running. -/
def Core.idle : Core where
  phase := .idle
  turn := 0
  sreg := []
  greg := []
  preg := []
  qval := []
  qlin := []
  tile := []
  macc := []
  mfull := []
  mtag := []
  mf64 := []
  sk := []
  mp := []
  cd := []
  dt := []
  newTok := []
  newTokAt := 0
  lflag := []
  lane := []
  tstart := 0
  taskId := 0
  sflg := 0
  trip := 0
  kix := 0
  olc := 0
  rot := 0
  holdc := 0
  pausec := 0
  temp := 0
  tinv := 0x7F800000#32
  ckey := 0
  cctr := 0
  lsc := 0
  ft := []
  tvec := 0
  tcause := 0
  tepc := 0
  tinfo := 0
  draintab := 0
  rslim := 0
  frzc := 0
  rsdepth := 0
  hot := []
  pc := 0
  pastEnd := none
  half := false
  redir := none
  delay := .none
  nextRedir := none
  nextDelay := .none
  rsd0 := 0
  h0 := 0
  swapping := false
  inQuote := false
  pausing := false
  holding := false
  holdPos := none
  nwait := none
  resuming := none
  rs := []
  icnt := 0
  pend := []
  wait := none
  rewait := none
  walks := []
  raised := none
  entering := none
  handler := false
  reports := []
  memerr := none
  drainReq := none
  drainWhy := .late
  drainAt := 0
  waitr := false
  waitop := 0
  task := none
  ending := none
  endCyc := 0
  queue := []
  susp := none
  ends := []
  l1 := []
  bold := []
  fenceCp := 0
  laneSlow := []
  lanePoison := []
  unfetched := []
  swapDraw := 0
  codedBusy := 0
  bte := []
  running := []
  seq := 0
  bteLast := 0
  rtns := []
  muFlags := 0
  muErr := 0
  rescale := none
  micro := []
  user := []
  cursor := []

/-- R21–R29. Bring-up: BOOTSTAT's fields and what Ronilor keeps. -/
structure Boot where
  stage : BitVec 4
  reason : BitVec 4
  fails : BitVec 2
  minimal : Bool
  slot : Bool
  degraded : Bool
  tstop : Bool
  fenced : Bool
  afail : Bool
  /-- A stop has come, and Ronilor has not found every junction below 85 °C since (R20). -/
  overheat : Bool
  /-- Non-volatile fence list (R26). -/
  fence : List HwUnit
  /-- Failures that the retry passed, kept over resets (R26, log 94). -/
  transient : Nat
  /-- Measurement log (R22). -/
  log : List (BitVec 512)
  /-- Image slot verification failed and no image runs (R25). -/
  romOnly : Bool
  /-- The start failed and no stage runs until the next reset (R24). -/
  failed : Bool
  id : BitVec 12
  d : BitVec 4
  /-- PTP domainNumber (R35). -/
  domain : Byte
  eligible : Bool
  hostTime : Option Word64
  /-- Attestation reports returned: fields and signature (R23). -/
  reports : List (List Nat × BitVec (8 * 3309))
  deriving DecidableEq, Repr

/-- R54. The published map registers, and the units the part has by its fuses (R29) and its CXL backing (R16). -/
structure Maps where
  core : BitVec 432
  stack : BitVec 18
  csp : BitVec 9
  cxl : BitVec 4
  slice : BitVec 54
  port : BitVec 32
  fuseCore : BitVec 432
  fuseStack : BitVec 18
  fuseCsp : BitVec 9
  fuseSlice : BitVec 54
  /-- Backing bytes of the expander at each CXL port (R16). -/
  cxlBytes : SMap Nat
  deriving DecidableEq, Repr

/-- R55. One die's timetable registers and its walker's progress. -/
structure Timetable where
  base : Word64
  count : BitVec 16
  period : Word64
  repeat_ : Word32
  cbase : Word64
  run : Bool
  err : Bool
  order : Bool
  next : BitVec 16
  rep : Word32
  /-- Arming tick T and the cycle A_w of the arming write (R73). -/
  t : Nat
  armed : Nat
  /-- Next entry and pass to read; `reading` false once nothing more is read. -/
  rdEntry : Nat
  rdPass : Nat
  lastTick : Option Nat
  reading : Bool
  /-- Cycle S of a TT_STOP in force (R58). -/
  stop : Option Nat
  /-- The last entry read that selects a core, and its pass, by core (R83). -/
  sel : SMap (Option (Nat × Nat))
  deriving DecidableEq, Repr

def Timetable.idle : Timetable where
  base := 0
  count := 0
  period := 0
  repeat_ := 0
  cbase := 0
  run := false
  err := false
  order := false
  next := 0
  rep := 0
  t := 0
  armed := 0
  rdEntry := 0
  rdPass := 0
  lastTick := none
  reading := false
  stop := none
  sel := []

/-- R64, R87. The record of one entry run in progress: the masks so far and the cores still open. -/
structure EntryRun where
  die : Nat
  entry : Nat
  pass : Nat
  taskId : Word32
  irq : Bool
  tick : Nat
  cls : BitVec 2
  ent : BitVec 512
  open_ : BitVec 8
  started : BitVec 8
  doneM : BitVec 8
  faultM : BitVec 8
  skipM : BitVec 8
  lateM : BitVec 8
  start : Nat
  end_ : Nat
  /-- Cause, core number and TEPC of the lowest faulting core. -/
  cause : BitVec 8
  fcore : BitVec 3
  ftepc : BitVec 15
  reruns : Byte
  /-- A CLASS 2 entry has posted its tasks (R92). -/
  posted : Bool
  deriving DecidableEq, Repr

/-- R66. The fault log's registers. -/
structure FaultLog where
  base : Word64
  size : BitVec 17
  head : BitVec 17
  tail : BitVec 17
  lost : Word32
  irq : Bool
  deriving DecidableEq, Repr

/-- R70, R71. The pool. -/
structure Pool where
  entries : SMap (BitVec 512)
  img : BitVec 512
  index : BitVec 16
  ok : Bool
  /-- Rotating cluster pointer (R89). -/
  ptr : Nat
  /-- Which pool entries were posted by a CLASS 2 entry: index, die, entry, pass, bit (R92). -/
  owners : List (Nat × Nat × Nat × Nat × Nat)
  /-- The cycle of the last take (at most one a cycle, R89). -/
  lastTake : Nat
  /-- First cycle in which no post or cancel is in progress: DONE reads 0 before it (R71, log 95). -/
  busyTo : Nat
  deriving DecidableEq, Repr

/-- R44. A link timetable: its entries as checked at arming, its period and arming slot. -/
structure LinkTable where
  entries : List (BitVec 128)
  period : Nat
  slotA : Nat
  deriving DecidableEq, Repr

/-- R41, R51. A flit this module sent, awaiting its reports: the command (core and number), the channel's message or the
die's collective that it belongs to. -/
structure SentFlit where
  flit : Flit
  core : Option Nat
  seq : Nat
  /-- Replay slot, when the entry names one and it can still be used (R51, R425). -/
  replayAt : Option Nat
  msg : Option Nat
  die : Option Nat
  /-- Hops to the destination: the last report comes in the header of slot n + 1 + hops (R51). -/
  hops : Nat
  /-- A report of failure so far, and whether it is the next hop's own, and not one of a further hop (R51). -/
  bad : Option FlitStatus
  near : Bool
  /-- For a forwarded flit, the port, slot and index it came in (R45, R51). -/
  via : Option (Nat × Nat × Nat)
  deriving DecidableEq, Repr

/-- R48, R388. A PUTSIG message on its way out, or one to this module. -/
structure SigMsg where
  chan : Nat
  /-- The model's number of the message, and the core that sent it. -/
  id : Nat
  core : Nat
  dest : Nat
  sigAddr : Nat
  flag : Option Word64
  /-- Payload runs at local physical addresses of the destination. -/
  pay : List (Nat × List Byte)
  /-- First cycle at which a slot that carries it may begin (R422), and whether one has. -/
  earliest : Nat
  sent : Bool
  /-- Arming slot of the timetable whose entry carries it (R422, R425). -/
  tab : Nat
  /-- Flits finally ok so far. -/
  oks : Nat
  local_ : Bool
  /-- A message to this module: payload pieces with the cycle each lands in, and the cycle its signal is applied in. -/
  pieces : List (Nat × WriteUnit)
  sigAt : Nat
  /-- Earlier remote stores and messages of its core that it covers: its signal waits for them (R152, R164). -/
  waits : List Nat
  deriving DecidableEq, Repr

/-- R48. A message that arrives from another module, by the port it arrives on and by the module, port and slot it was first
sent from. -/
structure RxSig where
  port : Nat
  src : Nat
  sport : Nat
  orig : Nat
  payOk : Bool
  sig : Option (Nat × Option Word64)
  deriving DecidableEq, Repr

/-- R387. A SEND flit that reached a port: its position, what it was first sent as (R51), its status and its bytes. -/
structure RxFlit where
  idx : Nat
  src : Nat
  sport : Nat
  orig : Nat
  oidx : Nat
  status : FlitStatus
  data : List Byte
  deriving DecidableEq, Repr

/-- R387. One slot that reached a port: its SEND flits. -/
structure RxSlot where
  port : Nat
  slot : Nat
  flits : List RxFlit
  deriving DecidableEq, Repr

/-- R160. A barrier update on its way to its home. -/
structure BarrierUpd where
  due : Nat
  addr : Nat
  /-- 0 ARRIVE, 1 COPY decrement, 2 EXPECT. -/
  kind : BitVec 2
  n : Word32
  /-- Whose it is: `core` issued it, or its BTE did (R144). -/
  core : Nat
  bte : Bool
  /-- Of an ARRIVE or EXPECT of a core of this module: the position and slot of its bundle (R252). -/
  at_ : Option (BitVec 15 × BitVec 3)
  /-- The PUTSIG message to this module whose signal it is (R48). -/
  sig : Option Nat
  /-- Earlier messages and remote writes of its core that the release covers: it waits for them (R152). -/
  waits : List Nat
  /-- The cycle it was issued in. -/
  since : Nat
  deriving DecidableEq, Repr

/-- R389. A collective handed to a die's engine. -/
structure Coll where
  die : Nat
  core : Nat
  /-- The model's number of the collective. -/
  id : Nat
  words : List Word64
  produce : Tok
  earliest : Nat
  start : Option Nat
  /-- This module's contribution, as read at the start. -/
  data : List Byte
  /-- Local physical parts of the destination and of NORM. -/
  dst : List (Nat × Nat)
  norm : Option Nat
  /-- Flits still to send, the end of the last slot used, flits whose reports have not returned. -/
  left : Nat
  lastEnd : Nat
  awaiting : Nat
  ok : Bool
  /-- The modules whose first flit has come (R389). -/
  heard : List Nat
  /-- Its timetable has ended, or it has met an error: it completes done-error once `awaiting` is 0 (R425). -/
  cut : Bool
  deriving DecidableEq, Repr

/-- R47, R425. A request or response queued at a port: the port, the module it goes to, what its flit carries, and the arming
slot of the timetable whose SERV entry carries it. -/
structure ServMsg where
  port : Nat
  dst : Nat
  body : FlitBody
  tab : Nat
  deriving DecidableEq, Repr

/-- What left the module (R41, R45, R47): the record other modules are reached through. -/
inductive Outgoing where
  | header (port slot : Nat) (ptp : PtpEvent) (mgmt : Word64) (status : List FlitStatus)
      (late : List (Nat × Nat × FlitStatus))
  | flit (f : Flit)
  deriving DecidableEq, Repr

/-- R47. Where the data of a remote response goes. -/
inductive RDst where
  | none
  /-- A physical scalar register and the width code of the load. -/
  | s (n : Nat) (width : BitVec 3)
  /-- Keys of the register array, four bytes each. -/
  | t (keys : List Nat)
  /-- A lane predicate from 64 bits. -/
  | p (n : Nat)
  /-- Lanes of a predicate, in the order of the data: set where the 32-bit element is nonzero. -/
  | pLanes (n : Nat) (lanes : List Nat)
  /-- A prefetch: its data goes nowhere, and its failure is no error (R142). -/
  | drop
  /-- A WAITB on a remote barrier watches for generation `gen` (R402). -/
  | barrier (gen : Word32)
  deriving DecidableEq, Repr

/-- R47. A remote access a core has outstanding: its deadline as an issue count and where its result goes. -/
structure RemoteAcc where
  id : Nat
  core : Nat
  port : Nat
  addr : Nat
  /-- Position of the bundle that made it (R252). -/
  pos : BitVec 15
  slot : BitVec 3
  deadline : Nat
  dst : RDst
  /-- The ranges it writes, by global physical address (R152). -/
  wr : List (Nat × Nat)
  deriving DecidableEq, Repr

/-- R47, R152, R402. A remote request of a core, under the model's number of it: what it asks where, the ranges it writes, how far
past the path's bound its own bound lies (R289). One that is held is not yet queued at its port: a release that waits for the
writes it covers, what follows it to the same sector, or a further look at the remote barrier of a WAITB that waits for room. -/
structure RemoteReq where
  id : Nat
  core : Nat
  pos : BitVec 15
  slot : BitVec 3
  extra : Nat
  wr : List (Nat × Nat)
  ga : Nat
  op : RemoteOp
  dst : RDst
  waits : List Nat
  deriving DecidableEq, Repr

/-- R386. A SEND flit that waits for its slot, with the arming slot of the timetable that slot belongs to. -/
structure SendFlit where
  port : Nat
  slot : Nat
  idx : Nat
  tab : Nat
  data : List Byte
  deriving DecidableEq, Repr

/-- R31–R53, R425. The fabric registers and the ports. -/
structure Fabric where
  id : BitVec 12
  d : BitVec 4
  lock : Bool
  hold : Bool
  gm : Bool
  offs : Byte
  /-- Parent port (R35). -/
  parent : Option Nat
  /-- Consecutive headers of the parent port whose offset exceeds ±2 (R37). -/
  badOffs : Nat
  /-- In holdover, the offset estimate is again within ±1 (R37). -/
  backIn : Bool
  /-- The latest slot of which a flit has become visible here (R46). -/
  seenSlot : Nat
  gstale : Word32
  ltbase : Word64
  ltcnt : BitVec 16
  ltper : BitVec 16
  err : Bool
  table : Option LinkTable
  /-- Tables armed and not yet in force, in arming order. -/
  pending : List LinkTable
  /-- Absolute slot at whose beginning an LTSTOP ends the table (R44). -/
  stopAt : Option Nat
  groupActive : SMap Bool
  groupGen : SMap (BitVec 6)
  /-- Port counters, key 8·port + {0 PCOR, 1 PUNC, 2 PTRANS, 3 PLAST, 4 PSKEW}. -/
  ctr : SMap Word32
  /-- Slots rejected for skew, as key slot·32 + port (R39). -/
  skewed : List Nat
  /-- The last slot whose sending is done, plus one. -/
  sentThrough : Nat
  sent : List SentFlit
  /-- Flits to resend, with their replay slot (R51). -/
  replays : List (Nat × SentFlit)
  /-- SEND flits waiting for their slot (R386). -/
  sends : List SendFlit
  rx : List RxSlot
  /-- Statuses of received flits that headers still have to report: port, slot, index (R41). -/
  rxStat : List (Nat × Nat × Nat × FlitStatus)
  rsigs : List RxSig
  /-- Flits that have landed of a frame that another module's tagged COPY writes entirely: the module, its command, the frame
  and how many (R124). -/
  rxFrames : List (Nat × Nat × Nat × Nat)
  /-- Reports to pass on to the previous hop: port, slot, index, status (R51). -/
  relay : List (Nat × Nat × Nat × FlitStatus)
  /-- Requests passed on: the number here, and the port, module and number they came with (R47). -/
  transit : List (Nat × Nat × Nat × Nat)
  /-- Flits held for forwarding: the flits that arrived (R45). -/
  held : List Flit
  sigs : List SigMsg
  accs : List RemoteAcc
  /-- Requests of this module's cores still to be queued. -/
  heldReqs : List RemoteReq
  nextId : Nat
  /-- Requests queued at the ports (R47). -/
  reqq : List ServMsg
  /-- Responses queued at the ports. -/
  respq : List ServMsg
  deriving DecidableEq, Repr

/-- R69. The injection of one slot that has begun: its port, flit and slot, whether it met its flit, and whether word 0 is
still the one that armed it. -/
structure FinjSlot where
  port : Nat
  flit : Nat
  slot : Nat
  hit : Bool
  own : Bool
  deriving DecidableEq, Repr

/-- R69. FINJ: both words, and the injections of the slots whose flits are still arriving. -/
structure Finj where
  word0 : Word64
  word1 : Word64
  live : List FinjSlot
  deriving DecidableEq, Repr

/-- R141. The translation block and the installed translations of all dies. -/
structure Xlat where
  xroot : Word64
  xen : Bool
  xmiss : Word32
  tu : List TuEntry
  /-- Dies whose invalidation is not complete, with the cycle by which it must be (R141). -/
  inval : List (Nat × Nat)
  deriving DecidableEq, Repr

/-- R194. One coded region table entry. -/
structure Region where
  lbase : BitVec 44
  len : BitVec 40
  pbase : BitVec 44
  bc : BitVec 4
  v : Bool
  fbusy : Option Nat
  deriving DecidableEq, Repr

def Region.none : Region where
  lbase := 0
  len := 0
  pbase := 0
  bc := 0
  v := false
  fbusy := Option.none

/-- R204. A resident coded block: region entry, block number, its 16 doubles, and which of its eight 16-byte sectors
are dirty. -/
structure CodedBlock where
  entry : Nat
  k : Nat
  vals : List Word64
  dirty : Byte
  deriving DecidableEq, Repr

/-- R211. The four counters of a slice for an entry. -/
structure CodedCtr where
  blks : Word64
  clip : Word64
  nonf : Word64
  errsq : Word64
  deriving DecidableEq, Repr

/-- R149. A binding table entry: its four doublewords' fields. -/
structure Binding where
  base : BitVec 56
  size : BitVec 40
  obj : BitVec 56
  scope : BitVec 3
  kind : Bool
  v : Bool
  deriving DecidableEq, Repr

def Binding.none : Binding where
  base := 0
  size := 0
  obj := 0
  scope := 0
  kind := false
  v := false

/-- R252, R253. An uncorrectable sector: whether the error is lasting, and whether the home L2 slice holds it. -/
structure Poison where
  lasting : Bool
  inL2 : Bool
  deriving DecidableEq, Repr

/-- R14, R20, R252. What the outside does without an event of the opcode table: the Syarri reads or writes inside one 16-byte
sector of the local physical space; a sector of it, or one of a core's lane slices, goes bad; a core meets an uncorrectable error
in its register array; Ronilor finds every junction below 85 °C. -/
inductive HostAcc where
  | read (addr len : Nat)
  | write (addr : Nat) (bytes : List Byte)
  | bad (addr : Nat) (p : Poison)
  | badLane (core sector : Nat) (lasting : Bool)
  | badReg (core : Nat) (lasting : Bool)
  | cooled
  deriving DecidableEq, Repr

/-- R130. One line of an L2 way: its line number (address / 64), and a bit for each sector it holds and for each dirty one. -/
structure L2Line where
  line : Nat
  valid : BitVec 4
  dirty : BitVec 4
  deriving DecidableEq, Repr

/-- R130. One set of an L2 slice: its 16 ways and the tree of its pseudo-LRU. -/
structure L2Set where
  ways : SMap (Option L2Line)
  plru : BitVec 15
  deriving DecidableEq, Repr

def L2Set.empty : L2Set where
  ways := []
  plru := 0

/-- R156, R147. Contents of a sector (of a block, in the coded view) before a store of core `core` in cycle `cyc`: its BTE
(`bte`) and its matrix unit (`mu`) may still read them (the model's own record, log 8). `runs`: what that store wrote. -/
structure Ver where
  core : Nat
  cyc : Nat
  val : List Byte
  runs : List (Nat × List Byte)
  bte : Bool
  mu : Bool
  /-- The dirty sectors of a block of the coded view before the store (R421). -/
  dirty : Byte
  /-- Its core has neither released nor fenced it since: a merge of another core may read the older contents (R227). -/
  far : Bool
  deriving DecidableEq, Repr

/-- R373. Contents of a sector (of a block, in the coded view) that loads of core `core` see until issue count `due`, at which
a STT's bytes show (the model's own record). -/
structure Slow where
  core : Nat
  due : Nat
  val : List Byte
  deriving DecidableEq, Repr

/-- The state of the module. -/
structure State where
  cyc : Nat
  /-- Draws made of the free values (the model's own, log 2). -/
  free : Nat
  /-- What the outside does, each with the cycle it is due (the model's own, log 3). -/
  inputs : List (Nat × Instr)
  /-- What the outside does to storage, and the cooling of R20, each with the cycle it is due; and what the Syarri's reads have
  returned (R14, log 3). -/
  hostq : List (Nat × HostAcc)
  hostRead : List (Option (List Byte))
  coreNo : Nat
  core : Core
  others : SMap Core
  mem : Memory
  /-- Uncorrectable sectors (sector number, R252, R253). -/
  poison : SMap (Option Poison)
  frameTag : SMap (BitVec 16)
  /-- L2, by slice·16384 + set (R130). -/
  l2 : SMap L2Set
  /-- Lines that replacement has taken out and the slice has still to write back or discard, with their dirty sectors (R130,
  R204). -/
  evq : List (Nat × BitVec 4)
  /-- Earlier contents that engines may still read, and contents that loads still see, by sector number (R156, R373). -/
  vers : SMap (List Ver)
  slow : SMap (List Slow)
  boot : Boot
  maps : Maps
  tt : SMap Timetable
  runs : List EntryRun
  flog : FaultLog
  pool : Pool
  sigcap : SMap Word64
  finj : Finj
  irqs : List Word64
  fab : Fabric
  outbox : List Outgoing
  barq : List BarrierUpd
  /-- The objects, by global physical address, that a release has named so far (R153; the model's own record). -/
  relObjs : SMap Bool
  colls : List Coll
  xlat : Xlat
  /-- WMODE per slice, and the slices whose change is in progress with its deadline (R131). -/
  wmode : SMap (BitVec 2)
  wchange : List (Nat × BitVec 2 × Nat)
  bind : SMap Binding
  region : SMap Region
  coded : List CodedBlock
  cctrs : SMap CodedCtr
  deriving DecidableEq, Repr

/-- Why the machine can stop. -/
inductive Fault where
  /-- An event was executed that the state does not enable: the part has no such event then, and `step` never raises
  it of itself; only an input that names it can. Safe: nothing follows from such a run. -/
  | notEnabled (event : String)
  deriving DecidableEq, Repr

/-- Why an instruction has no meaning. -/
inductive Refusal where
  /-- Raised by an arm of `exec` only: the instruction is not modelled. Safe. -/
  | notModelled (mnemonic : String)
  deriving DecidableEq, Repr

/-- Reset values of the bring-up state (R27; kept and unstated values: log 15). -/
def Boot.reset : Boot where
  stage := 1
  reason := 0
  fails := 0
  minimal := false
  slot := false
  degraded := false
  tstop := false
  fenced := false
  afail := false
  overheat := false
  fence := []
  transient := 0
  log := []
  romOnly := false
  failed := false
  id := 0
  d := 0
  domain := 0
  eligible := false
  hostTime := none
  reports := []

/-- R54 and log 14: the map registers are as the fuses give them, port and CXL links untrained; the part has every unit,
no CXL backing. -/
def Maps.reset : Maps where
  core := BitVec.allOnes 432
  stack := BitVec.allOnes 18
  csp := BitVec.allOnes 9
  cxl := 0
  slice := BitVec.allOnes 54
  port := 0
  fuseCore := BitVec.allOnes 432
  fuseStack := BitVec.allOnes 18
  fuseCsp := BitVec.allOnes 9
  fuseSlice := BitVec.allOnes 54
  cxlBytes := []

/-- R53. -/
def Fabric.reset : Fabric where
  id := 0
  d := 0
  lock := false
  hold := false
  gm := false
  offs := 0
  parent := none
  badOffs := 0
  backIn := false
  seenSlot := 0
  gstale := 0
  ltbase := 0
  ltcnt := 0
  ltper := 0
  err := false
  table := none
  pending := []
  stopAt := none
  groupActive := []
  groupGen := []
  ctr := []
  skewed := []
  sentThrough := 0
  sent := []
  replays := []
  sends := []
  rx := []
  rxStat := []
  rsigs := []
  rxFrames := []
  relay := []
  transit := []
  held := []
  sigs := []
  accs := []
  heldReqs := []
  nextId := 0
  reqq := []
  respq := []

/-- R66, R70, R71, R69, R141: the Reset columns. -/
def FaultLog.reset : FaultLog where
  base := 0
  size := 0
  head := 0
  tail := 0
  lost := 0
  irq := false

def Pool.reset : Pool where
  entries := []
  img := 0
  index := 0xFFFF#16
  ok := false
  ptr := 0
  owners := []
  lastTake := 0
  busyTo := 0

def Finj.reset : Finj where
  word0 := 0
  word1 := 0
  live := []

def Xlat.reset : Xlat where
  xroot := 0
  xen := false
  xmiss := 0
  tu := []
  inval := []

/-- The module right after power-on: bring-up stage 1 (R21, R27), nothing published, no task, every register at the
reset value of its table (values the specification does not state: log 4, 12, 13, 14, 15). -/
def State.reset : State where
  cyc := 0
  free := 0
  inputs := []
  hostq := []
  hostRead := []
  coreNo := 0
  core := Core.idle
  others := []
  mem := []
  poison := []
  frameTag := []
  l2 := []
  evq := []
  vers := []
  slow := []
  boot := Boot.reset
  maps := Maps.reset
  tt := []
  runs := []
  flog := FaultLog.reset
  pool := Pool.reset
  sigcap := []
  finj := Finj.reset
  irqs := []
  fab := Fabric.reset
  outbox := []
  barq := []
  relObjs := []
  colls := []
  xlat := Xlat.reset
  wmode := []
  wchange := []
  bind := []
  region := []
  coded := []
  cctrs := []

end Sys2Proof.Machine
end

