-- ==== Sys2Proof/Machine/Ops.lean ====
section
/-! DEFINITION. The named operations on registers, results in flight, tokens, addresses, traps and the ending of a
task. Every meaning is written over these. -/

namespace Sys2Proof.Machine

open Host

/-! ### Registers (R108, R111) -/

/-- R111. Physical number of a scalar register: S48–S63 rotate by ROT. -/
def physS (c : Core) (n : SReg) : Nat :=
  if n.toNat < 48 then n.toNat else 48 + (n.toNat - 48 + c.rot.toNat) % 16

/-- R108, R111. Read a scalar register; S0 reads 0. -/
def rdS (s : State) (n : SReg) : Word64 :=
  if n = 0 then 0 else mget 0 s.core.sreg (physS s.core n)

/-- R108. Read a uniform predicate; G0 reads 1. -/
def rdG (s : State) (n : GReg) : Bool := if n = 0 then true else mget false s.core.greg n.toNat

/-- R108. Read a lane predicate as a 64-bit mask; P0 reads 1 in every lane. -/
def rdP (s : State) (n : PReg) : BitVec 64 := if n = 0 then BitVec.allOnes 64 else mget 0 s.core.preg n.toNat

/-- R290, R393. A guard or condition: G[g] XOR negate. -/
def guardOn (s : State) (g : Guard) : Bool := rdG s g.g != g.neg

/-- R316. The lane mask of a V-slot guard: P[p] XOR negate. -/
def laneGuard (s : State) (v : VOp) (l : Nat) : Bool := (rdP s v.p).getLsbD l != v.neg

/-- Key of element (i, j) of tile t in the register array (R105). -/
def tileKey (t i j : Nat) : Nat := t * 4096 + i * 64 + j

/-- R108. A token; DT0 is always done-ok. -/
def rdTok (s : State) (n : Tok) : TokState := if n = 0 then .ok else mget .ok s.core.dt n.toNat

/-- Set a token; DT0 is never produced. -/
def setTok (n : Tok) (v : TokState) (s : State) : State :=
  if n = 0 then s else { s with core := { s.core with dt := mset .ok s.core.dt n.toNat v } }

/-- R350, R374, R389. A bundle makes its produce token pending. -/
def produceTok (n : Tok) (s : State) : State :=
  let l := if s.core.newTokAt = s.cyc then s.core.newTok else []
  let l := if n = 0 ∨ l.any fun x => x.1 == n.toNat then l else l ++ [(n.toNat, rdTok s n)]
  setTok n .pending { s with core := { s.core with newTok := l, newTokAt := s.cyc } }

/-- R353, R375. A token as a bundle issued in this cycle reads it, which is how a start of this cycle checks it. -/
def startTok (s : State) (n : Tok) : TokState :=
  match if s.core.newTokAt = s.cyc then s.core.newTok.find? fun x => x.1 == n.toNat else none with
  | some x => x.2
  | none => rdTok s n

/-! ### Free values (log 2) -/

/-- Draw the next free value. -/
def draw (s : State) : Word64 × State := (Config.free s.free, { s with free := s.free + 1 })

/-- A free number below `n` (0 when `n` is 0), by the `k`-th draw from here. -/
def freeBelow (s : State) (k n : Nat) : Nat := (Config.free (s.free + k)).toNat % n

/-- A free choice of one bit. -/
def freeBit (s : State) (k : Nat) : Bool := freeBelow s k 2 = 1

/-- Consume `k` draws. -/
def spend (k : Nat) (s : State) : State := { s with free := s.free + k }

/-! ### Results in flight (R99–R102) -/

/-- A fixed result: lands `lat` issue cycles after this bundle (R99). -/
def put (lat : Nat) (e : Effect) (s : State) : State :=
  { s with core := { s.core with
      pend := s.core.pend ++ [{ due := s.core.icnt + lat, bound := s.core.icnt + lat, eff := e }] } }

/-- Several fixed results of one latency. -/
def putMany (lat : Nat) (es : List Effect) (s : State) : State :=
  { s with core := { s.core with
      pend := s.core.pend ++ es.map fun e => ⟨s.core.icnt + lat, s.core.icnt + lat, e⟩ } }

/-- R102, R245, log 6. Bounded results: each element lands at a free cycle from t + 1 to t + B; the operation itself counts
for H and CLEAN until its bound. -/
def putBounded (b : Nat) (es : List Effect) (s : State) : State :=
  let ps := es.mapIdx fun k e =>
    ({ due := s.core.icnt + 1 + freeBelow s k b, bound := s.core.icnt + b, eff := e } : Pend)
  spend es.length { s with core := { s.core with
    pend := s.core.pend ++ ps ++ [⟨s.core.icnt + b, s.core.icnt + b, .nothing⟩] } }

/-- R290. Write a scalar result at t + lat; a write to S0 is discarded; the register is fixed at issue (R101). -/
def putS (lat : Nat) (d : SReg) (v : Word64) (s : State) : State :=
  if d = 0 then s else put lat (.s (physS s.core d) v) s

/-- R290. Write a uniform predicate at t + lat; G0 is discarded. -/
def putG (lat : Nat) (d : GReg) (v : Bool) (s : State) : State :=
  if d = 0 then s else put lat (.g d.toNat v) s

/-- R112. The stage predicates P8–P15 for TRIP and KIX: s ≤ KIX and KIX − s < TRIP, the same in every lane. -/
def stageMask (trip kix : Word32) (j : Nat) : BitVec 64 :=
  if j ≤ kix.toNat ∧ kix.toNat - j < trip.toNat then BitVec.allOnes 64 else 0

/-- R112. Rewrite P8–P15 from TRIP and KIX. -/
def stages (c : Core) : Core :=
  { c with preg := (List.range 8).foldl (fun m j => mset 0 m (8 + j) (stageMask c.trip c.kix j)) c.preg }

/-- Numbers of the raw TRIP and KIX writes of LOOPR and RESTX, which rewrite P8–P15 themselves. -/
def rawTrip : Nat := 0x1010
def rawKix : Nat := 0x1011

/-- R109, R310. The effect of a system-register write when it lands. Bits above a register's width are dropped (R9). -/
def applySys (n : Nat) (v : Word64) (c : Core) : Core :=
  if n = 0x004 then { c with sflg := v.setWidth 5 }
  else if n = 0x010 then stages { c with trip := v.setWidth 32 }
  else if n = 0x011 then stages { c with kix := v.setWidth 32 }
  else if n = rawTrip then { c with trip := v.setWidth 32 }
  else if n = rawKix then { c with kix := v.setWidth 32 }
  else if n = 0x012 then { c with olc := v.setWidth 32 }
  else if n = 0x013 then { c with rot := v.setWidth 6 }
  else if n = 0x014 then { c with holdc := v.setWidth 32 }
  else if n = 0x015 then { c with pausec := v.setWidth 12 }
  else if n = 0x020 then { c with temp := v.setWidth 32 }
  else if n = 0x021 then { c with tinv := v.setWidth 32 }
  else if n = 0x022 then { c with ckey := v }
  else if n = 0x023 then { c with cctr := v }
  else if n = 0x024 then { c with lsc := v.setWidth 8 }
  else if 0x030 ≤ n ∧ n ≤ 0x03F then { c with ft := mset 0 c.ft (n - 0x030) (v &&& 0x1FFF) }
  else if n = 0x040 then { c with tvec := v.setWidth 15 }
  else if n = 0x041 then { c with tcause := v.setWidth 8, handler := c.handler && (v.setWidth 8 != 0#8) }
  else if n = 0x042 then { c with tepc := v.setWidth 15 }
  else if n = 0x043 then { c with tinfo := v &&& 0x9FFFFFFFFFFFFFFF }
  else if n = 0x044 then { c with draintab := v.setWidth 21 }
  else if n = 0x045 then { c with rslim := v &&& 0x001FFFFF001FFFFF }
  else if 0x050 ≤ n ∧ n ≤ 0x057 then { c with hot := mset 0 c.hot (n - 0x050) (v &&& 0x8FFF) }
  else c

/-! ### Addresses (R12, R134, R413) -/

/-- The kinds of range of the local physical map (R134). -/
inductive Place where
  | hbm (stack : Nat)
  | csp (die : Nat)
  | spad (core : Nat)
  | text (core : Nat)
  | staging (slice : Nat)
  | mmio
  | coded
  | cxl (port : Nat)
  | reserved
  deriving DecidableEq, Repr

/-- R134, R413. The range a local physical address lies in. -/
def place (a : Nat) : Place :=
  if a < 0xD800000000 then .hbm (a / Config.stackBytes)
  else if 0xE000000000 ≤ a ∧ a < 0xE012000000 then .csp ((a - 0xE000000000) / 0x2000000)
  else if 0xE800000000 ≤ a ∧ a < 0xE836000000 then .spad ((a - 0xE800000000) / 0x200000)
  else if 0xEC00000000 ≤ a ∧ a < 0xEC06C00000 then .text ((a - 0xEC00000000) / 0x40000)
  else if 0xF000000000 ≤ a ∧ a < 0xF036000000 then .staging ((a - 0xF000000000) / 0x1000000)
  else if 0xFF00000000 ≤ a ∧ a < 0x10000000000 then .mmio
  else if 0x10000000000 ≤ a ∧ a < 0x80000000000 then .coded
  else if 0x80000000000 ≤ a ∧ a < 0x100000000000 then .cxl ((a - 0x80000000000) / 0x20000000000)
  else .reserved

/-- Base of core g's scratchpad in the local physical map (R134). -/
def spadBase (g : Nat) : Nat := 0xE800000000 + g * 0x200000
/-- Base of core g's text-and-lexicon window (R413). -/
def textBase (g : Nat) : Nat := 0xEC00000000 + g * 0x40000
/-- Base of the cluster memory that core g reaches: its cluster's eight scratchpads in core order (R126). -/
def clusterBase (g : Nat) : Nat := spadBase (g / 8 * 8)

/-- WMODE of a slice; while a change is in progress, the old mode or the new one, a free choice (R131). -/
def wmodeOf (s : State) (sl : Nat) : BitVec 2 :=
  match s.wchange.find? fun w => decide (w.1 = sl) with
  | none => mget 0 s.wmode sl
  | some w => if (Config.free (s.free + 2 ^ 41 + sl)).getLsbD 0 then w.2.1 else mget 0 s.wmode sl

/-- R17, R133, R134. Whether a local physical address has storage behind it: its unit is in the published maps. The
coded view and the MMIO range are not storage of their own. Whether an HBM or CXL address whose home L2 slice (R129) is absent or
fenced is still served the specification does not say: here it is, as if the slice were there (log 135). -/
def present (s : State) (a : Nat) : Bool :=
  match place a with
  | .hbm k => s.maps.stack.getLsbD k
  | .csp d => s.maps.csp.getLsbD d
  | .spad g => s.maps.core.getLsbD g
  | .text g => s.maps.core.getLsbD g && decide ((a - textBase g) < 0x10000 + 48 * 4096)
  | .staging sl => s.maps.slice.getLsbD sl && decide ((a - 0xF000000000) % 0x1000000 < 0x400000) && (wmodeOf s sl == 2)
  | .cxl p => s.maps.cxl.getLsbD p && decide ((a - 0x80000000000) % 0x20000000000 < mget 0 s.maps.cxlBytes p)
  | .mmio => false
  | .coded => false
  | .reserved => false

/-- R17. A range is present when its first and last bytes are, in one unit (an access never spans units otherwise). -/
def presentRange (s : State) (a n : Nat) : Bool :=
  if n = 0 then true else present s a && present s (a + n - 1)

/-- Die of the CXL port p: 0, 2, 6, 8 (R12). -/
def cxlDie (p : Nat) : Nat := if p = 0 then 0 else if p = 1 then 2 else if p = 2 then 6 else 8

/-- Die that owns an HBM or CXL address (R129). -/
def ownerDie (a : Nat) : Nat :=
  match place a with
  | .hbm k => k / 2
  | .cxl p => cxlDie p
  | _ => 0

/-- R129. The home slice of an HBM or CXL address. -/
def homeSlice (a : Nat) : Nat := ownerDie a * 6 + (a >>> 7) % 6

/-! ### Memory writes and landing (R99–R101, R123, R128) -/

/-! L2 (R130–R132) -/

/-- R130. Point the tree away from way `w`. -/
def plruTouch (t : BitVec 15) (w : Nat) : BitVec 15 :=
  (List.range 4).foldl (fun t l =>
    let bit := 2 ^ l - 1 + w / 2 ^ (4 - l)
    if w / 2 ^ (3 - l) % 2 = 0 then t ||| (1#15 <<< bit) else t &&& ~~~ (1#15 <<< bit)) t

/-- R130. The way the tree points at among the ways `lo ≤ w < hi`: a half without such a way is not taken. -/
def plruVictim (t : BitVec 15) (lo hi : Nat) : Nat :=
  (List.range 4).foldl (fun w l =>
    let half := 2 ^ (3 - l)
    let left := decide (lo < w + half)
    let right := decide (w + half < hi)
    let go := if left && right then t.getLsbD (2 ^ l - 1 + w / 2 ^ (4 - l)) else right
    if go then w + half else w) 0

/-- R132. The ways a request of a policy may allocate in, under a WMODE. -/
def l2Ways (wm : BitVec 2) (pol : Nat) : Nat × Nat :=
  if wm = 1 then (if pol = 1 then (12, 16) else (0, 12)) else if wm = 2 then (0, 12) else (0, 16)

/-- R129, R130. The key of the set that a line of die `die` falls in. -/
def l2Key (die line : Nat) : Nat := (die * 6 + line / 2 % 6) * 16384 + 2 * (line / 12 % 8192) + line % 2

/-- The way that holds a line. -/
def L2Set.find (x : L2Set) (line : Nat) : Option (Nat × L2Line) :=
  (x.ways.findSome? fun w => w.2.bind fun l => if l.line = line then some (w.1, l) else none)

/-- The way a new line goes to: an empty one among those allowed (log 108), else the victim. -/
def L2Set.pick (x : L2Set) (ws : Nat × Nat) : Nat :=
  ((List.range (ws.2 - ws.1)).map (ws.1 + ·)).find? (fun w => decide (mget none x.ways w = none))
    |>.getD (plruVictim x.plru ws.1 ws.2)

/-- Take a line out of its set. -/
def l2Drop (die line : Nat) (s : State) : State :=
  let k := l2Key die line
  let x := mget L2Set.empty s.l2 k
  match x.find line with
  | none => s
  | some (w, _) => { s with l2 := mset L2Set.empty s.l2 k { x with ways := mset none x.ways w none } }

/-- R204. A line of the coded view has a twin, which goes with it. -/
def l2Twin (die line : Nat) (s : State) : State :=
  if place (line * 64) = .coded then l2Drop die (line / 2 * 2 + (1 - line % 2)) s else s

/-- R130, R132. One request to a line, with a bit for each sector it covers: a hit is served and updated; a miss allocates as
its policy lets it, and what it displaces is queued if it holds dirty sectors or coded data. -/
def l2Line (pol : Nat) (wr : Bool) (die line : Nat) (mask : BitVec 4) (s : State) : State :=
  let k := l2Key die line
  let x := mget L2Set.empty s.l2 k
  let ws := l2Ways (wmodeOf s (die * 6 + line / 2 % 6)) pol
  let put := fun (w : Nat) (l : L2Line) (s : State) =>
    let x := mget L2Set.empty s.l2 k
    { s with l2 := mset L2Set.empty s.l2 k ⟨mset none x.ways w (some l), plruTouch x.plru w⟩ }
  let d := if wr then mask else 0
  match x.find line with
  | some (w, l) => put w { l with valid := l.valid ||| mask, dirty := l.dirty ||| d } s
  | none =>
    if pol = 2 then s
    else
      let w := x.pick ws
      match mget none x.ways w with
      | none => put w ⟨line, mask, d⟩ s
      | some v =>
        let coded := decide (place (v.line * 64) = .coded)
        let s := if v.dirty ≠ 0 || coded then { s with evq := s.evq ++ [(v.line, v.dirty)] } else s
        put w ⟨line, mask, d⟩ (l2Twin die v.line s)

/-- R131. While a change of WMODE is in progress each access takes the old mode or the new one of itself. -/
def nextAccess (s : State) : State := if s.wchange = [] then s else { s with free := s.free + 1 }

/-- The sectors of a line that `[a, a + n)` covers. -/
def lineMask (line a n : Nat) : BitVec 4 :=
  (List.range 4).foldl (fun m i =>
    let lo := line * 64 + 16 * i
    if lo < a + n ∧ a < lo + 16 then m ||| (1#4 <<< i) else m) 0

/-- R129, R130. A request at the home slices for an HBM or CXL range; other places have no L2. -/
def l2Touch (pol : Nat) (wr : Bool) (a n : Nat) (s : State) : State :=
  let cached := match place a with
    | .hbm _ => true
    | .cxl _ => true
    | _ => false
  nextAccess (if n = 0 || !cached then s
    else (List.range ((a + n - 1) / 64 - a / 64 + 1)).foldl (fun s i =>
      l2Line pol wr (ownerDie a) (a / 64 + i) (lineMask (a / 64 + i) a n) s) s)

/-! What a write does to what readers may still see (R123, R147, R156, R373) -/

/-- The unit of atomicity that holds `a` (R146): a 16-byte sector, or a block of the coded view; its base and its size. -/
def granule (a : Nat) : Nat × Nat := if place a = .coded then (a / 128 * 128, 128) else (a / 16 * 16, 16)

/-- The granules of `[a, a + n)`, by their base. -/
def granules (a n : Nat) : List Nat :=
  let g := granule a
  if n = 0 then [] else (List.range ((a + n - 1 - g.1) / g.2 + 1)).map fun i => g.1 + g.2 * i

/-- R147. A write that no core's store makes: every older content of its granules is out of reach from then on. -/
def freshen (a n : Nat) (s : State) : State :=
  let gs := granules a n
  { s with
    vers := gs.foldl (fun m g => mset [] m (g / 16) []) s.vers
    slow := gs.foldl (fun m g => mset [] m (g / 16) []) s.slow }

/-- Put bytes into the contents of a granule. -/
def patch (g : Nat) (v : List Byte) (a : Nat) (bs : List Byte) : List Byte :=
  v.mapIdx fun i b => if a ≤ g + i ∧ g + i < a + bs.length then bs.getD (g + i - a) b else b

/-- R123, R148, R156, R373. A store of the current core to the granule at `g`, which held `old`: its engines may still read
the older contents, other cores' may not; its loads see the bytes at once, or with `due` at that issue count. -/
def noteStore (due : Option Nat) (g : Nat) (old : List Byte) (dirty : Byte) (runs : List (Nat × List Byte)) (s : State) : State :=
  let vs := (mget [] s.vers (g / 16)).filter fun v => decide (v.core = s.coreNo)
  let sl := (mget [] s.slow (g / 16)).filter fun v => decide (v.core = s.coreNo) && decide (s.core.icnt < v.due)
  let sl := match due with
    | none => sl.map fun v => { v with val := runs.foldl (fun x r => patch g x r.1 r.2) v.val }
    | some d => sl ++ [⟨s.coreNo, d, old⟩]
  { s with
    vers := mset [] s.vers (g / 16) (vs ++ [⟨s.coreNo, s.cyc, old, runs, true, true, dirty, true⟩])
    slow := mset [] s.slow (g / 16) sl }

/-- Change what is kept of older contents; what no reader may see any more is dropped. -/
def mapVers (f : Nat → Ver → Ver) (s : State) : State :=
  let kept := s.vers.map fun x => (x.1, (x.2.map (f x.1)).filter fun v => v.bte || v.mu || v.far)
  { s with vers := kept.filter fun x => decide (x.2 ≠ []) }

/-- The contents of the granule at `g` that a load of the current core still sees in place of the home's (R373). -/
def slowOf (s : State) (g : Nat) : Option (List Byte) :=
  ((mget [] s.slow (g / 16)).find? fun v => decide (v.core = s.coreNo) && decide (s.core.icnt < v.due)).map Slow.val

/-- The byte at `a` that a load of the current core reads at the home: as it was where a store of its own bundle has just
written (R123), or where a STT's byte does not show yet (R373). -/
def readOld (s : State) (a : Nat) : Byte :=
  match mget none s.core.bold a with
  | some b => b
  | none =>
    match slowOf s (granule a).1 with
    | some v => v.getD (a - (granule a).1) 0
    | none => s.mem.read a

/-- The bytes a core's store is about to overwrite, as the loads of its bundle still read them (R123). -/
def keepBold (a n : Nat) (s : State) : State :=
  let old := (List.range n).map fun i => (a + i, some (readOld s (a + i)))
  { s with core := { s.core with
      bold := old.foldl (fun m p => if mget none m p.1 = none then mset none m p.1 p.2 else m) s.core.bold } }

/-- R130, R147. A write at local physical addresses by an agent that is no core's issue stream. -/
def memWrite (pol a : Nat) (bs : List Byte) (s : State) : State :=
  let s1 := freshen a bs.length (l2Touch pol true a bs.length s)
  { s1 with mem := s1.mem.writeBytes a bs }

/-- R123, R130, R156. A store of the current core at local physical addresses of this module, inside one place: the home,
and what may still be read in its stead; `due`: when its loads see it, for a STT. -/
def homeWrite (due : Option Nat) (a : Nat) (bs : List Byte) (s : State) : State :=
  let s1 := keepBold a bs.length (l2Touch 0 true a bs.length s)
  let s2 := (granules a bs.length).foldl (fun s g => noteStore due g (s.mem.readBytes g 16) 0 [(a, bs)] s) s1
  { s2 with mem := s2.mem.writeBytes a bs }

/-- R128. A store updates the sectors of the core's L1 that it hits; `ga` is the global physical address. -/
def l1Store (ga : Nat) (bs : List Byte) (m : SMap (Option (BitVec 128))) : SMap (Option (BitVec 128)) :=
  (bs.mapIdx fun i b => (ga + i, b)).foldl (fun m p =>
    match mget none m (p.1 / 16) with
    | none => m
    | some v =>
      let sh := 8 * (p.1 % 16)
      mset none m (p.1 / 16) (some ((v &&& ~~~ (0xFF#128 <<< sh)) ||| BitVec.ofNat 128 (p.2.toNat * 2 ^ sh)))) m

/-- A core's store at a local physical address: the home and the L1 sectors it hits. -/
def storeBytes (due : Option Nat) (a : Nat) (bs : List Byte) (s : State) : State :=
  let s1 := homeWrite due a bs s
  { s1 with core := { s1.core with l1 := l1Store (s.fab.id.toNat * 2 ^ 44 + a) bs s1.core.l1 } }

/-- One result lands: the register or memory write of R99. Flags are ORed in by `applyFlag`, after every other write of
the cycle (R299). -/
def applyEffect (e : Effect) (s : State) : State :=
  match e with
  | .s n v => { s with core := { s.core with sreg := mset 0 s.core.sreg n v } }
  | .g n v => { s with core := { s.core with greg := mset false s.core.greg n v } }
  | .t k v => { s with core := { s.core with tile := mset 0 s.core.tile k v } }
  | .p n l v =>
    let m := mget 0 s.core.preg n
    let m' := if v then m ||| (1#64 <<< l) else m &&& ~~~ (1#64 <<< l)
    { s with core := { s.core with preg := mset 0 s.core.preg n m' } }
  | .pAll n v => { s with core := { s.core with preg := mset 0 s.core.preg n v } }
  | .q n l v lin =>
    { s with core := { s.core with
        qval := mset 0 s.core.qval (n * 64 + l) v, qlin := mset 0 s.core.qlin (n * 64 + l) lin } }
  | .mp n v => { s with core := { s.core with mp := mset 0 s.core.mp n v } }
  | .cd k v => { s with core := { s.core with cd := mset 0 s.core.cd k v } }
  | .sys n v => { s with core := applySys n v s.core }
  | .sflg _ => s
  | .lflg _ _ => s
  | .lclr l => { s with core := { s.core with lflag := mset 0 s.core.lflag l 0 } }
  | .laneStore k bs =>
    { s with core := { s.core with
        lane := (bs.mapIdx fun i b => (k + i, b)).foldl (fun m p => mset 0 m p.1 p.2) s.core.lane
        laneSlow := (List.range bs.length).foldl (fun m i => mset [] m (k + i) []) s.core.laneSlow } }
  | .laneSlow k bs due =>
    { s with core := { s.core with
        lane := (bs.mapIdx fun i b => (k + i, b)).foldl (fun m p => mset 0 m p.1 p.2) s.core.lane
        laneSlow := (List.range bs.length).foldl (fun m i =>
          mset [] m (k + i) (mget [] m (k + i) ++ [(due, mget 0 s.core.lane (k + i))])) s.core.laneSlow } }
  | .tokClr n => { s with core := { s.core with
      dt := if mget .ok s.core.dt n = .pending then s.core.dt else mset .ok s.core.dt n .ok } }
  | .mstop _ => s
  | .restx r => { s with core := { s.core with rsdepth := r, rs := [] } }
  | .nothing => s

/-- R178, R299. A flag lands: ORed into SFLG or the lane's sticky flags. -/
def applyFlag (e : Effect) (s : State) : State :=
  match e with
  | .sflg f => { s with core := { s.core with sflg := s.core.sflg ||| f } }
  | .lflg l f => { s with core := { s.core with lflag := mset 0 s.core.lflag l (mget 0 s.core.lflag l ||| f) } }
  | _ => s

/-- The results due at this issue count. -/
def dueNow (c : Core) : List Pend := c.pend.filter fun p => decide (p.due ≤ c.icnt)

/-- R99, R100. Land every result due, in issue order (a later-issued bundle's write prevails), then the flags. -/
def landAll (s : State) : State :=
  let ds := (dueNow s.core).map Pend.eff
  let s1 := { s with core := { s.core with pend := s.core.pend.filter fun p => !decide (p.due ≤ s.core.icnt) } }
  ds.foldl (fun s e => applyFlag e s) (ds.foldl (fun s e => applyEffect e s) s1)

/-! ### Bounds (R104, R119) -/

def absDiff (a b : Nat) : Nat := if a ≤ b then b - a else a - b

/-- R104. Hops between two clusters of a die on the 2×3 grid. -/
def clusterHops (a b : Nat) : Nat := absDiff (a / 3) (b / 3) + absDiff (a % 3) (b % 3)

/-- R12, R104. Manhattan die hops. -/
def dieHops (a b : Nat) : Nat := absDiff (a / 3) (b / 3) + absDiff (a % 3) (b % 3)

/-- R104. The latency-table entry of L2 slice `sl` for core `g`: 36 + 4h + 60d. -/
def sliceBound (g sl : Nat) : Nat := 36 + 4 * clusterHops (g % 48 / 8) (sl % 6) + 60 * dieHops (g / 48) (sl / 6)
/-- R104, R127. Chip-scratchpad part of die `d`, reached at cluster 4: 44 + 4h + 60d. -/
def cspBound (g d : Nat) : Nat := 44 + 4 * clusterHops (g % 48 / 8) 4 + 60 * dieHops (g / 48) d
/-- R104, R13. HBM stack `k`: 320 + 60d, +40 for stacks 8 and 9. -/
def hbmBound (g k : Nat) : Nat := 320 + 60 * dieHops (g / 48) (k / 2) + (if k = 8 ∨ k = 9 then 40 else 0)
/-- R104. CXL port `p`: 700 + 60d. -/
def cxlBound (g p : Nat) : Nat := 700 + 60 * dieHops (g / 48) (cxlDie p)

/-- R119. The bound of a global access from core g, by its physical target on this module. -/
def globalBound (g a : Nat) : Nat :=
  match place a with
  | .hbm k => hbmBound g k
  | .cxl p => cxlBound g p
  | .csp d => cspBound g d
  | .staging sl => sliceBound g sl
  | .spad o => sliceBound g (o / 8) + 12
  | .text o => sliceBound g (o / 8) + 12
  | _ => 0

/-! ### Traps (R245–R252) -/

/-- Raise a precise cause at the issuing bundle (R245): the slot, its code and DETAIL. The bundle's issue turns it into
the trap entry of `takeCause`; nothing of the bundle takes effect. -/
def raise (code slot detail : Nat) (s : State) : State :=
  { s with core := { s.core with
      raised := some ⟨BitVec.ofNat 8 code, BitVec.ofNat 3 slot, false, false, BitVec.ofNat 56 detail, false⟩ } }

/-- A cause of the whole bundle (REG_BANK, ILLEGAL_INDEX; R247). -/
def raiseWhole (code detail : Nat) (s : State) : State :=
  { s with core := { s.core with
      raised := some ⟨BitVec.ofNat 8 code, 0, true, false, BitVec.ofNat 56 detail, false⟩ } }

/-- A failed walk's cause, which yields to every issue-time cause (R250). -/
def raiseWalk (code slot detail : Nat) (s : State) : State :=
  { s with core := { s.core with
      raised := some ⟨BitVec.ofNat 8 code, BitVec.ofNat 3 slot, false, false, BitVec.ofNat 56 detail, true⟩ } }

/-- The first cause of a list ordered by ascending code (R250). -/
def firstCause : List (Option (Nat × Nat)) → Option (Nat × Nat)
  | [] => none
  | some c :: _ => some c
  | none :: cs => firstCause cs

/-- Raise the first cause found, else go on. -/
def orRaise (slot : Nat) (cs : List (Option (Nat × Nat))) (k : State → State) (s : State) : State :=
  match firstCause cs with
  | some (code, detail) => raise code slot detail s
  | none => k s

/-- `some (code, detail)` when the test holds. -/
def causeIf (b : Bool) (code detail : Nat) : Option (Nat × Nat) := if b then some (code, detail) else none

/-- R247. TINFO as written at a trap entry. -/
def tinfoOf (t : TrapRec) (clean : Bool) : Word64 :=
  t.detail.setWidth 64 ||| ((if t.whole then 0#64 else t.slot.setWidth 64) <<< 56)
    ||| ((if t.whole then 1#64 else 0#64) <<< 59) ||| ((if t.async then 1#64 else 0#64) <<< 60)
    ||| ((if clean then 1#64 else 0#64) <<< 63)

/-- R245. The latest landing of what is in flight, bounded operations at their bound. -/
def latestLanding (c : Core) : Nat := c.pend.foldl (fun m p => Nat.max m p.bound) 0

/-- R248. Nothing lands after issue count `t`, no delay bundle, no pause or hold under way. -/
def isClean (c : Core) (t : Nat) : Bool :=
  decide (latestLanding c ≤ t) && decide (c.delay = .none) && decide (c.pausec = 0) && decide (c.holdc = 0)

/-- R86, R258. Discard the commands that have not started: their tokens complete done-error. -/
def discardBte (s : State) : State :=
  let s1 := s.core.bte.foldl (fun s c => setTok c.produce .err s) s
  { s1 with core := { s1.core with bte := [] } }

/-- R86, R249, R252. The task ends: phase END, and how; after any ending but DONE the commands that have not started are
discarded. -/
def endTask (k : EndKind) (s : State) : State :=
  let s := if k = .done then s else discardBte s
  { s with core := { s.core with
      phase := .ended, ending := some k, endCyc := s.cyc, wait := none, entering := none, raised := none
      reports := [], drainReq := none, memerr := none } }

/-- R246. The position TEPC holds for a cause at the bundle now issuing: inside a hold or a pause, and elsewhere, the
position of the index or bundle (`pc`); past position 32,767, the index whose advance passed the end (R97). -/
def trapPos (c : Core) : BitVec 15 := c.pastEnd.getD c.pc

/-- R245–R249, R255. Take a cause raised at the bundle that issued at count `t`, whose position is `pos`. In handler
mode or in a drain the task ends by fault, the cause recorded as at trap entry; otherwise the trap is on its way into the
handler, which issues in cycle H: the larger of t + 1 and the latest landing. -/
def takeCauseAt (t : Nat) (pos : BitVec 15) (x : TrapRec) (s : State) : State :=
  let c := s.core
  let clean := isClean c t && !x.async
  if c.handler || decide (c.phase = .drain) then
    endTask (.fault x.code) { s with core := { c with tcause := x.code, tepc := pos, tinfo := tinfoOf x clean } }
  else
    { s with core := { c with
        raised := none, wait := none
        entering := some { cause := x, tepc := pos, clean := clean, due := Nat.max (t + 1) (latestLanding c) } } }

/-- R286, R406. Empty bundles of a hold that are still to issue: of an NWAIT, up to its slot. -/
def holdLeft (s : State) : Nat :=
  match s.core.nwait with
  | some n => 88 * n - s.cyc
  | none => s.core.holdc.toNat

/-- R246. The position TEPC holds for a cause reported where a bundle would issue: at an empty bundle of a hold, the one that
follows the hold in text order. -/
def reportPos (s : State) : BitVec 15 :=
  if s.core.holding && decide (holdLeft s ≠ 0) then s.core.holdPos.getD (trapPos s.core) else trapPos s.core

/-- A cause taken at the bundle that would issue now. -/
def takeCause (x : TrapRec) (s : State) : State := takeCauseAt s.core.icnt (reportPos s) x s

/-- R245, R247. The trap enters the handler: TCAUSE, TEPC, TINFO, handler mode, and the next bundle is at TVEC. -/
def enterHandler (e : TrapEntry) (s : State) : State :=
  { s with core := { s.core with
      entering := none, handler := true
      tcause := e.cause.code, tepc := e.tepc, tinfo := tinfoOf e.cause e.clean
      pc := s.core.tvec, pastEnd := none, redir := none, delay := .none, nextRedir := none, nextDelay := .none
      inQuote := false, pausing := false, holding := false, nwait := none, resuming := none, rewait := none
      swapping := false } }

/-- R252. An uncorrectable error or a malformed coded block that an access of slot `slot` of the bundle at position `pos` met:
recorded for the core, to end the task when it reaches the core (code 0x18 MEMERR or 0x0D CODED), in its next turn (log 110). -/
def Core.meetError (pos : BitVec 15) (slot : BitVec 3) (code addr : Nat) (c : Core) : Core :=
  match c.memerr with
  | some _ => c
  | none => { c with memerr := some (BitVec.ofNat 8 code, addr, pos, slot) }

/-- R252. Such an error of the current core. -/
def taskErrorAt (pos : BitVec 15) (slot : BitVec 3) (code addr : Nat) (s : State) : State :=
  { s with core := s.core.meetError pos slot code addr }

/-- R252. An error of an access of the bundle issuing now. -/
def taskError (slot code addr : Nat) (s : State) : State := taskErrorAt s.core.pc (BitVec.ofNat 3 slot) code addr s

/-! ### Current core and the others -/

/-- Make core `g` the current core. -/
def select (g : Nat) (s : State) : State :=
  if g = s.coreNo then s
  else
    let parked := mset Core.idle s.others s.coreNo s.core
    { s with core := mget Core.idle parked g, others := mset Core.idle parked g Core.idle, coreNo := g }

/-- Core `g`, wherever it is held. -/
def coreAt (s : State) (g : Nat) : Core := if g = s.coreNo then s.core else mget Core.idle s.others g

/-- Change core `g`. -/
def modCore (g : Nat) (f : Core → Core) (s : State) : State :=
  if g = s.coreNo then { s with core := f s.core }
  else { s with others := mset Core.idle s.others g (f (mget Core.idle s.others g)) }

/-- Numbers of the cores that are not at their idle default, ascending. -/
def liveCores (s : State) : List Nat :=
  let ks := s.others.map Prod.fst
  ks.filter (fun k => decide (k < s.coreNo)) ++ [s.coreNo] ++ ks.filter (fun k => decide (s.coreNo < k))

/-! ### Interrupt messages and the fault log (R65–R67, R426) -/

/-- R65. Send one UCIe interrupt message. -/
def sendIrq (die kind entry rep : Nat) (s : State) : State :=
  { s with irqs := s.irqs ++ [BitVec.ofNat 64 (die + kind * 16 + entry % 65536 * 256 + rep % 65536 * 16777216)] }

/-- R67. The 32 bytes of a fault-log entry. -/
def flogBytes (cyc kind die core cause taskId entry tepc info addr : Nat) : List Byte :=
  natToBytes 8 cyc ++ natToBytes 8 (kind + (die % 16) * 256 + (core % 512) * 4096 + cause * 2 ^ 24 + taskId * 2 ^ 32)
    ++ natToBytes 8 (entry % 65536 + (tepc % 32768) * 65536 + (info % 2 ^ 32) * 2 ^ 32) ++ natToBytes 8 addr

/-- R66. FL_SIZE enables the log: a power of two from 16 to 65,536. -/
def flogEnabled (f : FaultLog) : Bool :=
  decide (16 ≤ f.size.toNat) && decide (f.size.toNat ≤ 65536) && decide (f.size.toNat &&& (f.size.toNat - 1) = 0)

/-! ### Units and fencing (R26, R29, R253) -/

/-- R253. The unit that holds a location of the local physical space, its number for INFO (R67: of a stack or a port, else 0)
and its die; `inL2`: the failing copy is the home slice's. -/
def unitOf (inL2 : Bool) (a : Nat) : Option (HwUnit × Nat × Nat) :=
  match place a with
  | .hbm k => some (if inL2 then (.slice (homeSlice a), 0, k / 2) else (.stack k, k, k / 2))
  | .cxl p => some (if inL2 then (.slice (homeSlice a), 0, cxlDie p) else (.cxl p, p, cxlDie p))
  | .csp d => some (.csp d, 0, d)
  | .spad g => some (.core g, 0, g / 48)
  | .text g => some (.core g, 0, g / 48)
  | .staging sl => some (.slice sl, 0, sl / 6)
  | _ => none

/-- R26, R29. Clear a unit's map bits. Of a lost die the specification names the cores, the chip-scratchpad part and the stacks only:
here its L2 slices, its Garxon ports and its CXL port keep their bits (log 135). -/
def clearUnit (m : Maps) (u : HwUnit) : Maps :=
  match u with
  | .core g => { m with core := m.core &&& ~~~ (1#432 <<< g) }
  | .slice c => { m with slice := m.slice &&& ~~~ (1#54 <<< c) }
  | .cluster c =>
    { m with core := m.core &&& ~~~ (0xFF#432 <<< (8 * c)), slice := m.slice &&& ~~~ (1#54 <<< c) }
  | .stack k => { m with stack := m.stack &&& ~~~ (1#18 <<< k) }
  | .port p => { m with port := m.port &&& ~~~ (1#32 <<< p) }
  | .cxl p => { m with cxl := m.cxl &&& ~~~ (1#4 <<< p) }
  | .csp d => { m with csp := m.csp &&& ~~~ (1#9 <<< d) }
  | .die d =>
    { m with
      core := m.core &&& ~~~ (BitVec.ofNat 432 (2 ^ 48 - 1) <<< (48 * d)), csp := m.csp &&& ~~~ (1#9 <<< d)
      stack := m.stack &&& ~~~ (3#18 <<< (2 * d)) }

/-- R26, R27. Ronilor fences a unit: the fence list, the map bits, FENCED and DEGRADED. -/
def fenceUnit (u : HwUnit) (s : State) : State :=
  { s with
    maps := clearUnit s.maps u
    boot := { s.boot with
      fence := if s.boot.fence.contains u then s.boot.fence else s.boot.fence ++ [u]
      fenced := true
      degraded := true } }

/-- R26, R253. The retry of a transient error succeeds: the location reads again, and Ronilor counts the failure. -/
def passRetry (a : Nat) (s : State) : State :=
  { s with poison := mset none s.poison (a / 16) none, boot := { s.boot with transient := s.boot.transient + 1 } }

/-- R413. The address lies in a text-and-lexicon window, which only translated accesses reach. -/
def inText (a : Nat) : Bool :=
  match place a with
  | .text _ => true
  | _ => false

/-- R17, R253, R413, R426. A write of the walker, the pool or the log: absent ranges, text windows and uncorrectable sectors
lose it. -/
def writable (s : State) (a n : Nat) : Bool :=
  presentRange s a n && !inText a && (List.range ((a + n + 15) / 16 - a / 16)).all fun i => decide (mget none s.poison (a / 16 + i) = none)

/-- The local part of a global physical address of this module; none for another module's (R34, R135). -/
def localPart (s : State) (ga : Nat) : Option Nat :=
  if ga / 2 ^ 44 = s.fab.id.toNat then some (ga % 2 ^ 44) else none

/-- R66, R426. Write one fault-log entry for an event of cycle `cyc` at FL_HEAD, or drop it and count FL_LOST; kind-1
message when FL_IRQ. A write lost to an uncorrectable error is itself classified and logged (R253): the first argument
bounds how often, which the two sectors of an entry do not exhaust. While FL_SIZE
disables the log nothing counts in FL_LOST, which the specification does not say (log 133). -/
def faultLogN : Nat → Nat → Nat → Nat → Nat → Nat → Nat → Nat → Nat → Nat → Nat → State → State
  | fuel, cyc, kind, die, core, cause, taskId, entry, tepc, info, addr, s =>
  let f := s.flog
  if !flogEnabled f then s
  else
    let lost := { s with flog := { f with lost := if f.lost = BitVec.allOnes 32 then f.lost else f.lost + 1 } }
    if (f.head.toNat + 1) % f.size.toNat = f.tail.toNat then lost
    else
      match localPart s (f.base.toNat + 32 * f.head.toNat) with
      | none => lost
      | some a =>
        if writable s a 32 then
          let s1 := memWrite 0 a (flogBytes cyc kind die core cause taskId entry tepc info addr)
            { s with flog := { f with head := BitVec.ofNat 17 ((f.head.toNat + 1) % f.size.toNat) } }
          if f.irq then sendIrq die 1 0 0 s1 else s1
        else if !presentRange s a 32 || inText a then lost
        else
          match fuel with
          | 0 => lost
          | fuel + 1 =>
            let b := if mget none s.poison (a / 16) = none then a + 16 else a
            match mget none s.poison (b / 16) with
            | none => lost
            | some p =>
              match unitOf p.inL2 b with
              | none => lost
              | some (u, info, die) =>
                if p.lasting then faultLogN fuel s.cyc 5 die 0x1FF 0 0 0xFFFF 0 info b (fenceUnit u lost)
                else faultLogN fuel s.cyc 4 die 0x1FF 0 0 0xFFFF 0 info b (passRetry b lost)

/-- A fault-log entry for an event of cycle `cyc`. -/
def faultLogAt (cyc kind die core cause taskId entry tepc info addr : Nat) (s : State) : State :=
  faultLogN 4 cyc kind die core cause taskId entry tepc info addr s

/-- A fault-log entry for an event of this cycle. -/
def faultLog (kind die core cause taskId entry tepc info addr : Nat) (s : State) : State :=
  faultLogAt s.cyc kind die core cause taskId entry tepc info addr s

/-- R253. Classify an uncorrectable error at a local address: a transient one reads again with success and is logged with
kind 4; a lasting one is logged with kind 5 and its unit is fenced. An absent location is lasting (R17); where no unit owns
it, DIE is 0 (log 109). -/
def classify (a : Nat) (s : State) : State :=
  let p := (mget none s.poison (a / 16)).getD ⟨true, false⟩
  match unitOf p.inL2 a with
  | none => faultLog 5 0 0x1FF 0 0 0xFFFF 0 0 a s
  | some (u, info, die) =>
    if p.lasting then faultLog 5 die 0x1FF 0 0 0xFFFF 0 info a (if present s a then fenceUnit u s else s)
    else faultLog 4 die 0x1FF 0 0 0xFFFF 0 info a (passRetry a s)

end Sys2Proof.Machine
end

