-- ==== Sys2Proof/Machine/Flags.lean ====
section
/-! DEFINITION. Number formats and exact arithmetic (R167–R178): values are decoded exactly, combined exactly, and
rounded once, and the flags each rounding raises are computed with it. -/

namespace Sys2Proof.Machine

/-! ### Formats (R167, R168) -/

/-- R178. The five flags. -/
def NV : Flags := 16
def DZ : Flags := 8
def OF : Flags := 4
def UF : Flags := 2
def NX : Flags := 1

/-- R167. Width in bits of a format code. -/
def fmtWidth (f : Nat) : Nat :=
  match f with
  | 0 => 8 | 1 => 8 | 2 => 16 | 3 => 16 | 4 => 32 | 5 => 32 | 6 => 64 | 7 => 64 | 8 => 16 | 9 => 16 | 10 => 32
  | 11 => 64 | 12 => 8 | 13 => 8 | 14 => 4 | 15 => 4 | 16 => 8 | 17 => 64 | _ => 32

/-- A floating format: exponent bits, fraction bits; 0 IEEE with signalling NaNs, 1 E5M2, 2 E4M3, 3 E2M1 (R168). -/
structure FFmt where
  eb : Nat
  fb : Nat
  kind : Nat
  deriving DecidableEq, Repr

/-- R168. The floating formats by code; CF32 stands for its parts. -/
def ffmt (f : Nat) : FFmt :=
  match f with
  | 8 => ⟨5, 10, 0⟩
  | 9 => ⟨8, 7, 0⟩
  | 10 => ⟨8, 23, 0⟩
  | 11 => ⟨11, 52, 0⟩
  | 12 => ⟨4, 3, 2⟩
  | 13 => ⟨5, 2, 1⟩
  | 14 => ⟨2, 1, 3⟩
  | _ => ⟨8, 23, 0⟩

/-- R167. An integer code, and whether it is signed. -/
def isIntFmt (f : Nat) : Bool := decide (f < 8)
def isSigned (f : Nat) : Bool := decide (f < 8) && decide (f % 2 = 0)
/-- R314. Pair formats. -/
def isPair (f : Nat) : Bool := f == 6 || f == 7 || f == 11 || f == 17

def FFmt.bias (f : FFmt) : Nat := 2 ^ (f.eb - 1) - 1
/-- Exponent of the smallest subnormal. -/
def FFmt.emin (f : FFmt) : Int := 1 - (f.bias : Int) - (f.fb : Int)
/-- Width. -/
def FFmt.width (f : FFmt) : Nat := 1 + f.eb + f.fb
/-- Magnitude bits of the largest finite value (R168). -/
def FFmt.maxMag (f : FFmt) : Nat :=
  if f.kind = 2 then 0x7E else if f.kind = 3 then 7 else (2 ^ f.eb - 1) * 2 ^ f.fb - 1
/-- The canonical NaN (R168); E2M1 has none, and 0 stands there (R175). -/
def FFmt.nan (f : FFmt) : Nat :=
  if f.kind = 2 then 0x7F else if f.kind = 3 then 0 else (2 ^ f.eb - 1) * 2 ^ f.fb + 2 ^ (f.fb - 1)
/-- Magnitude bits of infinity. -/
def FFmt.infMag (f : FFmt) : Nat := (2 ^ f.eb - 1) * 2 ^ f.fb

/-- A decoded value: a NaN, an infinity, or (−1)^neg · m · 2^e exactly. -/
inductive FV where
  | nan (signalling : Bool)
  | inf (neg : Bool)
  | fin (neg : Bool) (m : Nat) (e : Int)
  deriving DecidableEq, Repr

/-- R168. Decode a floating pattern. -/
def FFmt.decode (f : FFmt) (b : Nat) : FV :=
  let neg := b / 2 ^ (f.eb + f.fb) % 2 = 1
  let e := b / 2 ^ f.fb % 2 ^ f.eb
  let fr := b % 2 ^ f.fb
  if f.kind = 2 ∧ e = 15 ∧ fr = 7 then .nan false
  else if f.kind < 2 ∧ e = 2 ^ f.eb - 1 then
    if fr = 0 then .inf (decide neg) else .nan (decide (f.kind = 0) && decide (fr < 2 ^ (f.fb - 1)))
  else if e = 0 then .fin (decide neg) fr f.emin
  else .fin (decide neg) (2 ^ f.fb + fr) (f.emin + ((e : Int) - 1))

/-- R167. Signed value of a `w`-bit pattern. -/
def sint (w b : Nat) : Int := if b % 2 ^ w < 2 ^ (w - 1) then (b % 2 ^ w : Nat) else ((b % 2 ^ w : Nat) : Int) - (2 ^ w : Nat)

/-- Integer value of an integer-format pattern. -/
def intOf (f b : Nat) : Int := if isSigned f then sint (fmtWidth f) b else ((b % 2 ^ fmtWidth f : Nat) : Int)

/-- R167, R176. Decode a pattern of any format code but QN4 and CF32. -/
def decodeFmt (f b : Nat) : FV :=
  if isIntFmt f then .fin (decide (intOf f b < 0)) (intOf f b).natAbs 0
  else if f = 16 then (if b % 256 = 255 then .nan false else .fin false 1 ((b % 256 : Nat) - 127))
  else (ffmt f).decode b

/-- The range of an integer format. -/
def intMin (f : Nat) : Int := if isSigned f then -((2 ^ (fmtWidth f - 1) : Nat) : Int) else 0
def intMax (f : Nat) : Int :=
  if isSigned f then ((2 ^ (fmtWidth f - 1) : Nat) : Int) - 1 else ((2 ^ fmtWidth f : Nat) : Int) - 1
/-- The pattern of an integer in `w` bits. -/
def wrapInt (w : Nat) (x : Int) : Nat := (x % ((2 ^ w : Nat) : Int)).toNat
/-- R169. Wrap, or clamp when `sat`. -/
def narrowInt (f : Nat) (sat : Bool) (x : Int) : Nat :=
  wrapInt (fmtWidth f) (if sat then (if x < intMin f then intMin f else if intMax f < x then intMax f else x) else x)

/-! ### The generator (R239) and stochastic draws (R173) -/

/-- R239. The final z. -/
def genZ (key ctr : Word64) (l : Nat) : Word64 :=
  let z0 := key + ctr * 0xA24BAED4963EE407#64 + BitVec.ofNat 64 l * 0x9FB21C651E98DF25#64
  let z1 := (z0 ^^^ (z0 >>> 32)) * 0xB5C319E74A2D68F1#64
  let z2 := (z1 ^^^ (z1 >>> 29)) * 0x8E417C93D2B50A6B#64
  z2 ^^^ (z2 >>> 32)
/-- R239. u as a multiple of 2^−24. -/
def genU (key ctr : Word64) (l : Nat) : Nat := ((genZ key ctr l) >>> 40).toNat

/-! ### Rounding (R172, R173) -/

/-- A rounding: the code 0–5, saturation, and the 24-bit draw of the value (R173), used by code 5 only. -/
structure Rnd where
  rnd : Nat
  sat : Bool
  u : Nat
  deriving DecidableEq, Repr

/-- Round to nearest even. -/
def Rnd.rne : Rnd := ⟨0, false, 0⟩

/-- R172, R173. Whether a magnitude `mant + rem/2^sh` (0 < rem) goes up to `mant + 1`. -/
def roundsUp (r : Rnd) (neg : Bool) (mant rem sh : Nat) : Bool :=
  match r.rnd with
  | 0 => decide (2 ^ sh < 2 * rem) || (decide (2 ^ sh = 2 * rem) && decide (mant % 2 = 1))
  | 1 => false
  | 2 => !neg
  | 3 => neg
  | 4 => decide (2 ^ sh ≤ 2 * rem)
  | _ => if neg then !decide (r.u * 2 ^ sh < (2 ^ sh - rem) * 2 ^ 24) else decide (r.u * 2 ^ sh < rem * 2 ^ 24)

/-- The magnitude `m · 2^e` in units of `2^q`, rounded, and whether it was inexact. -/
def roundAt (r : Rnd) (neg : Bool) (m : Nat) (e q : Int) : Nat × Bool :=
  if q ≤ e then (m * 2 ^ (e - q).toNat, false)
  else
    let sh := (q - e).toNat
    let mant := m / 2 ^ sh
    let rem := m % 2 ^ sh
    if rem = 0 then (mant, false) else (if roundsUp r neg mant rem sh then mant + 1 else mant, true)

/-- A sign bit above a magnitude. -/
def FFmt.signed (f : FFmt) (neg : Bool) (mag : Nat) : Nat := (if neg then 2 ^ (f.eb + f.fb) else 0) + mag

/-- R172–R175. What an overflow delivers, with OF and NX. -/
def overflowTo (f : FFmt) (r : Rnd) (neg : Bool) : Nat × Flags :=
  let big := f.signed neg f.maxMag
  let v :=
    if f.kind = 3 ∨ r.sat then big
    else if f.kind = 2 then f.nan
    else if r.rnd = 0 ∨ r.rnd = 4 ∨ r.rnd = 5 ∨ (r.rnd = 2 ∧ neg = false) ∨ (r.rnd = 3 ∧ neg = true) then
      f.signed neg f.infMag
    else big
  (v, OF ||| NX)

/-- R173. Stochastic rounding of a magnitude beyond the largest finite one: between it and one unit beyond. -/
def stochasticBeyond (f : FFmt) (r : Rnd) (neg : Bool) (m : Nat) (e : Int) : Nat × Flags :=
  match f.decode f.maxMag with
  | .fin _ mm me =>
    -- (|x| − max) / ulp, in units of 2^min(e, me)
    let b := if e ≤ me then e else me
    let ov := m * 2 ^ (e - b).toNat - mm * 2 ^ (me - b).toNat
    let ulp := 2 ^ (me - b).toNat
    if r.u * ulp < ov * 2 ^ 24 then overflowTo f r neg else (f.signed neg f.maxMag, NX)
  | _ => (f.signed neg f.maxMag, NX)

/-- Whether `m · 2^e` exceeds the largest finite magnitude. -/
def beyondMax (f : FFmt) (m : Nat) (e : Int) : Bool :=
  match f.decode f.maxMag with
  | .fin _ mm me =>
    let b := if e ≤ me then e else me
    decide (mm * 2 ^ (me - b).toNat < m * 2 ^ (e - b).toNat)
  | _ => false

/-- R172–R175, R178. Round an exact finite value once into a floating format: its pattern and its flags. Tininess is
detected after rounding (R174). -/
def roundFin (f : FFmt) (r : Rnd) (neg : Bool) (m : Nat) (e : Int) : Nat × Flags :=
  if m = 0 then (f.signed neg 0, 0)
  else if r.rnd = 5 ∧ beyondMax f m e then stochasticBeyond f r neg m e
  else
    let top : Int := (Nat.log2 m : Nat) + e
    let qn := top - (f.fb : Int)
    let q := if qn < f.emin then f.emin else qn
    let (mant, inexact) := roundAt r neg m e q
    let mag := mant + (q - f.emin).toNat * 2 ^ f.fb
    if f.maxMag < mag then overflowTo f r neg
    else
      let tiny := decide (qn < f.emin) &&
        !(decide (top + 1 = f.emin + (f.fb : Int)) && decide ((roundAt r neg m e qn).1 = 2 ^ (f.fb + 1)))
      (f.signed neg mag, if inexact then (if tiny then UF ||| NX else NX) else 0)

/-- R174. Finish an arithmetic result: flags raised so far, then the one rounding. An exact infinity stays infinite
whatever `sat` (R317). -/
def finish (f : FFmt) (r : Rnd) (x : FV × Flags) : Nat × Flags :=
  match x.1 with
  | .nan _ => (f.nan, x.2)
  | .inf n => (f.signed n f.infMag, x.2)
  | .fin n m e => let y := roundFin f r n m e; (y.1, x.2 ||| y.2)

/-! ### Exact operations (R174) -/

def FV.isNan : FV → Bool
  | .nan _ => true
  | _ => false
def FV.isInf : FV → Bool
  | .inf _ => true
  | _ => false
def FV.isZero : FV → Bool
  | .fin _ m _ => decide (m = 0)
  | _ => false
def FV.sig : FV → Bool
  | .nan s => s
  | _ => false
def FV.neg? : FV → Bool
  | .nan _ => false
  | .inf n => n
  | .fin n _ _ => n
/-- Invert the sign. -/
def FV.flip : FV → FV
  | .nan s => .nan s
  | .inf n => .inf (!n)
  | .fin n m e => .fin (!n) m e
/-- Magnitude. -/
def FV.abs : FV → FV
  | .nan s => .nan s
  | .inf _ => .inf false
  | .fin _ m e => .fin false m e
/-- NV for a signalling operand. -/
def sigFlag (b : Bool) : Flags := if b then NV else 0

/-- Signed mantissa at a common exponent. -/
def alignInt (neg : Bool) (m : Nat) (e b : Int) : Int :=
  let v : Int := ((m * 2 ^ (e - b).toNat : Nat) : Int)
  if neg then -v else v

/-- Exact sum of finite values with the sign rule of an exact zero (`rdn`: round toward −∞). -/
def addFin (rdn : Bool) (n1 : Bool) (m1 : Nat) (e1 : Int) (n2 : Bool) (m2 : Nat) (e2 : Int) : FV :=
  let b := if e1 ≤ e2 then e1 else e2
  let t := alignInt n1 m1 e1 b + alignInt n2 m2 e2 b
  if t = 0 then
    .fin (if m1 = 0 ∧ m2 = 0 ∧ n1 = n2 then n1 else rdn) 0 0
  else .fin (decide (t < 0)) t.natAbs b

/-- a + b exactly. -/
def addFV (rdn : Bool) (a b : FV) : FV × Flags :=
  let sg := sigFlag (a.sig || b.sig)
  match a, b with
  | .nan _, _ => (.nan false, sg)
  | _, .nan _ => (.nan false, sg)
  | .inf x, .inf y => if x = y then (.inf x, 0) else (.nan false, NV)
  | .inf x, .fin _ _ _ => (.inf x, 0)
  | .fin _ _ _, .inf y => (.inf y, 0)
  | .fin n1 m1 e1, .fin n2 m2 e2 => (addFin rdn n1 m1 e1 n2 m2 e2, 0)

/-- a · b exactly. -/
def mulFV (a b : FV) : FV × Flags :=
  let sg := sigFlag (a.sig || b.sig)
  match a, b with
  | .nan _, _ => (.nan false, sg)
  | _, .nan _ => (.nan false, sg)
  | .inf x, .inf y => (.inf (x != y), 0)
  | .inf x, .fin n m _ => if m = 0 then (.nan false, NV) else (.inf (x != n), 0)
  | .fin n m _, .inf y => if m = 0 then (.nan false, NV) else (.inf (y != n), 0)
  | .fin n1 m1 e1, .fin n2 m2 e2 => (.fin (n1 != n2) (m1 * m2) (e1 + e2), 0)

/-- a · b + c exactly; 0 · ∞ raises NV even when c is a quiet NaN (R300, R319). -/
def fmaFV (rdn : Bool) (a b c : FV) : FV × Flags :=
  let p := mulFV a b
  let t := addFV rdn p.1 c
  (t.1, p.2 ||| t.2)

/-- Extra quotient bits kept by division and square root: enough for every precision and for the 24-bit draw. -/
def quoBits : Nat := 100

/-- a / b: the quotient to `quoBits` bits and more, with a sticky bit below, so that one rounding of it is the rounding
of the exact quotient. -/
def divFV (a b : FV) : FV × Flags :=
  let sg := sigFlag (a.sig || b.sig)
  match a, b with
  | .nan _, _ => (.nan false, sg)
  | _, .nan _ => (.nan false, sg)
  | .inf _, .inf _ => (.nan false, NV)
  | .inf x, .fin n _ _ => (.inf (x != n), 0)
  | .fin n _ _, .inf y => (.fin (n != y) 0 0, 0)
  | .fin n1 m1 e1, .fin n2 m2 e2 =>
    if m2 = 0 then (if m1 = 0 then (.nan false, NV) else (.inf (n1 != n2), DZ))
    else
      let k := quoBits + Nat.log2 m2
      let num := m1 * 2 ^ k
      let q := num / m2
      let st := if num % m2 = 0 then 0 else 1
      (.fin (n1 != n2) (2 * q + st) (e1 - e2 - (k : Int) - 1), 0)

/-- Integer square root, one bit at a time from bit `k − 1` down. -/
def isqrtLoop (n : Nat) : Nat → Nat → Nat
  | 0, r => r
  | k + 1, r => isqrtLoop n k (if (r + 2 ^ k) * (r + 2 ^ k) ≤ n then r + 2 ^ k else r)
/-- ⌊√n⌋. -/
def isqrt (n : Nat) : Nat := isqrtLoop n (Nat.log2 n / 2 + 1) 0

/-- √a, with a sticky bit below as in `divFV`. -/
def sqrtFV (a : FV) : FV × Flags :=
  match a with
  | .nan s => (.nan false, sigFlag s)
  | .inf n => if n then (.nan false, NV) else (.inf false, 0)
  | .fin n m e =>
    if m = 0 then (.fin n 0 0, 0)
    else if n then (.nan false, NV)
    else
      -- an even exponent and enough bits
      let odd := e % 2 = 1
      let m1 := if odd then 2 * m else m
      let e1 := if odd then e - 1 else e
      let big := m1 * 4 ^ quoBits
      let r := isqrt big
      let st := if r * r = big then 0 else 1
      (.fin false (2 * r + st) (e1 / 2 - (quoBits : Int) - 1), 0)

/-! ### Comparison (R302, R320) -/

/-- Value order of two non-NaN values: −1, 0 or 1; +0 = −0. -/
def cmpFV (a b : FV) : Int :=
  match a, b with
  | .inf x, .inf y => if x = y then 0 else if x then -1 else 1
  | .inf x, _ => if x then -1 else 1
  | _, .inf y => if y then 1 else -1
  | .fin n1 m1 e1, .fin n2 m2 e2 =>
    let c := if e1 ≤ e2 then e1 else e2
    let t := alignInt n1 m1 e1 c - alignInt n2 m2 e2 c
    if t < 0 then -1 else if t = 0 then 0 else 1
  | _, _ => 0

/-- R281, R302. A floating relation by condition code, and its NV. -/
def relFV (cc : Nat) (a b : FV) : Bool × Flags :=
  let un := a.isNan || b.isNan
  let c := cmpFV a b
  let r :=
    match cc with
    | 0 => !un && decide (c = 0)
    | 1 => un || decide (c ≠ 0)
    | 2 => !un && decide (c < 0)
    | 3 => !un && decide (c ≤ 0)
    | 4 => !un && decide (0 < c)
    | 5 => !un && decide (0 ≤ c)
    | 10 => !un
    | 11 => un
    | _ => false
  (r, sigFlag (a.sig || b.sig))

/-- R281. An integer relation: codes 0–5 by the given order of the values, 6–9 by the order of their patterns. -/
def relInt (cc : Nat) (a b : Int) (ua ub : Nat) : Bool :=
  match cc with
  | 0 => decide (a = b)
  | 1 => decide (a ≠ b)
  | 2 => decide (a < b)
  | 3 => decide (a ≤ b)
  | 4 => decide (b < a)
  | 5 => decide (b ≤ a)
  | 6 => decide (ua < ub)
  | 7 => decide (ua ≤ ub)
  | 8 => decide (ub < ua)
  | 9 => decide (ub ≤ ua)
  | _ => false

/-- R174, R320. minimumNumber (`mx` false) or maximumNumber of two patterns, −0 below +0. -/
def minMaxFV (f : FFmt) (mx : Bool) (x y : Nat) : Nat × Flags :=
  let a := f.decode x
  let b := f.decode y
  let fl := sigFlag (a.sig || b.sig)
  if a.isNan && b.isNan then (f.nan, fl)
  else if a.isNan then (y, fl)
  else if b.isNan then (x, fl)
  else
    let c := cmpFV a b
    let less := decide (c < 0) || (decide (c = 0) && a.neg? && !b.neg?)
    (if less != mx then x else y, fl)

/-! ### Conversion (R174–R177) -/

/-- Round a value to an integer. -/
def roundInt (r : Rnd) (n : Bool) (m : Nat) (e : Int) : Int × Bool :=
  let (k, ix) := roundAt r n m e 0
  (if n then -(k : Int) else (k : Int), ix)

/-- R176. Into E8M0. -/
def toE8M0 (r : Rnd) (x : FV) : Nat × Flags :=
  match x with
  | .nan s => (0xFF, sigFlag s)
  | .inf n => if n then (0xFF, NV) else (if r.sat then 0xFE else 0xFF, OF ||| NX)
  | .fin n m e =>
    if m = 0 then (0, 0)
    else
      let top : Int := (Nat.log2 m : Nat) + e
      if n then (if top < -127 then (0, NX) else (0xFF, NV))
      else if top < -127 then (0, UF ||| NX)
      else
        let exact := decide (m = 2 ^ Nat.log2 m)
        if 127 < top ∨ (top = 127 ∧ exact = false) then (if r.sat then 0xFE else 0xFF, OF ||| NX)
        else if exact then ((top + 127).toNat, 0)
        else
          -- the bracket 2^top .. 2^(top+1), of width 2^top: the fraction is rem / 2^log2 m
          let code := (top + 127).toNat
          let rem := m - 2 ^ Nat.log2 m
          (if roundsUp r false code rem (Nat.log2 m) then code + 1 else code, NX)

/-- R175. Into an integer format from a floating value. -/
def toInt (f : Nat) (r : Rnd) (x : FV) : Nat × Flags :=
  match x with
  | .nan _ => (0, NV)
  | .inf n => (wrapInt (fmtWidth f) (if n then intMin f else intMax f), NV)
  | .fin n m e =>
    let (k, ix) := roundInt r n m e
    if k < intMin f then (wrapInt (fmtWidth f) (intMin f), NV)
    else if intMax f < k then (wrapInt (fmtWidth f) (intMax f), NV)
    else (wrapInt (fmtWidth f) k, if ix then NX else 0)

/-- R175. Into a floating format. FP64 has no row there, so an infinity stays one. -/
def toFloat (f : FFmt) (r : Rnd) (x : FV) : Nat × Flags :=
  match x with
  | .nan s => if f.kind = 3 then (0, NV) else (f.nan, sigFlag s)
  | .inf n =>
    if f.kind = 3 then (f.signed n f.maxMag, NV)
    else if f.kind = 2 then (if r.sat then (f.signed n f.maxMag, NX) else (f.nan, NV))
    else if r.sat && f.eb != 11 then (f.signed n f.maxMag, NX)
    else (f.signed n f.infMag, 0)
  | .fin n m e => roundFin f r n m e

/-- R175–R177. Round a value into the format of a code: a pattern and flags. -/
def roundTo (f : Nat) (r : Rnd) (x : FV) : Nat × Flags :=
  if isIntFmt f then toInt f r x else if f = 16 then toE8M0 r x else toFloat (ffmt f) r x

/-- R175, R317. An infinity of format `sf` stays one in format `df` whatever `sat` is: `df` has infinities and is not narrower. -/
def keepsInf (sf df : Nat) : Bool := decide (fmtWidth sf ≤ fmtWidth df) && df != 16 && decide ((ffmt df).kind ≤ 1)

/-- R325, R301. Convert a pattern of format `sf` to format `df`: equal formats copy but for NaN; integers narrow by
R169; everything else is rounded once. -/
def convert (sf df : Nat) (r : Rnd) (b : Nat) : Nat × Flags :=
  if sf = df then
    if isIntFmt sf then (b, 0)
    else
      match decodeFmt sf b with
      | .nan s => (if sf = 16 then 0xFF else (ffmt sf).nan, sigFlag s)
      | _ => (b, 0)
  else if isIntFmt sf && isIntFmt df then (narrowInt df r.sat (intOf sf b), 0)
  else
    let x := decodeFmt sf b
    roundTo df (if x.isInf && keepsInf sf df then { r with sat := false } else r) x

/-! ### FP32 steps (RNE), used wherever a rule writes RNE(...) over FP32 -/

def F32 : FFmt := ⟨8, 23, 0⟩
def F64 : FFmt := ⟨11, 52, 0⟩
/-- The pattern 1.0. -/
def one32 : Nat := 0x3F800000
def fadd32 (a b : Nat) : Nat × Flags := finish F32 Rnd.rne (addFV false (F32.decode a) (F32.decode b))
def fsub32 (a b : Nat) : Nat × Flags := finish F32 Rnd.rne (addFV false (F32.decode a) (F32.decode b).flip)
def fmul32 (a b : Nat) : Nat × Flags := finish F32 Rnd.rne (mulFV (F32.decode a) (F32.decode b))
def fdiv32 (a b : Nat) : Nat × Flags := finish F32 Rnd.rne (divFV (F32.decode a) (F32.decode b))
def fma32 (a b c : Nat) : Nat × Flags := finish F32 Rnd.rne (fmaFV false (F32.decode a) (F32.decode b) (F32.decode c))
def abs32 (a : Nat) : Nat := a % 2 ^ 31
def neg32 (a : Nat) : Nat := if a < 2 ^ 31 then a + 2 ^ 31 else a - 2 ^ 31
def isInf32 (a : Nat) : Bool := (F32.decode a).isInf
def isNan32 (a : Nat) : Bool := (F32.decode a).isNan
def lt32 (a b : Nat) : Bool := (relFV 2 (F32.decode a) (F32.decode b)).1
def eq32 (a b : Nat) : Bool := (relFV 0 (F32.decode a) (F32.decode b)).1

/-! ### Base-two exponential and logarithm (R321, log 16) -/

/-- Fraction bits of the fixed-point evaluation. -/
def fixBits : Nat := 320
/-- ln 2 and 1/ln 2 in units of 2^−320. -/
def ln2Fix : Nat := 0xb17217f7d1cf79abc9e3b39803f2f6af40f343267298b62d8a0d175b8baafa2be7b876206debac98
def rln2Fix : Nat := 0x171547652b82fe1777d0ffda0d23a7d11d6aef551bad2b4b1164a2cd9a342648fbc3887eeaa2ed9ac

/-- Σ t^k / k! in fixed point, from the term `k` with value `t`. -/
def expSum (x : Nat) : Nat → Nat → Nat → Nat → Nat
  | 0, _, _, acc => acc
  | n + 1, k, t, acc =>
    let t' := t * x / 2 ^ fixBits / (k + 1)
    expSum x n (k + 1) t' (acc + t')

/-- 2^x for a finite x that is no integer: a 320-bit fixed-point significand with a sticky bit; its rounding is the
rounding of the irrational 2^x (log 16). -/
def exp2Fin (n : Bool) (m : Nat) (e : Int) : FV :=
  -- x = ip + f / 2^320, f truncated exactly since every fraction bit of an FP32 value is above 2^−320
  let v : Int := if e + (fixBits : Int) < 0 then 0 else ((m * 2 ^ (e + (fixBits : Int)).toNat : Nat) : Int)
  let x : Int := if n then -v else v
  let ip := x / ((2 ^ fixBits : Nat) : Int)
  let f := (x % ((2 ^ fixBits : Nat) : Int)).toNat
  let one := 2 ^ fixBits
  if f = 0 then .fin false 1 ip
  else
    let s := expSum (f * ln2Fix / one) 100 0 one one
    .fin false (2 * s + 1) (ip - (fixBits : Int) - 1)

/-- R321. VEXP2. -/
def exp2FV (a : FV) : FV × Flags :=
  match a with
  | .nan s => (.nan false, sigFlag s)
  | .inf n => if n then (.fin false 0 0, 0) else (.inf false, 0)
  | .fin n m e =>
    if m = 0 then (.fin false 1 0, 0)
    -- beyond ±2^10 the result is far outside FP32's range whatever its exact value
    else if 10 < (Nat.log2 m : Int) + e then (.fin false 3 (if n then -1100 else 1100), 0)
    else (exp2Fin n m e, 0)

/-- Σ z^(2k+1)/(2k+1) in fixed point. -/
def atanhSum (z2 : Nat) : Nat → Nat → Nat → Nat → Nat
  | 0, _, _, acc => acc
  | n + 1, k, p, acc =>
    let p' := p * z2 / 2 ^ fixBits
    atanhSum z2 n (k + 2) p' (acc + p' / (k + 2))

/-- log2 of a positive finite value. -/
def log2Fin (m : Nat) (e : Int) : FV :=
  let l := Nat.log2 m
  let ip : Int := (l : Int) + e
  if m = 2 ^ l then .fin (decide (ip < 0)) ip.natAbs 0
  else
    -- m / 2^l in (1, 2): ln = 2 atanh((m − 2^l)/(m + 2^l))
    let z := (m - 2 ^ l) * 2 ^ fixBits / (m + 2 ^ l)
    let ln := 2 * atanhSum (z * z / 2 ^ fixBits) 110 1 z z
    let lg : Int := ((ln * rln2Fix / 2 ^ fixBits : Nat) : Int)
    let t := ip * ((2 ^ fixBits : Nat) : Int) + lg
    .fin (decide (t < 0)) (2 * t.natAbs + 1) (-(fixBits : Int) - 1)

/-- R321. VLOG2. -/
def log2FV (a : FV) : FV × Flags :=
  match a with
  | .nan s => (.nan false, sigFlag s)
  | .inf n => if n then (.nan false, NV) else (.inf false, 0)
  | .fin n m e => if m = 0 then (.inf true, DZ) else if n then (.nan false, NV) else (log2Fin m e, 0)

end Sys2Proof.Machine
end

