-- ==== Sys2Proof/Machine/Coded.lean ====
section
/-! DEFINITION. Uncorrectable errors and their classification (R17, R252, R253), and coded FP64 regions: the region
table (R194, R195), the block codec (R199–R203), residency, writeback and counters (R204–R213). -/

namespace Sys2Proof.Machine

/-! ### Uncorrectable and absent ranges (R17, R252, R253) -/

/-- The first address of `[a, a + n)` that is absent or uncorrectable (R17, R252), by its first byte in its sector. -/
def badAddr (s : State) (a n : Nat) : Option Nat :=
  if n = 0 then none
  else
    (((List.range ((a + n - 1) / 16 - a / 16 + 1)).map fun i => if i = 0 then a else (a / 16 + i) * 16).filter fun x =>
      !present s x || decide (mget none s.poison (x / 16) ≠ none)).head?

/-! ### The region table (R194–R196) -/

def regionOf (s : State) (i : Nat) : Region := mget Region.none s.region i

/-- R196. Bits per value. -/
def budgetBits (bc : Nat) : Nat :=
  match bc with
  | 0 => 8 | 1 => 12 | 2 => 16 | 3 => 20 | 4 => 24 | 5 => 28 | 6 => 32 | 7 => 40 | 8 => 48 | _ => 64

/-- Backing bytes of one block: 2B. -/
def Region.blockBytes (r : Region) : Nat := 2 * budgetBits r.bc.toNat

/-- R195. The entry is in force. -/
def inForce (s : State) (i : Nat) : Bool :=
  let r := regionOf s i
  let lb := r.lbase.toNat
  let ln := r.len.toNat
  let pb := r.pbase.toNat
  let size := ln / 128 * r.blockBytes
  r.v && decide (r.bc.toNat ≤ 9) && decide (lb % 4096 = 0) && decide (ln % 4096 = 0) && decide (0 < ln)
    && decide (place lb = .coded) && decide (lb + ln ≤ 0x80000000000) && decide (pb % 16 = 0)
    && (match place pb with
        | .hbm k => s.maps.stack.getLsbD k && decide (place (pb + size - 1) = .hbm k)
        | .cxl p => s.maps.cxl.getLsbD p && decide (place (pb + size - 1) = .cxl p)
        | _ => false)
    && (List.range 64).all fun j =>
        let q := regionOf s j
        j == i || !q.v || q.len == 0 || decide (lb + ln ≤ q.lbase.toNat) || decide (q.lbase.toNat + q.len.toNat ≤ lb)

/-- R193. The entry in force that holds a coded-view address, and its block number. -/
def blockAt (s : State) (a : Nat) : Option (Nat × Nat) :=
  ((List.range 64).find? fun i =>
    let r := regionOf s i
    decide (r.lbase.toNat ≤ a) && decide (a < r.lbase.toNat + r.len.toNat) && inForce s i).map
      fun i => (i, (a - (regionOf s i).lbase.toNat) / 128)

/-- R197. First backing byte of block k. -/
def backAddr (s : State) (i k : Nat) : Nat := (regionOf s i).pbase.toNat + (regionOf s i).blockBytes * k

/-- First logical line (address / 64) of block k. -/
def codedLine (s : State) (i k : Nat) : Nat := (regionOf s i).lbase.toNat / 64 + 2 * k

/-- R198. Home slice of block k. -/
def codedHome (s : State) (i k : Nat) : Nat :=
  ownerDie (regionOf s i).pbase.toNat * 6 + ((regionOf s i).lbase.toNat / 128 + k) % 6

/-- R198. The bound of a core's coded-view access: the backing's entry plus 1,024. -/
def codedBound (s : State) (g a : Nat) : Nat :=
  match blockAt s a with
  | some (i, _) => globalBound g (regionOf s i).pbase.toNat + 1024
  | none => 1024

/-! ### The codec (R199–R203) -/

/-- R199. Width of coefficient n. -/
def coefW (b n : Nat) : Nat := if n < 2 then b + 3 else if n < 4 then b + 1 else if n < 8 then b - 1 else b - 2

/-- One forward level: averages and details. -/
def lift1 : List Int → List Int × List Int
  | x :: y :: r =>
    let d := x - y
    let p := lift1 r
    ((y + d / 2) :: p.1, d :: p.2)
  | _ => ([], [])

/-- One inverse level. -/
def unlift1 : List Int → List Int → List Int
  | a :: as, d :: ds =>
    let y := a - d / 2
    (d + y) :: y :: unlift1 as ds
  | _, _ => []

/-- RNE of x / 2^k. -/
def rneShift (x : Int) (k : Nat) : Int := (roundInt Rnd.rne (decide (x < 0)) x.natAbs (-(k : Int))).1

/-- R200. The 16 coefficients of 16 integers. -/
def coeffs (x : List Int) : List Int :=
  let l1 := lift1 x
  let l2 := lift1 l1.1
  let l3 := lift1 l2.1
  let l4 := lift1 l3.1
  l4.1 ++ l4.2 ++ l3.2 ++ l2.2 ++ l1.2

/-- R201. The inverse. -/
def uncoeffs (c : List Int) : List Int :=
  let x3 := unlift1 (c.take 1) ((c.drop 1).take 1)
  let x2 := unlift1 x3 ((c.drop 2).take 2)
  let x1 := unlift1 x2 ((c.drop 4).take 4)
  unlift1 x1 ((c.drop 8).take 8)

/-- Bit positions of the coefficients: the sum of the widths below n, from bit 12. -/
def coefPos (b n : Nat) : Nat := 12 + ((List.range n).map (coefW b)).foldl (fun x y => x + y) 0

def f64 (v : Word64) : FV := F64.decode v.toNat
def isFinite64 (v : Word64) : Bool := !(f64 v).isNan && !(f64 v).isInf

/-- R200. EMAX, the quantised coefficients and the clamps of a block of finite values. -/
def quantise (b : Nat) (vals : List Word64) : Nat × List Int × Nat :=
  let emax := vals.foldl (fun m v => Nat.max m (natBits v.toNat 62 52)) 0
  let e := Nat.max emax 1
  let xs := vals.map fun v => match f64 v with
    | .fin n m q => (roundInt Rnd.rne n m (q + 1082 - (e : Int))).1
    | _ => 0
  let qs := (coeffs xs).mapIdx fun n c =>
    let w := coefW b n
    let q := rneShift c (62 - w)
    let lo := -((2 ^ (w - 1) : Nat) : Int)
    let hi := ((2 ^ (w - 1) : Nat) : Int) - 1
    if q < lo then (lo, 1) else if hi < q then (hi, 1) else (q, 0)
  (emax, qs.map Prod.fst, (qs.map Prod.snd).foldl (fun a b => a + b) 0)

/-- R199, R202, R203. The 2B backing bytes of a block, and its clamps. -/
def encodeBlock (b : Nat) (vals : List Word64) : List Byte × Nat :=
  if b = 64 then (vals.flatMap fun v => natToBytes 8 v.toNat, 0)
  else if vals.all isFinite64 then
    let (emax, qs, clips) := quantise b vals
    let bits := emax + (qs.mapIdx fun n q => wrapInt (coefW b n) q * 2 ^ coefPos b n).foldl (fun a b => a + b) 0
    (natToBytes (2 * b) bits, clips)
  else
    let cls := fun v => match f64 v with
      | .nan _ => 3
      | .inf n => if n then 2 else 1
      | .fin _ _ _ => 0
    (natToBytes (2 * b) (2 ^ 11 + (vals.mapIdx fun i v => cls v * 2 ^ (12 + 2 * i)).foldl (fun a b => a + b) 0), 0)

/-- R201. One decoded value: clamped to the largest finite, a zero positive. -/
def decodeVal (x e : Int) : Word64 :=
  if x = 0 then 0
  else
    let y := roundFin F64 ⟨0, true, 0⟩ (decide (x < 0)) x.natAbs (e - 1082)
    BitVec.ofNat 64 (if y.1 % 2 ^ 63 = 0 then 0 else y.1)

/-- R201. The values of an EMAX and quantised coefficients. -/
def dequantise (b emax : Nat) (qs : List Int) : List Word64 :=
  let cs := qs.mapIdx fun n q => q * ((2 ^ (62 - coefW b n) : Nat) : Int)
  (uncoeffs cs).map fun x => decodeVal x (Nat.max emax 1 : Nat)

/-- R201–R203. Decode 2B backing bytes; none for a malformed block. -/
def decodeBlock (b : Nat) (bs : List Byte) : Option (List Word64) :=
  let x := bytesToNat bs
  if b = 64 then some ((List.range 16).map fun i => BitVec.ofNat 64 (x / 2 ^ (64 * i)))
  else
    let emax := x % 2048
    if x / 2048 % 2 = 1 then
      some ((List.range 16).map fun i =>
        match x / 2 ^ (12 + 2 * i) % 4 with
        | 1 => 0x7FF0000000000000#64
        | 2 => 0xFFF0000000000000#64
        | 3 => 0x7FF8000000000000#64
        | _ => 0)
    else if emax = 2047 then none
    else some (dequantise b emax ((List.range 16).map fun n => sint (coefW b n) (x / 2 ^ coefPos b n)))

/-! ### Residency (R204–R208) -/

/-- Why an access to storage fails (R17, R201, R252). -/
inductive AccErr where
  | memerr (addr : Nat)
  | coded (addr : Nat)
  deriving DecidableEq, Repr

def findBlock (s : State) (i k : Nat) : Option CodedBlock :=
  s.coded.find? fun b => decide (b.entry = i) && decide (b.k = k)
/-- Put a resident block in place of its old form. -/
def putBlock (b : CodedBlock) (s : State) : State :=
  { s with coded := (s.coded.filter fun x => !(decide (x.entry = b.entry) && decide (x.k = b.k))) ++ [b] }
/-- R204. Discard a block and its two lines. -/
def dropBlock (i k : Nat) (s : State) : State :=
  let die := ownerDie (regionOf s i).pbase.toNat
  l2Drop die (codedLine s i k + 1) (l2Drop die (codedLine s i k)
    { s with coded := s.coded.filter fun x => !(decide (x.entry = i) && decide (x.k = k)) })

/-- The bits of the sectors that `n` bytes from offset `o` of a block cover. -/
def sectorBits (o n : Nat) : Byte :=
  (List.range 8).foldl (fun m i => if 16 * i < o + n ∧ o < 16 * i + 16 then m ||| (1#8 <<< i) else m) 0

/-- R130, R204. An event at a block's two lines: those it covers, or both when it installs the block. -/
def touchBlock (i k : Nat) (install : Bool) (read dirty : Byte) (s : State) : State :=
  let die := ownerDie (regionOf s i).pbase.toNat
  let ln := codedLine s i k
  let line := fun (j : Nat) (s : State) =>
    let d := (dirty >>> (4 * j)).setWidth 4
    let r := (read >>> (4 * j)).setWidth 4
    let s := if install then l2Line 0 false die (ln + j) 0xF s else if r ≠ 0 then l2Line 0 false die (ln + j) r s else s
    if d ≠ 0 then l2Line 0 true die (ln + j) d s else s
  nextAccess (line 1 (line 0 s))

/-- R205, R213. The block, fetched and decoded if it is not resident, and whether it was fetched; an uncorrectable fetch or
a malformed block leaves it non-resident. -/
def fetchBlock (i k la : Nat) (s : State) : Except (AccErr × State) (CodedBlock × Bool × State) :=
  match findBlock s i k with
  | some b => .ok (b, false, s)
  | none =>
    let r := regionOf s i
    let a := backAddr s i k
    match badAddr s a r.blockBytes with
    | some bad => .error (.memerr bad, classify bad s)
    | none =>
      let s := l2Touch 0 false a r.blockBytes s
      match decodeBlock (budgetBits r.bc.toNat) (s.mem.readBytes a r.blockBytes) with
      | none => .error (.coded la, s)
      | some vs => .ok (⟨i, k, vs, 0⟩, true, s)

/-- The 128 logical bytes of a block. -/
def CodedBlock.bytes (b : CodedBlock) : List Byte := b.vals.flatMap fun v => natToBytes 8 v.toNat
/-- The doubles of 128 logical bytes. -/
def valsOf (bs : List Byte) : List Word64 :=
  (List.range 16).map fun i => BitVec.ofNat 64 (bytesToNat ((bs.drop (8 * i)).take 8))

/-- The 128 logical bytes a block holds, resident or not, where they can be had without an error. -/
def peekBlock (i k : Nat) (s : State) : Option (List Byte) :=
  match findBlock s i k with
  | some b => some b.bytes
  | none =>
    let r := regionOf s i
    let a := backAddr s i k
    if (badAddr s a r.blockBytes).isSome then none
    else (decodeBlock (budgetBits r.bc.toNat) (s.mem.readBytes a r.blockBytes)).map fun vs => (⟨i, k, vs, 0⟩ : CodedBlock).bytes

/-- R193, R207. The block of a coded-view address, when an access to it can be served: the address lies in a region in force
that is not being flushed. -/
def codedEntry (a : Nat) (s : State) : Except (AccErr × State) (Nat × Nat) :=
  match blockAt s a with
  | none => .error (.memerr a, classify a s)
  | some (i, k) => if (regionOf s i).fbusy ≠ none then .error (.coded a, s) else .ok (i, k)

/-- R208. One read event: the whole block that holds `a`; `n` bytes of it from `a` on are the access's. -/
def codedBlockRead (a n : Nat) (s : State) : Except (AccErr × State) (List Byte × State) :=
  match codedEntry a s with
  | .error e => .error e
  | .ok (i, k) =>
    match fetchBlock i k a s with
    | .error e => .error e
    | .ok (b, fetched, s) =>
      .ok (b.bytes, touchBlock i k fetched (sectorBits (a % 128) n) 0 (if fetched then putBlock b s else s))

/-- R208. Read `n` bytes inside one block. -/
def codedRead (a n : Nat) (s : State) : Except (AccErr × State) (List Byte × State) :=
  match codedBlockRead a n s with
  | .error e => .error e
  | .ok (bs, s) => .ok ((bs.drop (a % 128)).take n, s)

/-- The bytes of a block after some runs of bytes, at coded-view addresses inside it, are merged into it. -/
def mergeRuns (old : List Byte) (ws : List (Nat × List Byte)) : List Byte :=
  ws.foldl (fun v w => v.take (w.1 % 128) ++ w.2 ++ v.drop (w.1 % 128 + w.2.length)) old

/-- R205. Runs of bytes inside one block cover all of it. -/
def coversBlock (ws : List (Nat × List Byte)) : Bool :=
  (List.range 128).all fun i => ws.any fun w => decide (w.1 % 128 ≤ i) && decide (i < w.1 % 128 + w.2.length)

/-- R205, R208. One write event: runs of bytes inside one block are merged into its decoded doubles; runs that cover it need
no fetch. `own`: a store of the current core, whose engines may still read what the block held (R156). -/
def codedWrites (own : Bool) (ws : List (Nat × List Byte)) (s : State) : Except (AccErr × State) State :=
  let a := (ws.map Prod.fst).headD 0
  match codedEntry a s with
  | .error e => .error e
  | .ok (i, k) =>
    let g := a / 128 * 128
    let d := ws.foldl (fun m w => m ||| sectorBits (w.1 % 128) w.2.length) 0
    let note := fun (old : Option (List Byte)) (s : State) =>
      match own, old with
      | true, some v => noteStore none g v (((findBlock s i k).map CodedBlock.dirty).getD 0) ws s
      | _, _ => freshen g 128 s
    if coversBlock ws then
      let s1 := note (peekBlock i k s) s
      .ok (touchBlock i k true 0 d (putBlock ⟨i, k, valsOf (mergeRuns (List.replicate 128 0) ws), 0xFF⟩ s1))
    else
      match fetchBlock i k a s with
      | .error e => .error e
      | .ok (b, fetched, s) =>
        let s1 := note (some b.bytes) s
        .ok (touchBlock i k fetched 0 d
          (putBlock { b with vals := valsOf (mergeRuns b.bytes ws), dirty := b.dirty ||| d } s1))

/-- R208. One write event of one run of bytes by an agent that is no core's issue stream. -/
def codedWrite (a : Nat) (bs : List Byte) (s : State) : Except (AccErr × State) State := codedWrites false [(a, bs)] s

/-- R17, R193, R252. A read inside one 128-byte block of this module's storage, where it would succeed: nothing changes. -/
def peek1 (s : State) (a n : Nat) : Option (List Byte) :=
  if place a = .coded then
    match codedEntry a s with
    | .error _ => none
    | .ok (i, k) => (peekBlock i k s).map fun b => (b.drop (a % 128)).take n
  else if (badAddr s a n).isSome then none
  else some (s.mem.readBytes a n)

/-! ### Writeback and counters (R205, R211–R213) -/

def ctrOf (s : State) (sl i : Nat) : CodedCtr := mget ⟨0, 0, 0, 0⟩ s.cctrs (sl * 64 + i)
/-- Saturating 64-bit addition. -/
def satAdd (a : Word64) (n : Nat) : Word64 := if 2 ^ 64 ≤ a.toNat + n then BitVec.allOnes 64 else a + BitVec.ofNat 64 n
/-- R212. ERRSQ grows by one squared difference, both steps RNE. -/
def addErr (e : Word64) (x : FV) : Word64 :=
  let sq := (finish F64 Rnd.rne (mulFV x x)).1
  BitVec.ofNat 64 (finish F64 Rnd.rne (addFV false (f64 e) (F64.decode sq))).1

/-- R212. The counters after one encode. -/
def countEncode (b : Nat) (vals : List Word64) (c : CodedCtr) : CodedCtr :=
  let fin := vals.all isFinite64
  let c1 := { c with blks := satAdd c.blks 1, nonf := if fin then c.nonf else satAdd c.nonf 1 }
  if b = 64 then c1
  else if fin then
    let (emax, qs, clips) := quantise b vals
    let back := dequantise b emax qs
    { c1 with
      clip := satAdd c1.clip clips
      errsq := (List.zip vals back).foldl (fun e p => addErr e (addFV false (f64 p.1) (f64 p.2).flip).1) c1.errsq }
  else { c1 with errsq := (vals.filter isFinite64).foldl (fun e v => addErr e (f64 v)) c1.errsq }

/-- R253. The uncorrectable sectors of a range whose errors are transient pass their retry. -/
def retryAll (a n : Nat) (s : State) : State :=
  (List.range ((a + n + 15) / 16 - a / 16)).foldl (fun s i =>
    match mget none s.poison (a / 16 + i) with
    | some p => if p.lasting then s else classify ((a / 16 + i) * 16) s
    | none => s) s

/-- R205, R212, R213. Encode a block and write its backing bytes; the block stays resident, and clean. `none`: the backing
write failed and its retry too (`fails`: without a lasting error of the location), the block stays dirty and its unit is
logged as lasting. -/
def writeBack (b : CodedBlock) (fails : Bool) (s : State) : State × Bool :=
  let r := regionOf s b.entry
  let bits := budgetBits r.bc.toNat
  let a := backAddr s b.entry b.k
  let s := retryAll a r.blockBytes s
  if fails || (badAddr s a r.blockBytes).isSome then
    (match unitOf false a with
     | some (u, info, die) => (faultLog 5 die 0x1FF 0 0 0xFFFF 0 info a (if present s a then fenceUnit u s else s), false)
     | none => (s, false))
  else
    let sl := codedHome s b.entry b.k
    let key := sl * 64 + b.entry
    let s1 := memWrite 0 a (encodeBlock bits b.vals).1 (freshen (64 * codedLine s b.entry b.k) 128 s)
    let clean := fun (j : Nat) (s : State) =>
      let ln := codedLine s b.entry b.k + j
      let key := l2Key (ownerDie a) ln
      let x := mget L2Set.empty s.l2 key
      match x.find ln with
      | none => s
      | some (w, l) => { s with l2 := mset L2Set.empty s.l2 key { x with ways := mset none x.ways w (some { l with dirty := 0 }) } }
    (clean 1 (clean 0 (putBlock { b with dirty := 0 }
      { s1 with cctrs := mset ⟨0, 0, 0, 0⟩ s1.cctrs key (countEncode bits b.vals (ctrOf s1 sl b.entry)) })), true)

/-- R421. The stores into the block at `g` that a CFLUSH of the current core may leave for a later writeback: those of its core that
no FENCE.cp has ordered, and those of other cores; the oldest first. -/
def leavable (g : Nat) (s : State) : List Ver :=
  (mget [] s.vers (g / 16)).filter fun v => if v.core = s.coreNo then
      v.bte && !(decide (v.cyc + 1 < s.core.fenceCp) && decide (s.core.fenceCp ≤ s.cyc))
    else true

/-- R421. Stores that were left come upon a block that holds `vals`: what it then holds, with the contents each of them found. -/
def reapply : List Ver → List Byte → Byte → List Ver × List Byte × Byte
  | [], x, d => ([], x, d)
  | v :: vs, x, d =>
    let y := mergeRuns x v.runs
    let r := reapply vs y (v.runs.foldl (fun m w => m ||| sectorBits (w.1 % 128) w.2.length) d)
    ({ v with val := x, dirty := d } :: r.1, r.2)

/-- R205. A block is written back if it is dirty, then kept clean or discarded. The Bool: no write-back failed. -/
def flushAs (inv : Bool) (b : CodedBlock) (s : State) : State × Bool :=
  if b.dirty ≠ 0 then
    let r := writeBack b false s
    if r.2 then (if inv then dropBlock b.entry b.k r.1 else r.1, true) else (r.1, false)
  else (if inv then dropBlock b.entry b.k s else s, true)

/-- R207, R421. One block under FLUSH, or (`choose`) under CFLUSH, which takes it as it was before some of the stores that it may
leave: these come upon the block afterwards. The Bool: no write-back failed. -/
def flushBlock (choose inv : Bool) (i k : Nat) (s : State) : State × Bool :=
  match findBlock s i k with
  | none => (s, true)
  | some b =>
    let g := 64 * codedLine s i k
    let cand := if choose then leavable g s else []
    let left := cand.drop (freeBelow s 0 (cand.length + 1))
    match left with
    | [] => flushAs inv b (if cand = [] then s else spend 1 s)
    | v :: _ =>
      let r := flushAs inv { b with vals := valsOf v.val, dirty := v.dirty } (spend 1 s)
      if !r.2 then (putBlock b r.1, false)
      else
        match (if inv then fetchBlock i k g r.1 else .ok ({ b with vals := valsOf v.val, dirty := 0 }, false, r.1)) with
        | .error (_, s1) => (s1, true)
        | .ok (b1, fetched, s1) =>
          let x := reapply left b1.bytes 0
          let s2 := touchBlock i k fetched 0 x.2.2 (putBlock { b1 with vals := valsOf x.2.1, dirty := x.2.2 } s1)
          ({ s2 with vers := mset [] s2.vers (g / 16) x.1 }, true)

/-- R207. Several blocks in turn. -/
def flushBlocks (choose inv : Bool) (l : List (Nat × Nat)) (s : State) : State × Bool :=
  l.foldl (fun p ik => let q := flushBlock choose inv ik.1 ik.2 p.1; (q.1, p.2 && q.2)) (s, true)

/-- R204, R205. A block leaves L2: written back if it is dirty, and discarded; where that fails it stays, dirty. -/
def evictBlock (b : CodedBlock) (fails : Bool) (s : State) : State :=
  if b.dirty ≠ 0 then
    let r := writeBack b fails s
    if r.2 then dropBlock b.entry b.k r.1 else touchBlock b.entry b.k true 0 b.dirty r.1
  else dropBlock b.entry b.k s

/-! ### Accesses of devices: walkers, ports, the pool, the Syarri, engines (R14, R135, R144, R193) -/

/-- R17, R252. A read inside one 128-byte block of this module's storage. -/
def devRead1 (pol a n : Nat) (s : State) : Except (AccErr × State) (List Byte × State) :=
  if place a = .coded then codedRead a n s
  else
    match badAddr s a n with
    | some b => .error (.memerr b, classify b s)
    | none => .ok (s.mem.readBytes a n, l2Touch pol false a n s)

/-- R17, R252. A write inside one block of the coded view, or of one place. -/
def devWrite1 (pol a : Nat) (bs : List Byte) (s : State) : Except (AccErr × State) State :=
  if place a = .coded then codedWrite a bs s
  else
    match badAddr s a bs.length with
    | some b => .error (.memerr b, classify b s)
    | none => .ok (memWrite pol a bs s)

/-- Cut a range at multiples of 128 bytes. -/
def pieces128Aux : Nat → Nat → Nat → List (Nat × Nat)
  | 0, _, _ => []
  | f + 1, a, n =>
    if n = 0 then []
    else
      let k := Nat.min n (128 - a % 128)
      (a, k) :: pieces128Aux f (a + k) (n - k)
def pieces128 (a n : Nat) : List (Nat × Nat) := pieces128Aux (n / 128 + 2) a n

/-- Read pieces in order; the first error stops. -/
def devReads (pol : Nat) : List (Nat × Nat) → State → Except (AccErr × State) (List Byte × State)
  | [], s => .ok ([], s)
  | p :: ps, s =>
    match devRead1 pol p.1 p.2 s with
    | .error e => .error e
    | .ok (b, s1) =>
      match devReads pol ps s1 with
      | .error e => .error e
      | .ok (bs, s2) => .ok (b ++ bs, s2)

/-- R17, R135, R193. A device's read of `n` bytes of the local physical space. -/
def devRead (pol a n : Nat) (s : State) : Except (AccErr × State) (List Byte × State) := devReads pol (pieces128 a n) s

end Sys2Proof.Machine
end

