-- ==== Sys2Proof/Machine/Fabric.lean ====
section
/-! DEFINITION. The link timetable in force (R43–R47), remote paths and their bounds (R34, R47), and the latency table
(R104). -/

namespace Sys2Proof.Machine

/-- R43. Fields of a link timetable entry. -/
def ltSlot (e : BitVec 128) : Nat := natBits e.toNat 14 0
def ltV (e : BitVec 128) : Bool := e.getLsbD 15
def ltPort (e : BitVec 128) : Nat := natBits e.toNat 20 16
def ltKind (e : BitVec 128) : Nat := natBits e.toNat 23 21
/-- Flits reserved (1–32). -/
def ltFlits (e : BitVec 128) : Nat := natBits e.toNat 28 24 + 1
def ltSrc (e : BitVec 128) : Nat := natBits e.toNat 40 32
def ltDst (e : BitVec 128) : Nat := natBits e.toNat 59 48
def ltGroup (e : BitVec 128) : Nat := natBits e.toNat 73 64
def ltInport (e : BitVec 128) : Nat := natBits e.toNat 84 80
def ltInslot (e : BitVec 128) : Nat := natBits e.toNat 99 85
def ltRpslot (e : BitVec 128) : Nat := natBits e.toNat 114 100
def ltRpv (e : BitVec 128) : Bool := e.getLsbD 115

/-- Entry kinds (R43). -/
def kSend : Nat := 1
def kCopy : Nat := 2
def kColl : Nat := 3
def kFwd : Nat := 4
def kServ : Nat := 5
def kSig : Nat := 6
def kReplay : Nat := 7

/-- R40. The absolute slot of a cycle. -/
def slotOfCyc (c : Nat) : Nat := c / 88
/-- R46. The visibility cycle of slot `n`. -/
def visCyc (n : Nat) : Nat := 88 * (n + 1) + 24

/-- R44. The slot index of absolute slot `n` under a timetable. -/
def ltIndex (t : LinkTable) (n : Nat) : Nat := (n - t.slotA) % t.period

/-- The entries with V = 1. -/
def LinkTable.live (t : LinkTable) : List (BitVec 128) := t.entries.filter ltV

/-- R44, R425. The timetables armed, in the order of their slots, each with the slot it ends at where that is known: the one
in force ends at the stop it has been given or where the next one begins. -/
def armedTables (s : State) : List (LinkTable × Option Nat) :=
  let ends := fun (l : List LinkTable) => l.zip ((l.drop 1).map (fun t => some t.slotA) ++ [none])
  match s.fab.table with
  | none => ends s.fab.pending
  | some t =>
    let e := match s.fab.stopAt, s.fab.pending with
      | some n, [] => some n
      | some n, q :: _ => some (Nat.min n q.slotA)
      | none, [] => none
      | none, q :: _ => some q.slotA
    (t, e) :: ends s.fab.pending

/-- R44. The first slot from `m` that uses entry `e`. -/
def nextUse (t : LinkTable) (m : Nat) (e : BitVec 128) : Nat := m + (ltSlot e + t.period - ltIndex t m) % t.period

/-- R45, R422. The timetable that holds the first slot from `n` of one of the entries `fits` takes from it (log 50). -/
def firstTable (s : State) (n : Nat) (fits : LinkTable → List (BitVec 128)) : Option LinkTable :=
  ((armedTables s).find? fun x => (fits x.1).any fun e =>
    match x.2 with
    | none => true
    | some k => decide (nextUse x.1 (Nat.max n x.1.slotA) e < k)).map Prod.fst

/-- R47. The timetable the latency table shows: the one in force, or with none in force the one armed first (log 50). -/
def tableFor (s : State) : Option LinkTable :=
  match s.fab.table with
  | some t => some t
  | none => s.fab.pending.head?

/-- R32, R33. The dimension of a hypercube port. -/
def portDim (p : Nat) : Nat := p / 2

/-- R31. The die that carries port `p`. -/
def portDie (p : Nat) : Nat := let q := p / 4; if q < 4 then q else q + 1

/-- R47. The slot indices of the SERV entries of a port, ascending. An entry whose SLOT is at or above P, which no slot uses and no
check refuses, counts here, which the specification does not say (log 133). -/
def servSlots (t : LinkTable) (p : Nat) : List Nat :=
  (t.live.filter fun e => decide (ltKind e = kServ) && decide (ltPort e = p)).map ltSlot

/-- R47. The largest number of slots between successive SERV entries around the period; 0 for a port with none. -/
def servGap (t : LinkTable) (p : Nat) : Nat :=
  match servSlots t p with
  | [] => 0
  | x :: xs =>
    let r := xs.foldl (fun (a : Nat × Nat) y => (Nat.max a.1 (y - a.2), y)) (0, x)
    Nat.max r.1 (t.period - r.2 + x)

/-- R47, R104. W over some ports, those that are present: 0 when none carries a SERV entry. -/
def servW (s : State) (t : LinkTable) (ps : List Nat) : Nat :=
  (ps.filter fun p => s.maps.port.getLsbD p).foldl (fun m p => Nat.max m (servGap t p)) 0

/-- The two ports of a dimension. -/
def dimPorts (k : Nat) : List Nat := [2 * k, 2 * k + 1]

/-- R33. The ring ports. -/
def ringPorts : List Nat := [24, 25, 26, 27, 28, 29, 30, 31]

/-- R47, R104. The entry of one remote hop, for the armed timetable (log 50). -/
def hopBound (s : State) (ps : List Nat) : Nat :=
  match tableFor s with
  | none => 0
  | some t => let w := servW s t ps; if w = 0 then 0 else 2 * (88 * (w + 1) + 24)

/-- R32, R33. One hop of a remote path: a dimension 0–11, 12 toward the ring's successor, 13 toward its predecessor. -/
abbrev Hop := Nat

/-- The ports of a hop. -/
def hopPorts (h : Hop) : List Nat :=
  if h < 12 then dimPorts h else if h = 12 then [24, 25, 26, 27] else [28, 29, 30, 31]

/-- R47. Some port of the hop carries SERV entries. -/
def hopServed (s : State) (h : Hop) : Bool := decide (hopBound s (hopPorts h) ≠ 0)

/-- R47, R104. The latency-table entry of a hop: the ring's covers all its ports. -/
def hopEntry (s : State) (h : Hop) : Nat := hopBound s (if h < 12 then dimPorts h else ringPorts)

/-- The dimensions in which two module ids differ. -/
def diffDims (a b : Nat) : List Nat := (List.range 12).filter fun k => a / 2 ^ k % 2 ≠ b / 2 ^ k % 2

/-- R33, R34, R47. The hops of a remote access to module `m`: the dimensions in which the ids differ, where SERV entries
serve them all; else the ring, the shorter way round first (log 100). None when no such path reaches it. -/
def remotePath (s : State) (m : Nat) : Option (List Hop) :=
  let me := s.fab.id.toNat
  let n := 2 ^ s.fab.d.toNat
  let ds := diffDims me m
  let up := (m + n - me) % n
  let ring := fun (h k : Nat) => if 2 < n ∧ hopServed s h then some (List.replicate k h) else none
  if n ≤ m ∨ ds = [] then none
  else if ds.all (hopServed s) then some ds
  else if up ≤ n - up then (ring 12 up).or (ring 13 (n - up))
  else (ring 13 (n - up)).or (ring 12 up)

/-- R47. The bound of a remote access along a path. -/
def pathBound (s : State) (hs : List Hop) : Nat := (hs.map (hopEntry s)).foldl (fun a b => a + b) 0 + 600

/-- R47. The port of a hop that a request takes: the lowest one present that carries SERV entries. -/
def servPort (s : State) (h : Hop) : Nat :=
  let ok := fun (p : Nat) => s.maps.port.getLsbD p && match tableFor s with
    | none => false
    | some t => decide (servSlots t p ≠ [])
  ((hopPorts h).find? ok).getD ((hopPorts h).headD 0)

/-- R47. The hop that a request passed on takes: one that came round the ring goes on round it (log 100). -/
def passHop (s : State) (port m : Nat) : Option Hop :=
  if 28 ≤ port ∧ hopServed s 12 then some 12
  else if 24 ≤ port ∧ port < 28 ∧ hopServed s 13 then some 13
  else (remotePath s m).bind List.head?

/-- R47, R425. The timetable in force that slot `n` belongs to, by its arming slot. -/
def servTab (s : State) (n : Nat) : Option Nat :=
  s.fab.table.bind fun t => if t.slotA ≤ n then some t.slotA else none

/-- R104. The latency table as core `g` reads it; `n` counts from register 0x080. -/
def latTable (s : State) (g n : Nat) : Nat :=
  if n < 54 then (if s.maps.slice.getLsbD n then sliceBound g n else 0)
  else if n < 63 then (if s.maps.csp.getLsbD (n - 54) then cspBound g (n - 54) else 0)
  else if n < 81 then (if s.maps.stack.getLsbD (n - 63) then hbmBound g (n - 63) else 0)
  else if n < 85 then (if s.maps.cxl.getLsbD (n - 81) then cxlBound g (n - 81) else 0)
  else if n = 85 then 48
  else if n < 98 then hopBound s (dimPorts (n - 86))
  else if n = 98 then hopBound s ringPorts
  else if n = 99 then 600
  else 0

end Sys2Proof.Machine
end

