-- ==== Sys2Proof/WellFormed.lean ====
section
/-! DEFINITION. Which slot words are instructions: the ILLEGAL_OP rules of R278 that the fields of one word decide.
Operand kinds (OPERAND) and everything the state decides are checked at issue by the meanings. -/

namespace Sys2Proof

/-- R280. The rounding code of a V word: bits [8:6]. -/
def VOp.rnd (v : VOp) : BitVec 3 := v.sub.extractLsb' 1 3
/-- R280. The saturation bit of a V word: bit [5]. -/
def VOp.sat (v : VOp) : Bool := v.sub.getLsbD 0

/-- The kinds a 13-bit vector operand can have (R279). -/
inductive Kind where
  | row (t i : Nat)
  | col (t j : Nat)
  | diag (t k : Nat)
  | s (n : SReg)
  | q (n : Nat) (site : Nat)
  | p (n : PReg)
  | imm (v : Byte)
  /-- A reserved class or a nonzero bit where R279 requires 0: OPERAND. -/
  | bad
  deriving DecidableEq, Repr

/-- R279. Decode a vector operand. -/
def kindOf (x : BitVec 13) : Kind :=
  let n := x.toNat
  let lo := n % 256
  match n / 2048 with
  | 0 => .row (n / 64 % 32) (n % 64)
  | 1 => .col (n / 64 % 32) (n % 64)
  | 2 => .diag (n / 64 % 32) (n % 64)
  | _ =>
    match n / 256 % 8 with
    | 0 => if lo < 64 then .s (BitVec.ofNat 6 lo) else .bad
    | 1 => if lo < 128 then .q (lo % 16) (lo / 16) else .bad
    | 2 => if lo < 16 then .p (BitVec.ofNat 4 lo) else .bad
    | 3 => .imm (BitVec.ofNat 8 lo)
    | _ => .bad

def Kind.isVec : Kind → Bool
  | .row _ _ => true
  | .col _ _ => true
  | .diag _ _ => true
  | _ => false
def Kind.isS : Kind → Bool
  | .s _ => true
  | _ => false
def Kind.isQ : Kind → Bool
  | .q _ _ => true
  | _ => false
def Kind.isP : Kind → Bool
  | .p _ => true
  | _ => false
def Kind.isImm : Kind → Bool
  | .imm _ => true
  | _ => false

/-- R167. Codes 0–7: the integer formats I. -/
def fmtI (f : BitVec 5) : Bool := decide (f.toNat < 8)
/-- R319. FP16, BF16, FP32, FP64: the formats F. -/
def fmtF (f : BitVec 5) : Bool := decide (8 ≤ f.toNat) && decide (f.toNat ≤ 11)
/-- R114. Format code 30. -/
def fmtT (f : BitVec 5) : Bool := f == 30
/-- R330. Element and pair modes: 4, 5, 6, 7, 11, 17. -/
def fmtEP (f : BitVec 5) : Bool := [4, 5, 6, 7, 11, 17].contains f.toNat
/-- R330. Element mode: 4, 5. -/
def fmtE (f : BitVec 5) : Bool := f == 4 || f == 5
/-- R334, R335. FP32, FP64 and the 32- and 64-bit integers. -/
def fmtR (f : BitVec 5) : Bool := [4, 5, 6, 7, 10, 11].contains f.toNat
/-- R325. 0–14 and 16. -/
def fmtC (f : BitVec 5) : Bool := decide (f.toNat ≤ 14) || f == 16
/-- R301. INT32, UINT32, INT64, UINT64 and F. -/
def fmtSC (f : BitVec 5) : Bool := decide (4 ≤ f.toNat) && decide (f.toNat ≤ 11)

/-- R281. Integer condition codes 0–9. -/
def ccInt (c : BitVec 4) : Bool := decide (c.toNat ≤ 9)
/-- R281. Floating condition codes 0–5, 10, 11. -/
def ccFp (c : BitVec 4) : Bool := decide (c.toNat ≤ 5) || c == 10 || c == 11

/-- R109, R110. Numbers that MFS reads: every listed number but LSCR. -/
def sysListed (n : Nat) : Bool :=
  decide (n ≤ 0x004) || (decide (0x010 ≤ n) && decide (n ≤ 0x015)) || (decide (0x020 ≤ n) && decide (n ≤ 0x024))
    || (decide (0x030 ≤ n) && decide (n ≤ 0x03F)) || (decide (0x040 ≤ n) && decide (n ≤ 0x048))
    || (decide (0x050 ≤ n) && decide (n ≤ 0x057)) || n == 0x060 || n == 0x061
    || (decide (0x080 ≤ n) && decide (n ≤ 0x0FF))

/-- R109, R310. Numbers whose plain MTS writes a register with no side effect of its own: SFLG, OLC, ROT, CKEY,
FT0–FT15, TVEC, TEPC, TINFO, DRAINTAB. -/
def sysPlain (n : Nat) : Bool :=
  n == 0x004 || n == 0x012 || n == 0x013 || n == 0x022 || (decide (0x030 ≤ n) && decide (n ≤ 0x03F))
    || n == 0x040 || n == 0x042 || n == 0x043 || n == 0x044

/-- R319. An arithmetic V word over F and I: rounding 0–6, 0 for an integer format. -/
def wfArith (v : VOp) : Bool :=
  (fmtF v.fmt || fmtI v.fmt || fmtT v.fmt) && v.rnd != 7 && (!fmtI v.fmt || v.rnd == 0)
/-- R319. An arithmetic V word over F. -/
def wfFloat (v : VOp) : Bool := (fmtF v.fmt || fmtT v.fmt) && v.rnd != 7
/-- R320. VABS, VNEG: rnd 0, sat 0 for a floating format. -/
def wfSign (v : VOp) : Bool :=
  (fmtF v.fmt || fmtI v.fmt || fmtT v.fmt) && v.rnd == 0 && (!fmtF v.fmt || !v.sat) && v.b == 0
/-- R321. VEXP2, VLOG2: rounding 0–4 or 6. -/
def wfExp (v : VOp) : Bool := (v.fmt == 10 || fmtT v.fmt) && v.rnd != 5 && v.rnd != 7 && v.b == 0
/-- R323. The complex instructions. -/
def wfCplx (v : VOp) : Bool := (v.fmt == 17 || fmtT v.fmt) && v.rnd != 7
/-- R324. Logic and shifts. -/
def wfLogic (v : VOp) : Bool := (fmtI v.fmt || fmtT v.fmt) && v.sub == 0
/-- The source format that VCVT, VMXQ and VMXD hold in b [4:0]. -/
def VOp.sfmt (v : VOp) : BitVec 5 := v.b.extractLsb' 0 5

/-- R343. The formats of PMOV by the classes of d and a. A pairing that is none of its forms is OPERAND and no matter of the
word, but format 0 beside a vector or S operand is. -/
def pmovFmt (d a : Kind) (f : BitVec 5) : Bool :=
  if d.isP && a.isP then f == 0
  else
    let form := (d.isP && (a.isVec || a.isS || a.isImm)) || (d.isVec && a.isP)
    f == 5 || f == 10 || (f == 0 && !form && !(d.isVec || d.isS || a.isVec || a.isS))

/-- R348. The formats of QMOV by the classes of d and a; any other pairing is OPERAND and no matter of the word. -/
def qmovFmt (d a : Kind) (f : BitVec 5) : Bool :=
  if d.isQ && (a.isQ || a.isP) then f == 0
  else if (d.isQ && (a.isVec || a.isS || a.isImm)) || (d.isVec && a.isQ) then f == 10
  else f == 0 || f == 10

/-- R278–R287. The word of this slot operation is an instruction: no field of it is ILLEGAL_OP. Events, which no word
encodes, and the text indices are well formed. -/
def Instr.wf : Instr → Bool
  -- S slot (R282)
  | .cmp _ _ _ _ cc => ccInt cc
  | .cmpi _ _ _ cc _ => ccInt cc
  | .glog _ _ _ b op => decide (op.toNat ≤ 4) && (op != 4 || b == 0)
  | .fadd _ _ _ _ rnd fmt => (fmtF fmt || fmtT fmt) && rnd != 7
  | .fsub _ _ _ _ rnd fmt => (fmtF fmt || fmtT fmt) && rnd != 7
  | .fmul _ _ _ _ rnd fmt => (fmtF fmt || fmtT fmt) && rnd != 7
  | .ffma _ _ _ _ _ rnd fmt => (fmtF fmt || fmtT fmt) && rnd != 7
  | .fdiv _ _ _ _ rnd fmt => (fmtF fmt || fmtT fmt) && rnd != 7
  | .fsqrt _ _ _ rnd fmt => (fmtF fmt || fmtT fmt) && rnd != 7
  | .fmin _ _ _ _ rnd fmt => (fmtF fmt || fmtT fmt) && rnd == 0
  | .fmax _ _ _ _ rnd fmt => (fmtF fmt || fmtT fmt) && rnd == 0
  | .fcvt _ _ _ rnd df sf _ => (fmtSC df || fmtT df) && (fmtSC sf || fmtT sf) && rnd != 7
  | .fcmp _ _ _ _ cc fmt => (fmtF fmt || fmtT fmt) && ccFp cc
  | .ld _ _ m _ => m.width != 7 && m.space != 1
  | .st _ _ m _ => decide (m.width.toNat ≤ 3) && m.space != 1
  | .amo _ _ _ m op _ => (m.width == 2 || m.width == 3) && m.space != 1 && decide (op.toNat ≤ 8)
  | .cas _ _ _ m _ => (m.width == 2 || m.width == 3) && m.space != 1
  | .mfs _ _ sr => sysListed sr.toNat || decide (0x800 ≤ sr.toNat)
  | .mts _ _ sr => sysPlain sr.toNat || decide (0x800 ≤ sr.toNat)
  -- V slots (R283, R319–R349)
  | .vadd v => wfArith v
  | .vsub v => wfArith v
  | .vmul v => wfArith v
  | .vfma v => wfFloat v
  | .vfms v => wfFloat v
  | .vfnma v => wfFloat v
  | .vdiv v => wfFloat v
  | .vsqrt v => wfFloat v && v.b == 0
  | .vmin v => (fmtF v.fmt || fmtI v.fmt || fmtT v.fmt) && v.sub == 0
  | .vmax v => (fmtF v.fmt || fmtI v.fmt || fmtT v.fmt) && v.sub == 0
  | .vabs v => wfSign v
  | .vneg v => wfSign v
  | .vexp2 v => wfExp v
  | .vlog2 v => wfExp v
  | .vsqacc v => (v.fmt == 10 || v.fmt == 11 || fmtT v.fmt) && v.sub == 0 && v.b == 0
  | .vcmul v => wfCplx v
  | .vcfma v => wfCplx v
  | .vconj v => wfCplx v && v.sub == 0 && v.b == 0
  | .vand v => wfLogic v
  | .vor v => wfLogic v
  | .vxor v => wfLogic v
  | .vshl v => wfLogic v
  | .vshr v => wfLogic v
  | .vsar v => wfLogic v
  | .vcvt v =>
    (fmtC v.fmt || fmtT v.fmt) && (fmtC v.sfmt || fmtT v.sfmt) && decide (v.b.toNat < 32) && v.rnd != 7
  | .vqnt v => v.fmt == 15 && v.rnd != 7 && !v.sat
  | .vdqnt v => v.fmt == 10 && v.sub == 0
  | .vmxq v =>
    (v.fmt == 12 || v.fmt == 13 || v.fmt == 14 || fmtT v.fmt) && (v.sfmt == 9 || v.sfmt == 10 || fmtT v.sfmt)
      && decide (v.b.toNat < 32) && v.rnd != 7 && !v.sat
  | .vmxd v =>
    (v.fmt == 9 || v.fmt == 10 || fmtT v.fmt) && (v.sfmt == 12 || v.sfmt == 13 || v.sfmt == 14 || fmtT v.sfmt)
      && decide (v.b.toNat < 32) && v.rnd != 7
  | .vmov v => fmtE v.fmt && v.sub == 0 && v.b == 0
  | .vbcast v => fmtEP v.fmt && v.sub == 0 && v.b == 0
  | .vperm v => fmtE v.fmt && v.sub == 0
  | .vbitx v => fmtEP v.fmt && v.sub == 0
  | .vlane v => fmtE v.fmt && v.sub == 0
  | .vred v => (fmtR v.fmt || fmtT v.fmt) && decide (v.sub.toNat ≤ 2) && v.b == 0
  | .vextr v => fmtEP v.fmt && v.sub == 0
  | .vins v => fmtEP v.fmt && v.sub == 0
  | .vcmp v =>
    (fmtR v.fmt || fmtT v.fmt) && decide (v.sub.toNat ≤ 11) && (!fmtI v.fmt || ccInt v.sub) && (!fmtF v.fmt || ccFp v.sub)
  | .vsel v => fmtEP v.fmt && v.sub == 0
  | .vflag v => v.fmt == 5 && v.sub == 0 && v.a == 0 && v.b == 0
  | .vrnd v => (v.fmt == 5 || v.fmt == 10) && v.sub == 0 && v.a == 0 && v.b == 0
  | .plog v => v.fmt == 0 && decide (v.sub.toNat ≤ 4) && (v.sub != 4 || v.b == 0)
  | .pmov v => v.b == 0 && v.sub == 0 && pmovFmt (kindOf v.d) (kindOf v.a) v.fmt
  | .scmp v => v.fmt == 10 && decide (v.sub.toNat ≤ 5)
  | .qlog v => v.fmt == 0 && decide (v.sub.toNat ≤ 7)
  | .qnot v => v.fmt == 0 && v.sub == 0 && v.b == 0
  | .qblend v => v.fmt == 10
  | .qcol v => v.fmt == 0 && v.sub == 0 && v.b == 0
  | .qhard v => v.fmt == 0 && v.sub == 0 && v.b == 0
  | .qmov v => v.b == 0 && v.sub == 0 && qmovFmt (kindOf v.d) (kindOf v.a) v.fmt
  | .qgrad v => v.fmt == 10 && decide (v.sub.toNat ≤ 5)
  | .qbgrad v => v.fmt == 10 && v.sub == 0
  | .qpgrad v => v.fmt == 10
  -- M slot (R284): user routine numbers
  | .userRoutineCall rtn m => decide (64 ≤ rtn.toNat) && !m.spec.getLsbD 0
  | .userRoutineLoad rtn m => decide (64 ≤ rtn.toNat) && m.spec.getLsbD 0
  -- C slots (R285, R370, R371)
  | .ldvs _ _ _ _ tag sp => tag == 0 || sp == 0 || sp == 2
  | .ldx _ _ _ _ sp => sp != 1
  | .stx _ _ _ _ sp => sp != 1
  | .ldt _ _ _ _ tag cols sp => (tag == 0 || sp == 0 || sp == 2) && (!cols || sp != 1)
  | .stt _ _ _ _ cols sp => !cols || sp != 1
  | .arrive _ _ sp => sp != 1
  | .expect _ _ sp _ => sp != 1
  -- B slot (R287)
  | .waitb _ _ _ sp => sp != 1
  | .acq _ _ sp => sp != 1
  | .rel _ _ sp => sp != 1
  | .fence _ sc => decide (sc.toNat ≤ 5)
  -- words whose every field is free, events and text indices
  | .moduleReset => true
  | .ronilorStart _ _ _ => true
  | .linkTraining _ _ _ _ => true
  | .hbmTraining _ => true
  | .firmwareLoad _ _ => true
  | .ptpLock _ _ _ _ => true
  | .mapPublish => true
  | .bringUpWatchdog => true
  | .ptpLockTimeout => true
  | .attestationRequest _ => true
  | .fenceListClear => true
  | .setModuleId _ _ _ _ => true
  | .bootstatFailsWrite _ => true
  | .thermalWarning _ => true
  | .thermalStop => true
  | .powerOverloadStop => true
  | .lossOfLock _ => true
  | .leaveHoldover _ => true
  | .slotSend => true
  | .slotHeaderReceive _ _ _ _ _ _ => true
  | .flitReceive _ => true
  | .remoteRequest _ _ _ _ => true
  | .remoteResponse _ _ _ => true
  | .signalApply => true
  | .ltarm _ => true
  | .linkTimetableStart => true
  | .ltstop _ => true
  | .linkTimetableEnd => true
  | .groupActivate _ _ => true
  | .finjWrite _ _ => true
  | .ttArm _ _ => true
  | .ttStop _ _ => true
  | .ttEntryRead _ => true
  | .codePreload _ => true
  | .scratchpadLoad _ => true
  | .taskStart _ => true
  | .loadFailure _ => true
  | .latePolicy _ => true
  | .poolPreempt _ => true
  | .taskResume _ => true
  | .taskRerun _ => true
  | .overrun _ => true
  | .taskRetire _ => true
  | .faultLogConfig _ _ => true
  | .poolPost _ => true
  | .poolCancel _ => true
  | .poolTake => true
  | .backgroundPost _ => true
  | .registerWrite _ _ => true
  | .xinv _ => true
  | .translationMiss _ => true
  | .walkComplete _ => true
  | .slcfgWrite _ _ => true
  | .wmodeChangeComplete _ => true
  | .l2Eviction _ => true
  | .regionFlush _ => true
  | .regionFlushComplete _ => true
  | .codedAccess _ _ _ => true
  | .codedWriteback _ _ => true
  | .memerr _ => true
  | .resultLand _ => true
  | .waitRelease _ => true
  | .trapEntry _ => true
  | .timingReport _ => true
  | .drainDiversion _ => true
  | .drainDeferralKill _ => true
  | .stubTimeoutKill _ => true
  | .copyStart _ => true
  | .copyComplete _ => true
  | .barrierUpdate => true
  | .cflushComplete _ => true
  | .routineStart _ => true
  | .routineComplete _ => true
  | .rescaleComplete _ => true
  | .collectiveStart _ => true
  | .collectiveComplete _ _ _ => true
  | .pause _ => true
  | .quote => true
  | .add _ _ _ _ => true
  | .sub _ _ _ _ => true
  | .mul _ _ _ _ => true
  | .mulh _ _ _ _ => true
  | .mulhu _ _ _ _ => true
  | .div _ _ _ _ => true
  | .divu _ _ _ _ => true
  | .rem _ _ _ _ => true
  | .remu _ _ _ _ => true
  | .and _ _ _ _ => true
  | .or _ _ _ _ => true
  | .xor _ _ _ _ => true
  | .andn _ _ _ _ => true
  | .shl _ _ _ _ => true
  | .shr _ _ _ _ => true
  | .sar _ _ _ _ => true
  | .rol _ _ _ _ => true
  | .min _ _ _ _ => true
  | .max _ _ _ _ => true
  | .minu _ _ _ _ => true
  | .maxu _ _ _ _ => true
  | .clz _ _ _ => true
  | .popc _ _ _ => true
  | .pdep _ _ _ _ => true
  | .pext _ _ _ _ => true
  | .addi _ _ _ _ => true
  | .andi _ _ _ _ => true
  | .ori _ _ _ _ => true
  | .xori _ _ _ _ => true
  | .shli _ _ _ _ => true
  | .shri _ _ _ _ => true
  | .sari _ _ _ _ => true
  | .lui _ _ _ => true
  | .sel _ _ _ _ _ => true
  | .puni _ _ _ => true
  | .mtsTemp _ _ => true
  | .mtsLsc _ _ => true
  | .mtsLscr _ _ => true
  | .mtsTripKix _ _ _ => true
  | .mtsHot _ _ _ => true
  | .mtsRslim _ _ => true
  | .mtsTcause _ _ => true
  | .mtsCctr _ _ => true
  | .mpset _ _ _ _ => true
  | .cdset _ _ _ _ => true
  | .launch _ _ _ => true
  | .mnop => true
  | .gemm _ => true
  | .gemmt _ => true
  | .conv _ => true
  | .cgemm _ => true
  | .gate _ => true
  | .accrd _ => true
  | .accclr _ => true
  | .skinit _ => true
  | .skfold _ => true
  | .skshrink _ => true
  | .skmerge _ => true
  | .skrd _ => true
  | .skwr _ => true
  | .mstop _ => true
  | .mstat _ _ => true
  | .cnop => true
  | .ldv _ _ _ _ _ => true
  | .stv _ _ _ _ _ => true
  | .stvs _ _ _ _ _ => true
  | .copy _ _ _ _ _ _ _ => true
  | .tokclr _ _ => true
  | .cflush _ _ _ _ _ => true
  | .nnop => true
  | .send _ _ _ => true
  | .recv _ _ _ => true
  | .recvadd _ _ _ => true
  | .recvsq _ _ _ => true
  | .putsig _ _ _ => true
  | .ncoll _ _ => true
  | .nwait _ => true
  | .bnop => true
  | .br _ _ => true
  | .brc _ _ => true
  | .call _ _ => true
  | .ret _ => true
  | .loop _ => true
  | .loopr _ _ => true
  | .bswap _ _ => true
  | .ifence _ => true
  | .waitt _ _ => true
  | .waitc _ _ _ => true
  | .hold _ _ _ => true
  | .done _ => true
  | .yield _ _ => true
  | .trap _ _ => true
  | .ebreak _ _ => true
  | .savex _ _ => true
  | .restx _ _ => true
  | .invalidationComplete _ => true

end Sys2Proof
end

