-- ==== Sys2Proof/Machine/Operands.lean ====
section
/-! DEFINITION. Operand forms: the format table (R114), vector operands of every kind (R279, R314), values inside the
64 lanes (R315), guards (R316), and the writing of a vector result with its flags (R317, R318). -/

namespace Sys2Proof.Machine

open Host

/-! ### Trap codes (R250) -/

def cIllegalOp : Nat := 0x01
def cIllegalIndex : Nat := 0x02
def cTextWrite : Nat := 0x03
def cRegBank : Nat := 0x04
def cSpadBank : Nat := 0x05
def cTiming : Nat := 0x06
def cSchedule : Nat := 0x07
def cNonuniform : Nat := 0x08
def cXlate : Nat := 0x09
def cProtect : Nat := 0x0A
def cAlign : Nat := 0x0B
def cScaleLayout : Nat := 0x0C
def cCoded : Nat := 0x0D
def cSketch : Nat := 0x0E
def cRstack : Nat := 0x0F
def cLossScale : Nat := 0x10
def cOperand : Nat := 0x11
def cPriv : Nat := 0x12
def cTrapi : Nat := 0x13
def cBreak : Nat := 0x14
def cTempValue : Nat := 0x16
def cCopyFull : Nat := 0x17
def cMemerr : Nat := 0x18
def cPreempt : Nat := 0x20
def cOverrun : Nat := 0x21

/-! ### Format table (R114) -/

/-- R114. The entry in force: FT[OLC mod 16]. -/
def ftEntry (s : State) : Word64 := mget 0 s.core.ft (s.core.olc.toNat % 16)
/-- R114. A format field, 30 taken from FMT. -/
def resFmt (s : State) (f : BitVec 5) : Nat := if f = 30 then natBits (ftEntry s).toNat 4 0 else f.toNat
/-- R114. A source-format field, 30 taken from SFMT. -/
def resSfmt (s : State) (f : BitVec 5) : Nat := if f = 30 then natBits (ftEntry s).toNat 9 5 else f.toNat
/-- R114. A rounding field, 6 taken from RND. -/
def resRnd (s : State) (r : BitVec 3) : Nat := if r = 6 then natBits (ftEntry s).toNat 12 10 else r.toNat

/-- R240. One consumer of a counter value: CCTR advances when the rounding is stochastic. -/
def advCctr (b : Bool) (s : State) : State :=
  if b then { s with core := { s.core with cctr := s.core.cctr + 1 } } else s

/-- R173, R239. The draw of argument `l` with the key and counter in force. -/
def drawU (s : State) (l : Nat) : Nat := genU s.core.ckey s.core.cctr l

/-! ### Vector operands (R105, R111, R279, R314) -/

/-- R111. Physical index of vector index `i` of tile `t`. -/
def physI (c : Core) (t i : Nat) : Nat := if t < 24 then i else (i + c.rot.toNat) % 64

/-- The element of a vector operand that lane `l` names (R105), as a key of the register array. -/
def elKey (c : Core) (k : Kind) (l : Nat) : Nat :=
  match k with
  | .row t i => tileKey t (physI c t i) l
  | .col t j => tileKey t l (physI c t j)
  | .diag t d => tileKey t l ((l + physI c t d) % 64)
  | _ => 0

/-- The 32-bit element a vector operand gives lane `l`. -/
def elAt (s : State) (k : Kind) (l : Nat) : Nat := (mget 0 s.core.tile (elKey s.core k l)).toNat

/-- R279. The signed value of an immediate for a format; unsigned formats take it zero-extended. -/
def immInt (f : Nat) (v : Byte) : Int := if isIntFmt f && !isSigned f then (v.toNat : Int) else sint 8 v.toNat

/-- R279, R314. An immediate converted exactly into a format; none when it is not exact. QN4 has 0, 1 and −1 exactly (R177, R181). -/
def immBits (f : Nat) (v : Byte) : Option Nat :=
  let x := immInt f v
  if isIntFmt f then some (wrapInt (fmtWidth f) x)
  else if f = 15 then (if x = 0 then some 7 else if x = 1 then some 15 else if x = -1 then some 0 else none)
  else
    let y := roundTo (if f = 17 then 10 else f) Rnd.rne (.fin (decide (x < 0)) x.natAbs 0)
    if y.2 = 0 then some y.1 else none

/-- R315. Value `i` of an operand in format `f`. -/
def srcVal (s : State) (f : Nat) (k : Kind) (i : Nat) : Nat :=
  let w := fmtWidth f
  match k with
  | .s n => (rdS s n).toNat % 2 ^ w
  | .q n _ => (mget 0 s.core.qval (n * 64 + i)).toNat
  | .imm v => (immBits f v).getD 0
  | .p n => if (rdP s n).getLsbD i then 1 else 0
  | .bad => 0
  | k =>
    if w = 32 then elAt s k i
    else if w = 64 then elAt s k (2 * i) + elAt s k (2 * i + 1) * 2 ^ 32
    else elAt s k (i / (32 / w)) / 2 ^ (w * (i % (32 / w))) % 2 ^ w

/-- R314. A source of format `f` is refused: classes P and reserved, a diagonal of a pair format, class Q where the
operand is not read as FP32 values, an immediate that is not exact. -/
def srcBad (f : Nat) (k : Kind) : Bool :=
  match k with
  | .diag _ _ => isPair f
  | .row _ _ => false
  | .col _ _ => false
  | .s _ => false
  | .q _ site => site != 0 || f != 10
  | .p _ => true
  | .imm v => (immBits f v).isNone
  | .bad => true

/-- R314. The same of an operand that is read as untyped elements, where class Q gives 32-bit ones. -/
def elemBad (f : Nat) (k : Kind) : Bool :=
  match k with
  | .q _ site => site != 0 || fmtWidth f != 32
  | k => srcBad f k

/-- R314. A vector destination of format `f` is refused. -/
def dstBad (f : Nat) (k : Kind) : Bool :=
  match k with
  | .row _ _ => false
  | .col _ _ => false
  | .diag _ _ => isPair f
  | _ => true

/-- R315. Number of values of a vector in format `f`. -/
def numVals (f : Nat) : Nat := 2048 / fmtWidth f

/-- R173. The generator argument of value `i` of a destination of format `f`. -/
def ellOf (f i : Nat) : Nat :=
  let w := fmtWidth f
  if w = 64 then 2 * i else if w = 32 then i else i / (32 / w) + 64 * (i % (32 / w))

/-- R315, R316. The guard of lane `l` in format `f`: a pair has the guard of its even lane. -/
def vGuard (s : State) (v : VOp) (f l : Nat) : Bool := laneGuard s v (if isPair f then l / 2 * 2 else l)

/-- OR of flags. -/
def orFlags (fs : List Flags) : Flags := fs.foldl (fun a b => a ||| b) 0

/-- R315, R178. The element of lane `l` made of the values of format `f`, and the flags of every value it holds. -/
def laneOf (f : Nat) (val : Nat → Nat × Flags) (l : Nat) : Nat × Flags :=
  let w := fmtWidth f
  if w = 32 then val l
  else if w = 64 then
    let x := val (l / 2)
    (if l % 2 = 0 then x.1 % 2 ^ 32 else x.1 / 2 ^ 32 % 2 ^ 32, x.2)
  else
    let p := 32 / w
    let xs := (List.range p).map fun j => val (l * p + j)
    ((xs.mapIdx fun j x => (x.1 % 2 ^ w) * 2 ^ (w * j)).foldl (fun a b => a + b) 0, orFlags (xs.map Prod.snd))

/-- R316–R318. The effects of writing a vector: the element of each lane whose guard holds, fixed at issue, and its
flags unless nf. -/
def vecEffects (s : State) (v : VOp) (k : Kind) (guard : Nat → Bool) (lane : Nat → Nat × Flags) : List Effect :=
  ((List.range 64).filter guard).flatMap fun l =>
    let x := lane l
    let wr := Effect.t (elKey s.core k l) (BitVec.ofNat 32 x.1)
    if v.nf || x.2 == 0 then [wr] else [wr, .lflg l x.2]

/-- R316–R318. Write the values of format `f` to the vector d at t + lat. -/
def vecWrite (lat f : Nat) (v : VOp) (val : Nat → Nat × Flags) (s : State) : State :=
  putMany lat (vecEffects s v (kindOf v.d) (vGuard s v f) (laneOf f val)) s

/-! ### Slots and causes of a V operation -/

/-- R247. Slot number of a V operation. -/
def vSlot (v : VOp) : Nat := if v.slot1 then 3 else 2
/-- R247. Slot number of a C operation. -/
def cSlot (c1 : Bool) : Nat := if c1 then 6 else 5

/-- OPERAND for a code taken from the table (R114), detail the code. -/
def codeCause (ok : Bool) (code : Nat) : Option (Nat × Nat) := causeIf (!ok) cOperand code
/-- OPERAND for a vector operand, detail its 13 bits. -/
def opCause (bad : Bool) (x : BitVec 13) : Option (Nat × Nat) := causeIf bad cOperand x.toNat

/-- R319. F, I and both, for resolved codes. -/
def accF (f : Nat) : Bool := decide (8 ≤ f) && decide (f ≤ 11)
def accI (f : Nat) : Bool := decide (f < 8)
def accFI (f : Nat) : Bool := decide (f ≤ 11)
def accR (f : Nat) : Bool := [4, 5, 6, 7, 10, 11].contains f
def accC (f : Nat) : Bool := decide (f ≤ 14) || f == 16

/-- The rounding of value `i` of a vector result: the resolved code, sat, and the draw of R173. -/
def rndAt (s : State) (rnd : Nat) (sat : Bool) (f i : Nat) : Rnd :=
  ⟨rnd, sat, if rnd = 5 then drawU s (ellOf f i) else 0⟩

/-- The outcome of a meaning. -/
abbrev Res := Host.Outcome State Fault Refusal

/-- An event that the state does not enable (log 3). -/
def notEnabled (event : String) : Res := .fault (.notEnabled event)

/-- R21. The host is released: the start is complete (log 96). -/
def released (s : State) : Bool := s.boot.stage == 15

/-- R21. What the host or privileged software does once bring-up has released it. -/
def fromHost (event : String) (s : State) (r : Res) : Res := if released s then r else notEnabled event

/-- R245. Run an operation unless its checks, the causes of one slot in ascending code, raise one. -/
def guarded (slot : Nat) (cs : List (Option (Nat × Nat))) (k : State → State) (s : State) : Res :=
  .next (orRaise slot cs k s)

end Sys2Proof.Machine
end

