-- ==== Sys2Proof/Machine/Access.lean ====
section
/-! DEFINITION. Accesses to memory: translation (R136–R141), the spaces and their checks (R118–R127, R303, R369), reads
and writes of the home and of L1 (R123, R128, R147, R148), text windows (R96, R413), coded views (R198, R208), remote
modules (R34, R47), bindings (R149–R151). -/

namespace Sys2Proof.Machine

/-! ### Translation (R136–R141) -/

/-- Die of the current core. -/
def myDie (s : State) : Nat := s.coreNo / 48

/-- R139, R140. The installed translation, or one whose walk the same agent's access has already begun, that covers `va`. -/
def tuFind (s : State) (o : WalkFor) (die va : Nat) : Option TuEntry :=
  ((s.xlat.tu ++ (s.core.walks.filter fun w => decide (w.owner = o)).filterMap Walk.entry).find? fun e =>
    decide (e.die = die) && decide (e.va ≤ va) && decide (va < e.va + e.size))

/-- R137. Bits that each level indexes, and the size its leaf maps. -/
def lvlIndex (l va : Nat) : Nat :=
  if l = 0 then natBits va 55 39 else if l = 1 then natBits va 38 30 else if l = 2 then natBits va 29 21
  else natBits va 20 12
def lvlSize (l : Nat) : Nat := if l = 1 then 2 ^ 30 else if l = 2 then 2 ^ 21 else 2 ^ 12

/-- R137, R139. A table must lie in this module's present HBM: the local address of a table entry. -/
def tableAddr (s : State) (a : Nat) : Option Nat :=
  match localPart s a with
  | none => none
  | some l => match place l with
    | .hbm k => if s.maps.stack.getLsbD k then some l else none
    | _ => none

/-- R138. Read one page-table entry: the entry, or `none` with the address of an uncorrectable one. -/
def readPte (s : State) (a : Nat) : Except (Option Nat) Nat :=
  match tableAddr s a with
  | none => .error none
  | some l => if mget none s.poison (l / 16) ≠ none then .error (some l)
    else .ok (bytesToNat (s.mem.readBytes l 8))

/-- R138. Level-3 leaves of the 64 KiB group of `va` under table `base` let the unit hold one entry for all of them. -/
def h64Group (s : State) (base va : Nat) : Bool :=
  let i0 := lvlIndex 3 va / 16 * 16
  match readPte s (base + 8 * i0) with
  | .error _ => false
  | .ok p0 =>
    decide (natBits p0 55 12 % 16 = 0) && (List.range 16).all fun i =>
      match readPte s (base + 8 * (i0 + i)) with
      | .error _ => false
      | .ok p => decide (natBits p 1 0 = 1) && decide (natBits p 4 2 = natBits p0 4 2) && decide (natBits p 4 4 = 1)
          && decide (natBits p 5 5 = natBits p0 5 5) && decide (natBits p 11 6 = 0) && decide (natBits p 63 56 = 0)
          && decide (natBits p 55 12 = natBits p0 55 12 + i)

/-- R137–R139. The walk from level `4 - fuel` with the table at `base`. An error is XLATE, with the table entry whose read
was uncorrectable. `big` is the free choice of a 64 KiB entry (R138). -/
def walkFrom (s : State) (die va : Nat) (big : Bool) : Nat → Nat → Except (Option Nat) TuEntry
  | 0, _ => .error none
  | fuel + 1, base =>
    let l := 3 - fuel
    match readPte s (base + 8 * lvlIndex l va) with
    | .error b => .error b
    | .ok p =>
      let v := natBits p 0 0 = 1
      let t := natBits p 1 1 = 1
      let adr := natBits p 55 12 * 4096
      if ¬ v ∨ natBits p 11 6 ≠ 0 ∨ natBits p 63 56 ≠ 0 then .error none
      else if t then (if l = 3 then .error none else walkFrom s die va big fuel adr)
      else if l = 0 ∨ adr % lvlSize l ≠ 0 then .error none
      else
        let rd := natBits p 2 2 = 1
        let wr := natBits p 3 3 = 1
        let nl1 := natBits p 5 5 = 1
        if l = 3 ∧ big ∧ h64Group s base va then
          .ok ⟨die, va / 65536 * 65536, 65536, adr / 65536 * 65536, rd, wr, nl1⟩
        else .ok ⟨die, va / lvlSize l * lvlSize l, lvlSize l, adr, rd, wr, nl1⟩

/-- R139. The outcome of a walk, by the tables as they stand. -/
def walkOut (s : State) (die va : Nat) (big : Bool) : Except (Option Nat) TuEntry :=
  let r := s.xlat.xroot.toNat
  if !s.xlat.xen ∨ r % 2 ^ 20 ≠ 0 ∨ r / 2 ^ 56 ≠ 0 then .error none else walkFrom s die va big 4 r

/-- R139. The leaf permits the access: RD or WR, and the page is not in this module's MMIO range. -/
def tuAllows (s : State) (e : TuEntry) (wr : Bool) : Bool :=
  (if wr then e.wr else e.rd) && (match localPart s e.pa with
    | some l => decide (place l ≠ .mmio)
    | none => true)

/-- A part of an access whose place is known: global physical address, bytes, and its page's NL1. -/
structure Part where
  ga : Nat
  n : Nat
  nl1 : Bool
  deriving DecidableEq, Repr

/-- The outcome of translating one address. -/
inductive Xl where
  | hit (p : Part)
  | walked (p : Part) (w : Walk)
  | cause (code detail : Nat)
  | failed (code detail : Nat) (w : Walk)
  deriving DecidableEq, Repr

/-- R136–R140. Translate `n` bytes at `va` for die `die` and agent `o`. `miss` forces a walk (an invalidation in progress,
R141). -/
def xlate (s : State) (o : WalkFor) (die : Nat) (wr miss big : Bool) (va n : Nat) : Xl :=
  if 2 ^ 56 ≤ va then .cause cXlate va
  else
    match if miss then none else tuFind s o die va with
    | some e => if tuAllows s e wr then .hit ⟨e.pa + (va - e.va), n, e.nl1⟩ else .cause cProtect va
    | none =>
      match walkOut s die va big with
      | .error b => .failed cXlate va ⟨s.cyc, va, none, none, b, o⟩
      | .ok e =>
        if tuAllows s e wr then .walked ⟨e.pa + (va - e.va), n, e.nl1⟩ ⟨s.cyc, va, some e, none, none, o⟩
        else .failed cProtect va ⟨s.cyc, va, none, none, none, o⟩

/-- The state of translating the addresses of one access in order. -/
structure XlAcc where
  parts : List Part
  /-- The parts whose translation is installed: what is known of them is known at issue. -/
  hits : List Part
  walks : List Walk
  causes : List (Nat × Nat)
  fail : Option (Nat × Nat)
  used : Nat
  deriving DecidableEq, Repr

/-- Translate one more address; a failed walk stops further walks. -/
def xlAdd (s : State) (o : WalkFor) (die : Nat) (wr : Bool) (a : XlAcc) (x : Nat × Nat) : XlAcc :=
  let s1 := { s with core := { s.core with walks := s.core.walks ++ a.walks } }
  let inv := s.xlat.inval.any fun p => p.1 == die
  let miss := inv && freeBit s a.used
  match xlate s1 o die wr miss (freeBit s (a.used + 1)) x.1 x.2 with
  | .hit p => { a with parts := a.parts ++ [p], hits := a.hits ++ [p], used := if inv then a.used + 1 else a.used }
  | .walked p w =>
    if a.fail.isSome then { a with used := a.used + 2 }
    else { a with parts := a.parts ++ [p], walks := a.walks ++ [w], used := a.used + 2 }
  | .cause c d => { a with causes := a.causes ++ [(c, d)], used := a.used + 2 }
  | .failed c d w =>
    if a.fail.isSome then { a with used := a.used + 2 }
    else { a with walks := a.walks ++ [w], fail := some (c, d), used := a.used + 2 }

/-- Translate the addresses of one access of agent `o`. -/
def xlAll (s : State) (o : WalkFor) (die : Nat) (wr : Bool) (vas : List (Nat × Nat)) : XlAcc :=
  vas.foldl (xlAdd s o die wr) ⟨[], [], [], [], none, 0⟩

/-- R250. The cause with the lowest code, the first of equals. -/
def minCause : List (Nat × Nat) → Option (Nat × Nat)
  | [] => none
  | c :: cs =>
    match minCause cs with
    | none => some c
    | some d => if d.1 < c.1 then some d else some c

/-- R250 gives the DETAIL of OPERAND for vector operands and table codes only; elsewhere it is a free value. -/
def freeDetail (s : State) : Nat := (Config.free s.free).toNat % 2 ^ 56

/-- Local physical base and size of a physical space of a core (R118, R126). -/
def spaceBase (s : State) (space : Nat) : Nat := if space = 0 then spadBase s.coreNo else clusterBase s.coreNo
def spaceSize (space : Nat) : Nat := if space = 0 then 0x200000 else 0x1000000

/-- Global physical form of a local address (R135). -/
def globalOf (s : State) (l : Nat) : Nat := s.fab.id.toNat * 2 ^ 44 + l

/-- R250, R303, R369. Resolve the addresses of one access in space 0, 2 or 3: the causes found (`extra` are those the caller has
found, `more` those that show once its places are known), else what `k` does with the parts. What only a walk could show yields
to issue-time causes, and a bundle with one of these walks nothing. -/
def resolve (slot space : Nat) (wr : Bool) (extra : List (Nat × Nat)) (vas : List (Nat × Nat))
    (more : List Part → List (Nat × Nat)) (k : List Part → State → State) (s : State) : State :=
  if space = 3 then
    let a := xlAll s .core (myDie s) wr vas
    match minCause (extra ++ a.causes ++ more a.hits) with
    | some (c, d) => raise c slot d s
    | none =>
      let s1 := spend a.used { s with core := { s.core with walks := s.core.walks ++ a.walks } }
      match a.fail.or (if a.walks = [] then none else minCause (more a.parts)) with
      | some (c, d) => raiseWalk c slot d s1
      | none => k a.parts s1
  else
    let good := fun (x : Nat × Nat) => decide (x.1 + x.2 ≤ spaceSize space)
    let parts := fun (l : List (Nat × Nat)) => l.map fun x => (⟨globalOf s (spaceBase s space + x.1), x.2, true⟩ : Part)
    match minCause (extra ++ ((vas.filter fun x => !good x).map fun x => (cProtect, x.1)) ++ more (parts (vas.filter good))) with
    | some (c, d) => raise c slot d s
    | none => k (parts vas) s

/-- ALIGN for each address that is not a multiple of `n` (R143). -/
def alignCauses (n : Nat) (vas : List (Nat × Nat)) : List (Nat × Nat) :=
  ((vas.filter fun x => decide (x.1 % n ≠ 0)).map fun x => (cAlign, x.1)).take 1

/-! ### Bindings (R149–R151) -/

def bindAt (s : State) (i : Nat) : Binding := mget Binding.none s.bind i
/-- R150. The entry is in force. -/
def bindInForce (b : Binding) : Bool :=
  b.v && b.size != 0 && decide (b.scope.toNat ≤ 4) && decide (b.base.toNat % 16 = 0) && decide (b.obj.toNat % 16 = 0)

/-- R150, R151. The entries in force that name the sector of object `o`; none when they name it with both KINDs. -/
def bindingsOf (s : State) (o : Nat) : List Binding :=
  let bs := (s.bind.map Prod.snd).filter fun b => bindInForce b && decide (b.obj.toNat = o / 16 * 16)
  if bs.any (fun b => b.kind) && bs.any (fun b => !b.kind) then [] else bs

/-- R151. The object is bound as a lock word (KIND 1). -/
def boundLock (s : State) (o : Nat) : Bool := (bindingsOf s o).any fun b => b.kind
/-- R151. The object is bound as a transaction barrier (KIND 0). -/
def boundBarrier (s : State) (o : Nat) : Bool := (bindingsOf s o).any fun b => !b.kind

/-- R150. The scope of an object: the largest among the entries in force that name it, and core scope (0) without one. -/
def objScope (s : State) (o : Nat) : Nat := ((bindingsOf s o).map fun b => b.scope.toNat).foldl Nat.max 0

/-- R150. A range of global physical addresses meets a region bound to object `o`. -/
def inBound (s : State) (o : Nat) (r : Nat × Nat) : Bool :=
  (bindingsOf s o).any fun b => decide (b.base.toNat < r.1 + r.2) && decide (r.1 < b.base.toNat + b.size.toNat)

/-- R153. Discard the L1 lines that hold regions bound to object `o`. -/
def discardBound (o : Nat) (s : State) : State :=
  { s with core := { s.core with l1 := s.core.l1.filter fun p => !inBound s o (p.1 / 4 * 64, 64) } }

/-! ### Text windows (R76, R96, R413) -/

/-- Half and bank (true = B) of a text-window offset, and its text position or lexeme number. -/
def textSpot (o : Nat) : Bool × Nat :=
  if o < 0x10000 then (decide (16384 ≤ o / 2), o / 2)
  else (decide (2048 ≤ (o - 0x10000) / 48), (o - 0x10000) / 48)

/-- R61. The half a task's code goes to (true = B). -/
def pdHalf (pd : BitVec 512) : Bool := pd.getLsbD 79

/-- R76. A preload holds half `h` of a core: it is in progress or complete and its task has not started. -/
def preloadHolds (c : Core) (h : Bool) : Bool :=
  c.queue.any fun q => q.code.isSome && (pdHalf q.l.pd == h)

/-- R96. The active half of a core that is not idle. -/
def activeIs (c : Core) (h : Bool) : Bool := decide (c.phase ≠ .idle) && (c.half == h)

/-- R399, R400. The halves swap in this cycle: the target of a taken BSWAP issues in it and has not done so yet, nothing
keeping it. -/
def swapsNow (s : State) (c : Core) : Bool :=
  c.swapping && decide (c.turn ≤ s.cyc) && (decide (c.phase = .run) || decide (c.phase = .drain)) && c.walks.isEmpty
    && c.wait.isNone && c.memerr.isNone && c.raised.isNone && c.entering.isNone && c.reports.isEmpty && c.drainReq.isNone

/-- R96, R400. The core refuses a write into half and bank `h` in this cycle: it is the active one, or becomes it, or a preload
holds it (R76). -/
def refuses (s : State) (c : Core) (h : Bool) : Bool :=
  activeIs c (if swapsNow s c then !h else h) || preloadHolds c h

/-- R17, R76, R96. A write at a local text-window address of a core that there is is refused: the position or lexeme number. -/
def textRefused (s : State) (l n : Nat) : Option Nat :=
  match place l with
  | .text g =>
    let spots := [textSpot (l - textBase g), textSpot (l + n - 1 - textBase g)]
    if present s l then (spots.find? fun x => refuses s (coreAt s g) x.1).map Prod.snd else none
  | _ => none

/-- The old bytes of a write into the idle half or bank of a core that runs, which fetch may still see (R398). -/
def keepUnfetched (l n : Nat) (s : State) : State :=
  match place l with
  | .text g =>
    let keep := fun (m : SMap (List (Nat × Byte))) => (List.range n).foldl (fun m i =>
      let old := mget [] m (l + i)
      if old.any fun x => decide (x.1 = s.cyc) then m else mset [] m (l + i) (old ++ [(s.cyc, s.mem.read (l + i))])) m
    modCore g (fun c => { c with unfetched := keep c.unfetched }) s
  | _ => s

/-! ### Home reads and writes -/

/-- `n` bytes as a load of the bundle issuing now reads them at the home. -/
def readHome (s : State) (a n : Nat) : List Byte := (List.range n).map fun i => readOld s (a + i)

/-! L1 (R128, R204): lines of 64 bytes by their number in the global physical space, 256 sets of four (log 7) -/

/-- The lines L1 holds in the set of `line`. -/
def l1Set (m : SMap (Option (BitVec 128))) (line : Nat) : List Nat :=
  ((m.map fun p => p.1 / 4).filter fun x => decide (x % 256 = line % 256)).eraseDups

/-- Take lines out of L1. -/
def l1Drop (ls : List Nat) (m : SMap (Option (BitVec 128))) : SMap (Option (BitVec 128)) :=
  m.filter fun p => !ls.contains (p.1 / 4)

/-- A line of the coded view and its twin, which L1 holds and replaces together (R204); any other line alone. -/
def l1Pair (line : Nat) : List Nat :=
  if place (line * 64 % 2 ^ 44) = .coded then [line / 2 * 2, line / 2 * 2 + 1] else [line]

/-- R128. Make room for a line: where its set is full, one of the four leaves it, which one the specification does not say. -/
def l1Room (line : Nat) (s : State) : State :=
  let held := l1Set s.core.l1 line
  if held.contains line || decide (held.length < 4) then s
  else
    let victim := held.getD (freeBelow s 0 held.length) 0
    spend 1 { s with core := { s.core with l1 := l1Drop (l1Pair victim) s.core.l1 } }

/-- R128. A sector comes into L1. -/
def l1Fill (sec : Nat) (bs : List Byte) (s : State) : State :=
  let s := l1Room (sec / 4) s
  { s with core := { s.core with l1 := mset none s.core.l1 sec (some (BitVec.ofNat 128 (bytesToNat bs))) } }

/-- R204. A block of the coded view, at the global physical address `ga` of its first byte, comes into L1 as a pair of lines. -/
def l1FillBlock (ga : Nat) (bs : List Byte) (s : State) : State :=
  let s := l1Room (ga / 64 + 1) (l1Room (ga / 64) s)
  (List.range 8).foldl (fun s i => { s with core := { s.core with
    l1 := mset none s.core.l1 (ga / 16 + i) (some (BitVec.ofNat 128 (bytesToNat ((bs.drop (16 * i)).take 16)))) } }) s

/-- R115, R153, R165. What L1 keeps where everything visible is acquired: its sectors, with the contents that the home has now. -/
def refreshL1 (s : State) (m : SMap (Option (BitVec 128))) : SMap (Option (BitVec 128)) :=
  m.filterMap fun p => ((localPart s (16 * p.1)).bind fun a => peek1 s a 16).map fun b =>
    (p.1, some (BitVec.ofNat 128 (bytesToNat b)))

/-- R128. The addresses L1 caches: HBM and CXL outside NL1 pages. -/
def l1Caches (l : Nat) (nl1 : Bool) : Bool :=
  !nl1 && (match place l with
    | .hbm _ => true
    | .cxl _ => true
    | _ => false)

/-- R128, R148. A load through L1 of bytes inside one sector: a sector L1 holds may be returned as it is, or be fetched
again (a free choice, log 7); a fetch leaves it in L1. -/
def readL1 (l n : Nat) (s : State) : List Byte × State :=
  let sec := globalOf s l / 16
  let fill := fun (s : State) => l1Fill sec (s.mem.readBytes (l / 16 * 16) 16) (l2Touch 0 false l n s)
  match mget none s.core.l1 sec with
  | none => (readHome s l n, fill s)
  | some v =>
    if (slowOf s (l / 16 * 16)).isSome then (readHome s l n, s)
    else if freeBit s 0 then ((natToBytes 16 v.toNat).drop (l % 16) |>.take n, spend 1 s)
    else (readHome s l n, fill (spend 1 s))

/-- R128, R204, R206–R208. A core's load of the block of the coded view that holds `l`, of which it reads `n` bytes from `l`
on: one event. L1's copy may be returned as it is (R148), or the home slice serves the block and L1 takes it as a pair;
`l1`: L1 may be used. -/
def codedLoad (l1 : Bool) (l n : Nat) (s : State) : Except (AccErr × State) (List Byte × State) :=
  let b := l / 128 * 128
  let ga := globalOf s b
  let fetch := fun (s : State) =>
    match codedBlockRead l n s with
    | .error e => Except.error e
    | .ok (bs, s1) => .ok (bs, if l1 then l1FillBlock ga bs s1 else s1)
  let held := (List.range 8).map fun i => mget none s.core.l1 (ga / 16 + i)
  if l1 && held.all Option.isSome then
    match codedEntry l s with
    | .error e => .error e
    | .ok _ =>
      if freeBit s 0 then .ok (held.flatMap fun v => natToBytes 16 ((v.getD 0).toNat), spend 1 s) else fetch (spend 1 s)
  else fetch s

/-- The local address of a part in the coded view of this module. -/
def codedPart (s : State) (p : Part) : Option Nat :=
  (localPart s p.ga).bind fun l => if place l = .coded then some l else none

/-! ### Units of a write (R146, R208, R398) -/

/-- What is written as one event at `a`: a sector, a block of the coded view, a whole lexeme of a text window; base and size. -/
def unitBase (a : Nat) : Nat × Nat :=
  match place a with
  | .text g =>
    let o := a - textBase g
    if 0x10000 ≤ o then (textBase g + 0x10000 + (o - 0x10000) / 48 * 48, 48) else granule a
  | _ => granule a

/-- Cut the bytes of a write where one event ends and the next begins; the first argument bounds the number of pieces. -/
def cutUnits : Nat → Nat → List Byte → List (Nat × List Byte)
  | 0, _, _ => []
  | _ + 1, _, [] => []
  | n + 1, a, b :: bs =>
    let u := unitBase a
    let k := u.1 + u.2 - a
    (a, (b :: bs).take k) :: cutUnits n (a + k) ((b :: bs).drop k)

/-- The pieces of some writes at local addresses, in their order. -/
def cutAll (ws : List (Nat × List Byte)) : List (Nat × List Byte) :=
  ws.flatMap fun w => cutUnits (w.2.length / 16 + 2) w.1 w.2

/-- The events that some writes at local addresses make: what falls in one sector, block or lexeme is one, in its order. -/
def groupUnits (ws : List (Nat × List Byte)) : List WriteUnit :=
  ((cutAll ws).foldl (fun (m : SMap WriteUnit) w =>
    let k := (unitBase w.1).1
    mset [] m k (mget [] m k ++ [w])) []).map Prod.snd

/-- R17, R96, R252, R400, R413. A write of one unit by an agent that is no core's issue stream, under an L2 policy; `own`: an engine
of the current core, whose L1 its writes update (R157). False: nothing is written. -/
def agentUnit (own : Bool) (pol : Nat) (u : WriteUnit) (s : State) : Bool × State :=
  let hit := fun (s : State) =>
    if own then { s with core := { s.core with
      l1 := u.foldl (fun m w => l1Store (globalOf s w.1) w.2 m) s.core.l1 } } else s
  match u with
  | [] => (true, s)
  | w :: _ =>
    if place w.1 = .coded then
      match codedWrites false u s with
      | .error (_, s1) => (false, s1)
      | .ok s1 => (true, hit s1)
    else
      match u.findSome? fun w => badAddr s w.1 w.2.length with
      | some b => (false, classify b s)
      | none =>
        if u.any fun w => (textRefused s w.1 w.2.length).isSome then (false, s)
        else (true, hit (u.foldl (fun s w => memWrite pol w.1 w.2 (keepUnfetched w.1 w.2.length s)) s))

/-! ### What a core's release covers and waits for (R152–R155, R164) -/

/-- The remote write or the message with this number is not yet visible where it goes: its response has not come, or some of its
payload has not landed. -/
def outstanding (s : State) (id : Nat) : Bool :=
  (s.fab.accs.any fun a => decide (a.id = id)) || (s.fab.heldReqs.any fun r => decide (r.id = id))
    || s.fab.sigs.any fun m => decide (m.id = id) && (!m.local_ || decide (m.pieces ≠ []))

/-- R150, R152, R163, R164. What a release of object `o` by the current core waits for: its messages whose payload goes to a region
bound to `o`, and, where the release reaches the scope of the module or beyond (`far`), its remote writes to one (log 126). -/
def waitsFor (far : Bool) (o : Nat) (s : State) : List Nat :=
  let bound := fun (l : List (Nat × Nat)) => l.any fun r => inBound s o r
  (s.fab.sigs.filter fun m => decide (m.core = s.coreNo) && outstanding s m.id
      && bound (m.pay.map fun w => (m.dest * 2 ^ 44 + w.1, w.2.length))).map SigMsg.id
    ++ (if far || decide (3 ≤ objScope s o) then
        (s.fab.accs.filter fun a => decide (a.core = s.coreNo) && bound a.wr).map RemoteAcc.id
          ++ (s.fab.heldReqs.filter fun r => decide (r.core = s.coreNo) && bound r.wr).map RemoteReq.id
      else [])

/-- R151, R152. Object `o` has been released by core `core` (another module's number beyond the cores): what that core wrote to the
regions bound to it is what every later read of another core sees. -/
def noteRelease (core o : Nat) (s : State) : State :=
  let covers := fun (k : Nat) => inBound s o (globalOf s (16 * k), (granule (16 * k)).2)
  mapVers (fun k v => if v.core = core ∧ covers k then { v with far := false } else v)
    { s with relObjs := mset false s.relObjs (o / 16 * 16) true }

/-- R48. A message fails finally: its signal is never applied. -/
def dropMessage (id : Nat) (s : State) : State :=
  { s with
    barq := s.barq.filter fun u => !decide (u.sig = some id)
    fab := { s.fab with sigs := s.fab.sigs.filter fun m => !decide (m.id = id) } }

/-- R388. A piece of the payload of a message to this module lands; one that cannot be written fails the message finally. -/
def landPiece (id : Nat) (p : Nat × WriteUnit) (s : State) : State :=
  let w := agentUnit false 0 p.2 s
  let upd := fun (q : SigMsg) => if q.id = id then { q with pieces := q.pieces.erase p } else q
  if w.1 then { w.2 with fab := { w.2.fab with sigs := w.2.fab.sigs.map upd } } else dropMessage id w.2

/-- The rest of a message's payload lands. -/
def landPayload (id : Nat) (s : State) : State :=
  match s.fab.sigs.find? fun m => decide (m.id = id) with
  | none => s
  | some m => m.pieces.foldl (fun s p => if s.fab.sigs.any fun q => decide (q.id = id) then landPiece id p s else s) s

/-- R152, R155. The payload of the current core's earlier messages to this module that `o` covers, or all of it, lands now (log
126). -/
def flushPayload (o : Option Nat) (s : State) : State :=
  let mine := s.fab.sigs.filter fun m => m.local_ && decide (m.core = s.coreNo) && decide (m.earliest < s.cyc + 16)
    && (match o with
      | none => true
      | some o => m.pay.any fun w => inBound s o (globalOf s w.1, w.2.length))
  mine.foldl (fun s m => landPayload m.id s) s

/-! ### Transaction barriers (R158–R162) -/

/-- R160. Apply one update to a barrier's 16 bytes. -/
def barrierStep (kind : BitVec 2) (n : Word32) (x : BitVec 128) : BitVec 128 :=
  let gen := x.extractLsb' 0 32
  let arrv := x.extractLsb' 32 16
  let arrx := x.extractLsb' 48 16
  let sect := x.extractLsb' 64 32
  let secx := x.extractLsb' 96 32
  let arrv := if kind = 0 then arrv - 1 else arrv
  let sect := if kind = 1 then sect - n else if kind = 2 then sect + n else sect
  if arrv = 0 ∧ sect = 0 then secx ++ secx ++ arrx ++ arrx ++ (gen + 1)
  else secx ++ sect ++ arrx ++ arrv ++ gen

/-- The barrier at a local physical address. -/
def readBarrier (s : State) (a : Nat) : BitVec 128 := BitVec.ofNat 128 (bytesToNat (s.mem.readBytes a 16))

/-- R162. Generation `g` is complete. -/
def genComplete (s : State) (a : Nat) (g : Word32) : Bool :=
  let gen := (readBarrier s a).extractLsb' 0 32
  decide (0 < (gen - g).toInt)

/-- R160. Hand an update to its home: applied when due, not before an earlier update of the same agent to the same barrier. -/
def postUpdateOf (u : BarrierUpd) (s : State) : State :=
  let mine := fun (v : BarrierUpd) => decide (v.addr = u.addr) && decide (v.core = u.core) && (v.bte == u.bte)
  let last := (s.barq.filter mine).foldl (fun m v => Nat.max m v.due) 0
  { s with barq := s.barq ++ [{ u with due := Nat.max u.due last }] }

/-- R160. An update, applied as soon as may be, of an agent that waits for nothing. -/
def BarrierUpd.plain (s : State) (core : Nat) (bte : Bool) (addr : Nat) (kind : BitVec 2) (n : Word32) : BarrierUpd where
  due := s.cyc
  addr := addr
  kind := kind
  n := n
  core := core
  bte := bte
  at_ := none
  sig := none
  waits := []
  since := s.cyc

/-- R152, R160, R252. An update is applied at its home, as one event, after the payload it waits for. A home that is absent or
uncorrectable takes none, and the error reaches the core whose ARRIVE or EXPECT it is. An arrival or a decrement is a release. -/
def takeUpdate (u : BarrierUpd) (s : State) : State :=
  let s := (u.waits ++ u.sig.toList).foldl (fun s i => landPayload i s) s
  if !s.barq.contains u then s
  else
    let s1 := { s with
      barq := s.barq.erase u
      fab := { s.fab with sigs := s.fab.sigs.filter fun m => !decide (u.sig = some m.id) } }
    match badAddr s1 u.addr 16 with
    | some b =>
      let s2 := classify b s1
      match u.at_ with
      | some (p, k) => modCore u.core (Core.meetError p k cMemerr b) s2
      | none => s2
    | none =>
      let s2 := memWrite 0 u.addr (natToBytes 16 (barrierStep u.kind u.n (readBarrier s1 u.addr)).toNat) s1
      if u.kind = 2 then s2 else noteRelease u.core (globalOf s u.addr) s2

/-- R148. The updates that the current core issued, in earlier cycles, to a barrier in these bytes take effect before its own
access to them, but for what a release still waits for at another module (log 126). -/
def ownUpdates (l n : Nat) (s : State) : State :=
  let mine := (s.barq.filter fun u => decide (u.core = s.coreNo) && !u.bte && decide (u.addr < l + n) && decide (l < u.addr + 16)).takeWhile
    fun u => (u.waits ++ u.sig.toList).all fun i => !outstanding s i || s.fab.sigs.any fun m => decide (m.id = i) && m.local_
  let go := (mine.reverse.dropWhile fun u => !(u.sig.isNone && decide (u.since < s.cyc))).reverse
  go.foldl (fun s u => takeUpdate u s) s

/-! ### Reads and writes of parts -/

/-- A core's read of a part of this module outside the coded view that lies in one 16-byte sector (R17, R146, R148, R252).
`atHome`: an atomic, which takes the contents at the home and never reads L1 (R147). -/
def readPart (atHome : Bool) (p : Part) (s : State) : Except (AccErr × State) (List Byte × State) :=
  match localPart s p.ga with
  | none => .error (.memerr p.ga, classify p.ga s)
  | some l =>
    match badAddr s l p.n with
    | some b => .error (.memerr b, classify b s)
    | none =>
      let s := ownUpdates l p.n s
      .ok (if atHome then (s.mem.readBytes l p.n, l2Touch 0 false l p.n s)
        else if l1Caches l p.nl1 then readL1 l p.n s
        else (readHome s l p.n, l2Touch 0 false l p.n s))

/-- A core's write of a part of this module outside the coded view. `l1`: update the L1 sectors it hits (a store, not an
atomic); `due`: when its loads see it, for a STT (R373). -/
def writePart (l1 : Bool) (due : Option Nat) (p : Part) (bs : List Byte) (s : State) : Except (AccErr × State) State :=
  match localPart s p.ga with
  | none => .error (.memerr p.ga, classify p.ga s)
  | some l =>
    match badAddr s l p.n with
    | some b => .error (.memerr b, classify b s)
    | none =>
      let s := keepUnfetched l p.n (ownUpdates l p.n s)
      .ok (if l1 then storeBytes due l bs s else homeWrite due l bs s)

/-- Record the error that an access of slot `slot` met, which ends the task (R252). -/
def recordErr (slot : Nat) (e : AccErr) (s : State) : State :=
  match e with
  | .memerr a => taskError slot cMemerr a s
  | .coded a => taskError slot cCoded a s

/-- R209. The blocks of the coded view that an access touches, each once, with its parts. -/
def codedGroups (s : State) (ps : List Part) : List (Nat × List Part) :=
  let bs := (ps.filterMap fun p => (codedPart s p).map (· / 128)).eraseDups
  bs.map fun b => (b * 128, ps.filter fun p => decide ((codedPart s p).map (· / 128) = some b))

/-- R208, R209. Read the blocks of the coded view that an access touches, one event each; the first error stops. -/
def readBlocks (atHome : Bool) : List (Nat × List Part) → State → Except (AccErr × State) (List (Nat × List Byte) × State)
  | [], s => .ok ([], s)
  | (b, ps) :: gs, s =>
    let lo := ps.foldl (fun m p => Nat.min m (p.ga % 128)) 128
    let hi := ps.foldl (fun m p => Nat.max m (p.ga % 128 + p.n)) 0
    match codedLoad (!atHome && ps.all fun p => !p.nl1) (b + lo) (hi - lo) s with
    | .error e => .error e
    | .ok (v, s1) =>
      match readBlocks atHome gs s1 with
      | .error e => .error e
      | .ok (vs, s2) => .ok ((b, v) :: vs, s2)

/-- Read several parts in order, those of the coded view from the blocks read; the first error stops. -/
def readEach (atHome : Bool) (vs : List (Nat × List Byte)) :
    List Part → State → Except (AccErr × State) (List (List Byte) × State)
  | [], s => .ok ([], s)
  | p :: ps, s =>
    let r := match codedPart s p with
      | none => readPart atHome p s
      | some l => .ok (((((vs.find? fun (v : Nat × List Byte) => decide (v.1 = l / 128 * 128)).map Prod.snd).getD []).drop (l % 128)).take p.n, s)
    match r with
    | .error e => .error e
    | .ok (b, s1) =>
      match readEach atHome vs ps s1 with
      | .error e => .error e
      | .ok (bs, s2) => .ok (b :: bs, s2)

/-- Read the parts of one access. -/
def readParts (atHome : Bool) (ps : List Part) (s : State) : Except (AccErr × State) (List (List Byte) × State) :=
  match readBlocks atHome (codedGroups s ps) s with
  | .error e => .error e
  | .ok (vs, s1) => readEach atHome vs ps s1

/-- R208. A core's write to one block of the coded view: one event; `l1`: with the L1 bytes it hits. -/
def writeBlock (l1 : Bool) (ws : List (Part × List Byte)) (s : State) : Except (AccErr × State) State :=
  match codedWrites true (ws.map fun w => (w.1.ga % 2 ^ 44, w.2)) s with
  | .error e => .error e
  | .ok s1 => .ok (if l1 then ws.foldl (fun s w => { s with core := { s.core with l1 := l1Store w.1.ga w.2 s.core.l1 } }) s1
      else s1)

/-- Write several parts in order, those of the coded view block by block; an error ends the task and leaves its own sector or
block, the others are written. -/
def writeParts (slot : Nat) (l1 : Bool) (due : Option Nat) (ws : List (Part × List Byte)) (s : State) : State :=
  let keep := fun (r : Except (AccErr × State) State) => match r with
    | .error (e, s1) => recordErr slot e s1
    | .ok s1 => s1
  let plain := ws.filter fun w => (codedPart s w.1).isNone
  let blocks := codedGroups s (ws.map Prod.fst)
  blocks.foldl (fun s g => keep (writeBlock l1 (ws.filter fun w => g.2.contains w.1) s))
    (plain.foldl (fun s w => keep (writePart l1 due w.1 w.2 s)) s)

/-! ### What a placed access still has to pass (R47, R96, R198) -/

/-- R198. Some part is a coded-view access: in a region in force of this module, or in another module's window. -/
def anyCoded (s : State) (ps : List Part) : Bool :=
  ps.any fun p => match localPart s p.ga with
    | some l => decide (place l = .coded) && (blockAt s l).isSome
    | none => decide (place (p.ga % 2 ^ 44) = .coded)
def isRemote (s : State) (p : Part) : Bool := (localPart s p.ga).isNone

/-- R119. The bound of an access to another module; 0 where no path reaches it. -/
def remoteBound (s : State) (ga : Nat) : Nat := ((remotePath s (ga / 2 ^ 44)).map (pathBound s)).getD 0

/-- R104, R119, R126, R198. The bound of a part. -/
def partBound (s : State) (space : Nat) (p : Part) : Nat :=
  if space = 0 then 10 else if space = 2 then 48
  else match localPart s p.ga with
    | none => remoteBound s p.ga
    | some l => if place l = .coded then codedBound s s.coreNo l else globalBound s.coreNo l
/-- The largest bound of the parts. -/
def partsBound (s : State) (space : Nat) (ps : List Part) : Nat :=
  ps.foldl (fun m p => Nat.max m (partBound s space p)) 1

/-- Sort what an access does with its parts by the module each lies in. -/
def byModule {α : Type} (part : α → Part) (xs : List α) : List (List α) :=
  ((xs.map fun x => (part x).ga / 2 ^ 44).eraseDups).map fun m => xs.filter fun x => decide ((part x).ga / 2 ^ 44 = m)

/-- R47, R369. An access asks each other module by one request: its module's parts, in order. -/
def requests (ps : List Part) : List (List Part) := byModule id ps

/-- Ranges of bytes, each of which begins where the one before it ends. -/
def oneRun (ps : List Part) : Bool := (ps.zip (ps.drop 1)).all fun x => decide (x.2.ga = x.1.ga + x.1.n)

/-- R47. What a request asks for: one range of bytes, or several of one module. -/
def loadOp (ps : List Part) : RemoteOp :=
  if oneRun ps then .load ((ps.map Part.n).foldl (fun a b => a + b) 0) else .gather (ps.map fun p => (p.ga % 2 ^ 44, p.n))
def storeOp (ws : List (Part × List Byte)) : RemoteOp :=
  if oneRun (ws.map Prod.fst) then .store (ws.flatMap Prod.snd) else .scatter (ws.map fun w => (w.1.ga % 2 ^ 44, w.2))

/-- Address a request names: its first byte. -/
def firstGa (ps : List Part) : Nat := (ps.head?.map Part.ga).getD 0

/-- Requests queued at a port (R47). -/
def queuedAt (s : State) (port : Nat) : Nat := (s.fab.reqq.filter fun r => decide (r.port = port)).length

/-- The port a remote access to `ga` leaves by. -/
def leavesBy (s : State) (ga : Nat) : Option Nat := ((remotePath s (ga / 2 ^ 44)).bind List.head?).map (servPort s)

/-- R47. Requests to these addresses find the queue of one of their ports full. -/
def portFull (s : State) (gas : List Nat) : Bool :=
  let ports := gas.filterMap (leavesBy s)
  ports.any fun p => decide (64 < queuedAt s p + (ports.filter fun q => decide (q = p)).length)

/-- The causes an access has once its place is known: TEXT_WRITE for a refused write (R96), SCHEDULE for a second coded
access (R198) or a full port (R47). Details: the position; the address as the access names it. -/
def placedCauses (s : State) (wr : Bool) (va : Nat) (ps : List Part) : List (Nat × Nat) :=
  let tw := if wr then ps.filterMap fun p => (localPart s p.ga).bind fun l => textRefused s l p.n else []
  let rem := ps.filter (isRemote s)
  tw.map (fun x => (cTextWrite, x))
    ++ (if anyCoded s ps && decide (s.core.icnt < s.core.codedBusy) then [(cSchedule, va)] else [])
    ++ (if portFull s ((requests rem).map firstGa) then [(cSchedule, va)] else [])

/-- R198. A coded-view access is outstanding until its bound has elapsed. -/
def markCoded (b : Bool) (bound : Nat) (s : State) : State :=
  if b then { s with core := { s.core with codedBusy := s.core.icnt + bound } } else s

/-! ### Remote requests (R34, R47) -/

/-- R47, R289. A remote request enters the queue of its port; its bound runs from here (log 126). One that no path reaches is an
absent range (R34), but a prefetch then does nothing. -/
def queueRequest (r : RemoteReq) (s : State) : State :=
  match remotePath s (r.ga / 2 ^ 44) with
  | some (k :: _) =>
    let port := servPort s k
    let b := remoteBound s r.ga + r.extra
    let acc : RemoteAcc := ⟨r.id, r.core, port, r.ga, r.pos, r.slot, (coreAt s r.core).icnt + b, r.dst, r.wr⟩
    let msg : ServMsg := ⟨port, r.ga / 2 ^ 44, .request r.id r.ga r.op, ((tableFor s).map LinkTable.slotA).getD 0⟩
    let s1 := { s with fab := { s.fab with reqq := s.fab.reqq ++ [msg], accs := s.fab.accs ++ [acc] } }
    let counts := match r.dst, r.op with
      | .drop, _ => false
      | .barrier _, _ => false
      | _, .store _ => false
      | _, .scatter _ => false
      | _, .arrive => false
      | _, .expect _ => false
      | _, _ => true
    if counts then modCore r.core (fun c => { c with pend := c.pend ++ [⟨c.icnt + b, c.icnt + b, .nothing⟩] }) s1 else s1
  | _ =>
    match r.dst with
    | .drop => s
    | _ => modCore r.core (Core.meetError r.pos r.slot cMemerr r.ga) (classify r.ga s)

/-- A held request of the same core to the same sector: what follows it there waits for it (R148). -/
def followsHeld (r : RemoteReq) (s : State) : Bool :=
  s.fab.heldReqs.any fun h => decide (h.core = r.core) && decide (h.ga / 16 = r.ga / 16)

/-- R47, R152. A remote request is queued, or held: for what it waits for, or behind a held one of its sector. -/
def submitRequest (r : RemoteReq) (s : State) : State :=
  if (r.waits.any (outstanding s)) || followsHeld r s then { s with fab := { s.fab with heldReqs := s.fab.heldReqs ++ [r] } }
  else queueRequest r s

/-- R47. A remote request of slot `slot` of the bundle issuing now. -/
def sendRequest (slot extra : Nat) (ga : Nat) (op : RemoteOp) (dst : RDst) (wr : List (Nat × Nat)) (waits : List Nat)
    (s : State) : State :=
  submitRequest ⟨s.fab.nextId, s.coreNo, s.core.pc, BitVec.ofNat 3 slot, extra, wr, ga, op, dst, waits⟩
    { s with fab := { s.fab with nextId := s.fab.nextId + 1 } }

/-- R47, R252. A remote access failed, or its response did not come in time: the error reaches the core, but for a prefetch
(R142). -/
def remoteError (a : RemoteAcc) (s : State) : State :=
  match a.dst with
  | .drop => s
  | _ => taskErrorAt a.pos a.slot cMemerr a.addr s

/-- The extension of a scalar load (R303). -/
def extendLoad (width : BitVec 3) (v : Nat) : Word64 :=
  let sz := 2 ^ (width.toNat % 4)
  if width.toNat < 4 then BitVec.ofNat 64 v else BitVec.ofInt 64 (sint (8 * sz) v)

/-- The predicate of an LDV predicate load (R372): lane ℓ takes bit ℓ mod 8 of byte ⌊ℓ/8⌋. -/
def predOfBytes (bs : List Byte) : BitVec 64 := BitVec.ofNat 64 (bytesToNat (bs.take 8))

/-- The effects of data that arrives for a destination. -/
def dstEffects (dst : RDst) (bs : List Byte) : List Effect :=
  match dst with
  | .none => []
  | .s n w => [.s n (extendLoad w (bytesToNat bs))]
  | .t keys => keys.mapIdx fun i k => .t k (BitVec.ofNat 32 (bytesToNat ((bs.drop (4 * i)).take 4)))
  | .p n => [.pAll n (predOfBytes bs)]
  | .pLanes n ls => ls.mapIdx fun i l => .p n l (decide (bytesToNat ((bs.drop (4 * i)).take 4) ≠ 0))
  | .drop => []
  | .barrier _ => []

/-- R159, R402. A barrier named through space 3 lies in HBM. -/
def barrierPlace (space va : Nat) (p : Part) : List (Nat × Nat) :=
  if space ≠ 3 then [] else
    match place (p.ga % 2 ^ 44) with
    | .hbm _ => []
    | _ => [(cProtect, va)]

end Sys2Proof.Machine
end

