-- ==== Sys2Proof/Machine/Engine.lean ====
section
/-! DEFINITION. What the engines of a core share: reads that FENCE.cp has not ordered (R156), streams from global
addresses (R136, R140, R365), and writes cut at the 16-byte sectors that are atomic (R146). -/

namespace Sys2Proof.Machine

open Host

/-- R147, R156, R227. What an engine of the current core (`mu`: its matrix unit, else its BTE) reads of the granule at `g`, which
holds `cur`: the contents before one of the core's stores that no FENCE.cp has ordered toward it, or the latest ones, a free
choice; for a merge (`far`) also those before a store of another core that it has not released since. What lies before the contents
it has read is out of its reach from then on (log 8). -/
def pickFor (far mu : Bool) (g : Nat) (cur : List Byte) (s : State) : List Byte × State :=
  let vs := mget [] s.vers (g / 16)
  let own := fun (v : Ver) => decide (v.core = s.coreNo) && (if mu then v.mu else v.bte)
    && !(decide (v.cyc + 1 < s.core.fenceCp) && decide (s.core.fenceCp ≤ s.cyc))
  let alive := fun (v : Ver) => own v || (far && v.far && decide (v.core ≠ s.coreNo))
  let cand := vs.filter alive
  if cand = [] then (cur, s)
  else
    let i := freeBelow s 0 (cand.length + 1)
    let keep := cand.drop i
    let seen := fun (k : Nat) (v : Ver) =>
      if k ≠ g / 16 ∨ !alive v ∨ keep.contains v then v
      else if v.core ≠ s.coreNo then { v with far := false }
      else if mu then { v with mu := false } else { v with bte := false }
    (((cand.drop i).head?.map Ver.val).getD cur, spend 1 (mapVers seen s))

/-- R147, R156. What an engine's read, other than a merge's, gives. -/
def engPick (mu : Bool) (g : Nat) (cur : List Byte) (s : State) : List Byte × State := pickFor false mu g cur s

/-- R146, R156, R227. Storage as an engine of the current core sees some ranges of it, chosen sector by sector, in place of `mem`;
and the state that remembers the choices. -/
def viewFor (far mu : Bool) (rs : List (Nat × Nat)) (s : State) : State × State :=
  let ks := (s.vers.map Prod.fst).filter fun k => decide (place (16 * k) ≠ .coded)
    && rs.any fun r => decide (r.1 < 16 * k + 16) && decide (16 * k < r.1 + r.2)
  let x := ks.foldl (fun (a : Memory × State) k =>
    let p := pickFor far mu (16 * k) (a.2.mem.readBytes (16 * k) 16) a.2
    (a.1.writeBytes (16 * k) p.1, p.2)) (s.mem, s)
  ({ x.2 with mem := x.1 }, x.2)

/-- R146, R156. The view of an engine that reads no other core's sketch. -/
def engView (mu : Bool) (rs : List (Nat × Nat)) (s : State) : State × State := viewFor false mu rs s

/-- R146, R156. Bytes at local physical addresses outside the coded view as an engine reads them. -/
def engBytes (mu : Bool) (a n : Nat) (s : State) : List Byte × State :=
  let v := engView mu [(a, n)] s
  (v.1.mem.readBytes a n, v.2)

/-- The draws one command may spend on such choices: one for each sector of the local map. -/
def engDraws : Nat := 2 ^ 40

/-- R157. An engine's write at local physical addresses of this module, with the L1 sectors of its core that it hits. -/
def engWrite (pol a : Nat) (bs : List Byte) (s : State) : State :=
  let s1 := memWrite pol a bs s
  { s1 with core := { s1.core with l1 := l1Store (globalOf s a) bs s1.core.l1 } }
/-- Several such writes in order. -/
def engWrites (ws : List (Nat × List Byte)) (s : State) : State := ws.foldl (fun s w => engWrite 0 w.1 w.2 s) s

/-- R146, R354, R355. Of some writes, those that a free choice for each sector takes, by draws from the `k`-th on, and the others. -/
def chooseUnits (k : Nat) (ws : List (Nat × List Byte)) (s : State) : List (Nat × List Byte) × List (Nat × List Byte) :=
  let us := (groupUnits ws).mapIdx fun i u => (freeBit s (k + i), u)
  ((us.filter Prod.fst).flatMap Prod.snd, (us.filter fun u => !u.1).flatMap Prod.snd)

/-- Cut the bytes of a write at sector boundaries; the first argument bounds the number of pieces. -/
def secSplitAux : Nat → Nat → List Byte → List (Nat × List Byte)
  | 0, _, _ => []
  | _ + 1, _, [] => []
  | n + 1, a, b :: bs =>
    let k := 16 - a % 16
    (a, (b :: bs).take k) :: secSplitAux n (a + k) ((b :: bs).drop k)
/-- The pieces of a write, one for each sector (R146). -/
def secSplit (a : Nat) (bs : List Byte) : List (Nat × List Byte) := secSplitAux (bs.length / 16 + 2) a bs

/-- A failed engine read: the code that ERR records (R365), and the state after classification (R253). -/
abbrev EngErr := Nat × State

/-- R208. The blocks of the coded view that a stream has read so far, each as its one event gave it. -/
abbrev BlocksRead := List (Nat × List Byte)

/-- R208. A stream's read of the block of the coded view at `b`, of which it uses the bytes from `lo` to `hi`: one event. -/
def engBlock (mu : Bool) (b lo hi : Nat) (s : State) : Except EngErr (List Byte × State) :=
  match codedBlockRead (b + lo) (hi - lo) s with
  | .error (.memerr _, s1) => .error (cMemerr, s1)
  | .error (.coded _, s1) => .error (cCoded, s1)
  | .ok (bs, s1) => .ok (engPick mu b bs s1)

/-- R17, R208, R252. A stream's read of a translated part, under an L2 policy; `all` are its parts, and `c` the blocks it has read.
Another module's bytes are free values where a path reaches it, and an absent range otherwise (R34, log 1). -/
def engPart (pol : Nat) (mu : Bool) (all : List Part) (c : BlocksRead) (p : Part) (s : State) :
    Except EngErr (List Byte × BlocksRead × State) :=
  match localPart s p.ga with
  | none =>
    match remotePath s (p.ga / 2 ^ 44) with
    | some _ => .ok ((List.range p.n).map fun i => (Config.free (s.free + engDraws + i)).setWidth 8, c, spend p.n s)
    | none => .error (cMemerr, classify p.ga s)
  | some a =>
    if place a = .coded then
      let b := a / 128 * 128
      let cut := fun (v : List Byte) => (v.drop (a % 128)).take p.n
      match c.find? fun x => decide (x.1 = b) with
      | some x => .ok (cut x.2, c, s)
      | none =>
        let here := all.filter fun q => decide ((codedPart s q).map (· / 128) = some (a / 128))
        let lo := here.foldl (fun m q => Nat.min m (q.ga % 128)) 128
        let hi := here.foldl (fun m q => Nat.max m (q.ga % 128 + q.n)) 0
        match engBlock mu b lo hi s with
        | .error e => .error e
        | .ok (v, s1) => .ok (cut v, (b, v) :: c, s1)
    else
      match badAddr s a p.n with
      | some b => .error (cMemerr, classify b s)
      | none =>
        let x := engBytes mu a p.n (l2Touch pol false a p.n s)
        .ok (x.1, c, x.2)

/-- Read parts of a stream in order. -/
def engPartsIn (pol : Nat) (mu : Bool) (all : List Part) :
    BlocksRead → List Part → State → Except EngErr (List Byte × BlocksRead × State)
  | c, [], s => .ok ([], c, s)
  | c, p :: ps, s =>
    match engPart pol mu all c p s with
    | .error e => .error e
    | .ok (b, c1, s1) =>
      match engPartsIn pol mu all c1 ps s1 with
      | .error e => .error e
      | .ok (bs, c2, s2) => .ok (b ++ bs, c2, s2)

/-- Read all parts of a stream. -/
def engParts (pol : Nat) (mu : Bool) (ps : List Part) (s : State) : Except EngErr (List Byte × State) :=
  match engPartsIn pol mu ps [] ps s with
  | .error e => .error e
  | .ok (bs, _, s1) => .ok (bs, s1)

/-- R17, R252. Local ranges as the matrix unit of the core sees them, and the state after (`viewFor`), unless one holds an
uncorrectable sector. -/
def muViewFor (far : Bool) (rs : List (Nat × Nat)) (s : State) : Except EngErr (State × State) :=
  match (rs.filterMap fun r => badAddr s r.1 r.2).head? with
  | some b => .error (cMemerr, classify b s)
  | none => .ok (viewFor far true rs s)
def muView (rs : List (Nat × Nat)) (s : State) : Except EngErr (State × State) := muViewFor false rs s

/-- R121. Ranges of the core's scratchpad, by offset, as local ranges. -/
def spadRanges (s : State) (rows : List (Nat × Nat)) : List (Nat × Nat) := rows.map fun r => (spadBase s.coreNo + r.1, r.2)

/-- R121. Ranges of the scratchpad, each as one number, in a view of storage. -/
def rowsIn (v : State) (rows : List (Nat × Nat)) : List Nat :=
  rows.map fun r => bytesToNat (v.mem.readBytes (spadBase v.coreNo + r.1) r.2)

/-- R121, R252. Read ranges of the core's scratchpad for its matrix unit, each as one number. -/
def spadRows (rows : List (Nat × Nat)) (s : State) : Except EngErr (List Nat × State) :=
  match muView (spadRanges s rows) s with
  | .error e => .error e
  | .ok (v, s1) => .ok (rowsIn v rows, s1)

/-- Cut a byte string into pieces of given lengths, each as one number. -/
def cutRows : List Nat → List Byte → List Nat
  | [], _ => []
  | n :: ns, bs => bytesToNat (bs.take n) :: cutRows ns (bs.drop n)

/-- R136, R139, R365. Read ranges at global virtual addresses for a routine; a failed walk or an error stops it. -/
def globalRows (owner : WalkFor) (rows : List (Nat × Nat)) (s : State) : Except Nat (List Nat) × List Walk × State :=
  let a := xlAll s owner (myDie s) false (rows.flatMap fun r => pieces128 r.1 r.2)
  let ws := a.walks
  let s1 := spend a.used s
  match a.causes, a.fail with
  | (c, _) :: _, _ => (.error c, ws, s1)
  | [], some (c, _) => (.error c, ws, s1)
  | [], none =>
    match engParts 0 true a.parts s1 with
    | .error (c, s2) => (.error c, ws, s2)
    | .ok (bs, s2) => (.ok (cutRows (rows.map Prod.snd) bs), ws, s2)

/-- Add walks of an engine to those the shadow context has to make (R140). -/
def addWalks (ws : List Walk) (s : State) : State :=
  { s with core := { s.core with walks := s.core.walks ++ ws } }

/-- R122, R358. The first segment of a pass that conflicts with an earlier one of the same pass: two different sectors of
one bank. `seen` holds the sectors so far. -/
def passClash : List Nat → List Nat → Option Nat
  | _, [] => none
  | seen, o :: os =>
    let sec := o / 16
    if seen.any fun x => decide (x % 32 = sec % 32) && decide (x ≠ sec) then some o else passClash (sec :: seen) os

/-- Passes of 32 segments. -/
def passes32 (fuel : Nat) (l : List Nat) : List (List Nat) :=
  match fuel with
  | 0 => []
  | f + 1 => if l = [] then [] else l.take 32 :: passes32 f (l.drop 32)
def bankClashIn (l : List Nat) : Option Nat := ((passes32 (l.length / 32 + 1) l).filterMap (passClash [])).head?

end Sys2Proof.Machine
end

