-- ==== Sys2Proof/Machine/Vector.lean ====
section
/-! DEFINITION. V slots: arithmetic, complex, logic, conversion, data movement, reductions, compare, select, flags and
random values (R314–R338). -/

namespace Sys2Proof.Machine

/-- The checks of an operation with destination d and sources a, b of format f; `useB` false for an "a only" row. -/
def vChecks (f : Nat) (useB : Bool) (v : VOp) : List (Option (Nat × Nat)) :=
  [opCause (dstBad f (kindOf v.d)) v.d, opCause (srcBad f (kindOf v.a)) v.a,
   if useB then opCause (srcBad f (kindOf v.b)) v.b else none]

/-- R330, R336. The checks of an operation that moves untyped elements or pairs. -/
def moveChecks (f : Nat) (useB : Bool) (v : VOp) : List (Option (Nat × Nat)) :=
  [opCause (dstBad f (kindOf v.d)) v.d, opCause (elemBad f (kindOf v.a)) v.a,
   if useB then opCause (elemBad f (kindOf v.b)) v.b else none]

/-- Value `i` of an operand field in format `f`. -/
def vA (s : State) (f : Nat) (v : VOp) (i : Nat) : Nat := srcVal s f (kindOf v.a) i
def vB (s : State) (f : Nat) (v : VOp) (i : Nat) : Nat := srcVal s f (kindOf v.b) i
def vD (s : State) (f : Nat) (v : VOp) (i : Nat) : Nat := srcVal s f (kindOf v.d) i

/-! ### Element-wise arithmetic (R319–R321) -/

/-- R319. A rounded element-wise operation: floating values by `fop` and one rounding, integer values by `iop` and R169.
`acc` and `rmax` give the accepted formats and rounding codes. -/
def vArith (acc : Nat → Bool) (rmax : Nat) (useB : Bool) (lf li : Nat)
    (fop : State → Nat → Bool → VOp → Nat → FV × Flags) (iop : State → Nat → VOp → Nat → Int) (v : VOp) (s : State) : Res :=
  let f := resFmt s v.fmt
  let r := resRnd s v.rnd
  guarded (vSlot v)
    ([codeCause (acc f) f, codeCause (decide (r ≤ rmax) && (!isIntFmt f || r == 0)) r] ++ vChecks f useB v)
    (fun s =>
      let val := fun i =>
        if isIntFmt f then (narrowInt f v.sat (iop s f v i), (0 : Flags))
        else finish (ffmt f) (rndAt s r v.sat f i) (fop s f (r == 3) v i)
      advCctr (r == 5) (vecWrite (if isIntFmt f then li else lf) f v val s)) s

/-- Decoded floating values of the operands. -/
def fA (s : State) (f : Nat) (v : VOp) (i : Nat) : FV := decodeFmt f (vA s f v i)
def fB (s : State) (f : Nat) (v : VOp) (i : Nat) : FV := decodeFmt f (vB s f v i)
def fD (s : State) (f : Nat) (v : VOp) (i : Nat) : FV := decodeFmt f (vD s f v i)
/-- Integer values of the operands. -/
def iA (s : State) (f : Nat) (v : VOp) (i : Nat) : Int := intOf f (vA s f v i)
def iB (s : State) (f : Nat) (v : VOp) (i : Nat) : Int := intOf f (vB s f v i)
/-- No integer form. -/
def noInt (_ : State) (_ : Nat) (_ : VOp) (_ : Nat) : Int := 0

/-- R319. VADD. -/
def execVadd (v : VOp) (s : State) : Res :=
  vArith accFI 5 true 4 2 (fun s f rdn v i => addFV rdn (fA s f v i) (fB s f v i)) (fun s f v i => iA s f v i + iB s f v i) v s
/-- R319. VSUB. -/
def execVsub (v : VOp) (s : State) : Res :=
  vArith accFI 5 true 4 2 (fun s f rdn v i => addFV rdn (fA s f v i) (fB s f v i).flip) (fun s f v i => iA s f v i - iB s f v i) v s
/-- R319. VMUL. -/
def execVmul (v : VOp) (s : State) : Res :=
  vArith accFI 5 true 4 2 (fun s f _ v i => mulFV (fA s f v i) (fB s f v i)) (fun s f v i => iA s f v i * iB s f v i) v s
/-- R319. VFMA: a·b + d. -/
def execVfma (v : VOp) (s : State) : Res :=
  vArith accF 5 true 4 4 (fun s f rdn v i => fmaFV rdn (fA s f v i) (fB s f v i) (fD s f v i)) noInt v s
/-- R319. VFMS: a·b − d. -/
def execVfms (v : VOp) (s : State) : Res :=
  vArith accF 5 true 4 4 (fun s f rdn v i => fmaFV rdn (fA s f v i) (fB s f v i) (fD s f v i).flip) noInt v s
/-- R319. VFNMA: −(a·b) + d. -/
def execVfnma (v : VOp) (s : State) : Res :=
  vArith accF 5 true 4 4 (fun s f rdn v i => fmaFV rdn (fA s f v i).flip (fB s f v i) (fD s f v i)) noInt v s
/-- R319. VDIV. -/
def execVdiv (v : VOp) (s : State) : Res :=
  vArith accF 5 true 14 14 (fun s f _ v i => divFV (fA s f v i) (fB s f v i)) noInt v s
/-- R319. VSQRT. -/
def execVsqrt (v : VOp) (s : State) : Res :=
  vArith accF 5 false 16 16 (fun s f _ v i => sqrtFV (fA s f v i)) noInt v s
/-- R321. VEXP2. -/
def execVexp2 (v : VOp) (s : State) : Res :=
  vArith (fun f => f == 10) 4 false 10 10 (fun s f _ v i => exp2FV (fA s f v i)) noInt v s
/-- R321. VLOG2. -/
def execVlog2 (v : VOp) (s : State) : Res :=
  vArith (fun f => f == 10) 4 false 10 10 (fun s f _ v i => log2FV (fA s f v i)) noInt v s

/-- R320. An operation that rounds nothing: each value by `op` on its patterns. `satOk` false refuses sat for floating
formats (VABS, VNEG) and `sat` never stands in the words of VMIN and VMAX. -/
def vPlain (useB : Bool) (op : State → Nat → Nat → Nat × Flags) (v : VOp) (s : State) : Res :=
  let f := resFmt s v.fmt
  guarded (vSlot v)
    ([codeCause (accFI f) f, codeCause (useB || isIntFmt f || !v.sat) f] ++ vChecks f useB v)
    (vecWrite 2 f v (op s f)) s

/-- R320. VMIN, VMAX on one value. -/
def minMaxVal (mx : Bool) (v : VOp) (s : State) (f i : Nat) : Nat × Flags :=
  let x := vA s f v i
  let y := vB s f v i
  if isIntFmt f then (if decide (intOf f x < intOf f y) != mx then x else y, 0) else minMaxFV (ffmt f) mx x y
/-- R320. VMIN. -/
def execVmin (v : VOp) (s : State) : Res := vPlain true (minMaxVal false v) v s
/-- R320. VMAX. -/
def execVmax (v : VOp) (s : State) : Res := vPlain true (minMaxVal true v) v s
/-- R320. VABS: the sign bit cleared; the magnitude of a signed integer. -/
def execVabs (v : VOp) (s : State) : Res :=
  vPlain false (fun s f i =>
    let x := vA s f v i
    if isIntFmt f then (narrowInt f v.sat ((intOf f x).natAbs : Int), 0) else (x % 2 ^ (fmtWidth f - 1), 0)) v s
/-- R320. VNEG: the sign bit inverted; the negation of an integer. -/
def execVneg (v : VOp) (s : State) : Res :=
  vPlain false (fun s f i =>
    let x := vA s f v i
    if isIntFmt f then (narrowInt f v.sat (-(intOf f x)), 0)
    else (if x < 2 ^ (fmtWidth f - 1) then x + 2 ^ (fmtWidth f - 1) else x - 2 ^ (fmtWidth f - 1), 0)) v s

/-! ### Reductions (R189, R190, R322, R334) -/

/-- R189. One level of the tree: pairs combined, the lower index first; the flags of the nodes. -/
def treeLevel (op : Nat → Nat → Nat × Flags) : List Nat → List Nat × Flags
  | a :: b :: r =>
    let x := op a b
    let y := treeLevel op r
    (x.1 :: y.1, x.2 ||| y.2)
  | l => (l, 0)
/-- R189. The fixed pairwise tree. -/
def treeRed (op : Nat → Nat → Nat × Flags) : Nat → List Nat → Nat × Flags
  | 0, l => (l.headD 0, 0)
  | n + 1, l =>
    let x := treeLevel op l
    let y := treeRed op n x.1
    (y.1, x.2 ||| y.2)

/-- R190. A NaN input, or infinities of both signs. -/
def badSum (xs : List FV) : Bool :=
  xs.any FV.isNan || (xs.any (fun x => x == .inf false) && xs.any (fun x => x == .inf true))

/-- R189, R334. Floating reduction of patterns: 0 add, 1 MIN, 2 MAX. -/
def redFloat (f : Nat) (op : Nat) (xs : List Nat) : Nat × Flags :=
  let ff := ffmt f
  if op = 0 then
    if badSum (xs.map ff.decode) then (ff.nan, NV)
    else treeRed (fun a b => finish ff Rnd.rne (addFV false (ff.decode a) (ff.decode b))) 6 xs
  else treeRed (minMaxFV ff (op == 2)) 6 xs

/-- R334. Integer reduction. -/
def redInt (f : Nat) (op : Nat) (xs : List Nat) : Nat :=
  (treeRed (fun a b =>
    (if op = 0 then narrowInt f false (intOf f a + intOf f b)
     else if decide (intOf f a < intOf f b) != (op == 2) then a else b, 0)) 6 xs).1

/-- R189, R334. The identity of a reduction. -/
def redId (f op : Nat) : Nat :=
  if isIntFmt f then
    (if op = 0 then 0 else wrapInt (fmtWidth f) (if op = 1 then intMax f else intMin f))
  else (ffmt f).signed (op != 1) (if op = 0 then 0 else (ffmt f).infMag)

/-- R334. VRED. -/
def execVred (v : VOp) (s : State) : Res :=
  let f := resFmt s v.fmt
  let kd := kindOf v.d
  guarded (vSlot v)
    [codeCause (accR f) f, opCause (!kd.isS && dstBad f kd) v.d, opCause (srcBad f (kindOf v.a)) v.a]
    (fun s =>
      let op := v.sub.toNat
      let xs := (List.range (numVals f)).map fun i =>
        if laneGuard s v (if isPair f then 2 * i else i) then vA s f v i else redId f op
      let r := if isIntFmt f then (redInt f op xs, (0 : Flags)) else redFloat f op xs
      let fl := if v.nf || r.2 == 0 then []
        else if isPair f then [Effect.lflg 0 r.2, .lflg 1 r.2] else [Effect.lflg 0 r.2]
      let s := putMany 8 fl s
      match kd with
      | .s n => putS 8 n (if f = 4 then BitVec.ofInt 64 (sint 32 r.1) else BitVec.ofNat 64 r.1) s
      | _ => putMany 8 (vecEffects s v kd (fun _ => true) (laneOf f fun _ => (r.1, 0))) s) s

/-- R322. VSQACC. -/
def execVsqacc (v : VOp) (s : State) : Res :=
  let f := resFmt s v.fmt
  guarded (vSlot v) ([codeCause (f == 10 || f == 11) f] ++ vChecks f false v)
    (fun s =>
      let ff := ffmt f
      let n := numVals f
      let sq := fun k =>
        if laneGuard s v (if isPair f then 2 * k else k) then mulFV (fA s f v k) (fA s f v k) else (FV.fin true 0 0, 0)
      let ins := (List.range n).map fun k => fA s f v k
      let bad := (List.range n).any fun k =>
        laneGuard s v (if isPair f then 2 * k else k) && (ins.getD k (.nan false)).isNan
      let w := (List.range (n / 2)).map fun k => finish ff Rnd.rne (addFV false (sq (2 * k)).1 (sq (2 * k + 1)).1)
      let t := treeRed (fun a b => finish ff Rnd.rne (addFV false (ff.decode a) (ff.decode b))) 5 (w.map Prod.fst)
      let tot := if bad then (ff.nan, NV) else (t.1, orFlags (w.map Prod.snd) ||| t.2)
      let val := fun k =>
        let d := fD s f v k
        let x := finish ff Rnd.rne (addFV false d (ff.decode tot.1))
        (x.1, if d.isNan then x.2 ||| NV else x.2)
      let fl := if v.nf || tot.2 == 0 then []
        else if isPair f then [Effect.lflg 0 tot.2, .lflg 1 tot.2] else [Effect.lflg 0 tot.2]
      putMany 8 fl (putMany 8 (vecEffects s v (kindOf v.d) (fun _ => true) (laneOf f val)) s)) s

/-! ### Complex (R170, R323) -/

/-- R170. The parts of a CF32 pattern. -/
def cRe (x : Nat) : FV := F32.decode (x % 2 ^ 32)
def cIm (x : Nat) : FV := F32.decode (x / 2 ^ 32)
/-- p·q + sgn·(r·t), formed exactly. -/
def twoProd (rdn : Bool) (p q r t : FV) (sub : Bool) : FV × Flags :=
  let x := mulFV p q
  let y := mulFV r t
  let z := addFV rdn x.1 (if sub then y.1.flip else y.1)
  (z.1, x.2 ||| y.2 ||| z.2)
/-- R323. A complex product, with the addend of VCFMA when `add`, each part rounded once. -/
def cmulVal (add : Bool) (v : VOp) (r : Nat) (s : State) (k : Nat) : Nat × Flags :=
  let a := vA s 17 v k
  let b := vB s 17 v k
  let d := vD s 17 v k
  let rdn := r == 3
  let fin := fun (x : FV × Flags) (y : FV) (l : Nat) =>
    let t := if add then addFV rdn x.1 y else (x.1, 0)
    finish F32 ⟨r, v.sat, if r = 5 then drawU s l else 0⟩ (t.1, x.2 ||| t.2)
  let re := fin (twoProd rdn (cRe a) (cRe b) (cIm a) (cIm b) true) (cRe d) (2 * k)
  let im := fin (twoProd rdn (cRe a) (cIm b) (cIm a) (cRe b) false) (cIm d) (2 * k + 1)
  (re.1 + im.1 * 2 ^ 32, re.2 ||| im.2)
/-- R323. VCMUL and VCFMA. -/
def vCplx (add : Bool) (v : VOp) (s : State) : Res :=
  let f := resFmt s v.fmt
  let r := resRnd s v.rnd
  guarded (vSlot v) ([codeCause (f == 17) f, codeCause (decide (r ≤ 5)) r] ++ vChecks 17 true v)
    (fun s => advCctr (r == 5) (vecWrite 4 17 v (cmulVal add v r s) s)) s
/-- R323. VCMUL. -/
def execVcmul (v : VOp) (s : State) : Res := vCplx false v s
/-- R323. VCFMA. -/
def execVcfma (v : VOp) (s : State) : Res := vCplx true v s
/-- R323. VCONJ: the imaginary part's sign bit inverted. -/
def execVconj (v : VOp) (s : State) : Res :=
  let f := resFmt s v.fmt
  guarded (vSlot v) ([codeCause (f == 17) f] ++ vChecks 17 false v)
    (fun s => vecWrite 2 17 v (fun k =>
      let x := vA s 17 v k
      (if x < 2 ^ 63 then x + 2 ^ 63 else x - 2 ^ 63, 0)) s) s

/-! ### Logic and shifts (R324) -/

/-- R324. A logic operation on the value patterns. -/
def vLogic (op : Nat → Nat → Nat → Nat) (v : VOp) (s : State) : Res :=
  let f := resFmt s v.fmt
  guarded (vSlot v) ([codeCause (accI f) f] ++ vChecks f true v)
    (fun s => vecWrite 2 f v (fun i => (op (fmtWidth f) (vA s f v i) (vB s f v i), 0)) s) s
/-- R324. VAND. -/
def execVand (v : VOp) (s : State) : Res := vLogic (fun _ a b => a &&& b) v s
/-- R324. VOR. -/
def execVor (v : VOp) (s : State) : Res := vLogic (fun _ a b => a ||| b) v s
/-- R324. VXOR. -/
def execVxor (v : VOp) (s : State) : Res := vLogic (fun _ a b => a ^^^ b) v s
/-- R324. VSHL: 0 when the count is the width or more. -/
def execVshl (v : VOp) (s : State) : Res := vLogic (fun w a c => if w ≤ c then 0 else a * 2 ^ c % 2 ^ w) v s
/-- R324. VSHR. -/
def execVshr (v : VOp) (s : State) : Res := vLogic (fun w a c => if w ≤ c then 0 else a / 2 ^ c) v s
/-- R324. VSAR: copies of the top bit. -/
def execVsar (v : VOp) (s : State) : Res :=
  vLogic (fun w a c => wrapInt w (sint w a / ((2 ^ (if w ≤ c then w else c) : Nat) : Int))) v s

/-! ### Conversion (R325–R329) -/

/-- R325. VCVT. -/
def execVcvt (v : VOp) (s : State) : Res :=
  let df := resFmt s v.fmt
  let sf := resSfmt s v.sfmt
  let r := resRnd s v.rnd
  guarded (vSlot v)
    [codeCause (accC df) df, codeCause (accC sf) sf, codeCause (decide (r ≤ 5)) r,
     opCause (dstBad df (kindOf v.d)) v.d, opCause (srcBad sf (kindOf v.a)) v.a]
    (fun s =>
      let n := Nat.min (numVals sf) (numVals df)
      let val := fun i => if i < n then convert sf df (rndAt s r v.sat df i) (vA s sf v i) else (0, 0)
      advCctr (r == 5) (vecWrite 3 df v val s)) s

/-- R181. The QN4 codebook, in units of 1/1024. -/
def qn4Level (i : Nat) : Int :=
  [(-1024 : Int), -720, -544, -408, -296, -196, -100, 0, 88, 176, 264, 360, 464, 584, 744, 1024].getD i 0

/-- Mantissas of two non-negative values at a common exponent. -/
def common (m1 : Nat) (e1 : Int) (m2 : Nat) (e2 : Int) : Nat × Nat :=
  let b := if e1 ≤ e2 then e1 else e2
  (m1 * 2 ^ (e1 - b).toNat, m2 * 2 ^ (e2 - b).toNat)

/-- RNE of a quotient of naturals to an integer. -/
def rneDiv (a b : Nat) : Nat :=
  let q := a / b
  let r := a % b
  if 2 * r < b then q else if b < 2 * r then q + 1 else q + q % 2

/-- R181. s_b of a block: 0 for a_b = 0, else 255·a_b/A rounded and clamped to 1..255. Magnitudes as patterns of FP32. -/
def qn4Scale (ab amax : Nat) : Nat :=
  match F32.decode ab, F32.decode amax with
  | .fin _ m1 e1, .fin _ m2 e2 =>
    if m1 = 0 ∨ m2 = 0 then 0
    else
      let p := common m1 e1 m2 e2
      let q := rneDiv (255 * p.1) p.2
      if q < 1 then 1 else if 255 < q then 255 else q
  | _, _ => 0

/-- R181. The pattern of a small integer in FP32. -/
def natF32 (n : Nat) : Nat := (roundFin F32 Rnd.rne false n 0).1
/-- R181. G := RNE(A/255). -/
def qn4G (amax : Nat) : Nat := (fdiv32 amax (natF32 255)).1
/-- R181. d_b := RNE(s_b·G), with the flags of that rounding. -/
def qn4D (sb g : Nat) : Nat × Flags := fmul32 (natF32 sb) g

/-- R181. The code nearest to t = X/D (in the same units): ties to the even code. -/
def qn4Near (x d : Int) : Nat :=
  (List.range 16).foldl (fun best i =>
    let e := fun k => (x * 1024 - qn4Level k * d).natAbs
    if e i < e best ∨ (e i = e best ∧ i % 2 = 0 ∧ best % 2 = 1) then i else best) 0

/-- R181, R173. The bracket choice of rounding code 5, for |t| ≤ 1. -/
def qn4Draw (u : Nat) (x d : Int) : Nat :=
  let lo := (List.range 16).foldl (fun b i => if qn4Level i * d ≤ x * 1024 then i else b) 0
  if qn4Level lo * d = x * 1024 ∨ lo = 15 then lo
  else if (u : Int) * (qn4Level (lo + 1) - qn4Level lo) * d < (x * 1024 - qn4Level lo * d) * 2 ^ 24 then lo + 1 else lo

/-- R181, R177. The code of one FP32 pattern in a block of scale s_b and step d_b. -/
def qn4Code (r : Rnd) (sb db x : Nat) : Nat × Flags :=
  match F32.decode x, F32.decode db with
  | .nan _, _ => (7, NV)
  | .inf n, _ => if sb = 0 then (7, 0) else (if n then 0 else 15, NV)
  | .fin n m e, .fin _ md ed =>
    if sb = 0 ∨ m = 0 then (7, 0)
    else
      let p := common m e md ed
      let xi : Int := if n then -(p.1 : Int) else (p.1 : Int)
      let d : Int := (p.2 : Int)
      if p.2 < p.1 then (if n then 0 else 15, NX)
      else
        let c := if r.rnd = 5 then qn4Draw r.u xi d else qn4Near xi d
        (c, if qn4Level c * d = xi * 1024 then 0 else NX)
  | .fin _ _ _, _ => (7, 0)

/-- Largest magnitude (as a pattern) of the finite FP32 patterns of a list. -/
def maxFinite (xs : List Nat) : Nat :=
  xs.foldl (fun m x => match F32.decode x with | .fin _ _ _ => Nat.max m (abs32 x) | _ => m) 0

/-- R326. VQNT. -/
def execVqnt (v : VOp) (s : State) : Res :=
  let r := resRnd s v.rnd
  guarded (vSlot v)
    [codeCause (decide (r ≤ 5)) r, opCause (dstBad 15 (kindOf v.d)) v.d, opCause (srcBad 10 (kindOf v.a)) v.a,
     opCause (!(kindOf v.b).isS) v.b]
    (fun s =>
      let amax := srcVal s 10 (kindOf v.b) 0
      let xs := (List.range 64).map fun l => vA s 10 v l
      let ab := maxFinite xs
      let bad := match F32.decode amax with
        | .nan _ => true
        | .inf _ => true
        | .fin n m _ => if m = 0 then decide (ab ≠ 0) else n
      let sb := if bad then 0 else qn4Scale ab amax
      let db := (qn4D sb (qn4G amax)).1
      let code := fun i =>
        if bad then (7, (0 : Flags))
        else qn4Code ⟨r, false, if r = 5 then drawU s (ellOf 15 i) else 0⟩ sb db (xs.getD i 0)
      let lane := fun l =>
        if l < 8 then laneOf 15 code l else if l = 63 then (sb, if bad then NV else 0) else (0, 0)
      advCctr (r == 5) (putMany 6 (vecEffects s v (kindOf v.d) (laneGuard s v) lane) s)) s

/-- R182, R327. One decoded QN4 value: RNE((L_c/1024)·d_b). -/
def qn4Value (c db : Nat) : Nat × Flags :=
  let l := qn4Level c
  finish F32 Rnd.rne (mulFV (.fin (decide (l < 0)) l.natAbs (-10)) (F32.decode db))

/-- R315. The 32 bits that lane `l` of operand a holds, whose values are in format `f`. -/
def laneBits (s : State) (f : Nat) (v : VOp) (l : Nat) : Nat := (laneOf f (fun i => (vA s f v i, 0)) l).1

/-- R327. VDQNT: the codes are the QN4 values of a, s_b the low byte of its lane 63. -/
def execVdqnt (v : VOp) (s : State) : Res :=
  guarded (vSlot v)
    [opCause (dstBad 10 (kindOf v.d)) v.d, opCause (srcBad 15 (kindOf v.a)) v.a, opCause (!(kindOf v.b).isS) v.b]
    (fun s =>
      let g := srcVal s 10 (kindOf v.b) 0
      let sb := laneBits s 15 v 63 % 256
      let db := qn4D sb g
      let val := fun l =>
        if isNan32 g then (F32.nan, NV)
        else
          let x := qn4Value (vA s 15 v l) db.1
          (x.1, x.2 ||| db.2)
      vecWrite 6 10 v val s) s

/-- R179. emax of an element format. -/
def mxEmax (ef : Nat) : Int := if ef = 12 then 8 else if ef = 13 then 15 else 2

/-- R179. The scale of a block of values: `none` for a block with a NaN or an infinity. -/
def mxScale (ef : Nat) (vs : List FV) : Option Nat :=
  if vs.any fun v => v.isNan || v.isInf then none
  else
    let tops := vs.filterMap fun v => match v with
      | .fin _ m e => if m = 0 then none else some ((Nat.log2 m : Int) + e)
      | _ => none
    match tops with
    | [] => some 0
    | t :: ts =>
      let k := ts.foldl (fun a b => if a < b then b else a) t - mxEmax ef
      some (((if k < -127 then -127 else k) + 127).toNat)

/-- R179. One element: v / 2^(X − 127) rounded into the element format with sat = 1; a clamp raises NX but not OF. A
block of zeros, or one with a NaN or an infinity, gives +0. -/
def mxElem (ef : Nat) (r : Rnd) (x : Option Nat) (allZero : Bool) (v : FV) : Nat × Flags :=
  match x, v with
  | some x, .fin n m e =>
    if allZero then (0, 0)
    else
      let y := roundFin (ffmt ef) { r with sat := true } n m (e - ((x : Int) - 127))
      (y.1, y.2 &&& ~~~OF)
  | _, _ => (0, 0)

/-- R328. VMXQ. -/
def execVmxq (v : VOp) (s : State) : Res :=
  let ef := resFmt s v.fmt
  let sf := resSfmt s v.sfmt
  let r := resRnd s v.rnd
  guarded (vSlot v)
    [codeCause (decide (12 ≤ ef) && decide (ef ≤ 14)) ef, codeCause (sf == 9 || sf == 10) sf, codeCause (decide (r ≤ 5)) r,
     opCause (dstBad ef (kindOf v.d)) v.d, opCause (srcBad sf (kindOf v.a)) v.a]
    (fun s =>
      let n := numVals sf
      let vs := (List.range n).map fun i => decodeFmt sf (vA s sf v i)
      let blk := fun j => (vs.drop (32 * j)).take 32
      let scales := (List.range (n / 32)).map fun j => mxScale ef (blk j)
      let zeros := (List.range (n / 32)).map fun j => (blk j).all FV.isZero
      let code := fun i =>
        if i < n then
          mxElem ef (rndAt s r false ef i) (scales.getD (i / 32) none) (zeros.getD (i / 32) true) (vs.getD i (.nan false))
        else (0, 0)
      let sc := (scales.mapIdx fun j x => x.getD 0xFF * 2 ^ (8 * j)).foldl (fun a b => a + b) 0
      let lane := fun l =>
        if l = 63 then (sc, if scales.any Option.isNone then NV else 0)
        else if l * (32 / fmtWidth ef) < n then laneOf ef code l else (0, 0)
      advCctr (r == 5) (putMany 6 (vecEffects s v (kindOf v.d) (laneGuard s v) lane) s)) s

/-- R180, R329. A decoded MX element, rounded into the destination format. -/
def mxDecode (ef df : Nat) (r : Rnd) (x code : Nat) : Nat × Flags :=
  if x = 0xFF then ((ffmt df).nan, NV)
  else
    match (ffmt ef).decode code with
    | .nan _ => ((ffmt df).nan, NV)
    | .inf n => ((ffmt df).signed n (ffmt df).infMag, 0)
    | .fin n m e => roundFin (ffmt df) r n m (e + ((x : Int) - 127))

/-- R329. VMXD: the codes are the values of a in the element format, the scales the bytes of its lane 63. -/
def execVmxd (v : VOp) (s : State) : Res :=
  let df := resFmt s v.fmt
  let ef := resSfmt s v.sfmt
  let r := resRnd s v.rnd
  guarded (vSlot v)
    [codeCause (df == 9 || df == 10) df, codeCause (decide (12 ≤ ef) && decide (ef ≤ 14)) ef, codeCause (decide (r ≤ 5)) r,
     opCause (dstBad df (kindOf v.d)) v.d, opCause (srcBad ef (kindOf v.a)) v.a]
    (fun s =>
      let scales := laneBits s ef v 63
      let val := fun i => mxDecode ef df (rndAt s r v.sat df i) (scales / 2 ^ (8 * (i / 32)) % 256) (vA s ef v i)
      advCctr (r == 5) (vecWrite 6 df v val s)) s

/-! ### Data movement (R330–R333) -/

/-- R330. The number of the unit that lane `l` belongs to. -/
def isDiag : Kind → Bool
  | .diag _ _ => true
  | _ => false
/-- R330. VMOV. -/
def execVmov (v : VOp) (s : State) : Res :=
  let f := v.fmt.toNat
  guarded (vSlot v) (moveChecks f false v)
    (fun s => vecWrite (if isDiag (kindOf v.d) || isDiag (kindOf v.a) then 3 else 2) f v (fun i => (vA s f v i, 0)) s) s
/-- R330. VBCAST: unit 0 of a in every unit. -/
def execVbcast (v : VOp) (s : State) : Res :=
  let f := v.fmt.toNat
  guarded (vSlot v) (moveChecks f false v) (fun s => vecWrite 2 f v (fun _ => (vA s f v 0, 0)) s) s
/-- R330. VPERM. -/
def execVperm (v : VOp) (s : State) : Res :=
  let f := v.fmt.toNat
  guarded (vSlot v) (moveChecks f true v)
    (fun s => vecWrite 4 f v (fun i =>
      let c := vB s f v i
      (if c / 128 % 2 = 1 then 0 else vA s f v (c % 64), 0)) s) s

/-- R331–R333. A control or lane number from class S or an immediate. -/
def ctlVal (s : State) (f : Nat) (k : Kind) : Nat :=
  match k with
  | .s n => (rdS s n).toNat
  | .imm v => wrapInt 32 (if isSigned f then sint 8 v.toNat else (v.toNat : Int))
  | _ => 0
/-- A control that is neither class S nor an immediate faults OPERAND. -/
def ctlBad (k : Kind) : Bool := !(k.isS || k.isImm)

/-- Exchange bits `p` and `q` of `x`. -/
def swapBits (x p q : Nat) : Nat :=
  let bp := x / 2 ^ p % 2
  let bq := x / 2 ^ q % 2
  x - bp * 2 ^ p - (if p = q then 0 else bq * 2 ^ q) + bq * 2 ^ p + (if p = q then 0 else bp * 2 ^ q)
/-- R331. σ(x) under a control word, with `w` index bits. -/
def bitxIndex (w c x : Nat) : Nat :=
  let y := x ^^^ (c % 2 ^ w)
  let p := c / 256 % 64
  let q := c / 65536 % 64
  if p = q ∨ w ≤ p ∨ w ≤ q then y else swapBits y p q
/-- R331. VBITX. -/
def execVbitx (v : VOp) (s : State) : Res :=
  let f := v.fmt.toNat
  guarded (vSlot v) (moveChecks f false v ++ [opCause (ctlBad (kindOf v.b)) v.b])
    (fun s =>
      let c := ctlVal s f (kindOf v.b)
      let w := if isPair f then 5 else 6
      vecWrite 4 f v (fun i => (vA s f v (bitxIndex w c i), 0)) s) s
/-- R332. VLANE; mode 3 is ILLEGAL_OP. -/
def execVlane (v : VOp) (s : State) : Res :=
  let f := v.fmt.toNat
  let c := ctlVal s f (kindOf v.b)
  let mode := c / 64 % 4
  let sh := c % 64
  guarded (vSlot v)
    ([causeIf (!ctlBad (kindOf v.b) && mode == 3) cIllegalOp 0x02C] ++ moveChecks f false v
      ++ [opCause (ctlBad (kindOf v.b)) v.b])
    (fun s => vecWrite 4 f v (fun l =>
      (if mode = 0 then vA s f v ((l + sh) % 64)
       else if mode = 1 then (if l + sh ≤ 63 then vA s f v (l + sh) else 0)
       else (if sh ≤ l then vA s f v (l - sh) else 0), 0)) s) s
/-- R333. VEXTR: one element or pair into a scalar register. -/
def execVextr (v : VOp) (s : State) : Res :=
  let f := v.fmt.toNat
  let kd := kindOf v.d
  guarded (vSlot v)
    [opCause (!kd.isS) v.d, opCause (elemBad f (kindOf v.a)) v.a, opCause (ctlBad (kindOf v.b)) v.b]
    (fun s =>
      let l := ctlVal s f (kindOf v.b) % 64
      if vGuard s v f l then
        match kd with
        | .s n =>
          let x := vA s f v (if isPair f then l / 2 else l)
          putS 3 n (if f = 4 then BitVec.ofInt 64 (sint 32 x) else BitVec.ofNat 64 x) s
        | _ => s
      else s) s
/-- R333. VINS: a scalar into one element or pair. -/
def execVins (v : VOp) (s : State) : Res :=
  let f := v.fmt.toNat
  guarded (vSlot v)
    [opCause (dstBad f (kindOf v.d)) v.d, opCause (!(kindOf v.a).isS) v.a, opCause (ctlBad (kindOf v.b)) v.b]
    (fun s =>
      let l := ctlVal s f (kindOf v.b) % 64
      let hit := fun x => if isPair f then decide (x / 2 = l / 2) else decide (x = l)
      putMany 2 (vecEffects s v (kindOf v.d) (fun x => hit x && vGuard s v f l) (laneOf f fun _ => (vA s f v 0, 0))) s) s

/-! ### Compare, select, flags and random values (R335–R338) -/

/-- R335. The relation of one value. -/
def cmpVal (s : State) (f cc : Nat) (v : VOp) (i : Nat) : Bool × Flags :=
  if isIntFmt f then (relInt cc (iA s f v i) (iB s f v i) (vA s f v i) (vB s f v i), 0)
  else relFV cc (fA s f v i) (fB s f v i)
/-- R335. VCMP: one lane predicate. -/
def execVcmp (v : VOp) (s : State) : Res :=
  let f := resFmt s v.fmt
  let cc := v.sub.toNat
  let kd := kindOf v.d
  guarded (vSlot v)
    [codeCause (accR f) f, codeCause (if isIntFmt f then decide (cc ≤ 9) else (decide (cc ≤ 5) || cc == 10 || cc == 11)) f,
     opCause (!kd.isP) v.d, opCause (srcBad f (kindOf v.a)) v.a, opCause (srcBad f (kindOf v.b)) v.b]
    (fun s =>
      let es := ((List.range 64).filter (vGuard s v f)).flatMap fun l =>
        let x := cmpVal s f cc v (if isPair f then l / 2 else l)
        let w := match kd with
          | .p n => if n = 0 then [] else [Effect.p n.toNat l x.1]
          | _ => []
        if v.nf || x.2 == 0 then w else w ++ [.lflg l x.2]
      putMany 2 es s) s
/-- R336. VSEL: a where the selector holds, b elsewhere; every lane written. -/
def execVsel (v : VOp) (s : State) : Res :=
  let f := v.fmt.toNat
  guarded (vSlot v) (moveChecks f true v)
    (fun s =>
      let val := fun i => (if laneGuard s v (if isPair f then 2 * i else i) then vA s f v i else vB s f v i, (0 : Flags))
      putMany 2 (vecEffects s v (kindOf v.d) (fun _ => true) (laneOf f val)) s) s
/-- R337. VFLAG: reads the lane flags at issue, and clears them before any flag that lands after t. -/
def execVflag (v : VOp) (s : State) : Res :=
  guarded (vSlot v) [opCause (dstBad 5 (kindOf v.d)) v.d]
    (fun s =>
      let lanes := (List.range 64).filter (laneGuard s v)
      let s1 := putMany 2 (lanes.map fun l => Effect.t (elKey s.core (kindOf v.d) l) ((mget 0 s.core.lflag l).setWidth 32)) s
      if v.nf then s1 else putMany 1 (lanes.map Effect.lclr) s1) s
/-- R338. VRND: one generator value per lane. -/
def execVrnd (v : VOp) (s : State) : Res :=
  guarded (vSlot v) [opCause (dstBad 5 (kindOf v.d)) v.d]
    (fun s =>
      let val := fun l =>
        if v.fmt = 5 then ((genZ s.core.ckey s.core.cctr l >>> 32).toNat, (0 : Flags))
        else ((roundFin F32 Rnd.rne false (drawU s l) (-24)).1, 0)
      advCctr true (putMany 3 (vecEffects s v (kindOf v.d) (laneGuard s v) val) s)) s

end Sys2Proof.Machine
end

