-- ==== Sys2Proof/Machine/Mcall.lean ====
section
/-! DEFINITION. Calling a matrix routine (R350–R354): pipes, occupancy, tokens, and the plan a routine makes of its
parameters at issue. What the routines compute stands in Dense.lean, Sketch.lean and User.lean. -/

namespace Sys2Proof.Machine

open Host

/-- What a routine's parameters give at issue: the causes they raise, what it occupies and makes non-empty, its latency, and
what has to be kept (R353: every parameter check is made at issue). -/
structure Plan where
  causes : List (Nat × Nat)
  occM : List Nat
  occK : List Nat
  fillM : List Nat
  fillK : List Nat
  lat : Nat
  mp : List Word64
  words : List Word32
  /-- Rounding code 5: the routine advances CCTR (R173). -/
  stoch : Bool
  deriving Repr

/-- A plan with parameters as they stand and nothing occupied. -/
def Plan.of (mp : List Word64) (causes : List (Nat × Nat)) (lat : Nat) : Plan :=
  ⟨causes, [], [], [], [], lat, mp, [], false⟩

/-- The eight parameter registers (R311). -/
def mpRegs (s : State) : List Word64 := (List.range 8).map fun i => mget 0 s.core.mp i

/-- Parameter register `i` of a list, as a number. -/
def mpN (mp : List Word64) (i : Nat) : Nat := (mp.getD i 0).toNat

/-- Put the field [hi:lo] of a parameter register. -/
def putField (x : Word64) (lo w v : Nat) : Word64 :=
  BitVec.ofNat 64 (x.toNat - natBits x.toNat (lo + w - 1) lo * 2 ^ lo + v % 2 ^ w * 2 ^ lo)

/-- R114. A format code of a parameter register with 30 resolved: FMT, or SFMT for a source. -/
def mpFmt (s : State) (src : Bool) (f : Nat) : Nat :=
  if src then resSfmt s (BitVec.ofNat 5 f) else resFmt s (BitVec.ofNat 5 f)
/-- R114. A rounding code of a parameter register with 6 resolved. -/
def mpRnd (s : State) (r : Nat) : Nat := resRnd s (BitVec.ofNat 3 r)

/-- The pipes (R350). -/
inductive Pipe where
  | array
  | readout
  | sketch
  deriving DecidableEq, Repr

/-- R350. The pipe of a routine number. -/
def pipeOf (rtn : Nat) : Pipe :=
  if rtn = 8 ∨ rtn = 9 then .readout else if 16 ≤ rtn ∧ rtn ≤ 21 then .sketch else .array
/-- R350. Routines a pipe runs at once. -/
def pipeLimit (p : Pipe) : Nat := if p = .sketch then 4 else 1

/-- R350. Routines of a pipe that are running or waiting. -/
def onPipe (c : Core) (p : Pipe) : Nat := (c.rtns.filter fun r => decide (pipeOf r.rtn = p)).length
/-- R350. An M register is occupied. -/
def mBusy (c : Core) (i : Nat) : Bool := c.rtns.any fun r => r.occM.contains i
/-- R223, R350. A sketch is occupied. -/
def kBusy (c : Core) (k : Nat) : Bool := c.rtns.any fun r => r.occK.contains k

/-- OPERAND for a field of an MP register outside its row: R250 gives no DETAIL, a free value. -/
def fieldBad (s : State) (b : Bool) : List (Nat × Nat) := if b then [(cOperand, freeDetail s)] else []

/-- R352. The consumed tokens, in order. -/
def consumedOf (m : MOp) : List Tok := [m.c1, m.c2, m.c3].filter fun t => decide (t ≠ 0)

/-- R352, R351, R353. The causes an MCALL has whatever its routine: `specOk` are the flag bits [9:5] its row defines, and
`comp` whether COMP is allowed (GEMM only). -/
def mcallCauses (s : State) (rtn specOk : Nat) (comp : Bool) (m : MOp) (p : Plan) : List (Nat × Nat) :=
  fieldBad s (decide (m.produce ≠ 0) && (consumedOf m).contains m.produce)
    ++ fieldBad s (m.comp && !comp)
    ++ fieldBad s (decide (m.spec.toNat &&& specOk ≠ m.spec.toNat))
    ++ (if decide (rdTok s m.produce = .pending)
          || decide (pipeLimit (pipeOf rtn) ≤ onPipe s.core (pipeOf rtn))
          || p.occM.any (mBusy s.core)
          || (s.core.rescale.isSome && (!p.occM.isEmpty || !p.occK.isEmpty))
        then [(cSchedule, freeDetail s)] else [])
    ++ (if m.elastic = 0 then
          match (consumedOf m).find? (fun t => decide (rdTok s t ≠ .ok)) with
          | some t => [(cTiming, t.toNat)]
          | none => []
        else [])

/-- R352, R353. Issue an MCALL of routine `rtn`: its causes, else its produce token pends and the routine is on its pipe. -/
def mcall (rtn specOk : Nat) (comp : Bool) (plan : State → MOp → Plan) (m : MOp) (s : State) : Res :=
  let p := plan s m
  .next (match minCause (p.causes ++ mcallCauses s rtn specOk comp m p) with
    | some (c, d) => raise c 4 d s
    | none =>
      let r : Routine := {
        seq := s.core.seq, rtn := rtn, op := m, mp := p.mp, issue := s.cyc, start := none, lat := p.lat, finish := 0
        occM := p.occM, occK := p.occK, fillM := p.fillM, fillK := p.fillK, ckey := s.core.ckey, cctr := s.core.cctr
        rot := s.core.rot, lsc := s.core.lsc, words := p.words, usr := none, result := none }
      let s1 := advCctr p.stoch (produceTok m.produce s)
      { s1 with core := { s1.core with seq := s1.core.seq + 1, rtns := s1.core.rtns ++ [r] } })

/-- R227, R352, R353. An MCALL whose plan reads some local ranges at issue, as the matrix unit sees them. -/
def mcallSeen (rs : List (Nat × Nat)) (rtn specOk : Nat) (plan : State → MOp → Plan) (m : MOp) (s : State) : Res :=
  match mcall rtn specOk false plan m (viewFor true true rs s).1 with
  | .next t => .next { t with mem := s.mem }
  | r => r

/-- A result that changes nothing. -/
def MuResult.none : MuResult where
  clr := []
  full := []
  f64 := []
  m := []
  tiles := []
  mem := []
  sk := []
  flags := 0
  ok := true
  err := 0
  micro := []
  loaded := Option.none

/-- R365. The result of a routine that a failing stream stops. -/
def MuResult.fail (code : Nat) : MuResult := { MuResult.none with ok := false, err := BitVec.ofNat 8 code }

/-- Key of element (i, j) of accumulator `a`. -/
def accKey (a i j : Nat) : Nat := a * 16384 + 128 * i + j
/-- An element of an accumulator. -/
def accAt (s : State) (a i j : Nat) : Nat := (mget 0 s.core.macc (accKey a i j)).toNat

/-- Empty and untag an accumulator: every element +0 (R355, R363). -/
def clearM (i : Nat) (c : Core) : Core :=
  { c with
    macc := c.macc.filter fun p => !(decide (i * 16384 ≤ p.1) && decide (p.1 < (i + 1) * 16384))
    mfull := mset false c.mfull i false
    mtag := mset 0 c.mtag i 0
    mf64 := mset false c.mf64 (i / 2 * 2) false }

/-! ### Tile runs (R221) -/

/-- R221, R362. Vector `k` of the run that starts at vector `x`, in its direction, index first. -/
def runVec (x : BitVec 13) (k : Nat) : Kind :=
  match kindOf x with
  | .row t i => .row (t + (i + k) / 64) ((i + k) % 64)
  | .col t j => .col (t + (j + k) / 64) ((j + k) % 64)
  | y => y
/-- The start is a row or a column. -/
def runDir (x : BitVec 13) : Bool :=
  match kindOf x with
  | .row _ _ => true
  | .col _ _ => true
  | _ => false
/-- A run of `n` vectors passes T31. -/
def runPast (x : BitVec 13) (n : Nat) : Bool :=
  match kindOf x with
  | .row t i => decide (31 < t + (i + n - 1) / 64)
  | .col t j => decide (31 < t + (j + n - 1) / 64)
  | _ => false
/-- Keys of the 64 elements of vector `k` of a run, with the rotation in force at issue (R111). -/
def runKeys (rot : BitVec 6) (x : BitVec 13) (k : Nat) : List Nat :=
  (List.range 64).map fun l => elKey { Core.idle with rot := rot } (runVec x k) l

/-! ### Scale, clip and convert (R184) -/

/-- Exact order of two values that are no NaN. -/
def ltFV (a b : FV) : Bool := decide (cmpFV a b < 0)

/-- R184. x · s clipped to [lo, hi] and rounded once into format `df`. -/
def scaleClip (df : Nat) (r : Rnd) (x s lo hi : FV) : Nat × Flags :=
  if x.isNan || s.isNan then roundTo df r (.nan (x.sig || s.sig))
  else
    let p := mulFV x s
    if p.1.isNan then let y := roundTo df r (.nan false); (y.1, y.2 ||| p.2)
    else
      let y := if ltFV hi p.1 then hi else p.1
      let y := if ltFV y lo then lo else y
      let z := roundTo df r y
      (z.1, z.2 ||| p.2)

/-- R184. Bounds that fault OPERAND: a NaN, or lo above hi. -/
def badBounds (lo hi : FV) : Bool := lo.isNan || hi.isNan || ltFV hi lo

/-! ### Sums (R185, R190) -/

/-- R185, R190. Sum products exactly and round once: a NaN product, or infinities of both signs, give NaN and NV. -/
def chunkSum (f : FFmt) (ps : List (FV × Flags)) : Nat × Flags :=
  let vs := ps.map Prod.fst
  let fl := orFlags (ps.map Prod.snd)
  if badSum vs then (f.nan, fl ||| NV)
  else
    match vs.find? FV.isInf with
    | some i => (f.signed i.neg? f.infMag, fl)
    | none =>
      match vs with
      | [] => (0, fl)
      | v :: r => finish f Rnd.rne (r.foldl (fun a b => (addFV false a b).1) v, fl)

/-- R187. Fold one rounded chunk sum into a hi/lo pair. -/
def compStep (hi lo c : Nat) : (Nat × Nat) × Flags :=
  let t := fadd32 hi c
  if isInf32 t.1 || isNan32 t.1 then ((t.1, lo), t.2)
  else
    let z := fsub32 t.1 hi
    let tz := fsub32 t.1 z.1
    let e1 := fsub32 hi tz.1
    let e2 := fsub32 c z.1
    let e := fadd32 e1.1 e2.1
    let l := fadd32 lo e.1
    ((t.1, l.1), orFlags [t.2, z.2, tz.2, e1.2, e2.2, e.2, l.2])

end Sys2Proof.Machine
end

