-- ==== Sys2Proof/Machine/Dense.lean ====
section
/-! DEFINITION. The dense routines: GEMM, GEMMT, CONV, CGEMM (R357–R360), GATE (R361), ACCRD and ACCCLR (R362, R363):
their parameter checks at issue and what they compute. -/

namespace Sys2Proof.Machine

open Host

/-! ### Parameters (R357, R359, R360) -/

/-- R185. Chunk width of an operand format; 0 for a format that has none. -/
def chunkW (f : Nat) : Nat :=
  if f = 8 ∨ f = 9 then 16 else if f = 10 ∨ f = 17 then 8 else if f = 11 then 4
  else if 12 ≤ f ∧ f ≤ 15 then 32 else 0

/-- R357, R359. Twice the cycles of one K-step. -/
def stepHalves (f : Nat) : Nat :=
  if f = 14 ∨ f = 15 then 1 else if f = 12 ∨ f = 13 then 2 else if f = 8 ∨ f = 9 then 4
  else if f = 10 then 16 else 64

/-- One of the two operands: its format, whether it is scaled, its scale base and its G base (R183). -/
structure Opnd where
  fmt : Nat
  scaled : Bool
  scale : Nat
  gbase : Nat
  deriving DecidableEq, Repr

/-- R360. The geometry of CONV's virtual A. -/
structure Unfold where
  py : Nat
  px : Nat
  h : Nat
  w : Nat
  c : Nat
  kh : Nat
  kw : Nat
  sy : Nat
  sx : Nat
  dy : Nat
  dx : Nat
  pt : Nat
  pl : Nat
  oy : Nat
  ox : Nat
  ot : Nat
  deriving DecidableEq, Repr

/-- The parameters of a product routine. -/
structure Gemm where
  m : Nat
  n : Nat
  k : Nat
  acc : Nat
  clear : Bool
  glob : Bool
  comp : Bool
  /-- GEMMT: row k of B holds n values. -/
  rowsB : Bool
  cplx : Bool
  conjA : Bool
  conjB : Bool
  aBase : Nat
  pa : Nat
  bBase : Nat
  pb : Nat
  a : Opnd
  b : Opnd
  unfold : Option Unfold
  deriving DecidableEq, Repr

/-- R357. Formats E2M1 and QN4 are always scaled; E4M3 and E5M2 when their flag is set. -/
def isScaled (f : Nat) (flag : Bool) : Bool := f == 14 || f == 15 || ((f == 12 || f == 13) && flag)

/-- R357, R359, R360. Read the parameters of routine `rtn` from its registers, formats resolved. -/
def gemmOf (rtn : Nat) (o : MOp) (mp : List Word64) : Gemm :=
  let p := mpN mp
  let fa := natBits (p 3) 39 35
  let fb := natBits (p 3) 44 40
  let cv := rtn = 2
  let fl := fun i => o.spec.getLsbD i
  { m := natBits (p 3) 7 0 + 1, n := natBits (p 3) 15 8 + 1, k := natBits (p 3) 32 16, acc := natBits (p 3) 34 33
    clear := (p 3).testBit 45, glob := (p 3).testBit 46
    comp := o.comp || rtn == 3, rowsB := rtn == 1, cplx := rtn == 3
    conjA := rtn == 3 && fl 0, conjB := rtn == 3 && fl 1
    aBase := natBits (p 0) 20 0, pa := natBits (p 2) 19 0
    bBase := p 1, pb := if cv then natBits (p 2) 59 40 else natBits (p 2) 39 20
    a := ⟨fa, isScaled fa (fl 0), if cv then natBits (p 7) 20 0 else natBits (p 4) 20 0,
      if cv then natBits (p 7) 20 0 + 0x8000 else natBits (p 6) 20 0⟩
    b := ⟨fb, isScaled fb (fl 1), if cv then natBits (p 7) 41 21 else natBits (p 5) 20 0,
      if cv then natBits (p 7) 20 0 + 0x8000 else natBits (p 6) 41 21⟩
    unfold :=
      if cv then some {
        py := natBits (p 2) 19 0, px := natBits (p 2) 39 20
        h := natBits (p 4) 11 0, w := natBits (p 4) 23 12, c := natBits (p 4) 35 24
        kh := natBits (p 5) 3 0 + 1, kw := natBits (p 5) 7 4 + 1, sy := natBits (p 5) 11 8 + 1
        sx := natBits (p 5) 15 12 + 1, dy := natBits (p 5) 19 16 + 1, dx := natBits (p 5) 23 20 + 1
        pt := natBits (p 5) 27 24, pl := natBits (p 5) 31 28
        oy := natBits (p 6) 11 0, ox := natBits (p 6) 23 12, ot := natBits (p 6) 31 24 + 1 }
      else none }

/-- R357, R359. It uses the pair acc, acc + 1. -/
def Gemm.pair (g : Gemm) : Bool := g.comp || g.a.fmt == 11
/-- The M registers it occupies. -/
def Gemm.regs (g : Gemm) : List Nat := if g.cplx then [0, 1, 2, 3] else if g.pair then [g.acc, g.acc + 1] else [g.acc]

/-- R183. Elements of one block along K. -/
def Opnd.blk (o : Opnd) : Nat := if o.fmt = 15 then 64 else 32
/-- R183. Blocks along K. -/
def Opnd.blocks (o : Opnd) (k : Nat) : Nat := ceilDiv k o.blk
/-- R183. Bytes of the scale tiles of an operand with `rows` rows. -/
def Opnd.scaleBytes (o : Opnd) (rows k : Nat) : Nat := ceilDiv rows 32 * ceilDiv (o.blocks k) 32 * 1024
/-- R183. Bytes of its G values. -/
def Opnd.gBytes (o : Opnd) (rows k : Nat) : Nat := ceilDiv rows 32 * ceilDiv (o.blocks k) 32 * 16

/-- R183. SCALE_LAYOUT: the offending base. -/
def Opnd.layoutCauses (o : Opnd) (rows k : Nat) : List (Nat × Nat) :=
  if !o.scaled then []
  else if o.scale % 1024 ≠ 0 ∨ rows % 32 ≠ 0 ∨ o.blocks k % 32 ≠ 0 then [(cScaleLayout, o.scale)]
  else if o.fmt = 15 ∧ o.gbase % 16 ≠ 0 then [(cScaleLayout, o.gbase)]
  else []
/-- The scale and G ranges of an operand. -/
def Opnd.ranges (o : Opnd) (rows k : Nat) : List (Nat × Nat) :=
  if !o.scaled then []
  else [(o.scale, o.scaleBytes rows k)] ++ (if o.fmt = 15 then [(o.gbase, o.gBytes rows k)] else [])

/-- R360. The bit offset of A(i, k) in the scratchpad; none where the position lies outside X. -/
def Unfold.bitOff (u : Unfold) (base w i k : Nat) : Option Nat :=
  let t := k / u.c
  let y : Int := ((u.oy + i / u.ot) * u.sy + t / u.kw * u.dy : Nat) - (u.pt : Int)
  let x : Int := ((u.ox + i % u.ot) * u.sx + t % u.kw * u.dx : Nat) - (u.pl : Int)
  if 0 ≤ y ∧ y < u.h ∧ 0 ≤ x ∧ x < u.w then
    some ((base + y.toNat * u.py + x.toNat * u.px) * 8 + k % u.c * w)
  else none

/-- R360. The pixels that the unfolding unit reads: each as a byte range. -/
def Unfold.pixels (u : Unfold) (base w m : Nat) : List (Nat × Nat) :=
  (List.range m).flatMap fun i => (List.range (u.kh * u.kw)).filterMap fun t =>
    (u.bitOff base w i (t * u.c)).map fun b => (b / 8, ceilDiv (u.c * w) 8)

/-- The byte ranges of A. -/
def Gemm.aRanges (g : Gemm) : List (Nat × Nat) :=
  match g.unfold with
  | some u => u.pixels g.aBase (fmtWidth g.a.fmt) g.m
  | none => (List.range g.m).map fun i => (g.aBase + i * g.pa, ceilDiv (g.k * fmtWidth g.a.fmt) 8)
/-- The byte ranges of B: columns, or rows for GEMMT. -/
def Gemm.bRanges (g : Gemm) : List (Nat × Nat) :=
  if g.rowsB then (List.range g.k).map fun i => (g.bBase + i * g.pb, ceilDiv (g.n * fmtWidth g.b.fmt) 8)
  else (List.range g.n).map fun i => (g.bBase + i * g.pb, ceilDiv (g.k * fmtWidth g.b.fmt) 8)

/-- R358. The first conflicting segment of A: pass by pass, over the chunks where the unfolding unit forms the addresses. -/
def Gemm.aClash (g : Gemm) : Option Nat :=
  match g.unfold with
  | none => bankClashIn (g.aRanges.map Prod.fst)
  | some u =>
    let w := chunkW g.a.fmt
    ((List.range (ceilDiv g.k w)).filterMap fun c =>
      ((passes32 5 (List.range g.m)).filterMap fun is =>
        passClash [] (is.filterMap fun i =>
          (u.bitOff g.aBase (fmtWidth g.a.fmt) i (c * w)).map fun b => b / 8)).head?).head?
/-- R358. The first conflicting segment of a scratchpad B: columns by 32, or the rows of one chunk. -/
def Gemm.bClash (g : Gemm) : Option Nat :=
  if g.glob then none
  else if g.rowsB then passClash [] ((g.bRanges.take (chunkW g.b.fmt)).map Prod.fst)
  else bankClashIn (g.bRanges.map Prod.fst)

/-- PROTECT for a range that passes the end of the scratchpad (R358). -/
def pastSpad (rs : List (Nat × Nat)) : List (Nat × Nat) :=
  match rs.find? fun r => decide (0x200000 < r.1 + r.2) with
  | some r => [(cProtect, r.1)]
  | none => []

/-- R357–R360. The plan of a product routine. -/
def gemmPlan (rtn : Nat) (s : State) (o : MOp) : Plan :=
  let mp0 := mpRegs s
  let raw := mpN mp0 3
  let fa := mpFmt s false (natBits raw 39 35)
  let fb := mpFmt s true (natBits raw 44 40)
  let mp := mp0.set 3 (putField (putField (mp0.getD 3 0) 35 5 fa) 40 5 fb)
  let g := gemmOf rtn o mp
  let ok := fun f => decide (8 ≤ f) && decide (f ≤ 15)
  let codes :=
    if rtn = 3 then
      (if natBits raw 39 35 ≠ 17 then [(cOperand, natBits raw 39 35)]
       else if natBits raw 44 40 ≠ 17 then [(cOperand, natBits raw 44 40)] else [])
    else if !ok fa then [(cOperand, fa)]
    else if !ok fb then [(cOperand, fb)]
    else if fa ≠ fb ∧ ¬(fa = 12 ∧ fb = 13) ∧ ¬(fa = 13 ∧ fb = 12) then [(cOperand, fb)]
    else []
  let flagBad := rtn ≠ 3 ∧ ((o.spec.getLsbD 0 ∧ ¬(12 ≤ fa ∧ fa ≤ 14)) ∨ (o.spec.getLsbD 1 ∧ ¬(12 ≤ fb ∧ fb ≤ 14)))
  let fields :=
    decide (128 < g.m) || decide (128 < g.n) || decide (g.k = 0) || decide (65536 < g.k) || decide (2 ^ 47 ≤ raw)
      || (match g.unfold with
          | none => decide (2 ^ 40 ≤ mpN mp 2)
          | some u => decide (2 ^ 60 ≤ mpN mp 2) || decide (u.h = 0) || decide (u.w = 0) || decide (u.c = 0)
              || decide (g.k ≠ u.kh * u.kw * u.c))
      || (g.pair && decide (g.acc % 2 = 1)) || (g.cplx && decide (g.acc ≠ 0))
      || (o.comp && decide (fa = 11)) || decide flagBad
  let mis := [g.aBase, g.pa, g.bBase, g.pb] ++ (match g.unfold with
    | some u => [u.py, u.px]
    | none => [])
  let causes := codes ++ fieldBad s fields
    ++ (match mis.find? fun x => decide (x % 16 ≠ 0) with
      | some x => [(cAlign, x)]
      | none => [])
    ++ pastSpad (g.aRanges ++ (if g.glob then [] else g.bRanges) ++ g.a.ranges g.m g.k ++ g.b.ranges g.n g.k)
    ++ (match g.aClash with
        | some x => [(cSpadBank, x)]
        | none => [])
    ++ (match g.bClash with
        | some x => [(cSpadBank, x)]
        | none => [])
    ++ g.a.layoutCauses g.m g.k ++ g.b.layoutCauses g.n g.k
  { Plan.of mp causes (260 + ceilDiv (g.k * stepHalves g.a.fmt) 2) with occM := g.regs, fillM := g.regs }

/-! ### Products (R183, R185, R188) -/

/-- A byte of the core's scratchpad, in the matrix unit's view of storage. -/
def spadByte (v : State) (o : Nat) : Nat := bytesToNat (v.mem.readBytes (spadBase v.coreNo + o) 1)
/-- `w` bits at a bit offset of the scratchpad, in that view. -/
def spadBits (v : State) (b w : Nat) : Nat :=
  bytesToNat (v.mem.readBytes (spadBase v.coreNo + b / 8) (ceilDiv w 8)) / 2 ^ (b % 8) % 2 ^ w

/-- R183. Tile number and byte of scale (i, k). -/
def Opnd.tileOf (o : Opnd) (kk i k : Nat) : Nat := i / 32 * ceilDiv (o.blocks kk) 32 + k / 32
def Opnd.scaleOff (o : Opnd) (kk i k : Nat) : Nat :=
  o.scale + 1024 * o.tileOf kk i k + 32 * (k % 32) + ((i % 32) ^^^ (k % 32))

/-- R179–R183. The exact value of the element with pattern `x` in row `i` at `k` along K, and its flags. -/
def Opnd.val (o : Opnd) (s : State) (kk i k x : Nat) : FV × Flags :=
  if !o.scaled then (decodeFmt o.fmt x, 0)
  else
    let sc := spadByte s (o.scaleOff kk i (k / o.blk))
    if o.fmt = 15 then
      let t := o.tileOf kk i (k / o.blk)
      let g := spadBits s ((o.gbase + 4 * (4 * t + i % 32 / 8)) * 8) 32
      let db := qn4D sc g
      let y := qn4Value x db.1
      (F32.decode y.1, db.2 ||| y.2)
    else if sc = 255 then (.nan false, NV)
    else
      match decodeFmt o.fmt x with
      | .fin n m e => (.fin n m (e + ((sc : Int) - 127)), 0)
      | v => (v, 0)

/-- The operands of a routine as they were fetched. -/
structure Fetched where
  a : List Nat
  b : List Nat
  deriving Repr

/-- R360. A(i, k) lies outside X, where it is +0. -/
def Gemm.padded (g : Gemm) (i k : Nat) : Bool :=
  match g.unfold with
  | some u => (u.bitOff g.aBase (fmtWidth g.a.fmt) i k).isNone
  | none => false

/-- Pattern of A(i, k). -/
def Gemm.aPat (g : Gemm) (s : State) (f : Fetched) (i k : Nat) : Nat :=
  let w := fmtWidth g.a.fmt
  match g.unfold with
  | some u =>
    (match u.bitOff g.aBase w i k with
     | some b => spadBits s b w
     | none => 0)
  | none => f.a.getD i 0 / 2 ^ (w * k) % 2 ^ w
/-- Pattern of B(k, j). -/
def Gemm.bPat (g : Gemm) (f : Fetched) (k j : Nat) : Nat :=
  let w := fmtWidth g.b.fmt
  if g.rowsB then f.b.getD k 0 / 2 ^ (w * j) % 2 ^ w else f.b.getD j 0 / 2 ^ (w * k) % 2 ^ w

/-- R185. A product, its scales included, with the flags of its own exception. -/
def Gemm.prod (g : Gemm) (s : State) (f : Fetched) (i j k : Nat) : FV × Flags :=
  let x := if g.padded i k then (.fin false 0 0, 0) else g.a.val s g.k i k (g.aPat s f i k)
  let y := g.b.val s g.k j k (g.bPat f k j)
  let p := mulFV x.1 y.1
  (p.1, x.2 ||| y.2 ||| p.2)

/-- R188. The products whose sum is the real (or imaginary) part of a complex product. -/
def Gemm.cprod (g : Gemm) (s : State) (f : Fetched) (im : Bool) (i j k : Nat) : List (FV × Flags) :=
  let x := g.aPat s f i k
  let y := g.bPat f k j
  let xi := if g.conjA then (cIm x).flip else cIm x
  let yi := if g.conjB then (cIm y).flip else cIm y
  if im then [mulFV (cRe x) yi, mulFV xi (cRe y)]
  else
    let q := mulFV xi yi
    [mulFV (cRe x) (cRe y), (q.1.flip, q.2)]

/-- R185. The products of each chunk along K. -/
def chunksOf (k w : Nat) (prod : Nat → List (FV × Flags)) : List (List (FV × Flags)) :=
  (List.range (ceilDiv k w)).map fun c => (List.range (Nat.min w (k - c * w))).flatMap fun t => prod (c * w + t)

/-- R185. Add the chunks to an element of format `f`, in order. -/
def accPlain (f : FFmt) (a : Nat) (cs : List (List (FV × Flags))) : Nat × Flags :=
  cs.foldl (fun st c =>
    let x := chunkSum f c
    let y := finish f Rnd.rne (addFV false (f.decode st.1) (f.decode x.1))
    (y.1, orFlags [st.2, x.2, y.2])) (a, 0)
/-- R187. Fold the chunks into a compensated pair, in order. -/
def accComp (hi lo : Nat) (cs : List (List (FV × Flags))) : (Nat × Nat) × Flags :=
  cs.foldl (fun st c =>
    let x := chunkSum F32 c
    let y := compStep st.1.1 st.1.2 x.1
    (y.1, orFlags [st.2, x.2, y.2])) ((hi, lo), 0)

/-- R357, R359. The new contents of element (i, j), by M register, and the flags. -/
def Gemm.element (g : Gemm) (s : State) (f : Fetched) (i j : Nat) : List (Nat × Word32) × Flags :=
  let old := fun r => if g.clear then 0 else accAt s r i j
  let w := chunkW g.a.fmt
  let put := fun r v => (accKey r i j, BitVec.ofNat 32 v)
  if g.cplx then
    let re := accComp (old 0) (old 1) (chunksOf g.k w (g.cprod s f false i j))
    let im := accComp (old 2) (old 3) (chunksOf g.k w (g.cprod s f true i j))
    ([put 0 re.1.1, put 1 re.1.2, put 2 im.1.1, put 3 im.1.2], re.2 ||| im.2)
  else
    let cs := chunksOf g.k w (fun k => [g.prod s f i j k])
    if g.a.fmt = 11 then
      let x := accPlain F64 (old g.acc + old (g.acc + 1) * 2 ^ 32) cs
      ([put g.acc x.1, put (g.acc + 1) (x.1 / 2 ^ 32)], x.2)
    else if g.comp then
      let x := accComp (old g.acc) (old (g.acc + 1)) cs
      ([put g.acc x.1.1, put (g.acc + 1) x.1.2], x.2)
    else
      let x := accPlain F32 (old g.acc) cs
      ([put g.acc x.1], x.2)

/-- R357. The result of a product over its fetched operands. -/
def Gemm.result (g : Gemm) (s : State) (f : Fetched) : MuResult :=
  let els := (List.range g.m).flatMap fun i => (List.range g.n).map fun j => g.element s f i j
  { MuResult.none with
    clr := if g.clear then g.regs else []
    full := g.regs
    f64 := if g.a.fmt = 11 then [g.acc] else []
    m := els.flatMap Prod.fst
    flags := orFlags (els.map Prod.snd) }

/-- R357, R365. A product routine starts: it fetches and computes; the walks it needs and the state after its reads. -/
def gemmRun (r : Routine) (s : State) : MuResult × List Walk × State :=
  let g := gemmOf r.rtn r.op r.mp
  let aIn := match g.unfold with
    | some _ => []
    | none => g.aRanges
  let scales := g.a.ranges g.m g.k ++ g.b.ranges g.n g.k
  match muView (spadRanges s (g.aRanges ++ scales ++ (if g.glob then [] else g.bRanges))) s with
  | .error (c, s1) => (.fail c, [], s1)
  | .ok (v, s1) =>
    let a := rowsIn v aIn
    if g.glob then
      let x := globalRows (.mu r.seq) g.bRanges s1
      match x.1 with
      | .error c => (.fail c, x.2.1, x.2.2)
      | .ok b => (g.result v ⟨a, b⟩, x.2.1, x.2.2)
    else (g.result v ⟨a, rowsIn v g.bRanges⟩, [], s1)

/-! ### GATE (R361) -/

/-- R361. The parameters of GATE. -/
structure Gate where
  block : Nat
  gate : Nat
  nb : Nat
  q0 : Nat
  q1 : Nat
  two : Bool
  ctrl : Nat
  deriving DecidableEq, Repr

def gateOf (mp : List Word64) : Gate :=
  let p := mpN mp
  ⟨natBits (p 0) 20 0, natBits (p 1) 20 0, natBits (p 2) 4 0, natBits (p 2) 9 5, natBits (p 2) 14 10, (p 2).testBit 15,
    natBits (p 2) 31 16⟩

/-- Matrix dimension 2 or 4. -/
def Gate.g (x : Gate) : Nat := if x.two then 4 else 2
/-- R361. The target mask. -/
def Gate.mask (x : Gate) : Nat := 2 ^ x.q0 + (if x.two then 2 ^ x.q1 else 0)

/-- R293. PDEP: the low bits of `v` deposited at the set bits of `mask`, within `n` bits. -/
def pdepNat (n v mask : Nat) : Nat :=
  ((List.range n).foldl (fun (st : Nat × Nat) i =>
    if mask.testBit i then (st.1 + (if v.testBit st.2 then 2 ^ i else 0), st.2 + 1) else st) (0, 0)).1

/-- R361. The plan of GATE. -/
def gatePlan (s : State) (_ : MOp) : Plan :=
  let mp := mpRegs s
  let x := gateOf mp
  let bad := decide (x.nb = 0) || decide (16 < x.nb) || decide (x.nb ≤ x.q0)
    || (x.two && (decide (x.nb ≤ x.q1) || decide (x.q0 = x.q1))) || decide (2 ^ 32 ≤ mpN mp 2)
  let bad := bad || decide (2 ^ x.nb ≤ x.ctrl) || decide (x.ctrl &&& x.mask ≠ 0)
  let n := 8 * 2 ^ x.nb
  let k := 8 * x.g * x.g
  let over_ := decide (x.block < x.gate + k) && decide (x.gate < x.block + n)
  let causes := fieldBad s (bad || over_)
      ++ (if x.block % 16 ≠ 0 then [(cAlign, x.block)] else if x.gate % 16 ≠ 0 then [(cAlign, x.gate)] else [])
      ++ pastSpad [(x.block, n), (x.gate, k)]
  Plan.of mp causes (260 + ceilDiv (2 ^ x.nb * x.g) 512)

/-- R361. GATE over old amplitudes: every group is formed from them. -/
def gateRun (r : Routine) (s : State) : MuResult × List Walk × State :=
  let x := gateOf r.mp
  match muView (spadRanges s [(x.block, 8 * 2 ^ x.nb), (x.gate, 8 * x.g * x.g)]) s with
  | .error (c, s1) => (.fail c, [], s1)
  | .ok (v, s) =>
    let amp := fun i => spadBits v ((x.block + 8 * i) * 8) 64
    let gm := fun a u => spadBits v ((x.gate + 8 * (x.g * a + u)) * 8) 64
    let t := if x.two then 2 else 1
    let groups := (List.range (2 ^ (x.nb - t))).map fun j => pdepNat x.nb j (2 ^ x.nb - 1 - x.mask)
    let outs := (groups.filter fun b => decide (b &&& x.ctrl = x.ctrl)).flatMap fun b =>
      let at_ := fun q => b ||| pdepNat x.nb q x.mask
      (List.range x.g).map fun q =>
        let re := chunkSum F32 ((List.range x.g).flatMap fun u =>
          let m := mulFV (cIm (gm q u)) (cIm (amp (at_ u)))
          [mulFV (cRe (gm q u)) (cRe (amp (at_ u))), (m.1.flip, m.2)])
        let im := chunkSum F32 ((List.range x.g).flatMap fun u =>
          [mulFV (cRe (gm q u)) (cIm (amp (at_ u))), mulFV (cIm (gm q u)) (cRe (amp (at_ u)))])
        (at_ q, re.1 + im.1 * 2 ^ 32, re.2 ||| im.2)
    ({ MuResult.none with
       mem := outs.map fun o => (spadBase s.coreNo + x.block + 8 * o.1, natToBytes 8 o.2.1)
       flags := orFlags (outs.map fun o => o.2.2) }, [], s)

/-! ### Readout (R362, R363) -/

/-- R362. The parameters of ACCRD. -/
structure Accrd where
  src : Nat
  mode : Nat
  fmt : Nat
  rnd : Nat
  sat : Bool
  clip : Bool
  tiles : Bool
  empty : Bool
  row0 : Nat
  rows : Nat
  col0 : Nat
  cols : Nat
  scale : Nat
  lo : FV
  hi : FV
  base : Nat
  pitch : Nat
  run : BitVec 13
  deriving DecidableEq, Repr

def accrdOf (mp : List Word64) : Accrd :=
  let p := mpN mp
  let b := fun i => (p 0).testBit i
  { src := natBits (p 0) 1 0, mode := natBits (p 0) 3 2, fmt := natBits (p 0) 8 4, rnd := natBits (p 0) 11 9
    sat := b 12, clip := b 13, tiles := b 14, empty := b 15
    row0 := natBits (p 0) 22 16, rows := natBits (p 0) 29 23 + 1, col0 := natBits (p 0) 36 30
    cols := natBits (p 0) 43 37 + 1, scale := natBits (p 1) 31 0
    lo := if b 13 then F32.decode (natBits (p 2) 31 0) else .inf true
    hi := if b 13 then F32.decode (natBits (p 2) 63 32) else .inf false
    base := natBits (p 3) 20 0, pitch := natBits (p 3) 40 21, run := BitVec.ofNat 13 (p 3) }

/-- R362. The M registers it reads. -/
def Accrd.regs (x : Accrd) : List Nat :=
  if x.mode = 0 then [x.src] else if x.mode = 3 then [0, 1, 2, 3] else [x.src, x.src + 1]
/-- Bytes of one output row. -/
def Accrd.rowBytes (x : Accrd) : Nat := ceilDiv (x.cols * fmtWidth x.fmt) 8

/-- R362. The plan of ACCRD. -/
def accrdPlan (s : State) (_ : MOp) : Plan :=
  let mp0 := mpRegs s
  let raw := accrdOf mp0
  let f := if raw.mode ≤ 1 then mpFmt s false raw.fmt else raw.fmt
  let r := mpRnd s raw.rnd
  let mp := mp0.set 0 (putField (putField (mp0.getD 0 0) 4 5 f) 9 3 r)
  let x := accrdOf mp
  let okF := if x.mode ≤ 1 then [0, 4, 8, 9, 10, 12, 13, 14].contains f else if x.mode = 2 then f == 11 else f == 17
  let fields := decide (2 ^ 44 ≤ mpN mp 0) || decide (2 ^ 32 ≤ mpN mp 1) || decide (128 < x.row0 + x.rows)
    || decide (128 < x.col0 + x.cols) || (x.mode != 0 && decide (x.src % 2 = 1)) || (x.mode == 3 && x.src != 0)
    || (x.clip && badBounds x.lo x.hi)
  let causes := (if okF then [] else [(cOperand, f)]) ++ (if r ≤ 5 then [] else [(cOperand, r)]) ++ fieldBad s fields
    ++ if x.tiles then
      (if !runDir x.run || runPast x.run x.rows then [(cOperand, x.run.toNat)] else [])
        ++ fieldBad s (decide (2048 < x.cols * fmtWidth f))
    else
      (if x.base % 16 ≠ 0 then [(cAlign, x.base)] else if x.pitch % 16 ≠ 0 then [(cAlign, x.pitch)] else [])
        ++ pastSpad [(x.base + (x.rows - 1) * x.pitch, x.rowBytes)]
  { Plan.of mp causes (16 + x.rows * ceilDiv (x.cols * (if x.mode ≤ 1 then 1 else 2)) 64) with
    occM := x.regs, stoch := r == 5 }

/-- R184, R187, R362. One value of the window, by the rounded elements before it, and its flags. -/
def Accrd.value (x : Accrd) (r : Routine) (s : State) (i j k : Nat) : Nat × Flags :=
  let one := fun (v : FV) (f idx : Nat) =>
    scaleClip f ⟨x.rnd, x.sat, if x.rnd = 5 then genU r.ckey r.cctr idx else 0⟩ v (F32.decode x.scale) x.lo x.hi
  let sum := fun a => fadd32 (accAt s a i j) (accAt s (a + 1) i j)
  if x.mode = 0 then one (F32.decode (accAt s x.src i j)) x.fmt k
  else if x.mode = 1 then
    let h := sum x.src
    let y := one (F32.decode h.1) x.fmt k
    (y.1, h.2 ||| y.2)
  else if x.mode = 2 then one (F64.decode (accAt s x.src i j + accAt s (x.src + 1) i j * 2 ^ 32)) x.fmt k
  else
    let re := sum 0
    let im := sum 2
    let yr := one (F32.decode re.1) 10 (2 * k)
    let yi := one (F32.decode im.1) 10 (2 * k + 1)
    (yr.1 + yi.1 * 2 ^ 32, orFlags [re.2, im.2, yr.2, yi.2])

/-- R362. ACCRD: the window scaled, clipped, converted and packed by rows. The bits of a last byte that no value fills
are free. -/
def accrdRun (r : Routine) (s : State) : MuResult × List Walk × State :=
  let x := accrdOf r.mp
  let w := fmtWidth x.fmt
  let rows := (List.range x.rows).map fun i =>
    let vs := (List.range x.cols).map fun j => x.value r s (x.row0 + i) (x.col0 + j) (i * x.cols + j)
    ((vs.mapIdx fun j v => v.1 % 2 ^ w * 2 ^ (w * j)).foldl (fun a b => a + b) 0, orFlags (vs.map Prod.snd))
  let pad := fun i => if x.cols * w % 8 = 0 then 0 else freeBelow s i 16 * 2 ^ (x.cols * w)
  ({ MuResult.none with
     clr := if x.empty then x.regs else []
     tiles := if x.tiles then
         (rows.mapIdx fun i v => (runKeys r.rot x.run i).mapIdx fun l k =>
           (k, BitVec.ofNat 32 (v.1 / 2 ^ (32 * l)))).flatten
       else []
     mem := if x.tiles then []
       else (rows.mapIdx fun i v =>
         secSplit (spadBase s.coreNo + x.base + i * x.pitch) (natToBytes x.rowBytes (v.1 + pad i))).flatten
     flags := orFlags (rows.map Prod.snd) }, [], spend x.rows s)

/-- R363. The plan of ACCCLR. -/
def accclrPlan (s : State) (_ : MOp) : Plan :=
  let mp := mpRegs s
  let v := mpN mp 0
  { Plan.of mp (fieldBad s (decide (16 ≤ v))) 4 with occM := (List.range 4).filter fun i => v.testBit i }
/-- R363. ACCCLR. -/
def accclrRun (r : Routine) (s : State) : MuResult × List Walk × State :=
  ({ MuResult.none with clr := r.occM }, [], s)

/-- R357. GEMM. -/
def execGemm (m : MOp) (s : State) : Res := mcall 0 3 true (gemmPlan 0) m s
/-- R357. GEMMT. -/
def execGemmt (m : MOp) (s : State) : Res := mcall 1 3 false (gemmPlan 1) m s
/-- R360. CONV. -/
def execConv (m : MOp) (s : State) : Res := mcall 2 3 false (gemmPlan 2) m s
/-- R359. CGEMM. -/
def execCgemm (m : MOp) (s : State) : Res := mcall 3 3 false (gemmPlan 3) m s
/-- R361. GATE. -/
def execGate (m : MOp) (s : State) : Res := mcall 4 0 false gatePlan m s
/-- R362. ACCRD. -/
def execAccrd (m : MOp) (s : State) : Res := mcall 8 0 false accrdPlan m s
/-- R363. ACCCLR. -/
def execAccclr (m : MOp) (s : State) : Res := mcall 9 0 false accclrPlan m s

end Sys2Proof.Machine
end

