-- ==== Sys2Proof/Machine/Sketch.lean ====
section
/-! DEFINITION. Sketch accumulators (R214–R228): the descriptor, its checks, the shrink, and the six sketch routines
(R217–R221, R364). -/

namespace Sys2Proof.Machine

open Host

/-! ### The descriptor (R214, R215) -/

/-- R214. The fields of a descriptor. -/
structure Desc where
  base : Nat
  sp : Bool
  m : Nat
  n : Nat
  r : Nat
  h : Nat
  c : Nat
  sweeps : Nat
  lst : Nat
  de : Nat
  shrinks : Nat
  deriving DecidableEq, Repr

/-- R214. Read an image. -/
def descOf (x : BitVec 256) : Desc :=
  let v := x.toNat
  ⟨natBits v 23 0, v.testBit 24, natBits v 34 25 + 1, natBits v 44 35 + 1, natBits v 49 45 + 1, natBits v 54 50 + 1,
    natBits v 61 55, natBits v 66 64 + 1, natBits v 74 67, natBits v 191 128, natBits v 223 192⟩

/-- R214. Write an image; reserved bits are 0. -/
def Desc.image (d : Desc) : BitVec 256 :=
  BitVec.ofNat 256 (d.base + (if d.sp then 2 ^ 24 else 0) + (d.m - 1) * 2 ^ 25 + (d.n - 1) * 2 ^ 35 + (d.r - 1) * 2 ^ 45
    + (d.h - 1) * 2 ^ 50 + d.c % 128 * 2 ^ 55 + (d.sweeps - 1) * 2 ^ 64 + d.lst % 256 * 2 ^ 67
    + d.de % 2 ^ 64 * 2 ^ 128 + d.shrinks % 2 ^ 32 * 2 ^ 192)

/-- Descriptor `k` of the core. -/
def skAt (c : Core) (k : Nat) : Desc := descOf (mget 0 c.sk k)

/-- R215. Column pitches and footprint. -/
def Desc.pu (d : Desc) : Nat := 16 * ceilDiv d.m 4
def Desc.pv (d : Desc) : Nat := 16 * ceilDiv d.n 4
def Desc.cols (d : Desc) : Nat := d.r + d.h + 1
def Desc.foot (d : Desc) : Nat := d.cols * (d.pu + d.pv)
/-- R118, R215. Local physical address of factor storage of a core's descriptor. -/
def Desc.home (d : Desc) (g : Nat) : Nat := (if d.sp then clusterBase g else spadBase g) + d.base
/-- Address of column `j` of U (or V). -/
def Desc.colAt (d : Desc) (g : Nat) (v : Bool) (j : Nat) : Nat :=
  d.home g + (if v then d.pu * d.cols + d.pv * j else d.pu * j)

/-- R216. The limits on a descriptor's own fields. -/
def Desc.fits (d : Desc) : Bool :=
  decide (d.base % 16 = 0) && decide (d.c ≤ d.r + d.h)
    && (if d.sp then decide (d.base / 0x200000 = (d.base + d.foot - 1) / 0x200000) && decide (d.base + d.foot ≤ 0x1000000)
        else decide (d.base + d.foot ≤ 0x200000))

/-- R216. A scratchpad range of the routine meets the factor storage of a descriptor, or leaves the scratchpad. -/
def Desc.meets (d : Desc) (g : Nat) (o n : Nat) : Bool :=
  let a := spadBase g + o
  decide (0x200000 < o + n) || (decide (a < d.home g + d.foot) && decide (d.home g < a + n))

/-- SKETCH for descriptor `k` (R250). -/
def skIf (b : Bool) (k : Nat) : List (Nat × Nat) := if b then [(cSketch, k)] else []

/-- R216. The checks on a descriptor that a routine names; `spOk`: SP = 1 is accepted. -/
def descCauses (s : State) (k : Nat) (spOk : Bool) : List (Nat × Nat) :=
  let d := skAt s.core k
  skIf (kBusy s.core k || !d.fits || (d.sp && !spOk)) k

/-- R364. OPERAND for a nonzero bit outside the masks of MP0–MP3. -/
def zeroOutside (s : State) (mp : List Word64) (masks : List Nat) : List (Nat × Nat) :=
  fieldBad s ((List.range 4).any fun i => decide (mpN mp i &&& masks.getD i 0 ≠ mpN mp i))

/-! ### Arithmetic with flags (R222, R224) -/

/-- A computation that raises flags. -/
abbrev FM (α : Type) := StateM Flags α

/-- One rounded step. -/
def stepF (x : Nat × Flags) : FM Nat := fun f => (x.1, f ||| x.2)
def sqrt32 (a : Nat) : Nat × Flags := finish F32 Rnd.rne (sqrtFV (F32.decode a))
/-- 2^−23, 2^−24, 2. -/
def p2m23 : Nat := 0x34000000
def p2m24 : Nat := 0x33800000
def two32 : Nat := 0x40000000

/-- R224. The sequential dot product. -/
def dot (x y : List Nat) : FM Nat := (List.zip x y).foldlM (fun a p => stepF (fma32 p.1 p.2 a)) 0

/-- R224 step 1, one column: orthogonalise `v` against the columns so far. -/
def orthoOne (qs : List (List Nat)) (v : List Nat) : FM (List Nat × List Nat) := do
  let vv ← dot v v
  let nu ← stepF (sqrt32 vv)
  let (w, rs) ← qs.foldlM (fun (st : List Nat × List Nat) q => do
    let x ← dot q st.1
    let w' ← (List.zip q st.1).mapM fun p => stepF (fma32 (neg32 x) p.1 p.2)
    pure (w', st.2 ++ [x])) (v, [])
  let ww ← dot w w
  let rho ← stepF (sqrt32 ww)
  if eq32 rho 0 then pure (w.map fun _ => 0, rs ++ [0])
  else
    let lim ← stepF (fmul32 nu p2m24)
    if lt32 rho lim then pure (w.map fun _ => 0, rs ++ [0])
    else
      let q ← w.mapM fun x => stepF (fdiv32 x rho)
      pure (q, rs ++ [rho])

/-- R224 step 1. Q by columns, and the columns of rv down to their diagonal. -/
def ortho (vs : List (List Nat)) : FM (List (List Nat) × List (List Nat)) :=
  vs.foldlM (fun st v => do
    let x ← orthoOne st.1 v
    pure (st.1 ++ [x.1], st.2 ++ [x.2])) ([], [])

/-- R224 step 2. W := U · transpose(rv), by columns. -/
def wColumns (m : Nat) (us rv : List (List Nat)) : FM (List (List Nat)) :=
  (List.range us.length).mapM fun i => (List.range m).mapM fun t =>
    ((List.range us.length).drop i).foldlM (fun a j =>
      stepF (fma32 ((us.getD j []).getD t 0) ((rv.getD j []).getD i 0) a)) 0

/-- R224. The rotation of two vectors. -/
def rotate (co si : Nat) (x y : List Nat) : FM (List Nat × List Nat) := do
  let xs ← (List.zip x y).mapM fun p => do
    let t ← stepF (fmul32 si p.2)
    let a ← stepF (fma32 co p.1 (neg32 t))
    let u ← stepF (fmul32 si p.1)
    let b ← stepF (fma32 co p.2 u)
    pure (a, b)
  pure (xs.map Prod.fst, xs.map Prod.snd)

/-- R224. sgn: −1 below zero, else +1. -/
def sgn32 (x : Nat) : Nat := if lt32 x 0 then neg32 one32 else one32

/-- R224 step 3, one pair of columns of W and Q. -/
def jacobi (st : List (List Nat) × List (List Nat)) (p : Nat × Nat) : FM (List (List Nat) × List (List Nat)) := do
  let wa := st.1.getD p.1 []
  let wb := st.1.getD p.2 []
  let al ← dot wa wa
  let be ← dot wb wb
  let ga ← dot wa wb
  let ab ← stepF (fmul32 al be)
  let sq ← stepF (sqrt32 ab)
  let lim ← stepF (fmul32 p2m23 sq)
  if (relFV 3 (F32.decode (abs32 ga)) (F32.decode lim)).1 then pure st
  else
    let num ← stepF (fsub32 be al)
    let den ← stepF (fmul32 two32 ga)
    let ze ← stepF (fdiv32 num den)
    let z2 ← stepF (fmul32 ze ze)
    let z3 ← stepF (fadd32 one32 z2)
    let z4 ← stepF (sqrt32 z3)
    let z5 ← stepF (fadd32 (abs32 ze) z4)
    let tn ← stepF (fdiv32 (sgn32 ze) z5)
    let t2 ← stepF (fmul32 tn tn)
    let t3 ← stepF (fadd32 one32 t2)
    let t4 ← stepF (sqrt32 t3)
    let co ← stepF (fdiv32 one32 t4)
    let si ← stepF (fmul32 co tn)
    let w ← rotate co si wa wb
    let q ← rotate co si (st.2.getD p.1 []) (st.2.getD p.2 [])
    pure ((st.1.set p.1 w.1).set p.2 w.2, (st.2.set p.1 q.1).set p.2 q.2)

/-- R224. The pairs of one sweep, in row-major order. -/
def pairsOf (k : Nat) : List (Nat × Nat) :=
  (List.range k).flatMap fun a => ((List.range k).drop (a + 1)).map fun b => (a, b)

/-- R224 step 4. Insert an index after those with an equal or larger sigma: descending, NaN last, ties ascending. -/
def insertBySg (sg : List Nat) (i : Nat) : List Nat → List Nat
  | [] => [i]
  | j :: js =>
    let a := sg.getD i 0
    let b := sg.getD j 0
    if (isNan32 b && !isNan32 a) || lt32 b a then i :: j :: js else j :: insertBySg sg i js

/-- The factor columns of a sketch and its accounts, as a routine works on them, and the columns it has written. -/
structure Work where
  u : List (List Nat)
  v : List (List Nat)
  js : List Nat
  c : Nat
  de : Nat
  shrinks : Nat
  deriving Repr

/-- R224 step 5. DE := RNE(DE + sg²), the square exact. -/
def addEnergy (de sg : Nat) : FM Nat :=
  let x := F32.decode sg
  stepF (finish F64 Rnd.rne (addFV false (F64.decode de) (mulFV x x).1))

/-- R224. SHRINK(k, target) on the columns of a descriptor. -/
def shrink (d : Desc) (k target : Nat) (w : Work) : FM Work := do
  let us := w.u.take k
  let x ← ortho (w.v.take k)
  let ws ← wColumns d.m us x.2
  let st ← (List.range d.sweeps).foldlM (fun st _ => (pairsOf k).foldlM jacobi st) (ws, x.1)
  let sg ← st.1.mapM fun c => do
    let q ← dot c c
    stepF (sqrt32 q)
  let order := (List.range k).foldl (fun l i => insertBySg sg i l) []
  let kk := Nat.min target k
  let de ← (order.drop kk).foldlM (fun de i => addEnergy de (sg.getD i 0)) w.de
  let pad := fun (len : Nat) (cs : List (List Nat)) =>
    (List.range d.cols).map fun j => if j < kk then cs.getD (order.getD j 0) [] else (List.range len).map fun _ => 0
  pure { u := pad d.m st.1, v := pad d.n st.2, js := List.range d.cols, c := kk, de := de, shrinks := Nat.min (w.shrinks + 1) (2 ^ 32 - 1) }

/-- R226. The cycles of a shrink. -/
def shrinkLat (d : Desc) (k : Nat) : Nat :=
  let m := ceilDiv d.m 16
  let n := ceilDiv d.n 16
  24 + k * k * n + k * k * m + d.sweeps * (k * (k - 1) / 2) * (8 + m + n) + 4 * k
/-- R217. P, with the six replaced for an SP = 1 source. -/
def pairLat (d : Desc) (six : Nat) : Nat := six + ceilDiv d.m 64 + ceilDiv d.n 64

/-! ### Reading and writing factor storage -/

/-- The 32-bit words at a local address, in the matrix unit's view of storage. -/
def viewWords (v : State) (a n : Nat) : List Nat := (List.range n).map fun i => bytesToNat (v.mem.readBytes (a + 4 * i) 4)

/-- R215. The local ranges of the first `n` columns of both factors. -/
def Desc.colRanges (d : Desc) (g n : Nat) : List (Nat × Nat) :=
  (List.range n).flatMap fun j => [(d.colAt g false j, 4 * d.m), (d.colAt g true j, 4 * d.n)]

/-- R215. The first `n` columns of a sketch in a view of storage, and nothing in the others. -/
def readWork (v : State) (d : Desc) (n : Nat) : Work :=
  { u := (List.range d.cols).map fun j => if j < n then viewWords v (d.colAt v.coreNo false j) d.m else []
    v := (List.range d.cols).map fun j => if j < n then viewWords v (d.colAt v.coreNo true j) d.n else []
    js := [], c := d.c, de := d.de, shrinks := d.shrinks }

/-- The writes of one column, by sector. -/
def colWrites (g : Nat) (d : Desc) (v : Bool) (j : Nat) (xs : List Nat) : List (Nat × List Byte) :=
  secSplit (d.colAt g v j) (xs.flatMap fun x => natToBytes 4 x)
/-- The writes of some columns of both factors. -/
def workWrites (g : Nat) (d : Desc) (w : Work) (js : List Nat) : List (Nat × List Byte) :=
  js.flatMap fun j => colWrites g d false j (w.u.getD j []) ++ colWrites g d true j (w.v.getD j [])

/-- R224. The result of work on descriptor `k`: the columns written, its fields and tag, the flags. -/
def workResult (g k : Nat) (d : Desc) (lst : Nat) (x : Work × Flags) : MuResult :=
  { MuResult.none with
    mem := workWrites g d x.1 x.1.js.eraseDups
    sk := [(k, { d with c := x.1.c, de := x.1.de, shrinks := x.1.shrinks, lst := lst }.image)]
    flags := x.2 }

/-! ### SKINIT (R217) -/

/-- R217. The image a form 1 SKINIT reads, as a local address. -/
def initAddr (s : State) (mp : List Word64) : Nat :=
  (if (mpN mp 1).testBit 24 then clusterBase s.coreNo else spadBase s.coreNo) + natBits (mpN mp 1) 23 0

/-- R217. The descriptor SKINIT loads; form 1 reads the image in the matrix unit's view of storage. -/
def initDesc (s : State) (mp : List Word64) : Desc :=
  if (mpN mp 0).testBit 3 then
    let d := descOf (BitVec.ofNat 256 (bytesToNat (s.mem.readBytes (initAddr s mp) 32)))
    if (mpN mp 1).testBit 24 ∧ d.sp = false then
      { d with sp := true, base := natBits (mpN mp 1) 23 0 / 0x200000 * 0x200000 + d.base }
    else d
  else
    { descOf (BitVec.ofNat 256 (natBits (mpN mp 1) 54 0 + natBits (mpN mp 2) 2 0 * 2 ^ 64)) with
      c := 0, lst := 0, de := 0, shrinks := 0 }

/-- R216, R217, R364. The plan of SKINIT; the image is read at issue. -/
def skinitPlan (s : State) (_ : MOp) : Plan :=
  let mp := mpRegs s
  let k := natBits (mpN mp 0) 2 0
  let form := (mpN mp 0).testBit 3
  let o := natBits (mpN mp 1) 23 0
  let clu := (mpN mp 1).testBit 24
  let badImg := form && (decide (o % 16 ≠ 0) ||
    (if clu then decide (o % 0x200000 + 32 > 0x200000) else decide (0x200000 < o + 32)))
  let d := initDesc s mp
  let meet := form && decide (initAddr s mp < d.home s.coreNo + d.foot) && decide (d.home s.coreNo < initAddr s mp + 32)
  let causes := zeroOutside s mp (if form then [15, 2 ^ 25 - 1, 0, 0] else [15, 2 ^ 62 - 1, 7, 0])
    ++ skIf (kBusy s.core k || badImg || (!badImg && (!d.fits || meet))) k
    ++ (if form && !badImg && decide (d.c ≠ 0) && decide (d.lst ≠ s.core.lsc.toNat) then [(cLossScale, d.lst)] else [])
  let bad := form && (badAddr s (initAddr s mp) 32).isSome
  { Plan.of mp causes (if form && clu then 56 else 8) with
    occK := [k], fillK := if d.c = 0 then [] else [k]
    words := if bad then [] else (List.range 8).map fun i => BitVec.ofNat 32 (d.image.toNat / 2 ^ (32 * i)) }

/-- R217. SKINIT: the descriptor takes the fields. -/
def skinitRun (r : Routine) (s : State) : MuResult × List Walk × State :=
  let mp := r.mp
  if r.words = [] then (.fail cMemerr, [], classify (initAddr s mp) s)
  else
    let img := BitVec.ofNat 256 ((r.words.mapIdx fun i w => w.toNat * 2 ^ (32 * i)).foldl (fun a b => a + b) 0)
    ({ MuResult.none with sk := [(natBits (mpN mp 0) 2 0, img)] }, [], s)

/-! ### SKFOLD (R218) -/

/-- R218. The pairs of a fold: number, descriptor, scale, addresses and pitches. -/
structure Fold where
  k : Nat
  b : Nat
  s : Nat
  ua : Nat
  va : Nat
  up : Nat
  vp : Nat
  deriving DecidableEq, Repr

def foldOf (mp : List Word64) : Fold :=
  let p := mpN mp
  ⟨natBits (p 0) 2 0, natBits (p 0) 7 3 + 1, natBits (p 0) 63 32, p 1, p 2, natBits (p 3) 23 0, natBits (p 3) 47 24⟩

/-- R217. Shrinks of a fold, from the counts at issue. -/
def foldShrinks (full r : Nat) : Nat → Nat → Nat
  | 0, _ => 0
  | b + 1, c => if c = full then 1 + foldShrinks full r b r else foldShrinks full r b (c + 1)

/-- R216–R218. The plan of SKFOLD. -/
def skfoldPlan (s : State) (_ : MOp) : Plan :=
  let mp := mpRegs s
  let f := foldOf mp
  let d := skAt s.core f.k
  let g := s.coreNo
  let mis := decide (f.ua % 16 ≠ 0) || decide (f.va % 16 ≠ 0) || decide (f.up % 16 ≠ 0) || decide (f.vp % 16 ≠ 0)
  let out := (List.range f.b).any fun p => d.meets g (f.ua + p * f.up) (4 * d.m) || d.meets g (f.va + p * f.vp) (4 * d.n)
  let causes := zeroOutside s mp [0xFFFFFFFF000000FF, 2 ^ 64 - 1, 2 ^ 64 - 1, 2 ^ 48 - 1]
    ++ descCauses s f.k false ++ skIf (decide (16 < f.b) || mis || out) f.k
  let n := foldShrinks (d.r + d.h) d.r f.b d.c
  { Plan.of mp causes (f.b * pairLat d 6 + n * shrinkLat d (d.r + d.h + 1)) with occK := [f.k], fillK := [f.k] }

/-- R218. Fold one pair. -/
def foldOne (d : Desc) (sc : Nat) (uv : List Nat × List Nat) (w : Work) : FM Work := do
  let full := d.r + d.h
  let j := if w.c = full then full else w.c
  let u ← uv.1.mapM fun x => stepF (fmul32 sc x)
  let w1 : Work := { w with u := w.u.set j u, v := w.v.set j uv.2, js := w.js ++ [j] }
  if w.c = full then shrink d (full + 1) d.r w1 else pure { w1 with c := w.c + 1 }

/-- R252, R365. An uncorrectable sector under some local ranges. -/
def badIn (rs : List (Nat × Nat)) (s : State) : Option Nat := (rs.filterMap fun r => badAddr s r.1 r.2).head?

/-- The tag of a sketch that a routine leaves non-empty: its own, or LSC at the routine's issue (R217). -/
def tagOf (d : Desc) (r : Routine) : Nat := if d.c = 0 then r.lsc.toNat else d.lst

/-- R218. SKFOLD. -/
def skfoldRun (r : Routine) (s : State) : MuResult × List Walk × State :=
  let f := foldOf r.mp
  let d := skAt s.core f.k
  let g := s.coreNo
  let ins := (List.range f.b).flatMap fun p =>
    [(spadBase g + f.ua + p * f.up, 4 * d.m), (spadBase g + f.va + p * f.vp, 4 * d.n)]
  let shr := decide (foldShrinks (d.r + d.h) d.r f.b d.c ≠ 0)
  let used := if shr then d.c else 0
  let outs := if shr then d.colRanges g d.cols else (d.colRanges g (d.c + f.b)).drop (2 * d.c)
  match muView (d.colRanges g used ++ ins) s, badIn outs s with
  | .error (c, s1), _ => (.fail c, [], s1)
  | .ok _, some b => (.fail cMemerr, [], classify b s)
  | .ok (v, s1), none =>
    let x := ((List.range f.b).foldlM (fun w p =>
      foldOne d f.s (viewWords v (spadBase g + f.ua + p * f.up) d.m, viewWords v (spadBase g + f.va + p * f.vp) d.n) w)
      (readWork v d used)) 0
    (workResult g f.k d (tagOf d r) x, [], s1)

/-! ### SKSHRINK (R219) -/

/-- R217, R219. The plan of SKSHRINK. -/
def skshrinkPlan (s : State) (_ : MOp) : Plan :=
  let mp := mpRegs s
  let k := natBits (mpN mp 0) 2 0
  let t := natBits (mpN mp 0) 7 3 + 1
  let d := skAt s.core k
  let causes := zeroOutside s mp [0xFF, 0, 0, 0] ++ descCauses s k false ++ skIf (decide (d.r < t)) k
  { Plan.of mp causes (if d.c = 0 then 8 else shrinkLat d d.c) with occK := [k] }

/-- R219. SKSHRINK. -/
def skshrinkRun (r : Routine) (s : State) : MuResult × List Walk × State :=
  let k := natBits (mpN r.mp 0) 2 0
  let d := skAt s.core k
  if d.c = 0 then (MuResult.none, [], s)
  else
    match muView (d.colRanges s.coreNo d.c) s, badIn (d.colRanges s.coreNo d.cols) s with
    | .error (c, s1), _ => (.fail c, [], s1)
    | .ok _, some b => (.fail cMemerr, [], classify b s)
    | .ok (v, s1), none =>
      let x := shrink d d.c (natBits (mpN r.mp 0) 7 3 + 1) (readWork v d d.c) 0
      (workResult s.coreNo k d d.lst x, [], s1)

/-! ### SKMERGE (R220) -/

/-- R216, R217, R220. The plan of SKMERGE. -/
def skmergePlan (s : State) (_ : MOp) : Plan :=
  let mp := mpRegs s
  let kd := natBits (mpN mp 0) 2 0
  let ks := natBits (mpN mp 0) 5 3
  let d := skAt s.core kd
  let e := skAt s.core ks
  let g := s.coreNo
  let meet := decide (kd ≠ ks) && decide (d.home g < e.home g + e.foot) && decide (e.home g < d.home g + d.foot)
  let causes := zeroOutside s mp [0x3F, 0, 0, 0] ++ descCauses s kd false ++ descCauses s ks true
    ++ skIf (decide (kd = ks) || decide (d.m ≠ e.m) || decide (d.n ≠ e.n) || decide (d.r + d.h + 1 < d.c + e.c) || meet) kd
  let lat := if d.c + e.c = 0 then 8 else e.c * pairLat e (if e.sp then 48 else 6) + shrinkLat d (d.c + e.c)
  { Plan.of mp causes lat with occK := [kd, ks], fillK := if d.c + e.c = 0 then [] else [kd] }

/-- R220. The descriptors of Kd and Ks. -/
def mergeDescs (r : Routine) (s : State) : Desc × Desc :=
  (skAt s.core (natBits (mpN r.mp 0) 2 0), skAt s.core (natBits (mpN r.mp 0) 5 3))

/-- R220. The columns of a descriptor as 32-bit words, U then V. -/
def colWords (v : State) (d : Desc) (n : Nat) : List Word32 :=
  ((List.range n).flatMap fun j =>
    viewWords v (d.colAt v.coreNo false j) d.m ++ viewWords v (d.colAt v.coreNo true j) d.n).map (BitVec.ofNat 32)

/-- R220. What SKMERGE reads in a view of storage: Kd's columns, then Ks's. -/
def mergeWords (r : Routine) (v : State) : List Word32 :=
  let p := mergeDescs r v
  colWords v p.1 p.1.c ++ colWords v p.2 p.2.c

/-- Column `j` of `colWords`. -/
def colOf (d : Desc) (ws : List Word32) (v : Bool) (j : Nat) : List Nat :=
  (((ws.drop (j * (d.m + d.n) + (if v then d.m else 0))).take (if v then d.n else d.m))).map fun w => w.toNat

/-- R220. SKMERGE over the words read: the peer's columns behind Kd's, the energies added, then the shrink. -/
def mergeOf (r : Routine) (ws : List Word32) (s : State) : MuResult :=
  let kd := natBits (mpN r.mp 0) 2 0
  let p := mergeDescs r s
  let d := p.1
  let e := p.2
  let xs := ws.drop (d.c * (d.m + d.n))
  let col := fun (v : Bool) (j : Nat) =>
    if j < d.c then colOf d ws v j else if j < d.c + e.c then colOf e xs v (j - d.c) else []
  let de := finish F64 Rnd.rne (addFV false (F64.decode d.de) (F64.decode e.de))
  let w : Work := {
    u := (List.range d.cols).map (col false), v := (List.range d.cols).map (col true)
    js := [], c := d.c, de := de.1, shrinks := d.shrinks }
  let lst := if d.c = 0 then e.lst else d.lst
  if d.c + e.c = 0 then workResult s.coreNo kd d d.lst (w, de.2)
  else workResult s.coreNo kd d lst (shrink d (d.c + e.c) d.r w de.2)

/-- R220. The local ranges SKMERGE reads, and those it writes. -/
def mergeIns (r : Routine) (s : State) : List (Nat × Nat) :=
  let p := mergeDescs r s
  p.1.colRanges s.coreNo p.1.c ++ p.2.colRanges s.coreNo p.2.c
def mergeOuts (r : Routine) (s : State) : List (Nat × Nat) :=
  let p := mergeDescs r s
  if p.1.c + p.2.c = 0 then [] else p.1.colRanges s.coreNo p.1.cols

/-- R220. SKMERGE. -/
def skmergeRun (r : Routine) (s : State) : MuResult × List Walk × State :=
  match muViewFor true (mergeIns r s) s, badIn (mergeOuts r s) s with
  | .error (c, s1), _ => (.fail c, [], s1)
  | .ok _, some b => (.fail cMemerr, [], classify b s)
  | .ok (v, s1), none => (mergeOf r (mergeWords r v) s, [], s1)

/-- R227. What SKMERGE gives at its completion: where the columns of Ks have been written since its start, it has read each
sector as it was or as it is, a free choice; `r.words` is what it read at its start. -/
def skmergeEnd (r : Routine) (x : MuResult) (s : State) : MuResult :=
  let p := mergeDescs r s
  let n := p.1.c * (p.1.m + p.1.n)
  let now := colWords s p.2 p.2.c
  let old := r.words.drop n
  if !x.ok || now == old then x
  else
    mergeOf r (r.words.take n ++ ((List.zip old now).mapIdx fun i w =>
      let col := i / (p.2.m + p.2.n)
      let o := i % (p.2.m + p.2.n)
      let sector := if o < p.2.m then o / 4 else 256 + (o - p.2.m) / 4
      if freeBit s (1024 * col + sector) then w.1 else w.2)) s

/-! ### SKRD, SKWR (R221) -/

/-- R221, R364. The parameters of SKRD and SKWR. -/
structure Skio where
  k : Nat
  v : Bool
  image : Bool
  j0 : Nat
  cnt : Nat
  run : BitVec 13
  c' : Nat
  deriving DecidableEq, Repr

def skioOf (mp : List Word64) : Skio :=
  let p := mpN mp 0
  ⟨natBits p 2 0, p.testBit 3, p.testBit 4, natBits p 10 5, natBits p 16 11 + 1, BitVec.ofNat 13 (natBits p 29 17),
    natBits p 35 30⟩

/-- R221. Vectors a column takes. -/
def Skio.per (x : Skio) (d : Desc) : Nat := ceilDiv (if x.v then d.n else d.m) 64

/-- R216, R221. The checks that SKRD and SKWR share. -/
def skioCauses (s : State) (x : Skio) : List (Nat × Nat) :=
  let d := skAt s.core x.k
  skIf (decide (d.r + d.h < x.j0 + x.cnt)) x.k
    ++ (if !runDir x.run then [(cOperand, x.run.toNat)] else skIf (runPast x.run (x.cnt * x.per d)) x.k)

/-- R217, R221. The plan of SKRD. -/
def skrdPlan (s : State) (_ : MOp) : Plan :=
  let mp := mpRegs s
  let x := skioOf mp
  let d := skAt s.core x.k
  let o := mpN mp 1
  let causes := zeroOutside s mp [2 ^ 30 - 1, if x.image then 2 ^ 64 - 1 else 0, 0, 0] ++ descCauses s x.k true
    ++ (if x.image then skIf (decide (o % 16 ≠ 0) || d.meets s.coreNo o 32) x.k else skioCauses s x)
  { Plan.of mp causes (if x.image then 8 else 8 + 2 * x.cnt * x.per d) with occK := [x.k] }

/-- R221. SKRD: columns to tile vectors, +0 past d, or the descriptor image to scratchpad. -/
def skrdRun (r : Routine) (s : State) : MuResult × List Walk × State :=
  let x := skioOf r.mp
  let d := skAt s.core x.k
  let g := s.coreNo
  if x.image then
    ({ MuResult.none with
       mem := secSplit (spadBase g + mpN r.mp 1) (natToBytes 32 (mget 0 s.core.sk x.k).toNat) }, [], s)
  else
    let len := if x.v then d.n else d.m
    match muView ((List.range x.cnt).map fun j => (d.colAt g x.v (x.j0 + j), 4 * len)) s with
    | .error (c, s1) => (.fail c, [], s1)
    | .ok (v, s1) =>
      let per := x.per d
      let tiles := (List.range x.cnt).flatMap fun j =>
        let col := viewWords v (d.colAt g x.v (x.j0 + j)) len
        (List.range per).flatMap fun q => (runKeys r.rot x.run (j * per + q)).mapIdx fun l key =>
          (key, BitVec.ofNat 32 (col.getD (64 * q + l) 0))
      ({ MuResult.none with tiles := tiles }, [], s1)

/-- R217, R221. The plan of SKWR; the vectors are read at issue. -/
def skwrPlan (s : State) (_ : MOp) : Plan :=
  let mp := mpRegs s
  let x := skioOf mp
  let d := skAt s.core x.k
  let causes := zeroOutside s mp [2 ^ 36 - 1 - 16, 0, 0, 0] ++ descCauses s x.k false ++ skioCauses s x
    ++ skIf (decide (d.r + d.h < x.c')) x.k
  { Plan.of mp causes (8 + 2 * x.cnt * x.per d) with
    occK := [x.k], fillK := if x.c' = 0 then [] else [x.k]
    words := (List.range (x.cnt * x.per d)).flatMap fun q =>
      (runKeys s.core.rot x.run q).map fun key => mget 0 s.core.tile key }

/-- R221. SKWR: tile vectors to columns, then c := c′. -/
def skwrRun (r : Routine) (s : State) : MuResult × List Walk × State :=
  let x := skioOf r.mp
  let d := skAt s.core x.k
  let len := if x.v then d.n else d.m
  let per := x.per d
  let mem := (List.range x.cnt).flatMap fun j =>
    colWrites s.coreNo d x.v (x.j0 + j) ((List.range len).map fun i => (r.words.getD (j * per * 64 + i) 0).toNat)
  let lst := if x.c' = 0 then 0 else tagOf d r
  ({ MuResult.none with mem := mem, sk := [(x.k, { d with c := x.c', lst := lst }.image)] }, [], s)

/-- R217. SKINIT. -/
def execSkinit (m : MOp) (s : State) : Res := 
  mcallSeen (if (mpN (mpRegs s) 0).testBit 3 then [(initAddr s (mpRegs s), 32)] else []) 16 0 skinitPlan m s
/-- R218. SKFOLD. -/
def execSkfold (m : MOp) (s : State) : Res := mcall 17 0 false skfoldPlan m s
/-- R219. SKSHRINK. -/
def execSkshrink (m : MOp) (s : State) : Res := mcall 18 0 false skshrinkPlan m s
/-- R220. SKMERGE. -/
def execSkmerge (m : MOp) (s : State) : Res := mcall 19 0 false skmergePlan m s
/-- R221. SKRD. -/
def execSkrd (m : MOp) (s : State) : Res := mcall 20 0 false skrdPlan m s
/-- R221. SKWR. -/
def execSkwr (m : MOp) (s : State) : Res := mcall 21 0 false skwrPlan m s

end Sys2Proof.Machine
end

