-- ==== Sys2Proof/Machine/User.lean ====
section
/-! DEFINITION. User routines of the matrix unit (R288, R366–R368): microwords, the loader and its checks, and one microword
at a time. -/

namespace Sys2Proof.Machine

open Host

/-! ### Microwords (R288) -/

def uOp (w : Word64) : Nat := natBits w.toNat 63 60
def uD (w : Word64) : Nat := natBits w.toNat 59 56
def uA (w : Word64) : Nat := natBits w.toNat 55 52
def uB (w : Word64) : Nat := natBits w.toNat 51 48
/-- IMM16, signed. -/
def uImm (w : Word64) : Int := sint 16 (natBits w.toNat 47 32)
def uArg (w : Word64) : Nat := natBits w.toNat 31 0

/-- R288, R367. Fields that an operation leaves unused hold 0, and those it uses hold a value of its row. `n` is the count of
the image, for branch targets (R366). -/
def uOk (n : Nat) (w : Word64) : Bool :=
  let zD := uD w == 0
  let zA := uA w == 0
  let zB := uB w == 0
  let zI := natBits w.toNat 47 32 == 0
  let g := uArg w
  let tgt := decide (natBits w.toNat 47 32 < n)
  let fet := decide (g % 256 < 128) && decide (chunkW (natBits g 12 8) ≠ 0)
  let vec := decide (0 ≤ uImm w)
  match uOp w with
  | 0 => zD && zA && zB && zI && g == 0
  | 1 => zA && zB
  | 2 => g == 0
  | 3 => zA && zB && g == 0 && tgt
  | 4 => zD && zB && decide (g < 4) && (g != 0 || zA) && tgt
  | 5 => zD && zA && zB && zI && g == 0
  | 6 => zD && zI && decide (g < 2 ^ 13) && fet
  | 7 => zD && zI && decide (g < 2 ^ 15) && fet
  | 8 => zD && zA && zB && zI && decide (g < 16) && (!g.testBit 2 || !g.testBit 0)
  | 9 => zD && zA && zB && zI && decide (g < 16)
  | 10 => zD && zI && decide (g < 128) && [8, 9, 10].contains (natBits g 6 2)
  | 11 => zD && zB && zI && decide (g < 12)
  | 12 => g == 0 && vec
  | 13 => zB && g == 0 && vec
  | 14 => g == 0 && vec
  | _ => zD && zA && zB && zI && g == 0

/-- The microwords of a loaded routine, in order. -/
def uWords (c : Core) (u : UserRtn) : List Word64 := (List.range u.count).map fun i => mget 0 c.micro (u.first + i)

/-- R367. The M registers a microword names; `f64`: the routine fetches FP64 chunks, which accumulate in pairs. -/
def uRegs (f64 : Bool) (w : Word64) : List Nat :=
  let g := uArg w
  match uOp w with
  | 8 => if g.testBit 2 || (f64 && !g.testBit 0) then [g % 4, g % 4 + 1] else [g % 4]
  | 9 => [g % 4, g / 4 % 4]
  | 10 => [g % 4]
  | 11 => [g % 4]
  | _ => []
/-- Those among them that it writes. -/
def uDests (f64 : Bool) (w : Word64) : List Nat :=
  match uOp w with
  | 10 => []
  | 9 => [uArg w % 4]
  | _ => uRegs f64 w
/-- A routine fetches FP64 chunks. -/
def uF64 (ws : List Word64) : Bool := ws.any fun w => (uOp w == 6 || uOp w == 7) && natBits (uArg w) 12 8 == 11

/-! ### Calling and loading (R366) -/

/-- R284, R367. The plan of a call: a number with no loaded routine is ILLEGAL_OP. -/
def userPlan (rtn : Nat) (s : State) (_ : MOp) : Plan :=
  let mp := mpRegs s
  match mget none s.core.user rtn with
  | none => Plan.of mp [(cIllegalOp, 1)] 0
  | some u =>
    let ws := uWords s.core u
    { Plan.of mp [] 0 with
      occM := (ws.flatMap (uRegs (uF64 ws))).eraseDups, fillM := (ws.flatMap (uDests (uF64 ws))).eraseDups }

/-- R366. Scratchpad offset of the image a load names. -/
def imgOff (s : State) : Nat := natBits (mpN (mpRegs s) 0) 20 0
/-- R366. Header of the image at a scratchpad offset, in the matrix unit's view of storage. -/
def imgHeader (v : State) (o : Nat) : Nat := bytesToNat (v.mem.readBytes (spadBase v.coreNo + o) 16)

/-- R358, R366. The plan of a load; its latency follows from the header's count. -/
def loadPlan (s : State) (_ : MOp) : Plan :=
  let mp := mpRegs s
  let o := imgOff s
  let h := imgHeader s o
  let n := natBits h 23 12
  let causes := (if o % 16 ≠ 0 then [(cAlign, o)] else []) ++ pastSpad [(o, 16 + 8 * n)]
  { Plan.of mp causes (16 + ceilDiv n 2) with
    words := (List.range 4).map fun i => BitVec.ofNat 32 (h / 2 ^ (32 * i)) }

/-- R366. The loader. -/
def loadRun (r : Routine) (s : State) : MuResult × List Walk × State :=
  let o := natBits (mpN r.mp 0) 20 0
  let h := (r.words.mapIdx fun i w => w.toNat * 2 ^ (32 * i)).foldl (fun a b => a + b) 0
  let first := natBits h 11 0
  let n := natBits h 23 12
  match muView (spadRanges s [(o, 16 + 8 * n)]) s with
  | .error (c, s1) => (.fail c, [], s1)
  | .ok (v, s) =>
    let ws := (List.range n).map fun i => BitVec.ofNat 64 (bytesToNat (v.mem.readBytes (spadBase s.coreNo + o + 16 + 8 * i) 8))
    let ok := decide (1024 ≤ first) && decide (1 ≤ n) && decide (n ≤ 3072) && decide (first + n ≤ 4096)
      && decide (h / 2 ^ 24 = 0) && ws.all (uOk n)
    if ok then
      ({ MuResult.none with micro := ws.mapIdx fun i w => (first + i, w), loaded := some (r.rtn, first, n) }, [], s)
    else (.fail cOperand, [], s)

/-- R366. A successful load: the number names its range, and every other user number whose range it overlaps is
unloaded. -/
def setLoaded (rtn first n : Nat) (c : Core) : Core :=
  let keep := c.user.filter fun p => match p.2 with
    | some u => decide (u.first + u.count ≤ first) || decide (first + n ≤ u.first)
    | none => false
  { c with user := mset none keep rtn (some ⟨first, n⟩) }

/-! ### One microword (R367, R368) -/

def UserRun.yN (u : UserRun) (i : Nat) : Nat := (u.y.getD i 0).toNat
def UserRun.setY (u : UserRun) (i : Nat) (v : Word64) : UserRun := { u with y := u.y.set i v }

/-- What a microword does: it goes on, it ends the routine, or it stops it with a code. -/
inductive UStep where
  | go (u : UserRun) (s : State)
  | ended (u : UserRun) (s : State)
  | stop (code : Nat) (walks : List Walk) (s : State)

/-- R368. The codes a list of scratchpad ranges gives: out of range, misaligned. -/
def uRange (rs : List (Nat × Nat)) : Option Nat :=
  if rs.any fun r => decide (0x200000 < r.1 + r.2) then some cProtect
  else if rs.any fun r => decide (r.1 % 16 ≠ 0) then some cAlign
  else none

/-- 64-bit address arithmetic. -/
def wrapAddr (x : Nat) : Nat := x % 2 ^ 64

/-- R367. Fetch the rows of a chunk: their addresses, values each, format, pass grouping. -/
def uFetch (seq : Nat) (glob : Bool) (rows : List Nat) (n fmt : Nat) (passes : List (List Nat)) (s : State) :
    Except Nat Chunk × List Walk × State :=
  let w := fmtWidth fmt
  let rs := rows.map fun a => (a, ceilDiv (n * w) 8)
  let cut := fun (xs : List Nat) => Chunk.mk fmt (xs.map fun x => (List.range n).map fun k => x / 2 ^ (w * k) % 2 ^ w)
  if glob then
    if rows.any fun a => decide (a % 16 ≠ 0) then (.error cAlign, [], s)
    else
      let x := globalRows (.mu seq) rs s
      (match x.1 with
       | .error c => .error c
       | .ok v => .ok (cut v), x.2.1, x.2.2)
  else if passes.any fun p => (passClash [] p).isSome then (.error cSpadBank, [], s)
  else
    match uRange rs with
    | some c => (.error c, [], s)
    | none =>
      match spadRows rs s with
      | .error (c, s1) => (.error c, [], s1)
      | .ok (v, s1) => (.ok (cut v), [], s1)

/-- Set elements of the accumulators. -/
def setMacc (l : List (Nat × Word32)) (s : State) : State :=
  { s with core := { s.core with macc := msetMany 0 s.core.macc l } }

/-- R185. The products of two rows of patterns. -/
def uProducts (fa fb : Nat) (x y : List Nat) : List (FV × Flags) :=
  (List.zip x y).map fun p => mulFV (decodeFmt fa p.1) (decodeFmt fb p.2)

/-- R367. µMMA. Where the rules state no product (a chunk of E2M1 or QN4, which R357 always scales, a CF32 chunk, or two
formats that do not go together), each element is a free value. -/
def uMma (u : UserRun) (g : Nat) (s : State) : UStep :=
  let acc := g % 4
  let comp := g.testBit 2
  let clear := g.testBit 3
  let fa := u.a.fmt
  let fb := u.b.fmt
  let f64 := fa = 11
  if f64 ∧ (acc % 2 = 1 ∨ comp) then .stop cOperand [] s
  else
    let regs := if comp ∨ f64 then [acc, acc + 1] else [acc]
    let stated := (fa = fb ∧ fa ≠ 14 ∧ fa ≠ 15 ∧ fa ≠ 17) ∨ (fa = 12 ∧ fb = 13) ∨ (fa = 13 ∧ fb = 12)
    let s0 := if clear then { s with core := regs.foldl (fun c r => clearM r c) s.core } else s
    let put := fun r i j v => (accKey r i j, BitVec.ofNat 32 v)
    let nb := u.b.rows.length
    let el := fun (i j : Nat) (x y : List Nat) =>
      if stated then
        let cs := [uProducts fa fb x y]
        if f64 then
          let z := accPlain F64 (accAt s0 acc i j + accAt s0 (acc + 1) i j * 2 ^ 32) cs
          ([put acc i j z.1, put (acc + 1) i j (z.1 / 2 ^ 32)], z.2)
        else if comp then
          let z := accComp (accAt s0 acc i j) (accAt s0 (acc + 1) i j) cs
          ([put acc i j z.1.1, put (acc + 1) i j z.1.2], z.2)
        else
          let z := accPlain F32 (accAt s0 acc i j) cs
          ([put acc i j z.1], z.2)
      else
        (regs.map fun r => put r i j (Config.free (s.free + ((i * nb + j) * 2 + r % 2))).toNat, (0 : Flags))
    let els := (u.a.rows.mapIdx fun i x => u.b.rows.mapIdx fun j y => el i j x y).flatten
    let s1 := setMacc (els.flatMap Prod.fst) (if stated then s0 else spend (2 * u.a.rows.length * nb) s0)
    let s2 := { s1 with core := { s1.core with mf64 := mset false s1.core.mf64 (acc / 2 * 2) (decide f64) } }
    .go { u with full := u.full ++ regs, flags := u.flags ||| orFlags (els.map Prod.snd) } s2

/-- R367. µACC and µVOP: every element of M[d]. -/
def uElems (u : UserRun) (d : Nat) (f : Nat → Nat → Nat → Nat × Flags) (s : State) : UStep :=
  let els := (List.range 128).flatMap fun i => (List.range 128).map fun j =>
    let x := f i j (accAt s d i j)
    ((accKey d i j, BitVec.ofNat 32 x.1), x.2)
  .go { u with full := u.full ++ [d], flags := u.flags ||| orFlags (els.map Prod.snd) } (setMacc (els.map Prod.fst) s)

/-- R354. A write of a user routine: by sector, seen now or only once the routine completes (a free choice), but after what is
still to be seen of the same sector. -/
def uWrite (ws : List (Nat × List Byte)) (u : UserRun) (s : State) : UserRun × State :=
  let waits := fun (w : Nat × List Byte) => u.late.any fun x => decide (x.1 / 16 = w.1 / 16)
  let cs := ws.mapIdx fun i w => (freeBit s (engDraws + i) && !waits w, w)
  let now := (cs.filter Prod.fst).map Prod.snd
  let late := (cs.filter fun c => !c.1).map Prod.snd
  ({ u with late := u.late ++ late },
    spend ws.length (engWrites now s))

/-- R367. The FP32 vector of `n` values at a scratchpad offset. -/
def uVec (o n : Nat) (s : State) : Except EngErr (List Nat × State) :=
  match spadRows [(o, 4 * n)] s with
  | .error e => .error e
  | .ok (v, s1) => .ok ((List.range n).map fun i => v.headD 0 / 2 ^ (32 * i) % 2 ^ 32, s1)

/-- R367. Cycles of a microword (µSYNC's drain is a free value). -/
def uCycles (s : State) (u : UserRun) (w : Word64) : Nat :=
  let g := uArg w
  let n := (uImm w).toNat
  match uOp w with
  | 6 => let f := natBits g 12 8; 2 + ceilDiv ((g % 256 + 1) * chunkW f * fmtWidth f) 2048
  | 7 => let f := natBits g 12 8; 2 + ceilDiv ((g % 256 + 1) * chunkW f * fmtWidth f) 2048
  | 8 => chunkW u.a.fmt * stepHalves u.a.fmt / 2
  | 9 => 128
  | 10 => 4
  | 11 => 128
  | 12 => 4 + ceilDiv n 16
  | 13 => 6 + ceilDiv n 16
  | 14 => 8 + ceilDiv n 16
  | 15 => 1 + (Config.free s.free).toNat
  | _ => 1

/-- R367, R368. Execute a microword; `pc` has moved past it. -/
def uExec (seq : Nat) (u : UserRun) (w : Word64) (s : State) : UStep :=
  let a := u.yN (uA w)
  let b := u.yN (uB w)
  let g := uArg w
  let n := (uImm w).toNat
  let fm := natBits g 12 8
  match uOp w with
  | 1 => .go (u.setY (uD w) (BitVec.ofInt 64 (sint 48 (natBits w.toNat 47 0)))) s
  | 2 => .go (u.setY (uD w) (BitVec.ofInt 64 (a + b + uImm w))) s
  | 3 =>
    let v := u.y.getD (uD w) 0 - 1
    let u := u.setY (uD w) v
    .go (if v ≠ 0 then { u with pc := n } else u) s
  | 4 =>
    let t := match g with
      | 0 => true
      | 1 => decide (a = 0)
      | 2 => decide (a ≠ 0)
      | _ => decide (2 ^ 63 ≤ a)
    .go (if t then { u with pc := n } else u) s
  | 5 => .ended u s
  | 6 =>
    let rows := (List.range (g % 256 + 1)).map fun i => wrapAddr (a + i * b)
    let x := uFetch seq false rows (chunkW fm) fm (passes32 5 rows) s
    (match x.1 with
     | .error c => .stop c x.2.1 x.2.2
     | .ok ch => .go { u with a := ch } x.2.2)
  | 7 =>
    let cols := g % 256 + 1
    let tr := g.testBit 13
    let rows := (List.range (if tr then chunkW fm else cols)).map fun i => wrapAddr (a + i * b)
    let x := uFetch seq (g.testBit 14) rows (if tr then cols else chunkW fm) fm
      (if tr then [rows] else passes32 5 rows) s
    (match x.1 with
     | .error c => .stop c x.2.1 x.2.2
     | .ok ch =>
       let ch := if tr then
           { ch with rows := (List.range cols).map fun j => ch.rows.map fun r => r.getD j 0 } else ch
       .go { u with b := ch } (addWalks x.2.1 x.2.2))
  | 8 => uMma u g s
  | 9 => uElems u (g % 4) (fun i j x => fadd32 x (accAt s (g / 4 % 4) i j)) s
  | 10 =>
    let f := natBits g 6 2
    let nb := 16 * fmtWidth f
    (match if 128 ≤ a then some cProtect else uRange [(b, nb)] with
     | some c => .stop c [] s
     | none =>
       let vs := (List.range 128).map fun j => roundTo f Rnd.rne (F32.decode (accAt s (g % 4) a j))
       let x := uWrite (secSplit (spadBase s.coreNo + b) (vs.flatMap fun v => natToBytes (fmtWidth f / 8) v.1)) u s
       .go { x.1 with flags := x.1.flags ||| orFlags (vs.map Prod.snd) } x.2)
  | 11 =>
    let y := a % 2 ^ 32
    uElems u (g % 4) (fun _ _ x => match g / 4 with
      | 0 => fmul32 x y
      | 1 => fadd32 x y
      | _ => minMaxFV F32 true x y) s
  | 12 =>
    (match uRange [(a, 4 * n), (b, 4 * n)] with
     | some c => .stop c [] s
     | none =>
       match uVec a n s with
       | .error (c, s1) => .stop c [] s1
       | .ok (x, s1) =>
         match uVec b n s1 with
         | .error (c, s2) => .stop c [] s2
         | .ok (y, s2) =>
           let d := dot x y 0
           .go { u.setY (uD w) (BitVec.ofNat 64 d.1) with flags := u.flags ||| d.2 } s2)
  | 13 =>
    (match uRange [(a, 4 * n)] with
     | some c => .stop c [] s
     | none =>
       match uVec a n s with
       | .error (c, s1) => .stop c [] s1
       | .ok (x, s1) =>
         let d := dot x x 0
         let q := sqrt32 d.1
         .go { u.setY (uD w) (BitVec.ofNat 64 q.1) with flags := u.flags ||| d.2 ||| q.2 } s1)
  | 14 =>
    (match uRange [(a, 4 * n), (b, 4 * n)] with
     | some c => .stop c [] s
     | none =>
       match uVec a n s with
       | .error (c, s1) => .stop c [] s1
       | .ok (x, s1) =>
         match uVec b n s1 with
         | .error (c, s2) => .stop c [] s2
         | .ok (y, s2) =>
           let cs := u.yN (uD w)
           let z := rotate (cs % 2 ^ 32) (cs / 2 ^ 32) x y 0
           let out := fun (o : Nat) (l : List Nat) =>
             secSplit (spadBase s.coreNo + o) (l.flatMap fun v => natToBytes 4 v)
           let p := uWrite (out a z.1.1 ++ out b z.1.2) u s2
           .go { p.1 with flags := p.1.flags ||| z.2 } p.2)
  | 15 =>
    .go { u with late := [] }
      (spend 1 (engWrites u.late s))
  | _ => .go u s

/-- R366. MCALL of a user number. -/
def execUserRoutineCall (rtn : BitVec 8) (m : MOp) (s : State) : Res :=
  mcall rtn.toNat 0 false (userPlan rtn.toNat) m s
/-- R366. MCALL of a user number with flag [5]: its load. -/
def execUserRoutineLoad (rtn : BitVec 8) (m : MOp) (s : State) : Res :=
  mcallSeen [(spadBase s.coreNo + imgOff s, 16)] rtn.toNat 1 loadPlan m s

end Sys2Proof.Machine
end

