-- ==== Sys2Proof/Machine/Matrix.lean ====
section
/-! DEFINITION. The matrix unit's events (ROUTINE_START, ROUTINE_COMPLETE), MSTOP and MSTAT (R353–R356), and the loss scale
(R191, R192, R228). -/

namespace Sys2Proof.Machine

open Host

/-! ### Ending a routine (R354, R355) -/

/-- Take a routine off its pipe. -/
def removeRtn (r : Routine) (s : State) : State :=
  { s with core := { s.core with rtns := s.core.rtns.filter fun x => !decide (x.seq = r.seq) } }
/-- Put a routine's new form in its place. -/
def setRtn (r : Routine) (s : State) : State :=
  { s with core := { s.core with rtns := s.core.rtns.map fun x => if x.seq = r.seq then r else x } }

/-- R355. The sketches a routine writes: none for SKRD, Kd for SKMERGE. -/
def writtenK (r : Routine) : List Nat := if r.rtn = 20 then [] else r.occK.take 1

/-- R355. A sketch emptied and untagged; DE and SHRINKS keep their values. -/
def clearK (c : Core) (k : Nat) : Core :=
  { c with sk := mset 0 c.sk k { skAt c k with c := 0, lst := 0 }.image }

/-- R355. The routine stops: its token is done-error, what it occupied is empty. -/
def dropRtn (r : Routine) (s : State) : State :=
  let s1 := setTok r.op.produce .err (removeRtn r s)
  { s1 with core := (writtenK r).foldl clearK (r.occM.foldl (fun c i => clearM i c) s1.core) }

/-- Write a free subset of what a routine writes outside the unit: each tile element and each sector old or new (R354,
R355); `k` is the first draw. -/
def someWrites (k : Nat) (x : MuResult) (s : State) : State :=
  let ts := (x.tiles.mapIdx fun i t => (freeBit s (k + i), t)).filter Prod.fst
  let s1 := engWrites (chooseUnits (k + x.tiles.length) x.mem s).1 s
  { s1 with
    core := { s1.core with tile := msetMany 0 s1.core.tile (ts.map Prod.snd) } }

/-- R355. MSTOP of the routine that has the token as its produce token. -/
def stopRoutine (t : Nat) (s : State) : State :=
  match s.core.rtns.find? fun r => decide (r.op.produce ≠ 0) && decide (r.op.produce.toNat = t) with
  | none => s
  | some r =>
    let x := match r.result, r.usr with
      | some x, _ => x
      | none, some u => { MuResult.none with mem := u.late }
      | none, none => MuResult.none
    let s1 := if x.ok then spend (x.tiles.length + x.mem.length) (someWrites 0 x s) else s
    dropRtn r s1

/-- R354, R357, R362. The effects of a routine that completes. -/
def applyResult (r : Routine) (x : MuResult) (s : State) : State :=
  let c := x.clr.foldl (fun c i => clearM i c) s.core
  let c := { c with
    macc := msetMany 0 c.macc x.m
    mfull := x.full.foldl (fun m i => mset false m i true) c.mfull
    mtag := (x.full.filter fun i => !mget false c.mfull i).foldl (fun m i => mset 0 m i r.lsc) c.mtag
    mf64 := x.f64.foldl (fun m i => mset false m i true)
      (if r.usr.isSome then c.mf64 else x.full.foldl (fun m i => mset false m (i / 2 * 2) false) c.mf64)
    tile := msetMany 0 c.tile x.tiles
    sk := msetMany 0 c.sk x.sk
    muFlags := c.muFlags ||| x.flags
    micro := msetMany 0 c.micro x.micro }
  let c := match x.loaded with
    | some (n, f, k) => setLoaded n f k c
    | none => c
  engWrites x.mem { s with core := c }

/-! ### Starting (R353) -/

/-- What a routine can do in this cycle: start, fail for a token, or execute a microword. -/
inductive RtnAct where
  | start
  | never (tok : Tok)
  | micro (u : UserRun)
  deriving DecidableEq, Repr

/-- A walk for this routine has still to end (R140). -/
def rtnWalks (c : Core) (r : Routine) : Bool := c.walks.any fun w => decide (w.owner = .mu r.seq)

/-- R353. Last cycle of an elastic window. -/
def windowEnd (r : Routine) : Nat := r.issue + 2 ^ (r.op.elastic.toNat + 4) - 1

/-- R353, R367. -/
def rtnAct (s : State) (r : Routine) : Option RtnAct :=
  match r.start with
  | none =>
    if r.op.elastic = 0 then some .start -- its tokens were checked at issue
    else
      let ts := consumedOf r.op
      match ts.find? fun t => decide (startTok s t ≠ .ok) with
      | none => some .start
      | some t =>
        if windowEnd r ≤ s.cyc ∨ (ts.any fun t => decide (startTok s t = .err)) then some (.never t) else none
  | some _ =>
    match r.result, r.usr with
    | none, some u => if u.next ≤ s.cyc ∧ !rtnWalks s.core r then some (.micro u) else none
    | _, _ => none

/-- The first routine of the core that can start in this cycle (`start`), or that can fail or go on. -/
def startable (start : Bool) (s : State) : Option (Routine × RtnAct) :=
  (s.core.rtns.filterMap fun r => (rtnAct s r).bind fun a => if (a == .start) == start then some (r, a) else none).head?

/-- What routine `r` computes when it starts. -/
def runOf (r : Routine) (s : State) : MuResult × List Walk × State :=
  if r.rtn ≤ 3 then gemmRun r s
  else if r.rtn = 4 then gateRun r s
  else if r.rtn = 8 then accrdRun r s
  else if r.rtn = 9 then accclrRun r s
  else if r.rtn = 16 then skinitRun r s
  else if r.rtn = 17 then skfoldRun r s
  else if r.rtn = 18 then skshrinkRun r s
  else if r.rtn = 19 then skmergeRun r s
  else if r.rtn = 20 then skrdRun r s
  else if r.rtn = 21 then skwrRun r s
  else loadRun r s

/-- R251, R353. A report of TIMING that the core makes later. -/
def timingRep (slot tok : Nat) (s : State) : State :=
  { s with core := { s.core with
      reports := s.core.reports ++ [⟨BitVec.ofNat 8 cTiming, BitVec.ofNat 3 slot, false, true, BitVec.ofNat 56 tok, false⟩] } }

/-- R223. Routines whose writes to memory go to factor storage: until they complete a core read of a sector gives the old
contents or the new, and a core write into it prevails or is lost. -/
def worksOnStorage (r : Routine) : Bool := [17, 18, 19, 21].contains r.rtn

/-- R223. Each sector of factor storage is written at the start or at the completion, a free choice (log 113). -/
def splitWrites (x : MuResult) (s : State) : MuResult × State :=
  let ms := chooseUnits (engDraws + x.tiles.length) x.mem s
  ({ x with mem := ms.2 }, engWrites ms.1 s)

/-- R353, R354. A routine starts in this cycle. A stream that fails stops it where it fails, after its walks. -/
def startRtn (r : Routine) (s : State) : State :=
  if 64 ≤ r.rtn ∧ r.op.spec = 0 then
    let u : UserRun := {
      y := r.mp ++ List.replicate 8 0, pc := 0, next := s.cyc, a := ⟨10, []⟩, b := ⟨10, []⟩, full := [], flags := 0, late := [] }
    setRtn { r with start := some s.cyc, usr := some u } s
  else
    let x := runOf r s
    let s1 := addWalks x.2.1 x.2.2
    let lat := if x.1.ok || x.1.err == BitVec.ofNat 8 cOperand then r.lat else 0
    let split := x.1.ok && worksOnStorage r
    let p := if split then splitWrites x.1 s1 else (x.1, s1)
    let words := if r.rtn = 19 then mergeWords r (viewFor true true (mergeIns r s) s).1 else r.words
    let s2 := setRtn { r with start := some s.cyc, finish := s.cyc + lat, words := words, result := some p.1 } p.2
    let s3 := if x.1.ok && r.op.elastic != 0 && !split then someWrites engDraws x.1 s2 else s2
    spend (2 * engDraws) s3

/-- R367, R368. A user routine executes its next microword; one beyond its last stops it. -/
def microStep (r : Routine) (u : UserRun) (s : State) : State :=
  let fin := fun (x : MuResult) (d : Nat) (s : State) =>
    setRtn { r with finish := s.cyc + d, result := some x } s
  match (mget none s.core.user r.rtn).bind fun e => if u.pc < e.count then some (mget 0 s.core.micro (e.first + u.pc)) else none with
  | none => fin (.fail cOperand) 0 s
  | some w =>
    match uExec r.seq { u with pc := u.pc + 1 } w s with
    | .go u1 s1 => spend (2 * engDraws) (setRtn { r with usr := some { u1 with next := s.cyc + uCycles s u1 w } } s1)
    | .ended u1 s1 =>
      fin { MuResult.none with full := u1.full.eraseDups, flags := u1.flags, mem := u1.late } 1 s1
    | .stop c ws s1 => spend (2 * engDraws) (fin (.fail c) 0 (addWalks ws s1))

/-- R353. ROUTINE_START: a waiting routine starts or, its tokens failing, never does; a user routine executes a
microword. -/
def execRoutineStart (core : Nat) (s : State) : Res :=
  let s := select core s
  match (startable false s).or (startable true s) with
  | none => notEnabled "ROUTINE_START"
  | some (r, .start) => .next (startRtn r s)
  | some (r, .never t) => .next (timingRep 4 t.toNat (setTok r.op.produce .err (removeRtn r s)))
  | some (r, .micro u) => .next (microStep r u s)

/-! ### Completing (R354, R365) -/

/-- The first routine of the core whose completion cycle has come. -/
def finished (s : State) : Option (Routine × MuResult) :=
  (s.core.rtns.filterMap fun r => match r.result with
    | some x => if r.finish ≤ s.cyc ∧ !rtnWalks s.core r then some (r, x) else none
    | none => none).head?

/-- R354, R365. ROUTINE_COMPLETE. -/
def execRoutineComplete (core : Nat) (s : State) : Res :=
  let s := select core s
  match finished s with
  | none => notEnabled "ROUTINE_COMPLETE"
  | some (r, x) =>
    let x := if r.rtn = 19 then skmergeEnd r x s else x
    .next (if x.ok then setTok r.op.produce .ok (removeRtn r (applyResult r x (spend engDraws s)))
      else
        let s1 := dropRtn r s
        { s1 with core := { s1.core with muErr := x.err } })

/-! ### MSTOP, MSTAT (R355, R356) -/

/-- R355. MSTOP: at t + 1. -/
def execMstop (t : Tok) (s : State) : Res := .next (put 1 (.mstop t.toNat) s)

/-- R356. The status word. -/
def mstatWord (c : Core) : Word64 :=
  let b := fun (x : Bool) (i : Nat) => if x then 2 ^ i else 0
  BitVec.ofNat 64 (c.muFlags.toNat + b (decide (0 < onPipe c .array)) 5 + b (decide (0 < onPipe c .readout)) 6
    + onPipe c .sketch * 2 ^ 7 + b c.rescale.isSome 10
    + ((List.range 4).map fun i => b (!mget false c.mfull i) (16 + i)).foldl (fun x y => x + y) 0
    + c.muErr.toNat * 2 ^ 20)

/-- R356. MSTAT. -/
def execMstat (mp : BitVec 3) (clr : Bool) (s : State) : Res :=
  let s1 := put 2 (.mp mp.toNat (mstatWord s.core)) s
  .next (if clr then { s1 with core := { s1.core with muFlags := 0 } } else s1)

/-- R284. MNOP. -/
def execMnop (s : State) : Res := .next s

/-! ### The loss scale (R191, R192) -/

/-- R191. Accumulator `i` is non-empty, or a routine on a pipe makes it so. -/
def mNonEmpty (c : Core) (i : Nat) : Bool := mget false c.mfull i || c.rtns.any fun r => r.fillM.contains i
/-- R214. Sketch `k` is non-empty, or a routine on a pipe makes it so. -/
def kNonEmpty (c : Core) (k : Nat) : Bool := decide ((skAt c k).c ≠ 0) || c.rtns.any fun r => r.fillK.contains k

/-- R191. The tags of what is non-empty. -/
def tags (c : Core) : List Byte :=
  ((List.range 4).filter fun i => mget false c.mfull i).map (fun i => mget 0 c.mtag i)
    ++ ((List.range 8).filter fun k => decide ((skAt c k).c ≠ 0)).map (fun k => BitVec.ofNat 8 (skAt c k).lst)
    ++ (c.rtns.filter fun r => r.fillM ≠ [] ∨ r.fillK ≠ []).map Routine.lsc

/-- R192. MTS to LSC. -/
def execMtsLsc (g : Guard) (a : SReg) (s : State) : Res :=
  if guardOn s g then
    let v := (rdS s a).setWidth 8
    guarded 1 [causeIf ((tags s.core).any fun t => decide (t ≠ v)) cLossScale v.toNat] (put 1 (.sys 0x024 (v.setWidth 64))) s
  else .next s

/-- R192. RNE(x · 2^k) in a format. -/
def scalePat (f : FFmt) (k : Int) (x : Nat) : Nat × Flags :=
  match f.decode x with
  | .nan sg => (f.nan, sigFlag sg)
  | .inf _ => (x, 0)
  | .fin n m e => roundFin f Rnd.rne n m (e + k)

/-- Keys of the listed elements of accumulator `i`, as offsets. -/
def accOffs (c : Core) (i : Nat) : List Nat :=
  (c.macc.filter fun p => decide (p.1 / 16384 = i)).map fun p => p.1 % 16384

/-- R192. The rescaled elements of accumulator `i`, or of its FP64 pair at its base. -/
def scaleM (c : Core) (k : Int) (i : Nat) : List (Nat × Word32) × Flags :=
  let at_ := fun r o => (mget 0 c.macc (r * 16384 + o)).toNat
  if mget false c.mf64 (i / 2 * 2) then
    if i % 2 = 1 then ([], 0)
    else
      let xs := (accOffs c i ++ accOffs c (i + 1)).eraseDups.map fun o =>
        (o, scalePat F64 k (at_ i o + at_ (i + 1) o * 2 ^ 32))
      (xs.flatMap fun x => [(i * 16384 + x.1, BitVec.ofNat 32 x.2.1),
        ((i + 1) * 16384 + x.1, BitVec.ofNat 32 (x.2.1 / 2 ^ 32))], orFlags (xs.map fun x => x.2.2))
  else
    let xs := (accOffs c i).map fun o => (o, scalePat F32 k (at_ i o))
    (xs.map fun x => (i * 16384 + x.1, BitVec.ofNat 32 x.2.1), orFlags (xs.map fun x => x.2.2))

/-- R192, R228. The rescaled U columns of a sketch, in the matrix unit's view of storage. -/
def scaleU (s : State) (d : Desc) (k : Int) : List (Nat × List Byte) × Flags :=
  let cols := (List.range d.c).map fun j =>
    let xs := (viewWords s (d.colAt s.coreNo false j) d.m).map (scalePat F32 k)
    (colWrites s.coreNo d false j (xs.map Prod.fst), orFlags (xs.map Prod.snd))
  ((cols.flatMap Prod.fst).filter fun w => (badAddr s w.1 w.2.length).isNone, orFlags (cols.map Prod.snd))

/-- R192. The rescale by 2^(v − LSC): accumulators, energies and tags at once (only routines reach them, and those fault
SCHEDULE until it completes); each sector of U by a free choice now or at completion. -/
def rescale (v : Byte) (s : State) : State :=
  let c := s.core
  let k : Int := v.toInt - c.lsc.toInt
  let ms := (List.range 4).filter fun i => mget false c.mfull i
  let ks := (List.range 8).filter fun i => decide ((skAt c i).c ≠ 0)
  let mx := ms.map (scaleM c k)
  let seen := engView true (ks.flatMap fun i => (skAt c i).colRanges s.coreNo (skAt c i).c) s
  let ux := ks.map fun i => scaleU seen.1 (skAt c i) k
  let dx := ks.map fun i => scalePat F64 (2 * k) (skAt c i).de
  let fl := orFlags (mx.map Prod.snd ++ ux.map Prod.snd ++ dx.map Prod.snd)
  let sk := (List.zip ks dx).foldl (fun m p =>
    mset 0 m p.1 { skAt c p.1 with de := p.2.1, lst := v.toNat }.image) c.sk
  let ws := chooseUnits engDraws (ux.flatMap Prod.fst) s
  let lat := 16 + 256 * ms.length + (ks.map fun i => ceilDiv ((skAt c i).m * (skAt c i).c) 64).foldl (fun a b => a + b) 0
  let c1 := { c with
    macc := msetMany 0 c.macc (mx.flatMap Prod.fst)
    mtag := ms.foldl (fun m i => mset 0 m i v) c.mtag
    sk := sk
    rescale := some (s.cyc + lat, ws.2) }
  put 1 (.sys 0x024 (v.setWidth 64)) (put 1 (.sflg fl)
    (engWrites ws.1 (spend (2 * engDraws) { seen.2 with core := c1 })))

/-- R192, R351. MTS to LSCR: SCHEDULE while a routine, or another rescale, occupies an accumulator or a sketch that is
non-empty. -/
def execMtsLscr (g : Guard) (a : SReg) (s : State) : Res :=
  if guardOn s g then
    let c := s.core
    let busy := (c.rtns.any fun r => r.occM.any (mNonEmpty c) || r.occK.any (kNonEmpty c))
      || (c.rescale.isSome && ((List.range 4).any (mNonEmpty c) || (List.range 8).any (kNonEmpty c)))
    guarded 1 [causeIf busy cSchedule (freeDetail s)] (rescale ((rdS s a).setWidth 8)) s
  else .next s

/-- R192. RESCALE_COMPLETE. -/
def execRescaleComplete (core : Nat) (s : State) : Res :=
  let s := select core s
  match s.core.rescale with
  | none => notEnabled "RESCALE_COMPLETE"
  | some (t, ws) =>
    if s.cyc < t then notEnabled "RESCALE_COMPLETE"
    else .next (engWrites ws { s with core := { s.core with rescale := none } })

end Sys2Proof.Machine
end

