-- ==== Sys2Proof/Machine/Scalar.lean ====
section
/-! DEFINITION. S slot: integer, immediate, compare, select, predicate and floating-point operations (R290–R302),
MPSET and CDSET (R311, R312). -/

namespace Sys2Proof.Machine

/-- R290. A guarded operation: a false guard writes nothing and raises nothing. -/
def whenG (g : Guard) (k : State → State) (s : State) : State := if guardOn s g then k s else s

/-- R290, R291. A register form: d := f(a, b) at t + lat. -/
def sop2 (lat : Nat) (f : Word64 → Word64 → Word64) (g : Guard) (d a b : SReg) (s : State) : State :=
  whenG g (fun s => putS lat d (f (rdS s a) (rdS s b)) s) s
/-- R290, R291. A form of one operand. -/
def sop1 (lat : Nat) (f : Word64 → Word64) (g : Guard) (d a : SReg) (s : State) : State :=
  whenG g (fun s => putS lat d (f (rdS s a)) s) s

/-- R291. Bits [127:64] of the signed product. -/
def mulHigh (a b : Word64) : Word64 := BitVec.ofInt 64 (a.toInt * b.toInt / 2 ^ 64)
/-- R291. Bits [127:64] of the unsigned product. -/
def mulHighU (a b : Word64) : Word64 := BitVec.ofNat 64 (a.toNat * b.toNat / 2 ^ 64)
/-- R291, R292. Signed quotient truncated toward zero; all ones for b = 0. -/
def divS (a b : Word64) : Word64 := if b = 0 then BitVec.allOnes 64 else BitVec.ofInt 64 (a.toInt.tdiv b.toInt)
/-- R291, R292. -/
def divU (a b : Word64) : Word64 := if b = 0 then BitVec.allOnes 64 else BitVec.ofNat 64 (a.toNat / b.toNat)
/-- R291, R292. Signed remainder with the sign of a; a for b = 0. -/
def remS (a b : Word64) : Word64 := if b = 0 then a else BitVec.ofInt 64 (a.toInt.tmod b.toInt)
/-- R291, R292. -/
def remU (a b : Word64) : Word64 := if b = 0 then a else BitVec.ofNat 64 (a.toNat % b.toNat)
/-- R291. Shift counts are bits [5:0] of b. -/
def cnt (b : Word64) : Nat := b.toNat % 64
/-- R291. Leading zero bits, 0–64. -/
def clz64 (a : Word64) : Word64 := if a = 0 then 64 else BitVec.ofNat 64 (63 - Nat.log2 a.toNat)
/-- Number of one bits. -/
def popcount (w n : Nat) : Nat := (List.range w).foldl (fun c i => c + n / 2 ^ i % 2) 0
/-- R293. PDEP within `w` bits. -/
def pdepN (w a b : Nat) : Nat :=
  ((List.range w).foldl (fun (p : Nat × Nat) i =>
    if b / 2 ^ i % 2 = 1 then (p.1 + a / 2 ^ p.2 % 2 * 2 ^ i, p.2 + 1) else p) (0, 0)).1
/-- R293. PEXT within `w` bits. -/
def pextN (w a b : Nat) : Nat :=
  ((List.range w).foldl (fun (p : Nat × Nat) i =>
    if b / 2 ^ i % 2 = 1 then (p.1 + a / 2 ^ i % 2 * 2 ^ p.2, p.2 + 1) else p) (0, 0)).1
/-- A signed field as a 64-bit value. -/
def sext {n : Nat} (x : BitVec n) : Word64 := x.signExtend 64

/-! ### Integer arithmetic and logic (R291–R294) -/

/-- R291. ADD: a + b. -/
def execAdd (g : Guard) (d a b : SReg) (s : State) : Res := .next (sop2 1 (· + ·) g d a b s)
/-- R291. SUB: a − b. -/
def execSub (g : Guard) (d a b : SReg) (s : State) : Res := .next (sop2 1 (· - ·) g d a b s)
/-- R291. MUL: low 64 bits of a·b. -/
def execMul (g : Guard) (d a b : SReg) (s : State) : Res := .next (sop2 3 (· * ·) g d a b s)
/-- R291. MULH: signed high product. -/
def execMulh (g : Guard) (d a b : SReg) (s : State) : Res := .next (sop2 3 mulHigh g d a b s)
/-- R291. MULHU: unsigned high product. -/
def execMulhu (g : Guard) (d a b : SReg) (s : State) : Res := .next (sop2 3 mulHighU g d a b s)
/-- R291. DIV: signed quotient. -/
def execDiv (g : Guard) (d a b : SReg) (s : State) : Res := .next (sop2 18 divS g d a b s)
/-- R291. DIVU: unsigned quotient. -/
def execDivu (g : Guard) (d a b : SReg) (s : State) : Res := .next (sop2 18 divU g d a b s)
/-- R291. REM: signed remainder. -/
def execRem (g : Guard) (d a b : SReg) (s : State) : Res := .next (sop2 18 remS g d a b s)
/-- R291. REMU: unsigned remainder. -/
def execRemu (g : Guard) (d a b : SReg) (s : State) : Res := .next (sop2 18 remU g d a b s)
/-- R291. AND: a AND b. -/
def execAnd (g : Guard) (d a b : SReg) (s : State) : Res := .next (sop2 1 (· &&& ·) g d a b s)
/-- R291. OR: a OR b. -/
def execOr (g : Guard) (d a b : SReg) (s : State) : Res := .next (sop2 1 (· ||| ·) g d a b s)
/-- R291. XOR: a XOR b. -/
def execXor (g : Guard) (d a b : SReg) (s : State) : Res := .next (sop2 1 (· ^^^ ·) g d a b s)
/-- R291. ANDN: a AND NOT b. -/
def execAndn (g : Guard) (d a b : SReg) (s : State) : Res := .next (sop2 1 (fun x y => x &&& ~~~ y) g d a b s)
/-- R291. SHL: left shift. -/
def execShl (g : Guard) (d a b : SReg) (s : State) : Res := .next (sop2 1 (fun x y => x <<< cnt y) g d a b s)
/-- R291. SHR: right shift with zeros. -/
def execShr (g : Guard) (d a b : SReg) (s : State) : Res := .next (sop2 1 (fun x y => x >>> cnt y) g d a b s)
/-- R291. SAR: right shift with copies of bit 63. -/
def execSar (g : Guard) (d a b : SReg) (s : State) : Res := .next (sop2 1 (fun x y => x.sshiftRight (cnt y)) g d a b s)
/-- R291. ROL: rotate left. -/
def execRol (g : Guard) (d a b : SReg) (s : State) : Res := .next (sop2 1 (fun x y => x.rotateLeft (cnt y)) g d a b s)
/-- R291. MIN: signed minimum. -/
def execMin (g : Guard) (d a b : SReg) (s : State) : Res := .next (sop2 1 (fun x y => if x.slt y then x else y) g d a b s)
/-- R291. MAX: signed maximum. -/
def execMax (g : Guard) (d a b : SReg) (s : State) : Res := .next (sop2 1 (fun x y => if x.slt y then y else x) g d a b s)
/-- R291. MINU: unsigned minimum. -/
def execMinu (g : Guard) (d a b : SReg) (s : State) : Res := .next (sop2 1 (fun x y => if x.ult y then x else y) g d a b s)
/-- R291. MAXU: unsigned maximum. -/
def execMaxu (g : Guard) (d a b : SReg) (s : State) : Res := .next (sop2 1 (fun x y => if x.ult y then y else x) g d a b s)
/-- R291. PDEP: deposit (R293). -/
def execPdep (g : Guard) (d a b : SReg) (s : State) : Res := .next (sop2 2 (fun x y => BitVec.ofNat 64 (pdepN 64 x.toNat y.toNat)) g d a b s)
/-- R291. PEXT: gather (R293). -/
def execPext (g : Guard) (d a b : SReg) (s : State) : Res := .next (sop2 2 (fun x y => BitVec.ofNat 64 (pextN 64 x.toNat y.toNat)) g d a b s)
/-- R291. CLZ. -/
def execClz (g : Guard) (d a : SReg) (s : State) : Res := .next (sop1 1 clz64 g d a s)
/-- R291. POPC. -/
def execPopc (g : Guard) (d a : SReg) (s : State) : Res :=
  .next (sop1 1 (fun x => BitVec.ofNat 64 (popcount 64 x.toNat)) g d a s)
/-- R294. ADDI, imm17 sign-extended. -/
def execAddi (g : Guard) (d a : SReg) (imm : BitVec 17) (s : State) : Res :=
  .next (sop1 1 (fun x => x + sext imm) g d a s)
/-- R294. ANDI, imm17 sign-extended. -/
def execAndi (g : Guard) (d a : SReg) (imm : BitVec 17) (s : State) : Res :=
  .next (sop1 1 (fun x => x &&& sext imm) g d a s)
/-- R294. ORI, imm17 sign-extended. -/
def execOri (g : Guard) (d a : SReg) (imm : BitVec 17) (s : State) : Res :=
  .next (sop1 1 (fun x => x ||| sext imm) g d a s)
/-- R294. XORI, imm17 sign-extended. -/
def execXori (g : Guard) (d a : SReg) (imm : BitVec 17) (s : State) : Res :=
  .next (sop1 1 (fun x => x ^^^ sext imm) g d a s)
/-- R294. SHLI. -/
def execShli (g : Guard) (d a : SReg) (c : BitVec 6) (s : State) : Res :=
  .next (sop1 1 (fun x => x <<< c.toNat) g d a s)
/-- R294. SHRI. -/
def execShri (g : Guard) (d a : SReg) (c : BitVec 6) (s : State) : Res :=
  .next (sop1 1 (fun x => x >>> c.toNat) g d a s)
/-- R294. SARI. -/
def execSari (g : Guard) (d a : SReg) (c : BitVec 6) (s : State) : Res :=
  .next (sop1 1 (fun x => x.sshiftRight c.toNat) g d a s)
/-- R294. LUI: d := v·2^17. -/
def execLui (g : Guard) (d : SReg) (v : BitVec 29) (s : State) : Res :=
  .next (whenG g (putS 1 d (sext v <<< 17)) s)

/-! ### Compare, select and uniform predicates (R295–R298) -/

/-- R281, R295. A scalar integer relation. -/
def relS (cc : BitVec 4) (a b : Word64) : Bool := relInt cc.toNat a.toInt b.toInt a.toNat b.toNat
/-- R295. CMP. -/
def execCmp (g : Guard) (d : GReg) (a b : SReg) (cc : BitVec 4) (s : State) : Res :=
  .next (whenG g (fun s => putG 1 d (relS cc (rdS s a) (rdS s b)) s) s)
/-- R295. CMPI, with a signed 13-bit immediate. -/
def execCmpi (g : Guard) (d : GReg) (a : SReg) (cc : BitVec 4) (imm : BitVec 13) (s : State) : Res :=
  .next (whenG g (fun s => putG 1 d (relS cc (rdS s a) (sext imm)) s) s)
/-- R296. SEL. -/
def execSel (g : Guard) (d a b : SReg) (sel : GReg) (s : State) : Res :=
  .next (whenG g (fun s => putS 1 d (if rdG s sel then rdS s a else rdS s b) s) s)
/-- R297, R342. The five logical operations. -/
def logOp (op : Nat) (a b : Bool) : Bool :=
  match op with
  | 0 => a && b
  | 1 => a || b
  | 2 => a != b
  | 3 => a && !b
  | _ => !a
/-- R297. GLOG. -/
def execGlog (g : Guard) (d a b : GReg) (op : BitVec 4) (s : State) : Res :=
  .next (whenG g (fun s => putG 1 d (logOp op.toNat (rdG s a) (rdG s b)) s) s)
/-- R298. PUNI: the common value of a lane predicate, or NONUNIFORM. -/
def execPuni (g : Guard) (d : GReg) (p : PReg) (s : State) : Res :=
  .next (whenG g (fun s =>
    let m := rdP s p
    if m = BitVec.allOnes 64 then putG 2 d true s
    else if m = 0 then putG 2 d false s
    else raise cNonuniform 1 p.toNat s) s)

/-! ### Scalar floating point (R299–R302) -/

/-- R299. The flags of a scalar operation land in SFLG with its result. -/
def putSflg (lat : Nat) (f : Flags) (s : State) : State := if f = 0 then s else put lat (.sflg f) s

/-- R299. Low bits of a scalar operand, decoded in format `f`. -/
def fpArg (s : State) (f : Nat) (n : SReg) : FV := decodeFmt f ((rdS s n).toNat % 2 ^ fmtWidth f)

/-- R299, R300. A rounded scalar operation: the format and rounding in force, their OPERAND checks whatever the guard,
then the exact result of `op` rounded once. -/
def sfp (lat : Nat) (op : State → Nat → Bool → FV × Flags) (g : Guard) (d : SReg) (rnd : BitVec 3) (fmt : BitVec 5)
    (s : State) : Res :=
  let f := resFmt s fmt
  let r := resRnd s rnd
  guarded 1 [codeCause (accF f) f, codeCause (decide (r ≤ 5)) r]
    (whenG g fun s =>
      let x := finish (ffmt f) ⟨r, false, drawU s 0⟩ (op s f (r == 3))
      advCctr (r == 5) (putSflg lat x.2 (putS lat d (BitVec.ofNat 64 x.1) s))) s

/-- R300. FADD. -/
def execFadd (g : Guard) (d a b : SReg) (rnd : BitVec 3) (fmt : BitVec 5) (s : State) : Res :=
  sfp 4 (fun s f rdn => addFV rdn (fpArg s f a) (fpArg s f b)) g d rnd fmt s
/-- R300. FSUB. -/
def execFsub (g : Guard) (d a b : SReg) (rnd : BitVec 3) (fmt : BitVec 5) (s : State) : Res :=
  sfp 4 (fun s f rdn => addFV rdn (fpArg s f a) (fpArg s f b).flip) g d rnd fmt s
/-- R300. FMUL. -/
def execFmul (g : Guard) (d a b : SReg) (rnd : BitVec 3) (fmt : BitVec 5) (s : State) : Res :=
  sfp 4 (fun s f _ => mulFV (fpArg s f a) (fpArg s f b)) g d rnd fmt s
/-- R300. FDIV. -/
def execFdiv (g : Guard) (d a b : SReg) (rnd : BitVec 3) (fmt : BitVec 5) (s : State) : Res :=
  sfp 12 (fun s f _ => divFV (fpArg s f a) (fpArg s f b)) g d rnd fmt s
/-- R300. FFMA: a·b + c, formed exactly. -/
def execFfma (g : Guard) (d a b c : SReg) (rnd : BitVec 3) (fmt : BitVec 5) (s : State) : Res :=
  sfp 4 (fun s f rdn => fmaFV rdn (fpArg s f a) (fpArg s f b) (fpArg s f c)) g d rnd fmt s
/-- R300. FSQRT. -/
def execFsqrt (g : Guard) (d a : SReg) (rnd : BitVec 3) (fmt : BitVec 5) (s : State) : Res :=
  sfp 14 (fun s f _ => sqrtFV (fpArg s f a)) g d rnd fmt s
/-- R300. FMIN and FMAX. -/
def sMinMax (mx : Bool) (g : Guard) (d a b : SReg) (fmt : BitVec 5) (s : State) : Res :=
  let f := resFmt s fmt
  guarded 1 [codeCause (accF f) f]
    (whenG g fun s =>
      let w := fmtWidth f
      let x := minMaxFV (ffmt f) mx ((rdS s a).toNat % 2 ^ w) ((rdS s b).toNat % 2 ^ w)
      putSflg 2 x.2 (putS 2 d (BitVec.ofNat 64 x.1) s)) s
/-- R300. FMIN. -/
def execFmin (g : Guard) (d a b : SReg) (_rnd : BitVec 3) (fmt : BitVec 5) (s : State) : Res :=
  sMinMax false g d a b fmt s
/-- R300. FMAX. -/
def execFmax (g : Guard) (d a b : SReg) (_rnd : BitVec 3) (fmt : BitVec 5) (s : State) : Res :=
  sMinMax true g d a b fmt s
/-- R301. A pattern as FCVT writes it: INT32 sign-extended, everything else zero-extended. -/
def widen (f b : Nat) : Word64 := if f = 4 then BitVec.ofInt 64 (sint 32 b) else BitVec.ofNat 64 b
/-- R301. FCVT. -/
def execFcvt (g : Guard) (d a : SReg) (rnd : BitVec 3) (dfmt sfmt : BitVec 5) (sat : Bool) (s : State) : Res :=
  let df := resFmt s dfmt
  let sf := resSfmt s sfmt
  let r := resRnd s rnd
  let acc := fun f => decide (4 ≤ f) && decide (f ≤ 11)
  guarded 1 [codeCause (acc df) df, codeCause (acc sf) sf, codeCause (decide (r ≤ 5)) r]
    (whenG g fun s =>
      let x := convert sf df ⟨r, sat, drawU s 0⟩ ((rdS s a).toNat % 2 ^ fmtWidth sf)
      advCctr (r == 5) (putSflg 4 x.2 (putS 4 d (widen df x.1) s))) s
/-- R302. FCMP. -/
def execFcmp (g : Guard) (d : GReg) (a b : SReg) (cc : BitVec 4) (fmt : BitVec 5) (s : State) : Res :=
  let f := resFmt s fmt
  guarded 1 [codeCause (accF f) f]
    (whenG g fun s =>
      let x := relFV cc.toNat (fpArg s f a) (fpArg s f b)
      putSflg 2 x.2 (putG 2 d x.1 s)) s

/-! ### Parameters and descriptors (R311, R312) -/

/-- R311. MPSET: MPm := a + imm at t + 1. -/
def execMpset (g : Guard) (m : BitVec 3) (a : SReg) (imm : BitVec 17) (s : State) : Res :=
  .next (whenG g (fun s => put 1 (.mp m.toNat (rdS s a + sext imm)) s) s)
/-- R312. CDSET: word w of CDn := a at t + 1. -/
def execCdset (g : Guard) (n : BitVec 4) (w : BitVec 3) (a : SReg) (s : State) : Res :=
  .next (whenG g (fun s => put 1 (.cd (n.toNat * 8 + w.toNat) (rdS s a)) s) s)

end Sys2Proof.Machine
end

