-- ==== Sys2Proof/Machine/ScalarMem.lean ====
section
/-! DEFINITION. S slot: loads, stores, atomics (R303–R308) and prefetches (R142). -/

namespace Sys2Proof.Machine

/-- R303. Access size of a width code. -/
def memSize (w : BitVec 3) : Nat := 2 ^ (w.toNat % 4)

/-- R303. S[a] + off·size, modulo 2^64. -/
def memAddr (s : State) (a : SReg) (off : Int) (n : Nat) : Nat :=
  (rdS s a + BitVec.ofInt 64 (off * (n : Int))).toNat

/-- R142. The 64-byte lines of a prefetch of these ranges (address, length, alignment): their parts, when every one of them
hits the translation unit and nothing about the access would fault; none otherwise. -/
def prefetchLines (rs : List (Nat × Nat × Nat)) (s : State) : Option (List Part) :=
  if rs.any fun r => decide (2 ^ 56 ≤ r.1) || decide (r.1 % r.2.2 ≠ 0) then none
  else
    let lines := (rs.flatMap fun r =>
      (List.range ((r.1 + r.2.1 - 1) / 64 - r.1 / 64 + 1)).map fun i => (r.1 / 64 + i) * 64).eraseDups
    lines.foldr (fun v ps =>
      match ps, s.xlat.tu.find? fun e => decide (e.die = myDie s) && decide (e.va ≤ v) && decide (v < e.va + e.size) with
      | some ps, some e =>
        let ga := e.pa + (v - e.va)
        let good := match localPart s ga with
          | none => (remotePath s (ga / 2 ^ 44)).isSome
          | some l =>
            if place l = .coded then
              (match blockAt s l with
               | none => false
               | some (i, k) => decide ((regionOf s i).fbusy = none) && (peekBlock i k s).isSome)
            else (badAddr s l 64).isNone
        if tuAllows s e false && good then some (⟨ga, 64, e.nl1⟩ :: ps) else none
      | _, _ => none) (some [])

/-- R142. A prefetch of lines whose places are known: they come into the home slice and, unless NL1 = 1, into L1; a block of the
coded view does so as a whole, by one coded-view access like any other (R198, log 111). Lines of another module are asked for by one
request, which its home slice serves; L1 holds none of them (log 127). -/
def prefetchParts (ps : List Part) (s : State) : State :=
  let own := ps.filter fun p => !isRemote s p
  let s1 := markCoded (anyCoded s ps) (partsBound s 3 ps) s
  match readBlocks false (codedGroups s1 own) s1 with
  | .error _ => s
  | .ok (_, s2) =>
    let s3 := (own.filter fun p => (codedPart s p).isNone).foldl (fun s p =>
      let l := p.ga % 2 ^ 44
      let s := l2Touch 0 false l 64 s
      if l1Caches l p.nl1 then
        (List.range 4).foldl (fun s i => l1Fill (p.ga / 16 + i) (s.mem.readBytes (l + 16 * i) 16) s) s
      else s) s2
    (requests (ps.filter (isRemote s))).foldl (fun s r => sendRequest 0 0 (firstGa r) (loadOp r) .drop [] [] s) s3

/-- R142. A prefetch. -/
def prefetch (rs : List (Nat × Nat × Nat)) (s : State) : State :=
  match prefetchLines rs s with
  | none => s
  | some ps => if placedCauses s false 0 ps = [] then prefetchParts ps s else s

/-- The landing of a scalar result from a space: fixed in space 0, bounded otherwise (R289). -/
def putSMem (space fixed bound : Nat) (d : SReg) (v : Word64) (s : State) : State :=
  if space = 0 then putS fixed d v s
  else if d = 0 then put bound .nothing s
  else putBounded bound [.s (physS s.core d) v] s

/-- R303. Resolve the one address of a scalar access of `n` bytes. -/
def scalarAccess (space : Nat) (wr : Bool) (va n : Nat) (k : Part → State → State) (s : State) : State :=
  resolve 1 space wr (alignCauses n [(va, n)]) [(va, n)] (placedCauses s wr va) (fun ps s =>
    match ps with
    | p :: _ => k p (markCoded (anyCoded s [p]) (partBound s space p) s)
    | [] => s) s

/-- R304. A load whose part is known. -/
def ldPart (d : SReg) (width : BitVec 3) (space : Nat) (p : Part) (s : State) : State :=
  if isRemote s p then sendRequest 1 0 p.ga (.load p.n) (.s (physS s.core d) width) [] [] s
  else
    match readParts false [p] s with
    | .error (e, s1) => recordErr 1 e s1
    | .ok (bs, s1) => putSMem space 8 (partBound s space p) d (extendLoad width (bytesToNat bs.flatten)) s1

/-- R304. LD: load size bytes into d; with d = S0 a prefetch. -/
def execLd (g : Guard) (d : SReg) (m : MemRef) (off : BitVec 12) (s : State) : Res :=
  .next (whenG g (fun s =>
    let n := memSize m.width
    let va := memAddr s m.a off.toInt n
    if d = 0 then (if m.space = 3 then prefetch [(va, n, n)] s else s)
    else scalarAccess m.space.toNat false va n (ldPart d m.width m.space.toNat) s) s)

/-- R305. A store whose part is known. -/
def stPart (bs : List Byte) (p : Part) (s : State) : State :=
  if isRemote s p then sendRequest 1 0 p.ga (.store bs) .none [(p.ga, p.n)] [] s else writeParts 1 true none [(p, bs)] s

/-- R305. ST: store the low size bytes of b. -/
def execSt (g : Guard) (b : SReg) (m : MemRef) (off : BitVec 12) (s : State) : Res :=
  .next (whenG g (fun s =>
    let n := memSize m.width
    scalarAccess m.space.toNat true (memAddr s m.a off.toInt n) n (stPart (natToBytes n (rdS s b).toNat)) s) s)

/-- R306. What an atomic leaves, at `n` bytes. -/
def amoResult (op n old b : Nat) : Nat :=
  let w := 8 * n
  let b := b % 2 ^ w
  match op with
  | 0 => (old + b) % 2 ^ w
  | 1 => old &&& b
  | 2 => old ||| b
  | 3 => old ^^^ b
  | 4 => b
  | 5 => if sint w old ≤ sint w b then old else b
  | 6 => if sint w old ≤ sint w b then b else old
  | 7 => Nat.min old b
  | _ => Nat.max old b

/-- R306, R307. A read-modify-write at the home as one event; `f old` is what it writes, if it writes. -/
def atomicAt (p : Part) (f : Nat → Option Nat) (s : State) : Except (AccErr × State) (Nat × State) :=
  match readParts true [p] s with
  | .error e => .error e
  | .ok (bs, s1) =>
    let old := bytesToNat bs.flatten
    match f old with
    | none => .ok (old, s1)
    | some v =>
      let new := natToBytes p.n v
      match if (codedPart s p).isSome then writeBlock false [(p, new)] s1 else writePart false none p new s1 with
      | .error e => .error e
      | .ok s2 => .ok (old, s2)

/-- R306. An atomic whose part is known. -/
def amoPart (d : SReg) (op : RemoteOp) (f : Nat → Option Nat) (space : Nat) (p : Part) (s : State) : State :=
  if isRemote s p then
    sendRequest 1 0 p.ga op (if d = 0 then .none else .s (physS s.core d) 3) [(p.ga, p.n)] [] s
  else
    match atomicAt p f s with
    | .error (e, s1) => recordErr 1 e s1
    | .ok (old, s1) => putSMem space 12 (partBound s space p) d (BitVec.ofNat 64 old) s1

/-- R306. AMO: d := M[addr], M[addr] := f(M[addr], b), as one event. -/
def execAmo (g : Guard) (d b : SReg) (m : MemRef) (op : BitVec 4) (off : BitVec 8) (s : State) : Res :=
  .next (whenG g (fun s =>
    let n := memSize m.width
    let v := rdS s b
    scalarAccess m.space.toNat true (memAddr s m.a off.toInt n) n
      (amoPart d (.amo op n v) (fun old => some (amoResult op.toNat n old v.toNat)) m.space.toNat) s) s)

/-- R307. What a CAS writes: the low bytes of b when the old value is the expected one. -/
def casResult (n expected b old : Nat) : Option Nat :=
  if old = expected % 2 ^ (8 * n) then some (b % 2 ^ (8 * n)) else none

/-- R307. CAS: compare with d, swap in b, d := old. -/
def execCas (g : Guard) (d b : SReg) (m : MemRef) (off : BitVec 12) (s : State) : Res :=
  .next (whenG g (fun s =>
    let n := memSize m.width
    let e := rdS s d
    let v := rdS s b
    scalarAccess m.space.toNat true (memAddr s m.a off.toInt n) n
      (amoPart d (.cas n e v) (casResult n e.toNat v.toNat) m.space.toNat) s) s)

end Sys2Proof.Machine
end

