-- ==== Sys2Proof/Machine/Transfer.lean ====
section
/-! DEFINITION. C slots: register–memory transfers (R369–R373), barrier and token operations (R382, R383). -/

namespace Sys2Proof.Machine

/-- A 64-bit address as a number, wrapped. -/
def wrap64 (a : Int) : Nat := (BitVec.ofInt 64 a).toNat

/-- R122. Offset of the first element, in lane order, that needs a sector of a bank from which an earlier lane of its
pass takes another sector. -/
def bankClash (offs : List Nat) : Option Nat :=
  let pass := fun (l : List Nat) =>
    (l.foldl (fun (acc : List Nat × Option Nat) o =>
      match acc.2 with
      | some _ => acc
      | none =>
        if acc.1.any fun q => decide (q / 16 % 32 = o / 16 % 32) && decide (q / 16 ≠ o / 16) then (acc.1, some o)
        else (acc.1 ++ [o], none)) ([], none)).2
  match pass (offs.take 32) with
  | some o => some o
  | none => pass (offs.drop 32)

/-- R124. Key of the frame tag that covers a local scratchpad address. -/
def frameKey (l : Nat) : Nat := (l - 0xE800000000) / 4096

/-- R125, R371. The tag check of an access in space 0 or 2: SCHEDULE with the lowest offset when a touched frame's tag
differs from bits [15:0] of S[tag]; no check for S0. -/
def tagCauses (s : State) (space : Nat) (tag : SReg) (vas : List (Nat × Nat)) : List (Nat × Nat) :=
  if tag = 0 ∨ ¬ (space = 0 ∨ space = 2) then []
  else
    let want := (rdS s tag).setWidth 16
    let inside := vas.filter fun x => decide (x.1 + x.2 ≤ spaceSize space)
    let bad := inside.any fun x =>
      let lo := spaceBase s space + x.1
      (List.range (frameKey (lo + x.2 - 1) - frameKey lo + 1)).any fun i =>
        decide (mget 0 s.frameTag (frameKey lo + i) ≠ want)
    if bad then [(cSchedule, (vas.map Prod.fst).foldl Nat.min ((vas.map Prod.fst).headD 0))] else []

/-- R370. The sixteen sectors of a 256-byte vector. -/
def rowParts (a : Nat) : List (Nat × Nat) := (List.range 16).map fun i => ((a + 16 * i) % 2 ^ 64, 16)

/-- The bytes of a vector operand's 64 elements, in lane order (R369). -/
def vecBytes (s : State) (k : Kind) : List Byte := (List.range 64).flatMap fun l => natToBytes 4 (elAt s k l)

/-- The 32-bit elements of bytes. -/
def wordsOf (bs : List Byte) : List Word32 :=
  (List.range (bs.length / 4)).map fun i => BitVec.ofNat 32 (bytesToNat ((bs.drop (4 * i)).take 4))

/-- The keys a vector destination writes, in lane order. -/
def keysOf (s : State) (k : Kind) : List Nat := (List.range 64).map fun l => elKey s.core k l

/-- R120. Lane-slice causes: PROTECT past 4,096, ALIGN off `n`. -/
def sliceCauses (n : Nat) (offs : List Nat) : List (Nat × Nat) :=
  ((offs.filter fun o => decide (4096 < o + 4)).map fun o => (cProtect, o)).take 1
    ++ ((offs.filter fun o => decide (o % n ≠ 0)).map fun o => (cAlign, o)).take 1

/-- R120, R373. A byte of the lane slices as the core's loads see it: as it was where a STT's does not show yet. -/
def laneByte (s : State) (k : Nat) : Byte :=
  match (mget [] s.core.laneSlow k).find? fun x => decide (s.core.icnt < x.1) with
  | some x => x.2
  | none => mget 0 s.core.lane k

/-- R120. Lane ℓ's element at offset o of its own slice. -/
def readSlice (s : State) (l o : Nat) : Word32 :=
  BitVec.ofNat 32 (bytesToNat ((List.range 4).map fun i => laneByte s (l * 4096 + o + i)))

/-- R252, R253. An uncorrectable error of the lane-slice byte with key `k`: the core is its unit, its address the offset in
the slice (log 112). -/
def classifyLane (k : Nat) (s : State) : State :=
  let g := s.coreNo
  if (mget none s.core.lanePoison (k / 16)).getD true then
    faultLog 5 (g / 48) 0x1FF 0 0 0xFFFF 0 0 (k % 4096) (fenceUnit (.core g) s)
  else
    let s1 := { s with core := { s.core with lanePoison := mset none s.core.lanePoison (k / 16) none } }
    faultLog 4 (g / 48) 0x1FF 0 0 0xFFFF 0 0 (k % 4096) { s1 with boot := { s1.boot with transient := s1.boot.transient + 1 } }

/-- R252. Lane-slice elements with these keys are read unless one is uncorrectable. -/
def sliceRead (slot : Nat) (ks : List Nat) (k : State → State) (s : State) : State :=
  match ks.find? fun x => decide (mget none s.core.lanePoison (x / 16) ≠ none) with
  | some x => recordErr slot (.memerr (x % 4096)) (classifyLane x s)
  | none => k s

/-- R120, R252. A store of elements to lane slices, by key: it lands at t + 1, and an uncorrectable sector takes no byte of
it; `due`: when the core's loads see it, for a STT (R373). -/
def sliceStore (slot : Nat) (due : Option Nat) (es : List (Nat × List Byte)) (s : State) : State :=
  let bad := fun (p : Nat × List Byte) => decide (mget none s.core.lanePoison (p.1 / 16) ≠ none)
  let s1 := match es.find? bad with
    | none => s
    | some p => recordErr slot (.memerr (p.1 % 4096)) (classifyLane p.1 s)
  putMany 1 ((es.filter fun p => !bad p).map fun p => match due with
    | none => .laneStore p.1 p.2
    | some d => .laneSlow p.1 p.2 d) s1

/-- Raise the first of some causes or go on. -/
def checked' (slot : Nat) (cs : List (Nat × Nat)) (k : State → State) (s : State) : State :=
  match minCause cs with
  | some (c, d) => raise c slot d s
  | none => k s

/-- R289, R370. The landing of a C-slot load: fixed in space 0, bounded otherwise; `extra` is LDT's 32. -/
def landLoad (space fixed bound : Nat) (es : List Effect) (s : State) : State :=
  if space = 0 then putMany fixed es s else putBounded bound es s

/-- A load whose parts are known: their data, in order, give the effects. `dstOf` gives the destination of some parts' data, by
their offset and length in the whole. Another module's parts come by one request (R47); the parts of this module then land by
themselves. -/
def loadPlaced (c1 : Bool) (space fixed extra : Nat) (eff : List Byte → List Effect) (dstOf : List (Nat × Nat) → RDst)
    (ps : List Part) (s : State) : State :=
  let slot := cSlot c1
  let b := partsBound s space ps + extra
  let offs := ps.mapIdx fun i p => (((ps.take i).map Part.n).foldl (fun a b => a + b) 0, p)
  let rem := offs.filter fun x => isRemote s x.2
  let own := offs.filter fun x => !isRemote s x.2
  let s1 := (byModule Prod.snd rem).foldl (fun s r =>
    let rp := r.map Prod.snd
    sendRequest slot extra (firstGa rp) (loadOp rp) (dstOf (r.map fun x => (x.1, x.2.n))) [] [] s) (markCoded (anyCoded s ps) b s)
  if own = [] then s1
  else
    match readParts false (own.map Prod.snd) s1 with
    | .error (e, s2) => recordErr slot e s2
    | .ok (bss, s2) =>
      if rem = [] then landLoad space fixed b (eff bss.flatten) s2
      else
        (List.zip own bss).foldl (fun s x =>
          putBounded (partBound s space x.1.2 + extra) (dstEffects (dstOf [(x.1.1, x.1.2.n)]) x.2) s) s2

/-- The order in which the parts of one store are written: where two lanes store to the same bytes, any may prevail (the
specification states no order among the lanes of one store; a free choice). -/
def freeOrder {α : Type} (l : List α) (s : State) : List α × State :=
  let r := freeBelow s 0 l.length
  (l.drop r ++ l.take r, spend 1 s)

/-- A store whose parts are known; `due`: when the core's loads see it, for a STT (R373). -/
def storePlaced (due : Option Nat) (c1 : Bool) (space : Nat) (data : List Byte) (ps : List Part) (s : State) : State :=
  let slot := cSlot c1
  let withData := ps.mapIdx fun i p =>
    (p, (data.drop (((ps.take i).map Part.n).foldl (fun a b => a + b) 0)).take p.n)
  let rem := withData.filter fun x => isRemote s x.1
  let own := withData.filter fun x => !isRemote s x.1
  let s1 := (byModule Prod.fst rem).foldl (fun s r =>
    let rp := r.map Prod.fst
    sendRequest slot 0 (firstGa rp) (storeOp r) .none (rp.map fun p => (p.ga, p.n)) [] s)
    (markCoded (anyCoded s ps) (partsBound s space ps) s)
  let o := freeOrder own s1
  writeParts slot true due o.1 o.2

/-- Resolve the addresses of a transfer. -/
def transfer (c1 : Bool) (space : Nat) (wr : Bool) (extra : List (Nat × Nat)) (vas : List (Nat × Nat))
    (k : List Part → State → State) (s : State) : State :=
  resolve (cSlot c1) space wr extra vas (placedCauses s wr ((vas.map Prod.fst).headD 0)) k s

/-- Where the elements of some ranges of a load go, whose elements in order have these keys. -/
def keyDst (keys : List Nat) (rs : List (Nat × Nat)) : RDst := .t (rs.flatMap fun r => (keys.drop (r.1 / 4)).take (r.2 / 4))

/-! ### LDV, STV -/

/-- R370. S[b] + e. -/
def ldvAddr (s : State) (b : SReg) (off : BitVec 13) (space : BitVec 2) : Nat :=
  (rdS s b + BitVec.ofNat 64 ((if space = 1 then 4 else 256) * off.toNat)).toNat

/-- OPERAND for the vector of a transfer (R372), detail its 13 bits. -/
def vecCause (bad : Bool) (v : BitVec 13) : List (Nat × Nat) := if bad then [(cOperand, v.toNat)] else []

/-- R370. In space 1 only, an offset field above 1,023 faults PROTECT. -/
def offCause (off : BitVec 13) (space : BitVec 2) (va : Nat) : List (Nat × Nat) :=
  if space = 1 ∧ 1023 < off.toNat then [(cProtect, va)] else []

/-- R369–R372. LDV: a row of 64 elements, or 8 bytes into a lane predicate; P0 prefetches. -/
def execLdv (c1 : CSlot) (v : BitVec 13) (b : SReg) (off : BitVec 13) (space : BitVec 2) (s : State) : Res :=
  let k := kindOf v
  let va := ldvAddr s b off space
  .next (match k with
  | .p n =>
    if n = 0 then (if space = 3 then prefetch [(va, 8, 16)] s else s)
    else if space = 1 then checked' (cSlot c1) (offCause off space va ++ sliceCauses 4 [va] ++ vecCause true v) id s
    else transfer c1 space.toNat false (alignCauses 16 [(va, 8)]) [(va, 8)]
      (loadPlaced c1 space.toNat 10 0 (fun bs => [.pAll n.toNat (predOfBytes bs)]) fun _ => .p n.toNat) s
  | k =>
    if space = 1 then
      checked' (cSlot c1) (offCause off space va ++ sliceCauses 4 [va] ++ vecCause (!k.isVec) v)
        (sliceRead (cSlot c1) ((List.range 64).map fun l => l * 4096 + va)
          (fun s => putMany 4 ((List.range 64).map fun l => .t (elKey s.core k l) (readSlice s l va)) s)) s
    else transfer c1 space.toNat false (alignCauses 16 [(va, 16)] ++ vecCause (!k.isVec) v) (rowParts va)
      (loadPlaced c1 space.toNat 10 0 (fun bs => (List.zip (keysOf s k) (wordsOf bs)).map fun p => .t p.1 p.2)
        (keyDst (keysOf s k))) s)

/-- R369–R373. STV: the 64 elements of a vector. -/
def execStv (c1 : CSlot) (v : BitVec 13) (b : SReg) (off : BitVec 13) (space : BitVec 2) (s : State) : Res :=
  let k := kindOf v
  let va := ldvAddr s b off space
  .next (if space = 1 then
      checked' (cSlot c1) (offCause off space va ++ sliceCauses 4 [va] ++ vecCause (!k.isVec) v)
        (fun s => sliceStore (cSlot c1) none ((List.range 64).map fun l => (l * 4096 + va, natToBytes 4 (elAt s k l))) s) s
    else transfer c1 space.toNat true (alignCauses 16 [(va, 16)] ++ vecCause (!k.isVec) v) (rowParts va)
      (storePlaced none c1 space.toNat (vecBytes s k)) s)

/-! ### LDVS, STVS, LDX, STX: one element a lane -/

/-- R370. Lane ℓ's address: S[b] + ℓ·σ, σ the signed low 32 bits of S[s]. -/
def stridedAddr (s : State) (b st : SReg) (l : Nat) : Nat :=
  wrap64 ((rdS s b).toNat + (l : Int) * sint 32 (rdS s st).toNat)

/-- The causes of an access of one element a lane: SPAD_BANK in space 0 (R122), the tag, ALIGN. -/
def laneCauses (s : State) (space : Nat) (tag : SReg) (offs : List Nat) : List (Nat × Nat) :=
  let vas := offs.map fun o => (o, 4)
  (if space = 0 then (match bankClash offs with
      | some o => [(cSpadBank, o)]
      | none => []) else [])
    ++ tagCauses s space tag vas ++ alignCauses 4 vas

/-- A load of one element a lane into a vector or a lane predicate. -/
def loadLanes (c1 : Bool) (v : BitVec 13) (space fixed : Nat) (tag : SReg) (bad : Bool) (extra : List (Nat × Nat))
    (addr : Nat → Nat) (s : State) : State :=
  let k := kindOf v
  let offs := (List.range 64).map addr
  match k with
  | .p n =>
    if n = 0 && !bad then (if space = 3 then prefetch (offs.map fun o => (o, 4, 4)) s else s)
    else if space = 1 then checked' (cSlot c1) (sliceCauses 4 offs ++ vecCause true v ++ extra) id s
    else transfer c1 space false (laneCauses s space tag offs ++ vecCause bad v ++ extra) (offs.map fun o => (o, 4))
      (loadPlaced c1 space fixed 0
        (fun bs => [.pAll n.toNat (BitVec.ofNat 64 (((wordsOf bs).mapIdx fun i w => if w = 0 then 0 else 2 ^ i).foldl
          (fun a b => a + b) 0))])
        fun rs => .pLanes n.toNat (rs.map fun r => r.1 / 4)) s
  | k =>
    if space = 1 then
      checked' (cSlot c1) (sliceCauses 4 offs ++ vecCause (!k.isVec) v ++ extra)
        (sliceRead (cSlot c1) ((List.range 64).map fun l => l * 4096 + addr l)
          (fun s => putMany 4 ((List.range 64).map fun l => .t (elKey s.core k l) (readSlice s l (addr l))) s)) s
    else transfer c1 space false (laneCauses s space tag offs ++ vecCause (!k.isVec) v ++ extra) (offs.map fun o => (o, 4))
      (loadPlaced c1 space fixed 0 (fun bs => (List.zip (keysOf s k) (wordsOf bs)).map fun p => .t p.1 p.2)
        (keyDst (keysOf s k))) s

/-- A store of one element a lane. -/
def storeLanes (c1 : Bool) (v : BitVec 13) (space : Nat) (extra : List (Nat × Nat)) (addr : Nat → Nat) (s : State) :
    State :=
  let k := kindOf v
  let offs := (List.range 64).map addr
  if space = 1 then
    checked' (cSlot c1) (sliceCauses 4 offs ++ vecCause (!k.isVec) v ++ extra)
      (fun s => sliceStore (cSlot c1) none ((List.range 64).map fun l => (l * 4096 + addr l, natToBytes 4 (elAt s k l))) s) s
  else transfer c1 space true (laneCauses s space 0 offs ++ vecCause (!k.isVec) v ++ extra)
    (offs.map fun o => (o, 4)) (storePlaced none c1 space (vecBytes s k)) s

/-- R370–R372. LDVS: lane ℓ loads the element at S[b] + ℓ·σ; class P takes 1 where it is nonzero. -/
def execLdvs (c1 : CSlot) (v : BitVec 13) (b st tag : SReg) (space : BitVec 2) (s : State) : Res :=
  .next (loadLanes c1 v space.toNat 10 tag false [] (stridedAddr s b st) s)

/-- R370. STVS: lane ℓ stores its element at S[b] + ℓ·σ. -/
def execStvs (c1 : CSlot) (v : BitVec 13) (b st : SReg) (space : BitVec 2) (s : State) : Res :=
  .next (storeLanes c1 v space.toNat [] (stridedAddr s b st) s)

/-- R370. S[b] plus lane ℓ's element of the index vector, unsigned. -/
def indexedAddr (s : State) (b : SReg) (i : Kind) (l : Nat) : Nat := wrap64 ((rdS s b).toNat + (elAt s i l : Nat))

/-- R370. LDX: lane ℓ loads the element at S[b] + Ti[ℓ]. -/
def execLdx (c1 : CSlot) (v : BitVec 13) (b : SReg) (i : BitVec 13) (space : BitVec 2) (s : State) : Res :=
  .next (loadLanes c1 v space.toNat 12 0 (kindOf v).isP (vecCause (!(kindOf i).isVec) i)
    (indexedAddr s b (kindOf i)) s)

/-- R370. STX: lane ℓ stores its element at S[b] + Ti[ℓ]. -/
def execStx (c1 : CSlot) (v : BitVec 13) (b : SReg) (i : BitVec 13) (space : BitVec 2) (s : State) : Res :=
  .next (storeLanes c1 v space.toNat (vecCause (!(kindOf i).isVec) i) (indexedAddr s b (kindOf i)) s)

/-! ### LDT, STT: a whole tile -/

/-- R370. Address of vector k: S[b] + k·π. -/
def tileAddr (s : State) (b p : SReg) (k : Nat) : Nat :=
  wrap64 ((rdS s b).toNat + (k : Int) * sint 32 (rdS s p).toNat)

/-- Vector k of a tile: a row or a column, its index rotated in T24–T31 (R111; DEDUCED, see the log). -/
def tileVec (t : BitVec 5) (cols : Bool) (k : Nat) : Kind := if cols then .col t.toNat k else .row t.toNat k

/-- R370, R371. LDT: 64 vectors into a tile, in one landing cycle. -/
def execLdt (c1 : CSlot) (t : BitVec 5) (b p tag : SReg) (cols : Bool) (space : BitVec 2) (s : State) : Res :=
  let adr := (List.range 64).map (tileAddr s b p)
  let keys := (List.range 64).flatMap fun k => keysOf s (tileVec t cols k)
  .next (if space = 1 then
      checked' (cSlot c1) (sliceCauses 16 adr)
        (sliceRead (cSlot c1) ((List.range 64).flatMap fun k => (List.range 64).map fun l => l * 4096 + tileAddr s b p k)
          (fun s => putMany 36 ((List.range 64).flatMap fun k => (List.range 64).map fun l =>
            .t (elKey s.core (tileVec t cols k) l) (readSlice s l (tileAddr s b p k))) s)) s
    else transfer c1 space.toNat false
      (tagCauses s space.toNat tag (adr.map fun a => (a, 256)) ++ alignCauses 16 (adr.map fun a => (a, 256)))
      (adr.flatMap rowParts)
      (loadPlaced c1 space.toNat 42 32 (fun bs => (List.zip keys (wordsOf bs)).map fun p => .t p.1 p.2) (keyDst keys)) s)

/-- R370, R373. STT: the whole tile as read at issue; the core's loads see its bytes from t + 32. -/
def execStt (c1 : CSlot) (t : BitVec 5) (b p : SReg) (cols : Bool) (space : BitVec 2) (s : State) : Res :=
  let adr := (List.range 64).map (tileAddr s b p)
  let due := some (s.core.icnt + 32)
  .next (if space = 1 then
      checked' (cSlot c1) (sliceCauses 16 adr)
        (fun s => put 32 .nothing (sliceStore (cSlot c1) due ((List.range 64).flatMap fun k => (List.range 64).map fun l =>
          (l * 4096 + tileAddr s b p k, natToBytes 4 (elAt s (tileVec t cols k) l))) s)) s
    else transfer c1 space.toNat true (alignCauses 16 (adr.map fun a => (a, 256))) (adr.flatMap rowParts)
      (fun ps s => put 32 .nothing
        (storePlaced due c1 space.toNat ((List.range 64).flatMap fun k => vecBytes s (tileVec t cols k)) ps s)) s)

/-! ### ARRIVE, EXPECT, TOKCLR -/

/-- R151, R159, R402. The causes of an operation on the barrier at a part: a space-3 barrier outside HBM, a lock word. -/
def barrierCauses (s : State) (space va : Nat) (p : Part) : List (Nat × Nat) :=
  placedCauses s false va [p] ++ barrierPlace space va p ++ (if boundLock s p.ga then [(cOperand, freeDetail s)] else [])

/-- R382, R402. Resolve the barrier that an operation of slot `slot` names. -/
def onBarrier (slot space : Nat) (wr : Bool) (va : Nat) (k : Part → State → State) (s : State) : State :=
  resolve slot space wr (alignCauses 16 [(va, 16)]) [(va, 16)] (fun ps => ps.flatMap (barrierCauses s space va)) (fun ps s =>
    match ps with
    | [] => s
    | p :: _ => k p s) s

/-- R152, R382. A barrier update by a core: one event at the home from t + 1 to the bound, a release held back for what it
covers. -/
def barrierOp (c1 : Bool) (a : SReg) (space : BitVec 2) (kind : BitVec 2) (n : Word32) (op : RemoteOp) (s : State) :
    State :=
  onBarrier (cSlot c1) space.toNat true (rdS s a).toNat (fun p s =>
    let waits := if kind = 0 then waitsFor false p.ga s else []
    match localPart s p.ga with
    | none => sendRequest (cSlot c1) 0 p.ga op .none [] waits s
    | some l =>
      match badAddr s l 16 with
      | some b => recordErr (cSlot c1) (.memerr b) (classify b s)
      | none =>
        postUpdateOf { BarrierUpd.plain s s.coreNo false l kind n with
          due := s.cyc + 1 + freeBelow s 0 (partBound s space.toNat p)
          at_ := some (s.core.pc, BitVec.ofNat 3 (cSlot c1)), waits := waits } (spend 1 s)) s

/-- R382. ARRIVE: ARRV − 1 of the barrier at S[a]. -/
def execArrive (c1 : CSlot) (a : SReg) (space : BitVec 2) (s : State) : Res :=
  .next (barrierOp c1 a space 0 1 .arrive s)

/-- R382. EXPECT: SECT + bits [31:0] of S[k]. -/
def execExpect (c1 : CSlot) (a : SReg) (space : BitVec 2) (k : SReg) (s : State) : Res :=
  .next (barrierOp c1 a space 2 ((rdS s k).setWidth 32) (.expect ((rdS s k).setWidth 32)) s)

/-- R383. TOKCLR: done-ok at t + 1; SCHEDULE on a pending token; nothing on DT0. -/
def execTokclr (c1 : CSlot) (t : Tok) (s : State) : Res :=
  .next (if t = 0 then s
    else orRaise (cSlot c1) [causeIf (rdTok s t == .pending) cSchedule t.toNat] (put 1 (.tokClr t.toNat)) s)

end Sys2Proof.Machine
end

