-- ==== Sys2Proof/Machine/Bte.lean ====
section
/-! DEFINITION. The block-transfer engine: COPY and CFLUSH (R374–R381, R384, R207, R421, R422), and barrier updates at their
home (R160). -/

namespace Sys2Proof.Machine

open Host

/-! ### Issue (R374, R384) -/

/-- R374. Commands the buffer holds at most. -/
def bteSize : Nat := 32

/-- R374. The causes of a command: SCHEDULE, OPERAND, COPY_FULL (its DETAIL is the CD number). -/
def cmdCauses (s : State) (produce : Tok) (consume : List Tok) (full : Nat) : List (Nat × Nat) :=
  (if rdTok s produce = .pending then [(cSchedule, freeDetail s)] else [])
    ++ fieldBad s (decide (produce ≠ 0) && consume.contains produce)
    ++ (if bteSize ≤ s.core.bte.length then [(cCopyFull, full)] else [])

/-- R374. Put a command into the buffer. -/
def submit (c : Cmd) (stoch : Bool) (s : State) : State :=
  let s1 := advCctr stoch (produceTok c.produce s)
  { s1 with core := { s1.core with seq := s1.core.seq + 1, bte := s1.core.bte ++ [c] } }

/-- R114, R374. The words of a copy descriptor with format code 30 and rounding code 6 resolved at issue. -/
def copyWords (s : State) (cd : Nat) : List Word64 :=
  let ws := (List.range 8).map fun i => mget 0 s.core.cd (cd * 8 + i)
  let w5 := mpN ws 5
  let sf := mpFmt s true (natBits w5 4 0)
  let df := mpFmt s false (natBits w5 9 5)
  let r := mpRnd s (natBits w5 13 11)
  ws.set 5 (putField (putField (putField (ws.getD 5 0) 0 5 sf) 5 5 df) 11 3 r)

/-- R114, R171, R378, R379. OPERAND for a code that a copy descriptor takes from the format table and that the command does
not accept; its DETAIL is the code. -/
def copyCodeCauses (s : State) (cd : Nat) : List (Nat × Nat) :=
  let raw := (mget 0 s.core.cd (cd * 8 + 5)).toNat
  let w := mpN (copyWords s cd) 5
  let sf := natBits w 4 0
  let df := natBits w 9 5
  let r := natBits w 13 11
  let same := decide (sf = df)
  let ok := fun (src : Bool) (f : Nat) =>
    if raw.testBit 10 then (if src then f == 9 || f == 10 else decide (12 ≤ f) && decide (f ≤ 14))
    else decide (f ≤ 17) && (same || !(f == 15 || f == 17))
  (if natBits raw 4 0 = 30 ∧ !ok true sf then [(cOperand, sf)] else [])
    ++ (if natBits raw 9 5 = 30 ∧ !ok false df then [(cOperand, df)] else [])
    ++ (if natBits raw 13 11 = 6 ∧ 5 < r then [(cOperand, r)] else [])

/-- R374. COPY. -/
def execCopy (c1 : CSlot) (cd : BitVec 4) (time : SReg) (produce k1 k2 k3 : Tok) (s : State) : Res :=
  let ks := [k1, k2, k3].filter fun t => decide (t ≠ 0)
  .next (checked' (cSlot c1) (cmdCauses s produce ks cd.toNat ++ copyCodeCauses s cd.toNat) (fun s =>
    let ws := copyWords s cd.toNat
    let c : Cmd := {
      isFlush := false, inv := false, words := ws
      c := Nat.max (s.core.tstart.toNat + (rdS s time).toNat) (s.cyc + 2), seq := s.core.seq
      produce := produce, consume := ks, slot := BitVec.ofNat 3 (cSlot c1), ckey := s.core.ckey, cctr := s.core.cctr }
    submit c (decide (natBits (mpN ws 5) 13 11 = 5)) s) s)

/-- R384. CFLUSH. -/
def execCflush (c1 : CSlot) (a l : SReg) (inv : Bool) (produce : Tok) (s : State) : Res :=
  .next (checked' (cSlot c1) (cmdCauses s produce [] (freeDetail s)) (fun s =>
    submit {
      isFlush := true, inv := inv, words := [rdS s a, rdS s l], c := s.cyc + 2, seq := s.core.seq
      produce := produce, consume := [], slot := BitVec.ofNat 3 (cSlot c1), ckey := 0, cctr := 0 } false s) s)

/-- R285. CNOP. -/
def execCnop (s : State) : Res := .next s

/-! ### The descriptor at its start (R376–R379) -/

/-- R376. A copy descriptor, its codes resolved. -/
structure Copy where
  src : Nat
  dst : Nat
  n0 : Nat
  n1 : Nat
  n2 : Nat
  s1 : Int
  s2 : Int
  d1 : Int
  d2 : Int
  sf : Nat
  df : Nat
  mxq : Bool
  rnd : Nat
  sat : Bool
  tag : BitVec 16
  tagen : Bool
  pol : Nat
  slice : Nat
  elastic : Nat
  crcReg : SReg
  crcMode : Nat
  crcX : Word32
  bar : Nat
  deriving DecidableEq, Repr

def copyOf (ws : List Word64) : Copy :=
  let w := mpN ws
  let one := fun n => if n = 0 then 1 else n
  { src := w 0, dst := w 1, n0 := natBits (w 2) 19 0, n1 := one (natBits (w 2) 31 20), n2 := one (natBits (w 2) 43 32)
    s1 := sint 32 (natBits (w 3) 31 0), s2 := sint 32 (natBits (w 3) 63 32)
    d1 := sint 32 (natBits (w 4) 31 0), d2 := sint 32 (natBits (w 4) 63 32)
    sf := natBits (w 5) 4 0, df := natBits (w 5) 9 5, mxq := (w 5).testBit 10, rnd := natBits (w 5) 13 11
    sat := (w 5).testBit 14, tag := BitVec.ofNat 16 (natBits (w 6) 15 0), tagen := (w 6).testBit 16
    pol := natBits (w 6) 19 17, slice := natBits (w 6) 25 20, elastic := natBits (w 6) 29 26
    crcReg := BitVec.ofNat 6 (natBits (w 6) 35 30), crcMode := natBits (w 6) 37 36
    crcX := BitVec.ofNat 32 (natBits (w 7) 31 0), bar := natBits (w 7) 63 32 }

/-- R378. Values of a row, and the bytes it writes. -/
def Copy.elems (c : Copy) : Nat := c.n0 * 8 / fmtWidth c.sf
def Copy.outBytes (c : Copy) : Nat := if c.sf = c.df then c.n0 else c.elems * fmtWidth c.df / 8
/-- R379. Bytes of the scale area. -/
def Copy.scaleBytes (c : Copy) : Nat := c.n1 / 32 * (c.elems / 1024) * 1024

/-- R376–R379, R171. The fields of a descriptor break a rule. -/
def Copy.bad (c : Copy) : Bool :=
  let mis := fun (x : Int) => decide (x % 16 ≠ 0)
  let okF := fun f => decide (f ≤ 17)
  decide (c.n0 = 0) || mis c.n0 || mis c.s1 || mis c.s2 || mis c.d1 || (!c.mxq && mis c.d2) || mis c.src || mis c.dst
    || !okF c.sf || !okF c.df || decide (5 < c.rnd) || decide (c.crcMode = 3)
    || (decide (c.sf ≠ c.df) && ([15, 17].contains c.sf || [15, 17].contains c.df))
    || decide (c.bar % 16 ≠ 0) || decide (3 < c.pol)
    || (if c.mxq then !(c.sf == 9 || c.sf == 10) || !(12 ≤ c.df && c.df ≤ 14) || decide (c.n2 ≠ 1)
          || decide (c.n1 % 32 ≠ 0) || decide (c.elems % 1024 ≠ 0) || decide ((c.dst + c.d2) % 1024 ≠ 0)
        else decide (c.n0 * 8 % fmtWidth c.sf ≠ 0) || decide (c.outBytes % 16 ≠ 0))

/-- R378. The rows: source and destination address of each, in order. -/
def Copy.rows (c : Copy) : List (Nat × Nat) :=
  (List.range c.n2).flatMap fun (k2 : Nat) => (List.range c.n1).map fun (k1 : Nat) =>
    (wrap64 (c.src + k2 * c.s2 + k1 * c.s1), wrap64 (c.dst + (if c.mxq then 0 else k2 * c.d2) + k1 * c.d1))

/-- Where one end of a row lies. -/
inductive Side where
  | local_ (a : Nat)
  | global (va : Nat)
  | bad
  deriving DecidableEq, Repr

/-- R377. An address of `n` bytes: local, global, or one that the start refuses. -/
def sideOf (s : State) (a n : Nat) : Side :=
  if a < 2 ^ 63 then .global a
  else
    let sp := natBits a 62 61
    let o := natBits a 23 0
    if natBits a 60 24 ≠ 0 then .bad
    else if sp = 0 ∧ o + n ≤ 0x200000 then .local_ (spadBase s.coreNo + o)
    else if sp = 2 ∧ o + n ≤ 0x1000000 then .local_ (clusterBase s.coreNo + o)
    else .bad

/-- R132, R133. A policy-3 destination: an offset into a staging window of this module. WMODE 1, a slice that there is not
and an offset outside the window are refused at the start; an absent slice, or one whose WMODE is not 2, follows R17. -/
def stageSide (s : State) (c : Copy) (d n : Nat) : Side :=
  if c.slice < 54 ∧ wmodeOf s c.slice ≠ 1 ∧ d + n ≤ 0x400000 then .local_ (0xF000000000 + c.slice * 0x1000000 + d) else .bad

/-- The destination side of a row. -/
def Copy.dstSide (c : Copy) (s : State) (d n : Nat) : Side := if c.pol = 3 then stageSide s c d n else sideOf s d n

/-- R132. The L2 policy of a command's accesses outside the staging windows. -/
def Copy.l2pol (c : Copy) : Nat := if c.pol = 3 then 0 else c.pol

/-- Progress of translating the rows of a command: the parts of the rows so far, and what stopped it. -/
structure RowAcc where
  xl : XlAcc
  rows : List (List Part × List Part)
  cut : Bool
  deriving Repr

/-- R136, R377. Translate one side of a row. -/
def sideParts (s : State) (o : WalkFor) (wr : Bool) (x : Side) (n : Nat) (a : XlAcc) : XlAcc × Option (List Part) :=
  match x with
  | .bad => (a, none)
  | .local_ l => (a, some ((pieces128 l n).map fun p => ⟨globalOf s p.1, p.2, true⟩))
  | .global va =>
    let b := (pieces128 va n).foldl (xlAdd s o (myDie s) wr) a
    if b.fail.isSome || b.causes ≠ [] then (b, none) else (b, some (b.parts.drop a.parts.length))

/-- R377. One more row; nothing more is translated once a row has failed. -/
def rowAdd (s : State) (o : WalkFor) (c : Copy) (a : RowAcc) (r : Nat × Nat) : RowAcc :=
  if a.cut then a
  else
    let x := sideParts s o false (sideOf s r.1 c.n0) c.n0 a.xl
    match x.2 with
    | none => { a with xl := x.1, cut := true }
    | some sp =>
      let y := sideParts s o true (c.dstSide s r.2 c.outBytes) c.outBytes x.1
      match y.2 with
      | none => { a with xl := y.1, cut := true }
      | some dp => { a with xl := y.1, rows := a.rows ++ [(sp, dp)] }

/-- Module of the first byte of a list of parts. -/
def partModule (ps : List Part) : Nat := ((ps.head?.map Part.ga).getD 0) / 2 ^ 44

/-! ### Data (R378–R380) -/

/-- R378. CONVERT of one row: values packed by R167. `l0` is the write-order index of its first value (R173). -/
def convertRow (c : Copy) (cmd : Cmd) (l0 : Nat) (bs : List Byte) : List Byte :=
  if c.sf = c.df then bs
  else
    let x := bytesToNat bs
    let ws := fmtWidth c.sf
    let wd := fmtWidth c.df
    let y := (List.range c.elems).map fun i =>
      let r : Rnd := ⟨c.rnd, c.sat, if c.rnd = 5 then genU cmd.ckey cmd.cctr (l0 + i) else 0⟩
      (convert c.sf c.df r (x / 2 ^ (ws * i) % 2 ^ ws)).1 * 2 ^ (wd * i)
    natToBytes c.outBytes (y.foldl (fun a b => a + b) 0)

/-- R179, R379. The codes and block scales of one row. -/
def quantRow (c : Copy) (cmd : Cmd) (l0 : Nat) (bs : List Byte) : List Byte × List Nat :=
  let x := bytesToNat bs
  let ws := fmtWidth c.sf
  let wd := fmtWidth c.df
  let vs := (List.range c.elems).map fun i => decodeFmt c.sf (x / 2 ^ (ws * i) % 2 ^ ws)
  let blk := fun j => (vs.drop (32 * j)).take 32
  let sc := (List.range (c.elems / 32)).map fun j => mxScale c.df (blk j)
  let z := (List.range (c.elems / 32)).map fun j => (blk j).all FV.isZero
  let y := vs.mapIdx fun i v =>
    let r : Rnd := ⟨c.rnd, c.sat, if c.rnd = 5 then genU cmd.ckey cmd.cctr (l0 + i) else 0⟩
    (mxElem c.df r (sc.getD (i / 32) none) (z.getD (i / 32) true) v).1 * 2 ^ (wd * i)
  (natToBytes c.outBytes (y.foldl (fun a b => a + b) 0), sc.map fun x => x.getD 0xFF)

/-- R183, R379. The scale tiles of the rows' block scales, in address order. -/
def scaleTiles (c : Copy) (scales : List (List Nat)) : List Byte :=
  let nkb := c.elems / 1024
  (List.range c.scaleBytes).map fun o =>
    let t := o / 1024
    let k := o % 1024 / 32
    let i := (o % 32) ^^^ k
    BitVec.ofNat 8 ((scales.getD (t / nkb * 32 + i) []).getD (t % nkb * 32 + k) 0)

/-- R380. One step of CRC-32C. -/
def crcBit (s : Word32) : Word32 := if s.getLsbD 0 then (s >>> 1) ^^^ 0x82F63B78#32 else s >>> 1
def crcByte (s : Word32) (b : Byte) : Word32 :=
  (List.range 8).foldl (fun s _ => crcBit s) (s ^^^ b.setWidth 32)
/-- R380. Extend a running CRC-32C by bytes. -/
def crc32c (v : Word32) (bs : List Byte) : Word32 := (bs.foldl crcByte (v ^^^ 0xFFFFFFFF#32)) ^^^ 0xFFFFFFFF#32

/-- Give the parts of a row their bytes. -/
def withBytes : List Part → List Byte → List (Nat × List Byte)
  | [], _ => []
  | p :: ps, bs => (p.ga, bs.take p.n) :: withBytes ps (bs.drop p.n)

/-! ### Starting and writing (R375, R377, R381) -/

/-- R377. An engine of the current core writes some units, up to the first that fails: how many it wrote, and the state. -/
def engUnits (pol : Nat) : List WriteUnit → State → Nat × State
  | [], s => (0, s)
  | u :: us, s =>
    match agentUnit true pol u s with
    | (false, s1) => (0, s1)
    | (true, s1) =>
      let r := engUnits pol us s1
      (r.1 + 1, r.2)

/-- R161. The 16-byte sectors that some writes cover, each counted once. -/
def sectorCount (ws : List (Nat × List Byte)) : Nat :=
  ((ws.flatMap fun w => (List.range (w.2.length / 16)).map fun i => w.1 / 16 + i).eraseDups).length

/-- R124. The frames that some writes cover entirely. -/
def wholeFrames (ws : List (Nat × List Byte)) : List Nat :=
  let secs := (ws.filter fun w => match place w.1 with
    | .spad _ => true
    | _ => false).map fun w => (w.1 - 0xE800000000) / 16
  ((secs.map fun x => x / 256).eraseDups).filter fun f =>
    decide (((secs.filter fun x => decide (x / 256 = f)).eraseDups).length = 256)

/-- R124. Some writes at local addresses of a module touch frame `f` of its scratchpads. -/
def hitsFrame (f : Nat) (ws : List (Nat × List Byte)) : Bool :=
  ws.any fun w => match place w.1 with
    | .spad _ => decide ((w.1 - 0xE800000000) / 4096 ≤ f) && decide (f ≤ (w.1 + w.2.length - 1 - 0xE800000000) / 4096)
    | _ => false

/-- R124. Tag frames. -/
def tagFrames (fs : List Nat) (tag : BitVec 16) (s : State) : State :=
  { s with frameTag := fs.foldl (fun m f => mset 0 m f tag) s.frameTag }

/-- R104, R119, R381. The bound of one end of a command. -/
def sideBound (s : State) (x : Side) (ps : List Part) : Nat :=
  match x with
  | .local_ l =>
    if spadBase s.coreNo ≤ l ∧ l < spadBase s.coreNo + 0x200000 then 10
    else match place l with
      | .staging _ => globalBound s.coreNo l
      | _ => 48
  | _ => partsBound s 3 ps

/-- R380. S[CRCREG] as a bundle issued in this cycle reads it: a command starts after the core's turn (log 2), when the results
due in an unfrozen cycle have landed. -/
def crcIn (s : State) (r : SReg) : Word32 := (rdS s r).setWidth 32

/-- R130. The dirty sectors of a line of HBM or CXL in its home slice. -/
def lineDirty (s : State) (ln : Nat) : BitVec 4 :=
  (((mget L2Set.empty s.l2 (l2Key (ownerDie (ln * 64)) ln)).find ln).map fun x => x.2.dirty).getD 0

/-- R384. The bytes that a CFLUSH writes back for some blocks and lines, as they are now. -/
def flushBytes (s : State) (bs : List (Nat × Nat)) (ls : List Nat) : Nat :=
  let dirty := bs.filter fun b => match findBlock s b.1 b.2 with
    | some c => decide (c.dirty ≠ 0)
    | none => false
  (dirty.map fun b => (regionOf s b.1).blockBytes).foldl (fun a b => a + b) 0
    + (ls.map fun l => 16 * ((List.range 4).filter fun i => (lineDirty s l).getLsbD i).length).foldl (fun a b => a + b) 0

/-- R381. Bytes that a running command has still to move: those of its writes to come, and never less than what the BTE at its full
rate would still have to move of it (log 128). -/
def remaining (s : State) (r : Running) : Nat :=
  let sum := fun (l : List (Nat × List Byte)) => (l.map fun w => w.2.length).foldl (fun a b => a + b) 0
  Nat.max (64 * (r.moved - s.cyc))
    (sum (r.writes.flatMap Prod.snd) + sum (r.unsent.flatMap id) + flushBytes s r.blocks r.lines)

/-- R381. The first cycle in which the BTE can move bytes of a command that starts now, for it serves the earlier ones first; and the
cycles by which these extend its bound. -/
def queueAhead (s : State) : Nat × Nat :=
  (s.core.running.foldl (fun m r => Nat.max m r.moved) s.cyc,
    (s.core.running.map fun r => ceilDiv (remaining s r) 64).foldl (fun a b => a + b) 0)

/-- The command leaves the buffer (R375). -/
def leaveBuffer (c : Cmd) (s : State) : State :=
  { s with core := { s.core with bte := s.core.bte.filter fun x => !decide (x.seq = c.seq) } }

/-- A command is running. -/
def runCmd (r : Running) (s : State) : State := { s with core := { s.core with running := s.core.running ++ [r] } }

/-- A running command with nothing to do but end at `t` (with its walks). -/
def Running.bare (c : Cmd) (t : Nat) (ok : Bool) : Running where
  cmd := c
  finish := t
  ok := ok
  writes := []
  moved := 0
  wrote := 0
  frames := []
  tags := none
  tag := 0
  barrier := none
  crc := none
  remote := false
  dest := 0
  tab := 0
  unsent := []
  awaiting := 0
  blocks := []
  lines := []

/-- R31, R34, R45. A port leads toward module `m`, of the 2^D that there are: it is present and crosses a dimension in which the ids
differ, or is a ring port. -/
def leadsTo (s : State) (p m : Nat) : Bool :=
  decide (m < 2 ^ s.fab.d.toNat) && s.maps.port.getLsbD p && (decide (24 ≤ p) || (diffDims s.fab.id.toNat m).contains (portDim p))

/-- R45. The entries that carry a COPY of core `g` to module `m`. -/
def copyEntries (s : State) (t : LinkTable) (g m : Nat) : List (BitVec 128) :=
  t.live.filter fun e =>
    decide (ltKind e = kCopy) && decide (ltSrc e = g) && decide (ltDst e = m) && leadsTo s (ltPort e) m
      && decide (ltSlot e < t.period)

/-- R45. The timetable whose entries carry a COPY of core `g` to module `m` that starts in this cycle. -/
def copyTable (s : State) (g m : Nat) : Option LinkTable := firstTable s (ceilDiv s.cyc 88) fun t => copyEntries s t g m

/-- R422. Cut writes, in order, into flits of 256 payload bytes: each flit its address runs. -/
def cutFlits : Nat → List (Nat × List Byte) → List (Nat × List Byte) → Nat → List (List (Nat × List Byte))
  | 0, _, _, _ => []
  | _ + 1, [], cur, _ => if cur = [] then [] else [cur]
  | f + 1, w :: ws, cur, room =>
    if w.2.length ≤ room then cutFlits f ws (cur ++ [w]) (room - w.2.length)
    else
      (cur ++ (if room = 0 then [] else [(w.1, w.2.take room)])) :: cutFlits f ((w.1 + room, w.2.drop room) :: ws) [] 256

/-- R208, R378. The source rows read by a command under an L2 policy, whose source parts are `all`; `c`: the blocks of the coded view
read so far. The row that meets an error ends the command: it and those behind it are `none`. -/
def readRows (pol : Nat) (all : List Part) :
    BlocksRead → List (List Part × List Part) → State → List (Option (List Byte)) × State
  | _, [], s => ([], s)
  | c, r :: rs, s =>
    match engPartsIn pol false all c r.1 s with
    | .error (_, s1) => (List.replicate (rs.length + 1) none, s1)
    | .ok (bs, c1, s1) =>
      let y := readRows pol all c1 rs s1
      (some bs :: y.1, y.2)

/-- R378. The bytes of a source row as the writing of the command's unit `k` sees them: those that it has itself overwritten by then,
newest first in `w`, as they were at the start or as they are, a free choice for each source sector. -/
def overlaid (s : State) (k : Nat) (w : List (Nat × List Byte)) (ps : List Part) (bs : List Byte) : List Byte :=
  let addrs := ps.flatMap fun p => (List.range p.n).map fun i => p.ga % 2 ^ 44 + i
  (List.zip addrs bs).map fun ab =>
    match w.find? fun x => decide (x.1 ≤ ab.1) && decide (ab.1 < x.1 + x.2.length) with
    | some x => if freeBit s (k * engDraws + (granule ab.1).1 / 16) then x.2.getD (ab.1 - x.1) ab.2 else ab.2
    | none => ab.2

/-- What a command writes, in order: its rows' bytes with their destination parts, then its scales. -/
def copyWrites (c : Copy) (cmd : Cmd) (rows : List (List Part × List Part)) (scaleParts : List Part)
    (data : List (Option (List Byte))) : List (Nat × List Byte) :=
  if c.mxq then
    let qs := data.mapIdx fun i d => d.map fun bs => quantRow c cmd (i * c.elems) bs
    (List.zip rows qs).flatMap (fun x => match x.2 with
      | some q => withBytes x.1.2 q.1
      | none => [])
    ++ (if qs.all Option.isSome then
          withBytes scaleParts (scaleTiles c (qs.map fun q => (q.map Prod.snd).getD []))
        else [])
  else
    (List.zip rows (data.mapIdx fun i d => d.map fun bs => convertRow c cmd (i * c.elems) bs)).flatMap fun x =>
      match x.2 with
      | some bs => withBytes x.1.2 bs
      | none => []

/-- Local writes of a command at their local addresses. -/
def atHome (ws : List (Nat × List Byte)) : List (Nat × List Byte) := ws.map fun w => (w.1 % 2 ^ 44, w.2)

/-- What a COPY does once its fields have passed: its descriptor, its command, its rows with their scale parts, and the source rows as
the start has read them. -/
structure CopyRun where
  c : Copy
  cmd : Cmd
  rows : List (List Part × List Part)
  scales : List Part
  data : List (Option (List Byte))

/-- The writes of a command, when the bytes of each source row are `f` of those read at the start. -/
def CopyRun.writes (x : CopyRun) (f : List Part → List Byte → List Byte) : List (Nat × List Byte) :=
  copyWrites x.c x.cmd x.rows x.scales ((List.zip x.rows x.data).map fun r => r.2.map (f r.1.1))

/-- R378. Some source bytes of a command to this module are ones that it writes. -/
def CopyRun.overlaps (x : CopyRun) : Bool :=
  let ds := (x.rows.flatMap Prod.snd) ++ x.scales
  (x.rows.flatMap Prod.fst).any fun p => ds.any fun q => decide (p.ga < q.ga + q.n) && decide (q.ga < p.ga + p.n)

/-- A list in a free order, by draws from the `k`-th on. -/
def shuffle {α : Type} (k : Nat) (l : List α) (s : State) : List α :=
  (l.mapIdx fun i x => (i, x)).foldl (fun acc x =>
    let p := freeBelow s (k + x.1) (acc.length + 1)
    acc.take p ++ [x.2] ++ acc.drop p) []

/-- R378. The units that a command to this module writes, by their bases in the order `bs` in which it writes them, each with the
command's pieces as that unit's writing sees the source; newest first. -/
def CopyRun.chain (x : CopyRun) (s : State) (bs : List Nat) : List (Nat × List (Nat × List Byte)) :=
  let p0 := cutAll (atHome (x.writes fun _ b => b))
  if !x.overlaps then (bs.map fun b => (b, p0)).reverse
  else
    (bs.mapIdx fun i b => (i, b)).foldl (fun a ib =>
      let w := a.flatMap fun y => (y.2.filter fun p => decide ((unitBase p.1).1 = y.1)).reverse
      (ib.2, cutAll (atHome (x.writes (overlaid s (ib.1 + 1) w)))) :: a) []

/-- R380. The bytes of a command to this module in the order of R378, each piece as its own unit has it. -/
def chainBytes (p0 : List (Nat × List Byte)) (ch : List (Nat × List (Nat × List Byte))) : List Byte :=
  (p0.mapIdx fun m p => match ch.find? fun y => decide (y.1 = (unitBase p.1).1) with
    | some y => (y.2.getD m p).2
    | none => p.2).flatten

/-- Bytes of a unit. -/
def unitLen (u : WriteUnit) : Nat := (u.map fun w => w.2.length).foldl (fun a b => a + b) 0

/-- R381. Cycles at which units in this order are written: after `64` bytes a cycle from `t0` on have moved them, and by `fin`; a free
choice by draws from the `k`-th on. -/
def scheduleUnits (s : State) (k t0 fin : Nat) (us : List WriteUnit) : List (Nat × WriteUnit) :=
  us.mapIdx fun i u =>
    let lo := Nat.max (s.cyc + 1) (t0 + ceilDiv (((us.take (i + 1)).map unitLen).foldl (fun a b => a + b) 0) 64)
    (lo + freeBelow s (k + i) (fin - lo + 1), u)

/-- R377–R381. A COPY to this module goes on from its start: `bound` is its R_s + R_d, `whole` that nothing has failed so far. -/
def startLocal (x : CopyRun) (whole : Bool) (bound : Nat) (base : Running) (s : State) : State :=
  let c := x.c
  let p0 := cutAll (atHome (x.writes fun _ b => b))
  let bases := (p0.map fun p => (unitBase p.1).1).eraseDups
  let n := bases.length
  let order := shuffle 1 bases s
  let ch := x.chain s order
  let data := chainBytes p0 ch
  let us := ch.reverse.map fun y => y.2.filter fun p => decide ((unitBase p.1).1 = y.1)
  -- of a command that has failed, the sectors not yet written stay old (R377)
  let us := if whole then us else ((us.mapIdx fun i u => (freeBit s (2 * n + 1 + i), u)).filter Prod.fst).map Prod.snd
  let bytes := Nat.max (x.rows.length * c.n0) data.length
  let q := queueAhead s
  let moved := q.1 + ceilDiv bytes 64
  let lo := Nat.max (s.cyc + 1) moved
  let fin := lo + freeBelow s 0 (s.cyc + bound + ceilDiv bytes 64 + 16 + q.2 - lo + 1)
  runCmd { base with
    finish := fin, ok := whole, moved := moved, writes := scheduleUnits s (n + 1) q.1 fin us
    crc := if c.crcMode = 0 then none else some (c.crcReg, crc32c (crcIn s c.crcReg) data)
    frames := if c.tagen then wholeFrames us.flatten else [] } (spend ((n + 2) * engDraws) s)

/-- R377, R422. A COPY to another module goes on from its start: its flits wait for their slots. -/
def startRemote (x : CopyRun) (whole : Bool) (dest : Nat) (base : Running) (s : State) : State :=
  let c := x.c
  let ws := x.writes fun _ b => b
  let data := ws.flatMap Prod.snd
  let fr := if c.tagen then wholeFrames (cutAll (atHome ws)) else []
  let flits := cutFlits (data.length / 16 + data.length / 256 + 2) (atHome ws) [] 256
  let tags := if fr = [] then none
    else some ⟨s.fab.nextId, c.tag, fr.map fun f => (f, (flits.filter fun l => hitsFrame f l).length)⟩
  runCmd { base with
    remote := true, dest := dest, ok := whole
    crc := if c.crcMode = 0 then none else some (c.crcReg, crc32c (crcIn s c.crcReg) data)
    tab := ((copyTable s s.coreNo dest).map LinkTable.slotA).getD 0, wrote := sectorCount (atHome ws)
    unsent := flits, tags := tags } { s with fab := { s.fab with nextId := s.fab.nextId + 1 } }

/-- R377–R381. A COPY starts in this cycle. -/
def startCopy (cmd : Cmd) (s : State) : State :=
  let c := copyOf cmd.words
  let s := leaveBuffer cmd { s with core := { s.core with bteLast := s.cyc + 1 } }
  let barA := spadBase s.coreNo + c.bar
  let lock := decide (c.bar ≠ 0) && boundLock s (globalOf s barA)
  let badSide := c.rows.any fun r =>
    decide (sideOf s r.1 c.n0 = .bad) || decide (c.dstSide s r.2 c.outBytes = .bad)
  let scA := wrap64 (c.dst + c.d2)
  let badScale := c.mxq && decide (c.dstSide s scA c.scaleBytes = .bad)
  if c.bad || lock || badSide || badScale || decide (0x200000 < c.bar + 16) then setTok cmd.produce .err s
  else
    let o : WalkFor := .bte cmd.seq
    let a := c.rows.foldl (rowAdd s o c) ⟨⟨[], [], [], [], none, 0⟩, [], false⟩
    let sc := if c.mxq && !a.cut then sideParts s o true (c.dstSide s scA c.scaleBytes) c.scaleBytes a.xl else (a.xl, some [])
    let s1 := addWalks sc.1.walks (spend sc.1.used s)
    let own := s.fab.id.toNat
    match a.rows with
    | [] => runCmd (.bare cmd s.cyc false) s1
    | r0 :: _ =>
      let dest := partModule r0.2
      if partModule r0.1 ≠ own ∨ (dest ≠ own ∧ (copyTable s s.coreNo dest).isNone) then
        (if sc.1.walks = [] then setTok cmd.produce .err s1 else runCmd (.bare cmd s.cyc false) s1)
      else
        -- rows up to the first that reaches another module (R377)
        let inside := fun (r : List Part × List Part) =>
          (r.1.all fun p => decide (p.ga / 2 ^ 44 = own)) && (r.2.all fun p => decide (p.ga / 2 ^ 44 = dest))
        let rows := a.rows.takeWhile inside
        let scP := (sc.2.getD []).filter fun p => decide (p.ga / 2 ^ 44 = dest)
        let whole := !a.cut && decide (rows.length = a.rows.length) && sc.2.isSome
          && decide (scP.length = (sc.2.getD []).length)
        let d0 := readRows c.l2pol (rows.flatMap Prod.fst) [] rows s1
        let x : CopyRun := ⟨c, cmd, rows, if whole then scP else [], d0.1⟩
        let srcB := (rows.map fun r => sideBound s (sideOf s c.src c.n0) r.1).foldl Nat.max 0
        let dstB := (rows.map fun r => sideBound s (c.dstSide s c.dst c.outBytes) r.2).foldl Nat.max 0
        let base : Running := { Running.bare cmd s.cyc true with
          tag := c.tag, barrier := if c.bar = 0 then none else some barA }
        let ok := whole && d0.1.all Option.isSome
        if dest ≠ own then startRemote x ok dest base d0.2 else startLocal x ok (srcB + dstB) base d0.2

/-! ### Landing (R124, R381) -/

/-- R381. The next single write of a running command of core `g` that lands in this cycle; none while a walk of the command is to be
made. -/
def landDue (s : State) (g : Nat) : Option (Running × Nat × WriteUnit) :=
  let c := coreAt s g
  c.running.findSome? fun r =>
    if c.walks.any fun w => decide (w.owner = .bte r.cmd.seq) then none
    else (r.writes.find? fun w => decide (w.1 ≤ s.cyc)).map fun w => (r, w)

/-- R124, R377, R381. It lands: the frames that it has written entirely and last are tagged. A write that fails ends the command
done-error, and nothing more of it is written. -/
def landWrite (g : Nat) (r : Running) (w : Nat × WriteUnit) (s : State) : State :=
  let s := select g s
  let upd := fun (q : Running) (s : State) => { s with core := { s.core with
    running := s.core.running.map fun x => if x.cmd.seq = r.cmd.seq then q else x } }
  let left := r.writes.erase w
  match agentUnit true (copyOf r.cmd.words).l2pol w.2 s with
  | (false, s1) => upd { r with ok := false, writes := [], frames := [], finish := s.cyc } s1
  | (true, s1) =>
    let full := r.frames.filter fun f => hitsFrame f w.2 && !hitsFrame f (left.flatMap Prod.snd)
    tagFrames full r.tag (upd { r with
      writes := left, wrote := r.wrote + sectorCount w.2, frames := r.frames.filter fun f => !full.contains f } s1)

/-! ### CFLUSH (R207, R384, R421) -/

/-- R384. The resident coded blocks and the lines of HBM and CXL that some parts of this module overlap. -/
def flushTargets (s : State) (ps : List Part) : List (Nat × Nat) × List Nat :=
  let ls := ps.filterMap fun p => (localPart s p.ga).map fun l => (l, p.n)
  let blocks := (s.coded.filter fun b =>
    let a := 64 * codedLine s b.entry b.k
    ls.any fun l => decide (a < l.1 + l.2) && decide (l.1 < a + 128)).map fun b => (b.entry, b.k)
  let lines := (ls.filter fun l => match place l.1 with
    | .hbm _ => true
    | .cxl _ => true
    | _ => false).flatMap fun l => (List.range ((l.1 + l.2 - 1) / 64 - l.1 / 64 + 1)).map fun i => l.1 / 64 + i
  (blocks.eraseDups, lines.eraseDups)

/-- R384. Write back a line; the invalidating form also discards it from L2 and from L1. -/
def flushLine (inv : Bool) (ln : Nat) (s : State) : State :=
  let die := ownerDie (ln * 64)
  if inv then
    let s1 := l2Drop die ln s
    { s1 with core := { s1.core with l1 := s1.core.l1.filter fun p => !decide (p.1 / 4 = globalOf s (ln * 64) / 64) } }
  else
    let k := l2Key die ln
    let x := mget L2Set.empty s.l2 k
    match x.find ln with
    | none => s
    | some (w, l) => { s with l2 := mset L2Set.empty s.l2 k { x with ways := mset none x.ways w (some { l with dirty := 0 }) } }

/-- R206. The invalidating form discards a block's sectors from the issuing core's L1 as well (R384). -/
def discardL1 (s : State) (i k : Nat) : State :=
  let a := globalOf s ((regionOf s i).lbase.toNat + 128 * k)
  { s with core := { s.core with l1 := s.core.l1.filter fun p => !decide (p.1 / 8 = a / 128) } }

/-- R207, R384. Act on some blocks and lines: no write-back failed. -/
def flushSome (inv : Bool) (bs : List (Nat × Nat)) (ls : List Nat) (s : State) : Bool × State :=
  let x := flushBlocks true inv bs s
  let s1 := if inv then bs.foldl (fun s b => discardL1 s b.1 b.2) x.1 else x.1
  (x.2, ls.foldl (fun s l => flushLine inv l s) s1)

/-- R384. A CFLUSH starts in this cycle. Each block and line is reached at the start or at completion (R421: a free
choice). -/
def startFlush (cmd : Cmd) (s : State) : State :=
  let s := leaveBuffer cmd { s with core := { s.core with bteLast := s.cyc + 1 } }
  let a := mpN cmd.words 0
  let n := mpN cmd.words 1
  if n = 0 then setTok cmd.produce .ok s
  else
    let x := xlAll s (.bte cmd.seq) (myDie s) false (pieces128 a n)
    let s1 := addWalks x.walks (spend x.used s)
    let t := flushTargets s x.parts
    let dirty := t.1.filter fun b => match findBlock s b.1 b.2 with
      | some c => decide (c.dirty ≠ 0)
      | none => false
    let dl := t.2.filter fun l => decide (lineDirty s l ≠ 0)
    let g := s.coreNo
    let rh := Nat.max ((t.1.map fun b => sliceBound g (codedHome s b.1 b.2)).foldl Nat.max 0)
      ((t.2.map fun l => sliceBound g (homeSlice (64 * l))).foldl Nat.max 0)
    let rb := Nat.max ((dirty.map fun b => globalBound g (backAddr s b.1 b.2)).foldl Nat.max 0)
      ((dl.map fun l => globalBound g (64 * l)).foldl Nat.max 0)
    let bytes := flushBytes s t.1 t.2
    let q := queueAhead s
    let moved := q.1 + ceilDiv bytes 64
    let lo := Nat.max (s.cyc + 1) moved
    let last := s.cyc + rh + rb + ceilDiv bytes 64 + 16 + (if dirty = [] then 0 else 1024) + q.2
    let failed := x.fail.isSome || decide (x.causes ≠ [])
    let fin := lo + freeBelow s1 0 (last - lo + 1)
    let cb := t.1.mapIdx fun i b => (freeBit s1 (1 + i), b)
    let cl := t.2.mapIdx fun i l => (freeBit s1 (1 + t.1.length + i), l)
    let w := flushSome cmd.inv ((cb.filter Prod.fst).map Prod.snd) ((cl.filter Prod.fst).map Prod.snd)
      (spend (1 + t.1.length + t.2.length) s1)
    runCmd { Running.bare cmd fin (w.1 && !failed) with
      moved := moved
      blocks := if failed then [] else (cb.filter fun b => !b.1).map Prod.snd
      lines := if failed then [] else (cl.filter fun l => !l.1).map Prod.snd } w.2

/-! ### The buffer (R375) -/

/-- R375. What a command in the buffer can do in this cycle. -/
inductive CmdAct where
  | start
  | never (tok : Tok)
  deriving DecidableEq, Repr

/-- R375. The elastic code of a command. -/
def Cmd.elastic (c : Cmd) : Nat := if c.isFlush then 0 else (copyOf c.words).elastic

/-- R375. `a` stands before `b` in the buffer: by start cycle, then by issue. -/
def Cmd.before (a b : Cmd) : Bool := decide (a.c < b.c) || (decide (a.c = b.c) && decide (a.seq < b.seq))

/-- R375. A command can start in this cycle, but for those before it. -/
def readyCmd (s : State) (c : Cmd) : Bool := decide (c.c ≤ s.cyc) && c.consume.all fun t => decide (startTok s t = .ok)

/-- R375. The BTE's start of this cycle is taken by a command that stands before `c`. -/
def cycleTaken (s : State) (c : Cmd) : Bool :=
  decide (s.core.bteLast = s.cyc + 1) || s.core.bte.any fun x => readyCmd s x && x.before c

/-- R375. A command without a window is checked in the cycle it would start in; one with a window fails at its end, or with a token. -/
def cmdAct (s : State) (c : Cmd) : Option CmdAct :=
  if s.cyc < c.c then none
  else
    match c.consume.find? fun t => decide (startTok s t ≠ .ok) with
    | none => if s.core.bteLast = s.cyc + 1 then none else some .start
    | some t =>
      if (if c.elastic = 0 then !cycleTaken s c
          else decide (c.c + 2 ^ (c.elastic + 4) - 1 ≤ s.cyc) || c.consume.any fun t => decide (startTok s t = .err)) then
        some (.never t)
      else none

/-- R375. The first command, in the buffer's order, that starts in this cycle (`start`) or fails. -/
def nextCmd (start : Bool) (s : State) : Option (Cmd × CmdAct) :=
  (s.core.bte.filterMap fun c => (cmdAct s c).bind fun a => if (a == .start) == start then some (c, a) else none).foldl
    (fun best x => match best with
      | none => some x
      | some b => if x.1.before b.1 then some x else best) none

/-- R375. A command has taken this cycle: the commands that would start in it, or whose C it is and that stand behind, take
the next cycle as their C. -/
def pushBack (c : Cmd) (s : State) : State :=
  let bte := s.core.bte.map fun x =>
    if x.seq ≠ c.seq ∧ (readyCmd s x ∨ (x.c = s.cyc ∧ c.before x)) then { x with c := s.cyc + 1 } else x
  { s with core := { s.core with bte := bte } }

/-- R375. COPY_START: the BTE starts its next command, or a command whose token check fails never starts. -/
def execCopyStart (core : Nat) (s : State) : Res :=
  let s := select core s
  match (nextCmd false s).or (nextCmd true s) with
  | none => notEnabled "COPY_START"
  | some (c, .start) =>
    let s1 := pushBack c s
    .next (if c.isFlush then startFlush c s1 else startCopy c s1)
  | some (c, .never t) => .next (timingRep c.slot.toNat t.toNat (setTok c.produce .err (leaveBuffer c s)))

/-! ### Completing (R161, R380, R381) -/

/-- A running command has nothing more to wait for. -/
def cmdDone (s : State) (r : Running) : Bool :=
  !(s.core.walks.any fun w => decide (w.owner = .bte r.cmd.seq))
    && (!r.remote || (decide (r.unsent = []) && decide (r.awaiting = 0))) && decide (r.finish ≤ s.cyc) && decide (r.writes = [])

/-- The first running command, of COPY or of CFLUSH, that completes in this cycle. -/
def doneCmd (flush : Bool) (s : State) : Option Running :=
  s.core.running.find? fun r => (r.cmd.isFlush == flush) && cmdDone s r

/-- Take a command off the engine. -/
def removeCmd (r : Running) (s : State) : State :=
  { s with core := { s.core with running := s.core.running.filter fun x => !decide (x.cmd.seq = r.cmd.seq) } }

/-- R380. Write the running CRC back. -/
def putCrc (r : SReg) (v : Word32) (s : State) : State :=
  if r = 0 then s
  else { s with core := { s.core with sreg := mset 0 s.core.sreg (physS s.core r) (v.setWidth 64) } }

/-- R161, R252, R380, R381. COPY_COMPLETE: the barrier is decremented, by the sectors written; the CRC is written back and checked; the
token completes. A barrier whose home cannot take the decrement makes it done-error. -/
def execCopyComplete (core : Nat) (s : State) : Res :=
  let s := select core s
  match doneCmd false s with
  | none => notEnabled "COPY_COMPLETE"
  | some r =>
    let crcOk := match r.crc with
      | some (_, v) => (copyOf r.cmd.words).crcMode != 2 || v == (copyOf r.cmd.words).crcX
      | none => true
    let n := if r.remote && !(r.ok && crcOk) then 0 else r.wrote
    let bad := if n = 0 then none else r.barrier.bind fun a => badAddr s a 16
    let s1 := match r.barrier, bad with
      | some _, some b => classify b s
      | some a, none => if n = 0 then s else postUpdateOf (.plain s s.coreNo true a 1 (BitVec.ofNat 32 n)) s
      | none, _ => s
    let ok := r.ok && bad.isNone
    let s2 := match r.crc with
      | some (g, v) => if ok then putCrc g v s1 else s1
      | none => s1
    .next (setTok r.cmd.produce (if ok && crcOk then .ok else .err) (removeCmd r s2))

/-- R384. CFLUSH_COMPLETE. -/
def execCflushComplete (core : Nat) (s : State) : Res :=
  let s := select core s
  match doneCmd true s with
  | none => notEnabled "CFLUSH_COMPLETE"
  | some r =>
    let w := flushSome r.cmd.inv r.blocks r.lines s
    .next (setTok r.cmd.produce (if r.ok && w.1 then .ok else .err) (removeCmd r w.2))

/-! ### Barriers (R160) -/

/-- R152, R160. The updates that the homes can apply now: of each agent and barrier the first, where it is due, its message has
landed and nothing that it waits for is outstanding. -/
def readyUpdates (s : State) : List BarrierUpd :=
  (s.barq.mapIdx fun i u => (i, u)).filterMap fun x =>
    let u := x.2
    if (s.barq.take x.1).any fun v => decide (v.addr = u.addr) && decide (v.core = u.core) && (v.bte == u.bte) then none
    else if u.due ≤ s.cyc ∧ u.sig = none ∧ u.waits.all fun i => !outstanding s i then some u
    else none

/-- R160. BARRIER_UPDATE: an update that is due is applied at its home, as one event; among those of different agents the
home chooses (a free choice). -/
def execBarrierUpdate (s : State) : Res :=
  let us := readyUpdates s
  match us[freeBelow s 0 us.length]? with
  | none => notEnabled "BARRIER_UPDATE"
  | some u => .next (takeUpdate u (spend 1 s))

end Sys2Proof.Machine
end

