-- ==== Sys2Proof/Decode.lean ====
section
/-! DEFINITION. The decoder of the slot words (R278–R287) and of the text indices (R95), total on every word, and the
encoder, written from the same tables. A word decodes to an instruction when its op is assigned, every field its row
marks 0 is 0 (the word is the encoding of its own fields) and its fields are well formed; otherwise it is ILLEGAL_OP. -/

namespace Sys2Proof

/-- Field of `n` bits from bit `lo` upward. -/
def fld (n lo w : Nat) : BitVec n := BitVec.ofNat n (w / 2 ^ lo)
/-- Bit `k`. -/
def bit (k w : Nat) : Bool := decide (w / 2 ^ k % 2 = 1)

/-! ### The encoder -/

/-- R282. An S word. -/
def encS (op : Nat) (g : Guard) (d a b rest : Nat) : Nat :=
  op * 2 ^ 40 + g.neg.toNat * 2 ^ 39 + g.g.toNat * 2 ^ 35 + d * 2 ^ 29 + a * 2 ^ 23 + b * 2 ^ 17 + rest
/-- R283. A V word. -/
def encV (op : Nat) (v : VOp) : Nat :=
  op * 2 ^ 54 + v.nf.toNat * 2 ^ 53 + v.neg.toNat * 2 ^ 52 + v.p.toNat * 2 ^ 48 + v.d.toNat * 2 ^ 35
    + v.a.toNat * 2 ^ 22 + v.b.toNat * 2 ^ 9 + v.sub.toNat * 2 ^ 5 + v.fmt.toNat
/-- R284. An MCALL word. -/
def encM (rtn : Nat) (m : MOp) : Nat :=
  2 ^ 42 + rtn * 2 ^ 34 + m.produce.toNat * 2 ^ 28 + m.c1.toNat * 2 ^ 22 + m.c2.toNat * 2 ^ 16 + m.c3.toNat * 2 ^ 10
    + m.spec.toNat * 2 ^ 5 + m.comp.toNat * 2 ^ 4 + m.elastic.toNat
/-- R287. A B word. -/
def encB (op : Nat) (g : Guard) (x imm : Nat) : Nat :=
  op * 2 ^ 34 + g.neg.toNat * 2 ^ 33 + g.g.toNat * 2 ^ 29 + x * 2 ^ 14 + imm

/-- The word of an instruction in its slot; the 16-bit index of a pause or quote; 0 for a no-op, and for an event, which
has none. -/
def encode : Instr → Nat
  | .add g d a b => encS 0x01 g d.toNat a.toNat b.toNat 0
  | .sub g d a b => encS 0x02 g d.toNat a.toNat b.toNat 0
  | .mul g d a b => encS 0x03 g d.toNat a.toNat b.toNat 0
  | .mulh g d a b => encS 0x04 g d.toNat a.toNat b.toNat 0
  | .mulhu g d a b => encS 0x05 g d.toNat a.toNat b.toNat 0
  | .div g d a b => encS 0x06 g d.toNat a.toNat b.toNat 0
  | .divu g d a b => encS 0x07 g d.toNat a.toNat b.toNat 0
  | .rem g d a b => encS 0x08 g d.toNat a.toNat b.toNat 0
  | .remu g d a b => encS 0x09 g d.toNat a.toNat b.toNat 0
  | .and g d a b => encS 0x0A g d.toNat a.toNat b.toNat 0
  | .or g d a b => encS 0x0B g d.toNat a.toNat b.toNat 0
  | .xor g d a b => encS 0x0C g d.toNat a.toNat b.toNat 0
  | .andn g d a b => encS 0x0D g d.toNat a.toNat b.toNat 0
  | .shl g d a b => encS 0x0E g d.toNat a.toNat b.toNat 0
  | .shr g d a b => encS 0x0F g d.toNat a.toNat b.toNat 0
  | .sar g d a b => encS 0x10 g d.toNat a.toNat b.toNat 0
  | .rol g d a b => encS 0x11 g d.toNat a.toNat b.toNat 0
  | .min g d a b => encS 0x12 g d.toNat a.toNat b.toNat 0
  | .max g d a b => encS 0x13 g d.toNat a.toNat b.toNat 0
  | .minu g d a b => encS 0x14 g d.toNat a.toNat b.toNat 0
  | .maxu g d a b => encS 0x15 g d.toNat a.toNat b.toNat 0
  | .clz g d a => encS 0x16 g d.toNat a.toNat 0 0
  | .popc g d a => encS 0x17 g d.toNat a.toNat 0 0
  | .pdep g d a b => encS 0x18 g d.toNat a.toNat b.toNat 0
  | .pext g d a b => encS 0x19 g d.toNat a.toNat b.toNat 0
  | .addi g d a imm => encS 0x20 g d.toNat a.toNat 0 imm.toNat
  | .andi g d a imm => encS 0x21 g d.toNat a.toNat 0 imm.toNat
  | .ori g d a imm => encS 0x22 g d.toNat a.toNat 0 imm.toNat
  | .xori g d a imm => encS 0x23 g d.toNat a.toNat 0 imm.toNat
  | .shli g d a c => encS 0x24 g d.toNat a.toNat 0 c.toNat
  | .shri g d a c => encS 0x25 g d.toNat a.toNat 0 c.toNat
  | .sari g d a c => encS 0x26 g d.toNat a.toNat 0 c.toNat
  | .lui g d v => encS 0x27 g d.toNat 0 0 v.toNat
  | .cmp g d a b cc => encS 0x28 g d.toNat a.toNat b.toNat (cc.toNat * 2 ^ 13)
  | .cmpi g d a cc imm => encS 0x29 g d.toNat a.toNat 0 (cc.toNat * 2 ^ 13 + imm.toNat)
  | .sel g d a b s => encS 0x2A g d.toNat a.toNat b.toNat (s.toNat * 2 ^ 13)
  | .glog g d a b op => encS 0x2B g d.toNat a.toNat b.toNat (op.toNat * 2 ^ 13)
  | .puni g d p => encS 0x2C g d.toNat p.toNat 0 0
  | .fadd g d a b rnd fmt => encS 0x30 g d.toNat a.toNat b.toNat (rnd.toNat * 2 ^ 14 + fmt.toNat * 2 ^ 9)
  | .fsub g d a b rnd fmt => encS 0x31 g d.toNat a.toNat b.toNat (rnd.toNat * 2 ^ 14 + fmt.toNat * 2 ^ 9)
  | .fmul g d a b rnd fmt => encS 0x32 g d.toNat a.toNat b.toNat (rnd.toNat * 2 ^ 14 + fmt.toNat * 2 ^ 9)
  | .fdiv g d a b rnd fmt => encS 0x34 g d.toNat a.toNat b.toNat (rnd.toNat * 2 ^ 14 + fmt.toNat * 2 ^ 9)
  | .fmin g d a b rnd fmt => encS 0x36 g d.toNat a.toNat b.toNat (rnd.toNat * 2 ^ 14 + fmt.toNat * 2 ^ 9)
  | .fmax g d a b rnd fmt => encS 0x37 g d.toNat a.toNat b.toNat (rnd.toNat * 2 ^ 14 + fmt.toNat * 2 ^ 9)
  | .ffma g d a b c rnd fmt => encS 0x33 g d.toNat a.toNat b.toNat (rnd.toNat * 2 ^ 14 + fmt.toNat * 2 ^ 9 + c.toNat * 2 ^ 3)
  | .fsqrt g d a rnd fmt => encS 0x35 g d.toNat a.toNat 0 (rnd.toNat * 2 ^ 14 + fmt.toNat * 2 ^ 9)
  | .fcvt g d a rnd df sf sat => encS 0x38 g d.toNat a.toNat 0
      (rnd.toNat * 2 ^ 14 + df.toNat * 2 ^ 9 + sf.toNat * 2 ^ 4 + sat.toNat * 2 ^ 3)
  | .fcmp g d a b cc fmt => encS 0x39 g d.toNat a.toNat b.toNat (cc.toNat * 2 ^ 13 + fmt.toNat * 2 ^ 8)
  | .ld g d m off => encS 0x40 g d.toNat m.a.toNat 0 (m.space.toNat * 2 ^ 15 + m.width.toNat * 2 ^ 12 + off.toNat)
  | .st g b m off => encS 0x41 g 0 m.a.toNat b.toNat (m.space.toNat * 2 ^ 15 + m.width.toNat * 2 ^ 12 + off.toNat)
  | .amo g d b m op off => encS 0x42 g d.toNat m.a.toNat b.toNat
      (m.space.toNat * 2 ^ 15 + m.width.toNat * 2 ^ 12 + op.toNat * 2 ^ 8 + off.toNat)
  | .cas g d b m off => encS 0x43 g d.toNat m.a.toNat b.toNat (m.space.toNat * 2 ^ 15 + m.width.toNat * 2 ^ 12 + off.toNat)
  | .mfs g d sr => encS 0x48 g d.toNat 0 0 sr.toNat
  | .mts g a sr => encS 0x49 g 0 a.toNat 0 sr.toNat
  | .mtsTemp g a => encS 0x49 g 0 a.toNat 0 0x020
  | .mtsLsc g a => encS 0x49 g 0 a.toNat 0 0x024
  | .mtsLscr g a => encS 0x49 g 0 a.toNat 0 0x025
  | .mtsRslim g a => encS 0x49 g 0 a.toNat 0 0x045
  | .mtsTcause g a => encS 0x49 g 0 a.toNat 0 0x041
  | .mtsCctr g a => encS 0x49 g 0 a.toNat 0 0x023
  | .mtsTripKix g a kix => encS 0x49 g 0 a.toNat 0 (0x010 + kix.toNat)
  | .mtsHot g a n => encS 0x49 g 0 a.toNat 0 (0x050 + n.toNat)
  | .mpset g m a imm => encS 0x4A g m.toNat a.toNat 0 imm.toNat
  | .cdset g n w a => encS 0x4B g n.toNat a.toNat 0 w.toNat
  | .launch g d a => encS 0x4C g d.toNat a.toNat 0 0
  | .vadd v => encV 0x001 v
  | .vsub v => encV 0x002 v
  | .vmul v => encV 0x003 v
  | .vfma v => encV 0x004 v
  | .vfms v => encV 0x005 v
  | .vfnma v => encV 0x006 v
  | .vdiv v => encV 0x007 v
  | .vsqrt v => encV 0x008 v
  | .vmin v => encV 0x009 v
  | .vmax v => encV 0x00A v
  | .vabs v => encV 0x00B v
  | .vneg v => encV 0x00C v
  | .vexp2 v => encV 0x00D v
  | .vlog2 v => encV 0x00E v
  | .vsqacc v => encV 0x00F v
  | .vcmul v => encV 0x010 v
  | .vcfma v => encV 0x011 v
  | .vconj v => encV 0x012 v
  | .vand v => encV 0x018 v
  | .vor v => encV 0x019 v
  | .vxor v => encV 0x01A v
  | .vshl v => encV 0x01B v
  | .vshr v => encV 0x01C v
  | .vsar v => encV 0x01D v
  | .vcvt v => encV 0x020 v
  | .vqnt v => encV 0x021 v
  | .vdqnt v => encV 0x022 v
  | .vmxq v => encV 0x023 v
  | .vmxd v => encV 0x024 v
  | .vmov v => encV 0x028 v
  | .vbcast v => encV 0x029 v
  | .vperm v => encV 0x02A v
  | .vbitx v => encV 0x02B v
  | .vlane v => encV 0x02C v
  | .vred v => encV 0x02D v
  | .vextr v => encV 0x02E v
  | .vins v => encV 0x02F v
  | .vcmp v => encV 0x030 v
  | .vsel v => encV 0x031 v
  | .vflag v => encV 0x032 v
  | .vrnd v => encV 0x033 v
  | .plog v => encV 0x038 v
  | .pmov v => encV 0x039 v
  | .scmp v => encV 0x040 v
  | .qlog v => encV 0x041 v
  | .qnot v => encV 0x042 v
  | .qblend v => encV 0x043 v
  | .qcol v => encV 0x044 v
  | .qhard v => encV 0x045 v
  | .qmov v => encV 0x046 v
  | .qgrad v => encV 0x047 v
  | .qbgrad v => encV 0x048 v
  | .qpgrad v => encV 0x049 v
  | .gemm m => encM 0 m
  | .gemmt m => encM 1 m
  | .conv m => encM 2 m
  | .cgemm m => encM 3 m
  | .gate m => encM 4 m
  | .accrd m => encM 8 m
  | .accclr m => encM 9 m
  | .skinit m => encM 16 m
  | .skfold m => encM 17 m
  | .skshrink m => encM 18 m
  | .skmerge m => encM 19 m
  | .skrd m => encM 20 m
  | .skwr m => encM 21 m
  | .userRoutineCall r m => encM r.toNat m
  | .userRoutineLoad r m => encM r.toNat m
  | .mstop t => 2 * 2 ^ 42 + t.toNat * 2 ^ 28
  | .mstat mp clr => 3 * 2 ^ 42 + clr.toNat * 2 ^ 37 + mp.toNat * 2 ^ 34
  | .ldv _ v b off sp => 0x01 * 2 ^ 34 + v.toNat * 2 ^ 21 + b.toNat * 2 ^ 15 + off.toNat * 2 ^ 2 + sp.toNat
  | .stv _ v b off sp => 0x02 * 2 ^ 34 + v.toNat * 2 ^ 21 + b.toNat * 2 ^ 15 + off.toNat * 2 ^ 2 + sp.toNat
  | .ldvs _ v b s tag sp => 0x03 * 2 ^ 34 + v.toNat * 2 ^ 21 + b.toNat * 2 ^ 15 + s.toNat * 2 ^ 9 + tag.toNat * 2 ^ 3 + sp.toNat
  | .stvs _ v b s sp => 0x04 * 2 ^ 34 + v.toNat * 2 ^ 21 + b.toNat * 2 ^ 15 + s.toNat * 2 ^ 9 + sp.toNat
  | .ldx _ v b i sp => 0x05 * 2 ^ 34 + v.toNat * 2 ^ 21 + b.toNat * 2 ^ 15 + i.toNat * 2 ^ 2 + sp.toNat
  | .stx _ v b i sp => 0x06 * 2 ^ 34 + v.toNat * 2 ^ 21 + b.toNat * 2 ^ 15 + i.toNat * 2 ^ 2 + sp.toNat
  | .ldt _ t b p tag cols sp => 0x07 * 2 ^ 34 + t.toNat * 2 ^ 29 + b.toNat * 2 ^ 23 + p.toNat * 2 ^ 17 + tag.toNat * 2 ^ 11 + cols.toNat * 2 ^ 10 + sp.toNat
  | .stt _ t b p cols sp => 0x08 * 2 ^ 34 + t.toNat * 2 ^ 29 + b.toNat * 2 ^ 23 + p.toNat * 2 ^ 17 + cols.toNat * 2 ^ 10 + sp.toNat
  | .copy _ cd t p k1 k2 k3 => 0x10 * 2 ^ 34 + cd.toNat * 2 ^ 30 + t.toNat * 2 ^ 24 + p.toNat * 2 ^ 18 + k1.toNat * 2 ^ 12 + k2.toNat * 2 ^ 6 + k3.toNat
  | .arrive _ a sp => 0x11 * 2 ^ 34 + a.toNat * 2 ^ 28 + sp.toNat * 2 ^ 26
  | .expect _ a sp k => 0x12 * 2 ^ 34 + a.toNat * 2 ^ 28 + sp.toNat * 2 ^ 26 + k.toNat * 2 ^ 20
  | .tokclr _ t => 0x13 * 2 ^ 34 + t.toNat * 2 ^ 28
  | .cflush _ a l inv p => 0x14 * 2 ^ 34 + a.toNat * 2 ^ 28 + l.toNat * 2 ^ 22 + inv.toNat * 2 ^ 21 + p.toNat * 2 ^ 15
  | .send p v x => 1 * 2 ^ 34 + p.toNat * 2 ^ 28 + v.toNat * 2 ^ 15 + x.toNat
  | .recv p v x => 2 * 2 ^ 34 + p.toNat * 2 ^ 28 + v.toNat * 2 ^ 15 + x.toNat
  | .recvadd p v x => 3 * 2 ^ 34 + p.toNat * 2 ^ 28 + v.toNat * 2 ^ 15 + x.toNat
  | .recvsq p v x => 4 * 2 ^ 34 + p.toNat * 2 ^ 28 + v.toNat * 2 ^ 15 + x.toNat
  | .putsig c v q => 5 * 2 ^ 34 + c.toNat * 2 ^ 28 + v.toNat * 2 ^ 15 + q.toNat * 2 ^ 9
  | .ncoll q p => 6 * 2 ^ 34 + q.toNat * 2 ^ 28 + p.toNat * 2 ^ 9
  | .nwait x => 7 * 2 ^ 34 + x.toNat
  | .br g t => encB 0x01 g t.toNat 0
  | .brc g a => encB 0x02 g (a.toNat * 2 ^ 9) 0
  | .call g t => encB 0x03 g t.toNat 0
  | .ret g => encB 0x04 g 0 0
  | .loop t => encB 0x05 ⟨false, 0⟩ t.toNat 0
  | .loopr t d => encB 0x06 ⟨false, 0⟩ t.toNat d.toNat
  | .bswap g t => encB 0x07 g t.toNat 0
  | .ifence g => encB 0x08 g 0 0
  | .waitb g a gen sp => encB 0x09 g (a.toNat * 2 ^ 9 + gen.toNat * 2 ^ 3 + sp.toNat) 0
  | .waitt g t => encB 0x0A g (t.toNat * 2 ^ 9) 0
  | .waitc g a n => encB 0x0B g (a.toNat * 2 ^ 9) n.toNat
  | .hold g a n => encB 0x0C g (a.toNat * 2 ^ 9) n.toNat
  | .done g => encB 0x0D g 0 0
  | .yield g t => encB 0x0E g t.toNat 0
  | .trap g e => encB 0x0F g 0 e.toNat
  | .savex g a => encB 0x10 g (a.toNat * 2 ^ 9) 0
  | .restx g a => encB 0x11 g (a.toNat * 2 ^ 9) 0
  | .ebreak g e => encB 0x12 g 0 e.toNat
  | .acq g a sp => encB 0x13 g (a.toNat * 2 ^ 9 + sp.toNat) 0
  | .rel g a sp => encB 0x14 g (a.toNat * 2 ^ 9 + sp.toNat) 0
  | .fence g sc => encB 0x15 g 0 sc.toNat
  | .pause n => 0xE000 + n.toNat
  | .quote => 0xFFFF
  | .moduleReset => 0
  | .ronilorStart _ _ _ => 0
  | .linkTraining _ _ _ _ => 0
  | .hbmTraining _ => 0
  | .firmwareLoad _ _ => 0
  | .ptpLock _ _ _ _ => 0
  | .mapPublish => 0
  | .bringUpWatchdog => 0
  | .ptpLockTimeout => 0
  | .attestationRequest _ => 0
  | .fenceListClear => 0
  | .setModuleId _ _ _ _ => 0
  | .bootstatFailsWrite _ => 0
  | .thermalWarning _ => 0
  | .thermalStop => 0
  | .powerOverloadStop => 0
  | .lossOfLock _ => 0
  | .leaveHoldover _ => 0
  | .slotSend => 0
  | .slotHeaderReceive _ _ _ _ _ _ => 0
  | .flitReceive _ => 0
  | .remoteRequest _ _ _ _ => 0
  | .remoteResponse _ _ _ => 0
  | .signalApply => 0
  | .ltarm _ => 0
  | .linkTimetableStart => 0
  | .ltstop _ => 0
  | .linkTimetableEnd => 0
  | .groupActivate _ _ => 0
  | .finjWrite _ _ => 0
  | .ttArm _ _ => 0
  | .ttStop _ _ => 0
  | .ttEntryRead _ => 0
  | .codePreload _ => 0
  | .scratchpadLoad _ => 0
  | .taskStart _ => 0
  | .loadFailure _ => 0
  | .latePolicy _ => 0
  | .poolPreempt _ => 0
  | .taskResume _ => 0
  | .taskRerun _ => 0
  | .overrun _ => 0
  | .taskRetire _ => 0
  | .faultLogConfig _ _ => 0
  | .poolPost _ => 0
  | .poolCancel _ => 0
  | .poolTake => 0
  | .backgroundPost _ => 0
  | .registerWrite _ _ => 0
  | .xinv _ => 0
  | .translationMiss _ => 0
  | .walkComplete _ => 0
  | .slcfgWrite _ _ => 0
  | .wmodeChangeComplete _ => 0
  | .l2Eviction _ => 0
  | .regionFlush _ => 0
  | .regionFlushComplete _ => 0
  | .codedAccess _ _ _ => 0
  | .codedWriteback _ _ => 0
  | .memerr _ => 0
  | .resultLand _ => 0
  | .waitRelease _ => 0
  | .trapEntry _ => 0
  | .timingReport _ => 0
  | .drainDiversion _ => 0
  | .drainDeferralKill _ => 0
  | .stubTimeoutKill _ => 0
  | .copyStart _ => 0
  | .copyComplete _ => 0
  | .barrierUpdate => 0
  | .cflushComplete _ => 0
  | .routineStart _ => 0
  | .routineComplete _ => 0
  | .rescaleComplete _ => 0
  | .collectiveStart _ => 0
  | .collectiveComplete _ _ _ => 0
  | .mnop => 0
  | .cnop => 0
  | .nnop => 0
  | .bnop => 0
  | .invalidationComplete _ => 0

/-- R94, R247. The number of the slot an operation stands in: 0 B, 1 S, 2 V0, 3 V1, 4 M, 5 C0, 6 C1, 7 N. -/
def slotOf : Instr → Option Nat
  | .moduleReset => none
  | .ronilorStart _ _ _ => none
  | .linkTraining _ _ _ _ => none
  | .hbmTraining _ => none
  | .firmwareLoad _ _ => none
  | .ptpLock _ _ _ _ => none
  | .mapPublish => none
  | .bringUpWatchdog => none
  | .ptpLockTimeout => none
  | .attestationRequest _ => none
  | .fenceListClear => none
  | .setModuleId _ _ _ _ => none
  | .bootstatFailsWrite _ => none
  | .thermalWarning _ => none
  | .thermalStop => none
  | .powerOverloadStop => none
  | .lossOfLock _ => none
  | .leaveHoldover _ => none
  | .slotSend => none
  | .slotHeaderReceive _ _ _ _ _ _ => none
  | .flitReceive _ => none
  | .remoteRequest _ _ _ _ => none
  | .remoteResponse _ _ _ => none
  | .signalApply => none
  | .ltarm _ => none
  | .linkTimetableStart => none
  | .ltstop _ => none
  | .linkTimetableEnd => none
  | .groupActivate _ _ => none
  | .finjWrite _ _ => none
  | .ttArm _ _ => none
  | .ttStop _ _ => none
  | .ttEntryRead _ => none
  | .codePreload _ => none
  | .scratchpadLoad _ => none
  | .taskStart _ => none
  | .loadFailure _ => none
  | .latePolicy _ => none
  | .poolPreempt _ => none
  | .taskResume _ => none
  | .taskRerun _ => none
  | .overrun _ => none
  | .taskRetire _ => none
  | .faultLogConfig _ _ => none
  | .poolPost _ => none
  | .poolCancel _ => none
  | .poolTake => none
  | .backgroundPost _ => none
  | .registerWrite _ _ => none
  | .xinv _ => none
  | .translationMiss _ => none
  | .walkComplete _ => none
  | .slcfgWrite _ _ => none
  | .wmodeChangeComplete _ => none
  | .l2Eviction _ => none
  | .regionFlush _ => none
  | .regionFlushComplete _ => none
  | .codedAccess _ _ _ => none
  | .codedWriteback _ _ => none
  | .memerr _ => none
  | .resultLand _ => none
  | .waitRelease _ => none
  | .trapEntry _ => none
  | .timingReport _ => none
  | .drainDiversion _ => none
  | .drainDeferralKill _ => none
  | .stubTimeoutKill _ => none
  | .copyStart _ => none
  | .copyComplete _ => none
  | .barrierUpdate => none
  | .cflushComplete _ => none
  | .routineStart _ => none
  | .routineComplete _ => none
  | .rescaleComplete _ => none
  | .collectiveStart _ => none
  | .collectiveComplete _ _ _ => none
  | .pause _ => none
  | .quote => none
  | .add _ _ _ _ => some 1
  | .sub _ _ _ _ => some 1
  | .mul _ _ _ _ => some 1
  | .mulh _ _ _ _ => some 1
  | .mulhu _ _ _ _ => some 1
  | .div _ _ _ _ => some 1
  | .divu _ _ _ _ => some 1
  | .rem _ _ _ _ => some 1
  | .remu _ _ _ _ => some 1
  | .and _ _ _ _ => some 1
  | .or _ _ _ _ => some 1
  | .xor _ _ _ _ => some 1
  | .andn _ _ _ _ => some 1
  | .shl _ _ _ _ => some 1
  | .shr _ _ _ _ => some 1
  | .sar _ _ _ _ => some 1
  | .rol _ _ _ _ => some 1
  | .min _ _ _ _ => some 1
  | .max _ _ _ _ => some 1
  | .minu _ _ _ _ => some 1
  | .maxu _ _ _ _ => some 1
  | .clz _ _ _ => some 1
  | .popc _ _ _ => some 1
  | .pdep _ _ _ _ => some 1
  | .pext _ _ _ _ => some 1
  | .addi _ _ _ _ => some 1
  | .andi _ _ _ _ => some 1
  | .ori _ _ _ _ => some 1
  | .xori _ _ _ _ => some 1
  | .shli _ _ _ _ => some 1
  | .shri _ _ _ _ => some 1
  | .sari _ _ _ _ => some 1
  | .lui _ _ _ => some 1
  | .cmp _ _ _ _ _ => some 1
  | .cmpi _ _ _ _ _ => some 1
  | .sel _ _ _ _ _ => some 1
  | .glog _ _ _ _ _ => some 1
  | .puni _ _ _ => some 1
  | .fadd _ _ _ _ _ _ => some 1
  | .fsub _ _ _ _ _ _ => some 1
  | .fmul _ _ _ _ _ _ => some 1
  | .ffma _ _ _ _ _ _ _ => some 1
  | .fdiv _ _ _ _ _ _ => some 1
  | .fsqrt _ _ _ _ _ => some 1
  | .fmin _ _ _ _ _ _ => some 1
  | .fmax _ _ _ _ _ _ => some 1
  | .fcvt _ _ _ _ _ _ _ => some 1
  | .fcmp _ _ _ _ _ _ => some 1
  | .ld _ _ _ _ => some 1
  | .st _ _ _ _ => some 1
  | .amo _ _ _ _ _ _ => some 1
  | .cas _ _ _ _ _ => some 1
  | .mfs _ _ _ => some 1
  | .mts _ _ _ => some 1
  | .mtsTemp _ _ => some 1
  | .mtsLsc _ _ => some 1
  | .mtsLscr _ _ => some 1
  | .mtsTripKix _ _ _ => some 1
  | .mtsHot _ _ _ => some 1
  | .mtsRslim _ _ => some 1
  | .mtsTcause _ _ => some 1
  | .mtsCctr _ _ => some 1
  | .mpset _ _ _ _ => some 1
  | .cdset _ _ _ _ => some 1
  | .launch _ _ _ => some 1
  | .vadd v => some (2 + v.slot1.toNat)
  | .vsub v => some (2 + v.slot1.toNat)
  | .vmul v => some (2 + v.slot1.toNat)
  | .vfma v => some (2 + v.slot1.toNat)
  | .vfms v => some (2 + v.slot1.toNat)
  | .vfnma v => some (2 + v.slot1.toNat)
  | .vdiv v => some (2 + v.slot1.toNat)
  | .vsqrt v => some (2 + v.slot1.toNat)
  | .vmin v => some (2 + v.slot1.toNat)
  | .vmax v => some (2 + v.slot1.toNat)
  | .vabs v => some (2 + v.slot1.toNat)
  | .vneg v => some (2 + v.slot1.toNat)
  | .vexp2 v => some (2 + v.slot1.toNat)
  | .vlog2 v => some (2 + v.slot1.toNat)
  | .vsqacc v => some (2 + v.slot1.toNat)
  | .vcmul v => some (2 + v.slot1.toNat)
  | .vcfma v => some (2 + v.slot1.toNat)
  | .vconj v => some (2 + v.slot1.toNat)
  | .vand v => some (2 + v.slot1.toNat)
  | .vor v => some (2 + v.slot1.toNat)
  | .vxor v => some (2 + v.slot1.toNat)
  | .vshl v => some (2 + v.slot1.toNat)
  | .vshr v => some (2 + v.slot1.toNat)
  | .vsar v => some (2 + v.slot1.toNat)
  | .vcvt v => some (2 + v.slot1.toNat)
  | .vqnt v => some (2 + v.slot1.toNat)
  | .vdqnt v => some (2 + v.slot1.toNat)
  | .vmxq v => some (2 + v.slot1.toNat)
  | .vmxd v => some (2 + v.slot1.toNat)
  | .vmov v => some (2 + v.slot1.toNat)
  | .vbcast v => some (2 + v.slot1.toNat)
  | .vperm v => some (2 + v.slot1.toNat)
  | .vbitx v => some (2 + v.slot1.toNat)
  | .vlane v => some (2 + v.slot1.toNat)
  | .vred v => some (2 + v.slot1.toNat)
  | .vextr v => some (2 + v.slot1.toNat)
  | .vins v => some (2 + v.slot1.toNat)
  | .vcmp v => some (2 + v.slot1.toNat)
  | .vsel v => some (2 + v.slot1.toNat)
  | .vflag v => some (2 + v.slot1.toNat)
  | .vrnd v => some (2 + v.slot1.toNat)
  | .plog v => some (2 + v.slot1.toNat)
  | .pmov v => some (2 + v.slot1.toNat)
  | .scmp v => some (2 + v.slot1.toNat)
  | .qlog v => some (2 + v.slot1.toNat)
  | .qnot v => some (2 + v.slot1.toNat)
  | .qblend v => some (2 + v.slot1.toNat)
  | .qcol v => some (2 + v.slot1.toNat)
  | .qhard v => some (2 + v.slot1.toNat)
  | .qmov v => some (2 + v.slot1.toNat)
  | .qgrad v => some (2 + v.slot1.toNat)
  | .qbgrad v => some (2 + v.slot1.toNat)
  | .qpgrad v => some (2 + v.slot1.toNat)
  | .mnop => some 4
  | .gemm _ => some 4
  | .gemmt _ => some 4
  | .conv _ => some 4
  | .cgemm _ => some 4
  | .gate _ => some 4
  | .accrd _ => some 4
  | .accclr _ => some 4
  | .skinit _ => some 4
  | .skfold _ => some 4
  | .skshrink _ => some 4
  | .skmerge _ => some 4
  | .skrd _ => some 4
  | .skwr _ => some 4
  | .userRoutineCall _ _ => some 4
  | .userRoutineLoad _ _ => some 4
  | .mstop _ => some 4
  | .mstat _ _ => some 4
  | .cnop => some 5
  | .ldv c1 _ _ _ _ => some (5 + c1.toNat)
  | .stv c1 _ _ _ _ => some (5 + c1.toNat)
  | .ldvs c1 _ _ _ _ _ => some (5 + c1.toNat)
  | .stvs c1 _ _ _ _ => some (5 + c1.toNat)
  | .ldx c1 _ _ _ _ => some (5 + c1.toNat)
  | .stx c1 _ _ _ _ => some (5 + c1.toNat)
  | .ldt c1 _ _ _ _ _ _ => some (5 + c1.toNat)
  | .stt c1 _ _ _ _ _ => some (5 + c1.toNat)
  | .copy c1 _ _ _ _ _ _ => some (5 + c1.toNat)
  | .arrive c1 _ _ => some (5 + c1.toNat)
  | .expect c1 _ _ _ => some (5 + c1.toNat)
  | .tokclr c1 _ => some (5 + c1.toNat)
  | .cflush c1 _ _ _ _ => some (5 + c1.toNat)
  | .nnop => some 7
  | .send _ _ _ => some 7
  | .recv _ _ _ => some 7
  | .recvadd _ _ _ => some 7
  | .recvsq _ _ _ => some 7
  | .putsig _ _ _ => some 7
  | .ncoll _ _ => some 7
  | .nwait _ => some 7
  | .bnop => some 0
  | .br _ _ => some 0
  | .brc _ _ => some 0
  | .call _ _ => some 0
  | .ret _ => some 0
  | .loop _ => some 0
  | .loopr _ _ => some 0
  | .bswap _ _ => some 0
  | .ifence _ => some 0
  | .waitb _ _ _ _ => some 0
  | .waitt _ _ => some 0
  | .waitc _ _ _ => some 0
  | .hold _ _ _ => some 0
  | .done _ => some 0
  | .yield _ _ => some 0
  | .trap _ _ => some 0
  | .ebreak _ _ => some 0
  | .savex _ _ => some 0
  | .restx _ _ => some 0
  | .acq _ _ _ => some 0
  | .rel _ _ _ => some 0
  | .fence _ _ => some 0
  | .invalidationComplete _ => none

/-! ### The decoder -/

/-- R109, R310. The MTS forms, by register number. -/
def rawMts (g : Guard) (a : SReg) (sr : BitVec 12) : Instr :=
  let n := sr.toNat
  if n = 0x010 then .mtsTripKix g a false
  else if n = 0x011 then .mtsTripKix g a true
  else if n = 0x020 then .mtsTemp g a
  else if n = 0x023 then .mtsCctr g a
  else if n = 0x024 then .mtsLsc g a
  else if n = 0x025 then .mtsLscr g a
  else if n = 0x041 then .mtsTcause g a
  else if n = 0x045 then .mtsRslim g a
  else if 0x050 ≤ n ∧ n ≤ 0x057 then .mtsHot g a (BitVec.ofNat 3 n)
  else .mts g a sr

/-- The S operation that op and fields name. -/
def rawSOp (op : Nat) (g : Guard) (d a b : SReg) (dg : GReg) (w : Nat) : Option Instr :=
  match op with
  | 0x01 => some (.add g d a b)
  | 0x02 => some (.sub g d a b)
  | 0x03 => some (.mul g d a b)
  | 0x04 => some (.mulh g d a b)
  | 0x05 => some (.mulhu g d a b)
  | 0x06 => some (.div g d a b)
  | 0x07 => some (.divu g d a b)
  | 0x08 => some (.rem g d a b)
  | 0x09 => some (.remu g d a b)
  | 0x0A => some (.and g d a b)
  | 0x0B => some (.or g d a b)
  | 0x0C => some (.xor g d a b)
  | 0x0D => some (.andn g d a b)
  | 0x0E => some (.shl g d a b)
  | 0x0F => some (.shr g d a b)
  | 0x10 => some (.sar g d a b)
  | 0x11 => some (.rol g d a b)
  | 0x12 => some (.min g d a b)
  | 0x13 => some (.max g d a b)
  | 0x14 => some (.minu g d a b)
  | 0x15 => some (.maxu g d a b)
  | 0x16 => some (.clz g d a)
  | 0x17 => some (.popc g d a)
  | 0x18 => some (.pdep g d a b)
  | 0x19 => some (.pext g d a b)
  | 0x20 => some (.addi g d a (fld 17 0 w))
  | 0x21 => some (.andi g d a (fld 17 0 w))
  | 0x22 => some (.ori g d a (fld 17 0 w))
  | 0x23 => some (.xori g d a (fld 17 0 w))
  | 0x24 => some (.shli g d a (fld 6 0 w))
  | 0x25 => some (.shri g d a (fld 6 0 w))
  | 0x26 => some (.sari g d a (fld 6 0 w))
  | 0x27 => some (.lui g d (fld 29 0 w))
  | 0x28 => some (.cmp g dg a b (fld 4 13 w))
  | 0x29 => some (.cmpi g dg a (fld 4 13 w) (fld 13 0 w))
  | 0x2A => some (.sel g d a b (fld 4 13 w))
  | 0x2B => some (.glog g dg (fld 4 23 w) (fld 4 17 w) (fld 4 13 w))
  | 0x2C => some (.puni g dg (fld 4 23 w))
  | 0x30 => some (.fadd g d a b (fld 3 14 w) (fld 5 9 w))
  | 0x31 => some (.fsub g d a b (fld 3 14 w) (fld 5 9 w))
  | 0x32 => some (.fmul g d a b (fld 3 14 w) (fld 5 9 w))
  | 0x34 => some (.fdiv g d a b (fld 3 14 w) (fld 5 9 w))
  | 0x36 => some (.fmin g d a b (fld 3 14 w) (fld 5 9 w))
  | 0x37 => some (.fmax g d a b (fld 3 14 w) (fld 5 9 w))
  | 0x33 => some (.ffma g d a b (fld 6 3 w) (fld 3 14 w) (fld 5 9 w))
  | 0x35 => some (.fsqrt g d a (fld 3 14 w) (fld 5 9 w))
  | 0x38 => some (.fcvt g d a (fld 3 14 w) (fld 5 9 w) (fld 5 4 w) (bit 3 w))
  | 0x39 => some (.fcmp g dg a b (fld 4 13 w) (fld 5 8 w))
  | 0x40 => some (.ld g d ⟨a, fld 2 15 w, fld 3 12 w⟩ (fld 12 0 w))
  | 0x41 => some (.st g b ⟨a, fld 2 15 w, fld 3 12 w⟩ (fld 12 0 w))
  | 0x42 => some (.amo g d b ⟨a, fld 2 15 w, fld 3 12 w⟩ (fld 4 8 w) (fld 8 0 w))
  | 0x43 => some (.cas g d b ⟨a, fld 2 15 w, fld 3 12 w⟩ (fld 12 0 w))
  | 0x48 => some (.mfs g d (fld 12 0 w))
  | 0x49 => some (rawMts g a (fld 12 0 w))
  | 0x4A => some (.mpset g (fld 3 29 w) a (fld 17 0 w))
  | 0x4B => some (.cdset g (fld 4 29 w) (fld 3 0 w) a)
  | 0x4C => some (.launch g dg a)
  | _ => none

/-- R282. The S slot, before the checks. -/
def rawS (w : Nat) : Option Instr :=
  rawSOp (w / 2 ^ 40) ⟨bit 39 w, fld 4 35 w⟩ (fld 6 29 w) (fld 6 23 w) (fld 6 17 w) (fld 4 29 w) w

/-- R283. The fields of a V word. -/
def vop (slot1 : Bool) (w : Nat) : VOp where
  slot1 := slot1
  nf := bit 53 w
  neg := bit 52 w
  p := fld 4 48 w
  d := fld 13 35 w
  a := fld 13 22 w
  b := fld 13 9 w
  sub := fld 4 5 w
  fmt := fld 5 0 w

/-- R283. The V slots. -/
def rawV (slot1 : Bool) (w : Nat) : Option Instr :=
  match w / 2 ^ 54 with
  | 0x001 => some (.vadd (vop slot1 w))
  | 0x002 => some (.vsub (vop slot1 w))
  | 0x003 => some (.vmul (vop slot1 w))
  | 0x004 => some (.vfma (vop slot1 w))
  | 0x005 => some (.vfms (vop slot1 w))
  | 0x006 => some (.vfnma (vop slot1 w))
  | 0x007 => some (.vdiv (vop slot1 w))
  | 0x008 => some (.vsqrt (vop slot1 w))
  | 0x009 => some (.vmin (vop slot1 w))
  | 0x00A => some (.vmax (vop slot1 w))
  | 0x00B => some (.vabs (vop slot1 w))
  | 0x00C => some (.vneg (vop slot1 w))
  | 0x00D => some (.vexp2 (vop slot1 w))
  | 0x00E => some (.vlog2 (vop slot1 w))
  | 0x00F => some (.vsqacc (vop slot1 w))
  | 0x010 => some (.vcmul (vop slot1 w))
  | 0x011 => some (.vcfma (vop slot1 w))
  | 0x012 => some (.vconj (vop slot1 w))
  | 0x018 => some (.vand (vop slot1 w))
  | 0x019 => some (.vor (vop slot1 w))
  | 0x01A => some (.vxor (vop slot1 w))
  | 0x01B => some (.vshl (vop slot1 w))
  | 0x01C => some (.vshr (vop slot1 w))
  | 0x01D => some (.vsar (vop slot1 w))
  | 0x020 => some (.vcvt (vop slot1 w))
  | 0x021 => some (.vqnt (vop slot1 w))
  | 0x022 => some (.vdqnt (vop slot1 w))
  | 0x023 => some (.vmxq (vop slot1 w))
  | 0x024 => some (.vmxd (vop slot1 w))
  | 0x028 => some (.vmov (vop slot1 w))
  | 0x029 => some (.vbcast (vop slot1 w))
  | 0x02A => some (.vperm (vop slot1 w))
  | 0x02B => some (.vbitx (vop slot1 w))
  | 0x02C => some (.vlane (vop slot1 w))
  | 0x02D => some (.vred (vop slot1 w))
  | 0x02E => some (.vextr (vop slot1 w))
  | 0x02F => some (.vins (vop slot1 w))
  | 0x030 => some (.vcmp (vop slot1 w))
  | 0x031 => some (.vsel (vop slot1 w))
  | 0x032 => some (.vflag (vop slot1 w))
  | 0x033 => some (.vrnd (vop slot1 w))
  | 0x038 => some (.plog (vop slot1 w))
  | 0x039 => some (.pmov (vop slot1 w))
  | 0x040 => some (.scmp (vop slot1 w))
  | 0x041 => some (.qlog (vop slot1 w))
  | 0x042 => some (.qnot (vop slot1 w))
  | 0x043 => some (.qblend (vop slot1 w))
  | 0x044 => some (.qcol (vop slot1 w))
  | 0x045 => some (.qhard (vop slot1 w))
  | 0x046 => some (.qmov (vop slot1 w))
  | 0x047 => some (.qgrad (vop slot1 w))
  | 0x048 => some (.qbgrad (vop slot1 w))
  | 0x049 => some (.qpgrad (vop slot1 w))
  | _ => none

/-- R284. The fields of an MCALL word. -/
def mop (w : Nat) : MOp where
  produce := fld 6 28 w
  c1 := fld 6 22 w
  c2 := fld 6 16 w
  c3 := fld 6 10 w
  elastic := fld 4 0 w
  comp := bit 4 w
  spec := fld 5 5 w

/-- R284, R366. MCALL by routine number: the vendor routines, and the user routines, whose flag [5] loads. -/
def rawCall (w : Nat) : Option Instr :=
  match w / 2 ^ 34 % 256 with
  | 0 => some (.gemm (mop w))
  | 1 => some (.gemmt (mop w))
  | 2 => some (.conv (mop w))
  | 3 => some (.cgemm (mop w))
  | 4 => some (.gate (mop w))
  | 8 => some (.accrd (mop w))
  | 9 => some (.accclr (mop w))
  | 16 => some (.skinit (mop w))
  | 17 => some (.skfold (mop w))
  | 18 => some (.skshrink (mop w))
  | 19 => some (.skmerge (mop w))
  | 20 => some (.skrd (mop w))
  | 21 => some (.skwr (mop w))
  | r =>
    if r < 64 then none
    else if bit 5 w then some (.userRoutineLoad (BitVec.ofNat 8 r) (mop w))
    else some (.userRoutineCall (BitVec.ofNat 8 r) (mop w))

/-- R284. The M slot. -/
def rawM (w : Nat) : Option Instr :=
  match w / 2 ^ 42 with
  | 1 => rawCall w
  | 2 => some (.mstop (fld 6 28 w))
  | 3 => some (.mstat (fld 3 34 w) (bit 37 w))
  | _ => none

/-- R285. The C slots. -/
def rawC (c1 : Bool) (w : Nat) : Option Instr :=
  match w / 2 ^ 34 with
  | 0x01 => some (.ldv c1 (fld 13 21 w) (fld 6 15 w) (fld 13 2 w) (fld 2 0 w))
  | 0x02 => some (.stv c1 (fld 13 21 w) (fld 6 15 w) (fld 13 2 w) (fld 2 0 w))
  | 0x03 => some (.ldvs c1 (fld 13 21 w) (fld 6 15 w) (fld 6 9 w) (fld 6 3 w) (fld 2 0 w))
  | 0x04 => some (.stvs c1 (fld 13 21 w) (fld 6 15 w) (fld 6 9 w) (fld 2 0 w))
  | 0x05 => some (.ldx c1 (fld 13 21 w) (fld 6 15 w) (fld 13 2 w) (fld 2 0 w))
  | 0x06 => some (.stx c1 (fld 13 21 w) (fld 6 15 w) (fld 13 2 w) (fld 2 0 w))
  | 0x07 => some (.ldt c1 (fld 5 29 w) (fld 6 23 w) (fld 6 17 w) (fld 6 11 w) (bit 10 w) (fld 2 0 w))
  | 0x08 => some (.stt c1 (fld 5 29 w) (fld 6 23 w) (fld 6 17 w) (bit 10 w) (fld 2 0 w))
  | 0x10 => some (.copy c1 (fld 4 30 w) (fld 6 24 w) (fld 6 18 w) (fld 6 12 w) (fld 6 6 w) (fld 6 0 w))
  | 0x11 => some (.arrive c1 (fld 6 28 w) (fld 2 26 w))
  | 0x12 => some (.expect c1 (fld 6 28 w) (fld 2 26 w) (fld 6 20 w))
  | 0x13 => some (.tokclr c1 (fld 6 28 w))
  | 0x14 => some (.cflush c1 (fld 6 28 w) (fld 6 22 w) (bit 21 w) (fld 6 15 w))
  | _ => none

/-- R286. The N slot. -/
def rawN (w : Nat) : Option Instr :=
  match w / 2 ^ 34 with
  | 1 => some (.send (fld 5 28 w) (fld 13 15 w) (fld 15 0 w))
  | 2 => some (.recv (fld 5 28 w) (fld 13 15 w) (fld 15 0 w))
  | 3 => some (.recvadd (fld 5 28 w) (fld 13 15 w) (fld 15 0 w))
  | 4 => some (.recvsq (fld 5 28 w) (fld 13 15 w) (fld 15 0 w))
  | 5 => some (.putsig (fld 3 28 w) (fld 13 15 w) (fld 6 9 w))
  | 6 => some (.ncoll (fld 6 28 w) (fld 6 9 w))
  | 7 => some (.nwait (fld 15 0 w))
  | _ => none

/-- The B operation that op and fields name. -/
def rawBOp (op : Nat) (g : Guard) (w : Nat) : Option Instr :=
  match op with
  | 0x01 => some (.br g (fld 15 14 w))
  | 0x02 => some (.brc g (fld 6 23 w))
  | 0x03 => some (.call g (fld 15 14 w))
  | 0x04 => some (.ret g)
  | 0x05 => some (.loop (fld 15 14 w))
  | 0x06 => some (.loopr (fld 15 14 w) (fld 3 0 w))
  | 0x07 => some (.bswap g (fld 15 14 w))
  | 0x08 => some (.ifence g)
  | 0x09 => some (.waitb g (fld 6 23 w) (fld 6 17 w) (fld 2 14 w))
  | 0x0A => some (.waitt g (fld 6 23 w))
  | 0x0B => some (.waitc g (fld 6 23 w) (fld 14 0 w))
  | 0x0C => some (.hold g (fld 6 23 w) (fld 14 0 w))
  | 0x0D => some (.done g)
  | 0x0E => some (.yield g (fld 15 14 w))
  | 0x0F => some (.trap g (fld 14 0 w))
  | 0x10 => some (.savex g (fld 6 23 w))
  | 0x11 => some (.restx g (fld 6 23 w))
  | 0x12 => some (.ebreak g (fld 14 0 w))
  | 0x13 => some (.acq g (fld 6 23 w) (fld 2 14 w))
  | 0x14 => some (.rel g (fld 6 23 w) (fld 2 14 w))
  | 0x15 => some (.fence g (fld 3 0 w))
  | _ => none

/-- R287. The B slot. -/
def rawB (w : Nat) : Option Instr := rawBOp (w / 2 ^ 34) ⟨bit 33 w, fld 4 29 w⟩ w

/-- The fields of slot `k`, before the checks. -/
def rawSlot (k w : Nat) : Option Instr :=
  if k = 0 then rawB w
  else if k = 1 then rawS w
  else if k = 2 then rawV false w
  else if k = 3 then rawV true w
  else if k = 4 then rawM w
  else if k = 5 then rawC false w
  else if k = 6 then rawC true w
  else rawN w

/-- R278. Keep an instruction that is the whole of its word and well formed. -/
def checked (w : Nat) : Option Instr → Option Instr
  | some i => if encode i = w ∧ i.wf = true then some i else none
  | none => none

/-- The no-op of the slots that have one as a row of the table. -/
def noop (k : Nat) : Option Instr :=
  if k = 0 then some .bnop else if k = 4 then some .mnop else if k = 5 ∨ k = 6 then some .cnop
  else if k = 7 then some .nnop else none

/-- R278. The fate of a slot word: `none` is ILLEGAL_OP (an all-zero S or V word is the slot's no-op, which has no row:
callers skip zero words, as the no-op takes no effect and reads nothing). -/
def decodeSlot (k w : Nat) : Option Instr := if w = 0 then noop k else checked w (rawSlot k w)

/-- R94. The word of slot `k` of a bundle. -/
def slotWord (bundle k : Nat) : Nat :=
  if k = 0 then bundle / 2 ^ 344 % 2 ^ 40
  else if k = 1 then bundle / 2 ^ 296 % 2 ^ 48
  else if k = 2 then bundle / 2 ^ 232 % 2 ^ 64
  else if k = 3 then bundle / 2 ^ 168 % 2 ^ 64
  else if k = 4 then bundle / 2 ^ 120 % 2 ^ 48
  else if k = 5 then bundle / 2 ^ 80 % 2 ^ 40
  else if k = 6 then bundle / 2 ^ 40 % 2 ^ 40
  else bundle % 2 ^ 40

/-- R94. A word placed in slot `k` of an otherwise empty bundle. -/
def slotPlace (k w : Nat) : Nat :=
  if k = 0 then w * 2 ^ 344
  else if k = 1 then w * 2 ^ 296
  else if k = 2 then w * 2 ^ 232
  else if k = 3 then w * 2 ^ 168
  else if k = 4 then w * 2 ^ 120
  else if k = 5 then w * 2 ^ 80
  else if k = 6 then w * 2 ^ 40
  else w

/-- R95. What a text index is. -/
inductive TextIndex where
  | lexeme (n : Nat)
  | instr (i : Instr)
  | illegal
  deriving DecidableEq, Repr

/-- R95. Read a 16-bit index. -/
def decodeIndex (x : Nat) : TextIndex :=
  if x < 0x1000 then .lexeme x
  else if x = 0xFFFF then .instr .quote
  else if 0xE000 ≤ x ∧ x ≤ 0xEFFF then .instr (.pause (BitVec.ofNat 12 x))
  else .illegal

/-- The first operation of a bundle, in slot order; BNOP for an all-zero one. -/
def firstOp (bundle : Nat) : Option Instr :=
  if slotWord bundle 0 ≠ 0 then decodeSlot 0 (slotWord bundle 0)
  else if slotWord bundle 1 ≠ 0 then decodeSlot 1 (slotWord bundle 1)
  else if slotWord bundle 2 ≠ 0 then decodeSlot 2 (slotWord bundle 2)
  else if slotWord bundle 3 ≠ 0 then decodeSlot 3 (slotWord bundle 3)
  else if slotWord bundle 4 ≠ 0 then decodeSlot 4 (slotWord bundle 4)
  else if slotWord bundle 5 ≠ 0 then decodeSlot 5 (slotWord bundle 5)
  else if slotWord bundle 6 ≠ 0 then decodeSlot 6 (slotWord bundle 6)
  else if slotWord bundle 7 ≠ 0 then decodeSlot 7 (slotWord bundle 7)
  else some .bnop

/-- The instruction read from a word of the table's numbering: a 16-bit word is a text index, a longer one a bundle,
whose first operation is the instruction. -/
def decodeTableWord (nbits w : Nat) : Option Instr :=
  if nbits ≤ 16 then
    match decodeIndex w with
    | .instr i => some i
    | _ => none
  else firstOp w

end Sys2Proof
end

