-- ==== Sys2Proof/Machine/Sysreg.lean ====
section
/-! DEFINITION. S slot: reads and writes of system registers (R109, R110, R309, R310). The writes of LSC and LSCR stand
with the accumulators they act on (Machine/Matrix.lean). -/

namespace Sys2Proof.Machine

/-- R109. COREID: die [11:8], cluster [7:4], core [3:0]. -/
def coreId (g : Nat) : Nat := g / 48 * 256 + g % 48 / 8 * 16 + g % 8

/-- R109. Bits of the tokens that satisfy a test. -/
def tokBits (s : State) (f : TokState → Bool) : Word64 :=
  BitVec.ofNat 64 ((List.range 64).foldl (fun m n => if f (rdTok s (BitVec.ofNat 6 n)) then m + 2 ^ n else m) 0)

/-- R85, R109. Cycles of budget left; all ones for a task without a budget. -/
def budgetLeft (s : State) : Word64 :=
  match s.core.task with
  | none => BitVec.allOnes 64
  | some t => match t.budget with
    | none => BitVec.allOnes 64
    | some d => BitVec.ofNat 64 (d - s.cyc)

/-- R109. The value a system register holds for the bundle issuing now. -/
def sysValue (s : State) (n : Nat) : Word64 :=
  let c := s.core
  if n = 0x000 then BitVec.ofNat 64 s.cyc
  else if n = 0x001 then c.tstart
  else if n = 0x002 then c.taskId.setWidth 64
  else if n = 0x003 then BitVec.ofNat 64 (coreId s.coreNo)
  else if n = 0x004 then c.sflg.setWidth 64
  else if n = 0x010 then c.trip.setWidth 64
  else if n = 0x011 then c.kix.setWidth 64
  else if n = 0x012 then c.olc.setWidth 64
  else if n = 0x013 then c.rot.setWidth 64
  else if n = 0x014 then c.holdc.setWidth 64
  else if n = 0x015 then c.pausec.setWidth 64
  else if n = 0x020 then c.temp.setWidth 64
  else if n = 0x021 then c.tinv.setWidth 64
  else if n = 0x022 then c.ckey
  else if n = 0x023 then c.cctr
  else if n = 0x024 then c.lsc.setWidth 64
  else if 0x030 ≤ n ∧ n ≤ 0x03F then mget 0 c.ft (n - 0x030)
  else if n = 0x040 then c.tvec.setWidth 64
  else if n = 0x041 then c.tcause.setWidth 64
  else if n = 0x042 then c.tepc.setWidth 64
  else if n = 0x043 then c.tinfo
  else if n = 0x044 then c.draintab.setWidth 64
  else if n = 0x045 then c.rslim
  else if n = 0x046 then budgetLeft s
  else if n = 0x047 then c.frzc
  else if n = 0x048 then c.rsd0.setWidth 64
  else if 0x050 ≤ n ∧ n ≤ 0x057 then mget 0 c.hot (n - 0x050)
  else if n = 0x060 then tokBits s fun t => t != .pending
  else if n = 0x061 then tokBits s fun t => t == .err
  else if 0x080 ≤ n ∧ n ≤ 0x0FF then BitVec.ofNat 64 (latTable s s.coreNo (n - 0x080))
  else 0

/-- PRIV for a number of 0x800 or above (R110), detail the number; raised whatever the guard (R290). -/
def privCause (sr : BitVec 12) : Option (Nat × Nat) := causeIf (decide (0x800 ≤ sr.toNat)) cPriv sr.toNat

/-- R309. MFS: d := the register's value at t. -/
def execMfs (g : Guard) (d : SReg) (sr : BitVec 12) (s : State) : Res :=
  guarded 1 [privCause sr] (whenG g fun s => putS 1 d (sysValue s sr.toNat) s) s

/-- R310. MTS to a register without side effects, from t + 1. -/
def execMts (g : Guard) (a : SReg) (sr : BitVec 12) (s : State) : Res :=
  guarded 1 [privCause sr] (whenG g fun s => put 1 (.sys sr.toNat (rdS s a)) s) s

/-- R232, R310. MTS TEMP: NaN and negative values fault TEMP_VALUE; −0 is stored as +0; TINV := RNE(1/v). -/
def execMtsTemp (g : Guard) (a : SReg) (s : State) : Res :=
  .next (whenG g (fun s =>
    let v := (rdS s a).toNat % 2 ^ 32
    let bad := isNan32 v || (decide (2 ^ 31 ≤ v) && decide (v ≠ 2 ^ 31))
    let v' := if v = 2 ^ 31 then 0 else v
    orRaise 1 [causeIf bad cTempValue v] (putMany 1 [.sys 0x020 (BitVec.ofNat 64 v'),
      .sys 0x021 (BitVec.ofNat 64 (fdiv32 one32 v').1)]) s) s)

/-- R112, R310. MTS TRIP or KIX: the register and the stage predicates from t + 1. -/
def execMtsTripKix (g : Guard) (a : SReg) (kix : Bool) (s : State) : Res :=
  .next (whenG g (fun s => put 1 (.sys (if kix then 0x011 else 0x010) (rdS s a)) s) s)

/-- R107, R310. MTS HOTn: the mirror has its vector's value by its one home. -/
def execMtsHot (g : Guard) (a : SReg) (n : BitVec 3) (s : State) : Res :=
  .next (whenG g (fun s => put 1 (.sys (0x050 + n.toNat) (rdS s a)) s) s)

/-- R117, R310. MTS RSLIM: RSTACK while entries are spilled. -/
def execMtsRslim (g : Guard) (a : SReg) (s : State) : Res :=
  .next (whenG g (fun s =>
    orRaise 1 [causeIf (decide (s.core.h0 < s.core.rsd0.toNat)) cRstack s.core.rsd0.toNat]
      (put 1 (.sys 0x045 (rdS s a))) s) s)

/-- R249, R310. MTS TCAUSE: 0 leaves handler mode when it takes effect. -/
def execMtsTcause (g : Guard) (a : SReg) (s : State) : Res :=
  .next (whenG g (fun s => put 1 (.sys 0x041 (rdS s a)) s) s)

/-- R240, R310. MTS CCTR: discards the advance of the same bundle's consumers. -/
def execMtsCctr (g : Guard) (a : SReg) (s : State) : Res :=
  .next (whenG g (fun s => put 1 (.sys 0x023 (rdS s a)) s) s)

end Sys2Proof.Machine
end

