-- ==== Sys2Proof/Machine/Control.lean ====
section
/-! DEFINITION. B slot: branches, calls, loops, half swap, waits, holds, endings, traps, save and restore, acquire,
release and fences (R393–R412). -/

namespace Sys2Proof.Machine

/-! ### Text (R95, R96, R398) -/

/-- A byte of the core's text-and-lexicon window as fetch sees it: an unmarked write not seen keeps its old byte. -/
def fetchByte (s : State) (o : Nat) : Byte :=
  let a := textBase s.coreNo + o
  match mget [] s.core.unfetched a with
  | x :: _ => if activeIs s.core (textSpot o).1 then x.2 else s.mem.read a
  | [] => s.mem.read a

/-- R398. The index or the lexeme that a byte of the core's window belongs to. -/
def textItem (s : State) (a : Nat) : Nat :=
  let o := a - textBase s.coreNo
  if o < 0x10000 then o / 2 else 0x10000 + (o - 0x10000) / 48

/-- R398, R399. The earliest unmarked write of an index or lexeme that the half swap under way leaves unseen, by its cycle: a free
choice for each; none: it leaves none unseen. -/
def unseenFrom (s : State) (i : Nat) : Option Nat :=
  let ws := ((s.core.unfetched.filter fun p => decide (textItem s p.1 = i)).flatMap fun p => p.2.map Prod.fst).eraseDups
  ws[(Config.free (s.core.swapDraw + i)).toNat % (ws.length + 1)]?

/-- R398. The byte that the swap shows at an address in place of what stands there. -/
def swapByte (s : State) (a : Nat) : Option Byte :=
  (unseenFrom s (textItem s a)).bind fun t => ((mget [] s.core.unfetched a).find? fun x => decide (t ≤ x.1)).map Prod.snd

/-- R413. The index at a text position. -/
def indexAt (s : State) (p : Nat) : Nat := bytesToNat [fetchByte s (2 * p), fetchByte s (2 * p + 1)]

/-- R97. A text position lies in the active half. -/
def inHalf (c : Core) (p : Nat) : Bool := decide (16384 ≤ p) == c.half

/-- Positions an index occupies: 25 for a quote, else 1 (R95). -/
def indexSpan (i : Nat) : Nat := if i = 0xFFFF then 25 else 1

/-- Position after the bundle at the current position. -/
def seqNext (s : State) : Nat := s.core.pc.toNat + (if s.core.inQuote then 25 else 1)

/-- R396, R98. Position of the bundle that issues as the delay bundle of a branch issuing now. -/
def delayPos (s : State) : Nat :=
  match s.core.redir with
  | some r => r.target.toNat
  | none => seqNext s

/-- R398. An index at a position of the idle half as the swap under way shows it. -/
def swapIndexAt (s : State) (p : Nat) : Nat :=
  let a := textBase s.coreNo + 2 * p
  bytesToNat [(swapByte s a).getD (s.mem.read a), (swapByte s (a + 1)).getD (s.mem.read (a + 1))]

/-- R396. The return position: after the indices of the delay bundle, which the target of a BSWAP finds in the other half. -/
def returnPos (s : State) : BitVec 15 :=
  let p := delayPos s
  let i := match s.core.redir with
    | some ⟨_, .swap⟩ => swapIndexAt s p
    | _ => indexAt s p
  BitVec.ofNat 15 (p + indexSpan i)

/-! ### Branches (R394–R396) -/

/-- A branch-class operation: a delay bundle follows, and the target when taken. -/
def branchTo (d : DelayOf) (t : Option Redir) (s : State) : State :=
  { s with core := { s.core with nextDelay := d, nextRedir := t } }

/-- R393–R395. A taken branch to a position when the condition holds. -/
def condBranch (g : Guard) (t : BitVec 15) (s : State) : State :=
  branchTo .branch (if guardOn s g then some ⟨t, .plain⟩ else none) s

/-- R395. BR. -/
def execBr (g : Guard) (target : BitVec 15) (s : State) : Res := .next (condBranch g target s)
/-- R395. BRC: bits [14:0] of S[a]. -/
def execBrc (g : Guard) (a : SReg) (s : State) : Res := .next (condBranch g ((rdS s a).setWidth 15) s)

/-- R117. BASE and LIMIT of the spill area, and whether a spill or refill may use them. -/
def rsBase (c : Core) : Nat := natBits c.rslim.toNat 20 0
def rsLimit (c : Core) : Nat := natBits c.rslim.toNat 52 32
def rsUsable (c : Core) : Bool :=
  decide (rsBase c % 8 = 0) && decide (rsLimit c % 8 = 0) && decide (rsBase c ≤ rsLimit c)

/-- Local address of spill entry j. -/
def spillAddr (s : State) (j : Nat) : Nat := spadBase s.coreNo + rsBase s.core + 8 * j

/-- R117. Write one return-stack entry to the spill area. -/
def spill (j : Nat) (p : BitVec 15) (s : State) : State := homeWrite none (spillAddr s j) (natToBytes 8 p.toNat) s

/-- R117. Read one entry of the spill area; an uncorrectable one ends the task (R252). -/
def unspill (j : Nat) (s : State) : BitVec 15 × State :=
  let a := spillAddr s j
  match badAddr s a 8 with
  | some b => (0, recordErr 0 (.memerr b) (classify b s))
  | none => (BitVec.ofNat 15 (bytesToNat (s.mem.readBytes a 8)), s)

def rstack (s : State) : Nat := s.core.rsdepth.toNat

/-- R117, R396. The CALL's push would fault RSTACK. -/
def pushFaults (s : State) : Bool :=
  decide (s.core.rs.length = 32)
    && (!rsUsable s.core || decide (rsLimit s.core < rsBase s.core + 8 * (rstack s - 32) + 8))

/-- R117. Push a position: a full hardware stack first spills its oldest entry. `rs` holds the newest first. -/
def push (p : BitVec 15) (s : State) : State :=
  let c := s.core
  let s1 := if c.rs.length = 32 then spill (rstack s - 32) (c.rs.getLastD 0) s else s
  { s1 with core := { s1.core with rs := (p :: c.rs).take 32, rsdepth := c.rsdepth + 1 } }

/-- R396. CALL: push the return position, branch to target. -/
def execCall (g : Guard) (target : BitVec 15) (s : State) : Res :=
  .next (if guardOn s g then
      orRaise 0 [causeIf (pushFaults s) cRstack (rstack s)]
        (fun s => branchTo .branch (some ⟨target, .plain⟩) (push (returnPos s) s)) s
    else branchTo .branch none s)

/-- R117, R396. The RET would fault RSTACK: nothing to pop, or a refill or direct pop through an unusable area. -/
def popFaults (s : State) : Bool :=
  decide (rstack s = 0) || (decide (s.core.rs.length < rstack s) && !rsUsable s.core)

/-- R117. Pop a position. -/
def pop (s : State) : BitVec 15 × State :=
  let c := s.core
  let n := rstack s
  match c.rs with
  | [] =>
    let r := unspill (n - 1) s
    (r.1, { r.2 with core := { r.2.core with rsdepth := c.rsdepth - 1 } })
  | p :: rest =>
    if c.rs.length < n then
      let r := unspill (n - c.rs.length - 1) s
      (p, { r.2 with core := { r.2.core with rs := rest ++ [r.1], rsdepth := c.rsdepth - 1 } })
    else (p, { s with core := { c with rs := rest, rsdepth := c.rsdepth - 1 } })

/-- R396. RET: pop a position and branch to it. -/
def execRet (g : Guard) (s : State) : Res :=
  .next (if guardOn s g then
      orRaise 0 [causeIf (popFaults s) cRstack (rstack s)]
        (fun s => let r := pop s; branchTo .branch (some ⟨r.1, .plain⟩) r.2) s
    else branchTo .branch none s)

/-! ### Hardware loops (R112, R397) -/

/-- R112. A loop instruction in the delay bundle of another one. -/
def loopInDelay (op : Nat) (s : State) : Option (Nat × Nat) := causeIf (decide (s.core.delay = .loop)) cIllegalOp op

/-- R112, R397. LOOP: OLC − 1 from t + 2 unless it is 0; taken while it stays above 0. -/
def execLoop (target : BitVec 15) (s : State) : Res :=
  .next (orRaise 0 [loopInDelay 0x05 s] (fun s =>
    let olc := if s.core.olc = 0 then 0 else s.core.olc - 1
    let s1 := if s.core.olc = 0 then s else put 2 (.sys 0x012 (olc.setWidth 64)) s
    branchTo .loop (if olc = 0 then none else some ⟨target, .plain⟩) s1) s)

/-- R112, R397. LOOPR: KIX + 1, ROT − 1 and the stage predicates from t + 2; taken while KIX < TRIP + D − 1. -/
def execLoopr (target : BitVec 15) (d : BitVec 3) (s : State) : Res :=
  .next (orRaise 0 [loopInDelay 0x06 s] (fun s =>
    let kix := s.core.kix + 1
    let rot := s.core.rot - 1
    let s1 := putMany 2 ([Effect.sys rawKix (kix.setWidth 64), .sys 0x013 (rot.setWidth 64)]
      ++ (List.range 8).map fun j => .pAll (8 + j) (stageMask s.core.trip kix j)) s
    branchTo .loop (if kix.toNat < s.core.trip.toNat + d.toNat then some ⟨target, .plain⟩ else none) s1) s)

/-! ### BSWAP, IFENCE (R398, R399) -/

/-- R399. BSWAP: a branch into the idle half, which becomes active as the target issues. In a drain no half swaps: the target
lies outside the active half, and its fetch ends the task by fault (R97, R255, log 115). -/
def execBswap (g : Guard) (target : BitVec 15) (s : State) : Res :=
  .next (if guardOn s g then
      orRaise 0 [causeIf (inHalf s.core target.toNat) cIllegalOp 0x07,
          causeIf (preloadHolds s.core (decide (16384 ≤ target.toNat))) cTextWrite target.toNat]
        (fun s => branchTo .branch (some ⟨target, if s.core.phase = .drain then .plain else .swap⟩)
          (spend (2 ^ 17) { s with core := { s.core with swapDraw := s.free } })) s
    else branchTo .branch none s)

/-- R398. IFENCE: every completed write into the idle half and bank is marked. -/
def execIfence (g : Guard) (s : State) : Res :=
  .next (if guardOn s g then
      let c := s.core
      let kept := c.unfetched.filter fun p => activeIs c (textSpot (p.1 - textBase s.coreNo)).1
      { s with core := { c with unfetched := kept } }
    else s)

/-! ### Waits (R401–R405) -/

/-- R103. Freeze from t + 1 until the wait's condition holds. -/
def beginWait (k : WaitKind) (i : Instr) (s : State) : State :=
  { s with core := { s.core with wait := some ⟨k, BitVec.ofNat 40 (encode i)⟩ } }

/-- R153, R154, R410. The completion of a WAITB, or an ACQ, acquires the object at a global physical address: L1 lines of regions
bound to it are discarded. Where the object has been released, the release may cover writes anywhere, of this core too: L1 holds what
the homes hold now, and the core's engines see what it has released itself (log 126). -/
def acquire (ga : Nat) (s : State) : State :=
  let s1 := discardBound ga s
  if !mget false s.relObjs (ga / 16 * 16) then s1
  else
    mapVers (fun _ v => if v.core = s.coreNo ∧ !v.far then { v with bte := false, mu := false } else v)
      { s1 with core := { s1.core with l1 := refreshL1 s1 s1.core.l1 } }

/-- R402. The cycle from which a completion seen in cycle `x` ends the wait: x + 1 in space 0 (bound 0), else a free
cycle from x + 1 to x + B. -/
def seenAt (s : State) (x bound : Nat) : Nat × State :=
  if bound = 0 then (x + 1, s) else (x + 1 + freeBelow s 0 bound, spend 1 s)

/-- R401, R402. WAITB: wait for generation bits [31:0] of S[g] of the barrier at S[a]. -/
def execWaitb (g : Guard) (a gen : SReg) (space : BitVec 2) (s : State) : Res :=
  .next (if guardOn s g then
      let va := (rdS s a).toNat
      let gv := (rdS s gen).setWidth 32
      onBarrier 0 space.toNat false va (fun p s =>
        match localPart s p.ga with
        | none =>
          beginWait (.remoteBarrier s.fab.nextId p.ga false) (.waitb g a gen space)
            (sendRequest 0 0 p.ga (.load 16) (.barrier gv) [] [] s)
        | some l =>
          match badAddr s l 16 with
          | some b => recordErr 0 (.memerr b) (classify b s)
          | none =>
            let b := if space = 0 then 0 else partBound s space.toNat p
            if genComplete s l gv then
              let r := seenAt s s.cyc b
              beginWait (.barrier l gv b (some r.1)) (.waitb g a gen space) r.2
            else beginWait (.barrier l gv b none) (.waitb g a gen space) s) s
    else s)

/-- R401, R403. WAITT: wait until DTn is done. -/
def execWaitt (g : Guard) (t : Tok) (s : State) : Res :=
  .next (if guardOn s g then beginWait (.token t.toNat) (.waitt g t) s else s)

/-- R401, R404. WAITC: wait until CYC − TSTART ≥ S[a] + n. -/
def execWaitc (g : Guard) (a : SReg) (n : BitVec 14) (s : State) : Res :=
  .next (if guardOn s g then
      beginWait (.cycle (s.core.tstart.toNat + (rdS s a).toNat + n.toNat)) (.waitc g a n) s
    else s)

/-- R246. The position that follows the bundle issuing now in text order, where the text has it. -/
def textAfter (s : State) : Option (BitVec 15) := if seqNext s < 32768 then some (BitVec.ofNat 15 (seqNext s)) else none

/-- R406. HOLD: S[a] + n empty bundles from t + 1; 2^32 or more faults OPERAND. -/
def execHold (g : Guard) (a : SReg) (n : BitVec 14) (s : State) : Res :=
  .next (if guardOn s g then
      let k := (rdS s a).toNat + n.toNat
      orRaise 0 [causeIf (decide (2 ^ 32 ≤ k)) cOperand (freeDetail s)] (fun s =>
        let c := { s.core with holding := decide (0 < k), holdPos := textAfter s, nwait := none }
        put 1 (.sys 0x014 (BitVec.ofNat 64 k)) { s with core := c }) s
    else s)

/-! ### Endings and traps (R246, R249, R258, R407) -/

/-- R86, R249, R407. DONE: the task ends with DONE; in handler mode by fault, with the TCAUSE in force. -/
def execDone (g : Guard) (s : State) : Res :=
  .next (if guardOn s g then endTask (if s.core.handler then .fault s.core.tcause else .done) s else s)

/-- R407. TRAP or EBREAK as a delay bundle. -/
def trapInDelay (op : Nat) (s : State) : Option (Nat × Nat) := causeIf (decide (s.core.delay ≠ .none)) cIllegalOp op

/-- R246, R407. TRAP: TRAPI with DETAIL imm14; in handler mode the task ends by fault with the TCAUSE in force. -/
def execTrap (g : Guard) (e : BitVec 14) (s : State) : Res :=
  .next (orRaise 0 [trapInDelay 0x0F s] (fun s =>
    if !guardOn s g then s
    else if s.core.handler then endTask (.fault s.core.tcause) s
    else raise cTrapi 0 e.toNat s) s)

/-- R246, R407. EBREAK: BREAK with DETAIL imm14. -/
def execEbreak (g : Guard) (e : BitVec 14) (s : State) : Res :=
  .next (orRaise 0 [trapInDelay 0x12 s] (fun s => if guardOn s g then raise cBreak 0 e.toNat s else s) s)

/-- R258, R373. A STT's or a SAVEX's bytes have still to show to the core's loads. -/
def stillStoring (s : State) : Bool :=
  (s.slow.any fun x => x.2.any fun v => decide (v.core = s.coreNo) && decide (s.core.icnt < v.due))
    || s.core.laneSlow.any fun x => x.2.any fun v => decide (s.core.icnt < v.1)

/-- R402, R405. A remote access that something still waits for: not a prefetch, nor a look at a barrier whose wait is over. -/
def isAwaited (c : Core) (id : Nat) (d : RDst) : Bool :=
  match d, c.wait with
  | .drop, _ => false
  | .barrier _, some ⟨.remoteBarrier i _ _, _⟩ => decide (i = id)
  | .barrier _, _ => false
  | _, _ => true

/-- R47, R258. Core `g` has a remote access outstanding or held. -/
def accessing (s : State) (g : Nat) : Bool :=
  (s.fab.accs.any fun a => decide (a.core = g) && isAwaited (coreAt s g) a.id a.dst)
    || s.fab.heldReqs.any fun r => decide (r.core = g) && isAwaited (coreAt s g) r.id r.dst

/-- R258. Something the core issued is not finished: a result or a store, a barrier update or a message on its way, a command
or routine that runs, a remote access. -/
def notQuiet (s : State) : Bool :=
  (s.core.pend.any fun p => decide (p.eff ≠ .nothing)) || stillStoring s || decide (s.core.running ≠ [])
    || decide (s.core.rtns ≠ []) || s.core.rescale.isSome || accessing s s.coreNo
    || (s.barq.any fun u => decide (u.core = s.coreNo) && !u.bte) || s.fab.sigs.any fun m => decide (m.core = s.coreNo)

/-- R81, R258. The task moves to the suspension slot with the rest of its budget; the core is free. -/
def suspend (stub : BitVec 15) (s : State) : State :=
  match s.core.task with
  | none => s
  | some t =>
    let left := t.budget.map fun d => d - s.cyc
    { s with core := { s.core with
        phase := .idle, task := none, susp := some ⟨{ t with budget := left }, stub, none, false, []⟩
        wait := none, entering := none, raised := none, reports := [], drainReq := none, memerr := none
        handler := false, pend := [], bte := [], walks := [], holding := false, pausing := false, nwait := none
        resuming := none, rewait := none, swapping := false, redir := none, nextRedir := none, delay := .none, nextDelay := .none } }

/-- R81, R86, R90, R258. What YIELD does in a drain: it suspends the task, or ends it. -/
def yieldEnds (stub : BitVec 15) (s : State) : State :=
  match s.core.drainWhy with
  | .overrun => endTask .overrun s
  | .thermal => endTask .thermal s
  | .late => suspend stub (discardBte s)
  | .pool => if s.core.susp.isSome then endTask (.kill 0x20) s else suspend stub (discardBte s)

/-- R258, R407. YIELD. -/
def execYield (g : Guard) (target : BitVec 15) (s : State) : Res :=
  .next (orRaise 0 [causeIf (decide (s.core.phase ≠ .drain)) cIllegalOp 0x0E] (fun s =>
    if !guardOn s g then s
    else orRaise 0 [causeIf (notQuiet s) cSchedule (freeDetail s),
        causeIf (!inHalf s.core target.toNat) cOperand (freeDetail s)] (yieldEnds target) s) s)

/-! ### SAVEX, RESTX (R256, R257, R408, R409) -/

/-- R256. The save record, 768 bits. -/
def saveRecord (s : State) : Nat :=
  let c := s.core
  c.trip.toNat + c.kix.toNat * 2 ^ 32 + c.olc.toNat * 2 ^ 64 + c.rot.toNat * 2 ^ 96 + c.holdc.toNat * 2 ^ 112
    + c.pausec.toNat * 2 ^ 144 + (if c.waitr then 2 ^ 156 else 0) + c.tepc.toNat * 2 ^ 160 + c.tcause.toNat * 2 ^ 176
    + c.rsd0.toNat * 2 ^ 184 + c.waitop.toNat * 2 ^ 202
    + ((List.range 8).map fun j => (mget 0 c.preg (8 + j)).toNat * 2 ^ (256 + 64 * j)).foldl (fun a b => a + b) 0

/-- ALIGN and PROTECT of a record's offset (R408). -/
def recordCauses (a : Nat) : List (Option (Nat × Nat)) :=
  [causeIf (decide (0x200000 < a + 96)) cProtect a, causeIf (decide (a % 16 ≠ 0)) cAlign a]

/-- R256. SAVEX's spill of the hardware entries would fault RSTACK. -/
def saveFaults (s : State) : Bool :=
  decide (rsLimit s.core < rsBase s.core + 8 * rstack s) || (decide (s.core.rs ≠ []) && !rsUsable s.core)

/-- R256. Every hardware entry goes to the spill area, oldest first, and H becomes 0. -/
def spillAll (s : State) : State :=
  let c := s.core
  let h := c.rs.length
  let s1 := ((c.rs.reverse).mapIdx fun i p => (i, p)).foldl (fun s x => spill (rstack s - h + x.1) x.2 s) s
  { s1 with core := { s1.core with rs := [] } }

/-- R256, R408. SAVEX: the record at S[a] within 8 cycles, the hardware entries to the spill area. The core's loads see the
record from a free cycle of these on (log 116). -/
def execSavex (g : Guard) (a : SReg) (s : State) : Res :=
  .next (if guardOn s g then
      let o := (rdS s a).toNat
      orRaise 0 (recordCauses o ++ [causeIf (saveFaults s) cRstack (rstack s)]) (fun s =>
        match badAddr s (spadBase s.coreNo + o) 96 with
        | some b => recordErr 0 (.memerr b) (classify b s)
        | none =>
          let due := s.core.icnt + 1 + freeBelow s 0 8
          put 8 .nothing (homeWrite (some due) (spadBase s.coreNo + o) (natToBytes 96 (saveRecord s)) (spillAll (spend 1 s)))) s
    else s)

/-- R257. The saved B-slot image is a WAITB, WAITT or WAITC encoding. -/
def isWaitImage (w : Nat) : Bool :=
  match decodeSlot 0 w with
  | some (.waitb _ _ _ _) => true
  | some (.waitt _ _) => true
  | some (.waitc _ _ _) => true
  | _ => false

/-- R257. The record is refused: reserved bits set, RPC outside the active half, WAITR without a wait. -/
def recordBad (c : Core) (r : Nat) : Bool :=
  decide (natBits r 111 102 ≠ 0) || decide (natBits r 159 157 ≠ 0) || decide (natBits r 175 175 ≠ 0)
    || decide (natBits r 255 242 ≠ 0) || !inHalf c (natBits r 174 160)
    || (decide (natBits r 156 156 = 1) && !isWaitImage (natBits r 241 202))

/-- R257, R409. The state that RESTX restores, from t + 2. -/
def restoreEffects (r : Nat) : List Effect :=
  [.sys rawTrip (BitVec.ofNat 64 (natBits r 31 0)), .sys rawKix (BitVec.ofNat 64 (natBits r 63 32)),
   .sys 0x012 (BitVec.ofNat 64 (natBits r 95 64)), .sys 0x013 (BitVec.ofNat 64 (natBits r 101 96)),
   .sys 0x014 (BitVec.ofNat 64 (natBits r 143 112)), .sys 0x015 (BitVec.ofNat 64 (natBits r 155 144)),
   .restx (BitVec.ofNat 18 (natBits r 201 184))]
  ++ (List.range 8).map fun j => .pAll (8 + j) (BitVec.ofNat 64 (natBits r (256 + 64 * j + 63) (256 + 64 * j)))

/-- R257, R409. RESTX: a taken branch to RPC; the record's state from t + 2. -/
def execRestx (g : Guard) (a : SReg) (s : State) : Res :=
  .next (if guardOn s g then
      let o := (rdS s a).toNat
      let l := spadBase s.coreNo + o
      let r := bytesToNat (readHome s l 96)
      orRaise 0 (recordCauses o) (fun s =>
        match badAddr s l 96 with
        | some b => recordErr 0 (.memerr b) (classify b s)
        | none => orRaise 0 [causeIf (recordBad s.core r) cOperand (freeDetail s)] (fun s =>
            let w := if natBits r 156 156 = 1 then some (BitVec.ofNat 40 (natBits r 241 202)) else none
            branchTo .branch (some ⟨BitVec.ofNat 15 (natBits r 174 160), .restx w⟩) (putMany 2 (restoreEffects r) s)) s) s
    else branchTo .branch none s)

/-! ### ACQ, REL, FENCE (R152–R156, R410, R411) -/

/-- R410. The object an ACQ or REL names: its global physical address. -/
def objectOp (a : SReg) (space : BitVec 2) (k : Nat → State → State) (s : State) : State :=
  let va := (rdS s a).toNat
  resolve 0 space.toNat false (alignCauses 16 [(va, 16)]) [(va, 16)] (fun _ => []) (fun ps s =>
    match ps with
    | [] => s
    | p :: _ => k p.ga s) s

/-- R153, R410. ACQ: the core's L1 lines that hold regions bound to the object are discarded. -/
def execAcq (g : Guard) (a : SReg) (space : BitVec 2) (s : State) : Res :=
  .next (if guardOn s g then objectOp a space acquire s else s)

/-- R152. A REL of object `o`: what the core has on its way to the regions bound to `o` in this module is visible from now on, the
rest is so already (log 5, log 126). -/
def releaseObj (o : Nat) (s : State) : State :=
  let s1 := (bindingsOf s o).foldl (fun s b => match localPart s b.base.toNat with
    | some l => ownUpdates l b.size.toNat s
    | none => s) (flushPayload (some o) s)
  noteRelease s.coreNo o s1

/-- R152, R410. REL. -/
def execRel (g : Guard) (a : SReg) (space : BitVec 2) (s : State) : Res :=
  .next (if guardOn s g then objectOp a space releaseObj s else s)

/-- R156. Every store issued before this cycle is seen by the reads of the core's engines that begin after it. -/
def fenceEngines (s : State) : State :=
  let dead := fun (v : Ver) =>
    decide (v.core = s.coreNo) && decide (v.cyc + 1 < s.core.fenceCp) && decide (s.core.fenceCp ≤ s.cyc)
  let s1 := mapVers (fun _ v => if dead v then { v with bte := false, mu := false } else v) s
  { s1 with core := { s1.core with fenceCp := s.cyc + 1 } }

/-- R155. FENCE.s with `s` one of core, cluster, die, module and domain (0 to 4): what the core has on its way in this module is visible
from now on, the rest is so already (log 5, log 126); of cluster or above, its L1 is discarded, and no other core's merge reads older
contents than its stores (R227). -/
def fenceScope (scope : Nat) (s : State) : State :=
  let s1 := ownUpdates 0 (2 ^ 44) (flushPayload none s)
  if scope = 0 then s1
  else mapVers (fun _ v => if v.core = s.coreNo then { v with far := false } else v)
    { s1 with core := { s1.core with l1 := [] } }

/-- R155, R156, R411. FENCE: of a scope, or (`cp`) toward the core's engines. -/
def execFence (g : Guard) (scope : BitVec 3) (s : State) : Res :=
  .next (if guardOn s g then (if scope = 5 then fenceEngines s else fenceScope scope.toNat s) else s)

/-- R287. BNOP: nothing. -/
def execBnop (s : State) : Res := .next s

end Sys2Proof.Machine
end

