-- ==== Sys2Proof/Machine/Ports.lean ====
section
/-! DEFINITION. N slot: SEND, RECV, RECVADD, RECVSQ (R385–R387), PUTSIG (R388), NCOLL (R389) and NWAIT (R286). -/

namespace Sys2Proof.Machine

open Host

/-- R247. The N slot's number. -/
def nSlot : Nat := 7

/-! ### Ports and slots (R385) -/

/-- R385. The timetable in force, for a port that is present and carried by the core's die. -/
def portTable (s : State) (port : Nat) : Option LinkTable :=
  if port < 32 ∧ s.maps.port.getLsbD port ∧ portDie port = myDie s then s.fab.table else none

/-- The first absolute slot from `m` on whose index is `x`; none when the period holds no such index (R44). -/
def slotFrom (t : LinkTable) (m x : Nat) : Option Nat :=
  if x < t.period then some (m + (x + t.period - ltIndex t m) % t.period) else none

/-- R387. The latest absolute slot of a timetable whose index is `x` and that is visible in this cycle (R46). -/
def slotSeen (s : State) (t : LinkTable) (x : Nat) : Option Nat :=
  if t.period ≤ x ∨ s.cyc < 112 ∨ (s.cyc - 112) / 88 < t.slotA then none
  else
    let m := (s.cyc - 112) / 88
    let back := (ltIndex t m + t.period - x) % t.period
    if t.slotA + back ≤ m then some (m - back) else none

/-- R385. Key of a core's cursor for one absolute slot of a port. -/
def cursorKey (port n : Nat) (recv : Bool) : Nat := (n * 32 + port) * 2 + recv.toNat

/-- R385. Flit that the core's next operation on a slot uses, and the advance. -/
def cursorAt (s : State) (key : Nat) : Nat := mget 0 s.core.cursor key
def bumpCursor (key : Nat) (s : State) : State :=
  { s with core := { s.core with cursor := mset 0 s.core.cursor key (cursorAt s key + 1) } }

/-- SCHEDULE of a port operation: its DETAIL is not stated. -/
def portSchedule (s : State) : Nat × Nat := (cSchedule, freeDetail s)

/-- R279. A source vector of the N slot: a row, column or diagonal, class S or an immediate, read as 32-bit elements. -/
def nSrcBad (k : Kind) : Bool :=
  match k with
  | .row _ _ => false
  | .col _ _ => false
  | .diag _ _ => false
  | .s _ => false
  | .imm _ => false
  | _ => true

/-- The 256 bytes of a source vector. -/
def nSrcBytes (s : State) (k : Kind) : List Byte := (List.range 64).flatMap fun l => natToBytes 4 (srcVal s 4 k l)

/-! ### SEND (R386) -/

/-- R386. The SEND entry of slot index `x` on a port for core `g`. -/
def sendEntryOf (t : LinkTable) (port x g : Nat) : Option (BitVec 128) :=
  t.live.find? fun e =>
    decide (ltKind e = kSend) && decide (ltPort e = port) && decide (ltSlot e = x) && decide (ltSrc e = g)

/-- R44, R386. The first absolute slot of index `x` that begins 16 cycles from now or later, with the timetable it belongs to: the one
in force or an armed one that has begun by then. -/
def nextSlot (s : State) (x : Nat) : Option (LinkTable × Nat) :=
  (armedTables s).findSome? fun t =>
    (slotFrom t.1 (Nat.max (ceilDiv (s.cyc + 16) 88) t.1.slotA) x).bind fun n =>
      match t.2 with
      | none => some (t.1, n)
      | some e => if n < e then some (t.1, n) else none

/-- R386. The timetable, the slot and the flit that a SEND uses; none where it faults SCHEDULE. -/
def sendPlace (s : State) (port x : Nat) : Option (LinkTable × Nat × Nat) :=
  if (portTable s port).isNone then none
  else (nextSlot s x).bind fun p => (sendEntryOf p.1 port x s.coreNo).bind fun e =>
    let k := cursorAt s (cursorKey port p.2 false)
    if k < ltFlits e then some (p.1, p.2, k) else none

/-- R385, R386. SEND. -/
def execSend (port : BitVec 5) (v : BitVec 13) (x : BitVec 15) (s : State) : Res :=
  let k := kindOf v
  let pl := sendPlace s port.toNat x.toNat
  .next (checked' nSlot ((if pl.isNone then [portSchedule s] else []) ++ vecCause (nSrcBad k) v) (fun s =>
    match pl with
    | none => s
    | some (t, n, i) =>
      bumpCursor (cursorKey port.toNat n false)
        { s with fab := { s.fab with sends := s.fab.sends ++ [⟨port.toNat, n, i, t.slotA, nSrcBytes s k⟩] } }) s)

/-! ### RECV, RECVADD, RECVSQ (R387) -/

/-- R387. The slot, the flit number and the flit that a receive reads; none where it faults SCHEDULE. -/
def recvPlace (s : State) (port x : Nat) : Option (Nat × FlitStatus × List Byte) :=
  match portTable s port with
  | none => none
  | some t =>
    match slotSeen s t x with
    | none => none
    | some n =>
      match s.fab.rx.find? fun r => decide (r.port = port) && decide (r.slot = n) with
      | none => none
      | some r =>
        let k := cursorAt s (cursorKey port n true)
        (r.flits.find? fun f => decide (f.idx = k)).map fun f => (n, f.status, f.data)

/-- R385, R387. A receive: `f` gives the element and the flags of a lane from its old value and the flit's. -/
def recvWith (lat : Nat) (f : Nat → Nat → Nat × Flags) (port : BitVec 5) (v : BitVec 13) (x : BitVec 15) (s : State) :
    State :=
  let k := kindOf v
  let pl := recvPlace s port.toNat x.toNat
  checked' nSlot ((if pl.isNone then [portSchedule s] else []) ++ vecCause (!k.isVec) v) (fun s =>
    match pl with
    | none => s
    | some (n, st, bs) =>
      let s1 := bumpCursor (cursorKey port.toNat n true) s
      -- R52: the address of this MEMERR is not stated
      if st ≠ .ok then spend 1 (recordErr nSlot (.memerr (freeDetail s)) s1)
      else
        putMany lat ((List.range 64).flatMap fun l =>
          let y := f (elAt s k l) (bytesToNat ((bs.drop (4 * l)).take 4))
          let w := Effect.t (elKey s.core k l) (BitVec.ofNat 32 y.1)
          if y.2 == 0 then [w] else [w, .lflg l y.2]) s1) s

/-- R387. RECV. -/
def execRecv (port : BitVec 5) (v : BitVec 13) (x : BitVec 15) (s : State) : Res :=
  .next (recvWith 6 (fun _ y => (y, 0)) port v x s)
/-- R387. RECVADD. -/
def execRecvadd (port : BitVec 5) (v : BitVec 13) (x : BitVec 15) (s : State) : Res :=
  .next (recvWith 8 fadd32 port v x s)
/-- R387. RECVSQ. -/
def execRecvsq (port : BitVec 5) (v : BitVec 13) (x : BitVec 15) (s : State) : Res :=
  .next (recvWith 8 (fun d y => fma32 y y d) port v x s)

/-! ### PUTSIG (R48, R68, R388) -/

/-- R68. The channel is granted to the task. -/
def granted (s : State) (c : Nat) : Bool :=
  let w0 := mget 0 s.sigcap (2 * c)
  (mget 0 s.sigcap (2 * c + 1)).getLsbD 0
    && (((s.core.taskId ^^^ w0.setWidth 32) &&& (w0 >>> 32).setWidth 32) == 0)

/-- R388. A signal descriptor. -/
structure SigDesc where
  paddr : Nat
  plen : Nat
  isFlag : Bool
  res : Bool
  saddr : Nat
  flag : Word64
  deriving DecidableEq, Repr

def sigDescOf (x : Nat) : SigDesc where
  paddr := natBits x 63 0
  plen := natBits x 72 64
  isFlag := x.testBit 73
  res := decide (natBits x 127 74 ≠ 0)
  saddr := natBits x 191 128
  flag := BitVec.ofNat 64 (natBits x 255 192)

/-- R388, R422. The SIG entries of a channel that lead toward module `m` and reserve two flits. -/
def sigEntries (s : State) (t : LinkTable) (c m : Nat) : List (BitVec 128) :=
  t.live.filter fun e =>
    decide (ltKind e = kSig) && decide (ltSrc e = c) && decide (ltDst e = m) && decide (2 ≤ ltFlits e)
      && leadsTo s (ltPort e) m && decide (ltSlot e < t.period)

/-- R388, R422. The timetable whose SIG entry carries a message that channel `c` issues now to module `m`. -/
def sigTable (s : State) (c m : Nat) : Option LinkTable :=
  firstTable s (ceilDiv (s.cyc + 16) 88) fun t => sigEntries s t c m

/-- R388. Messages a channel has in flight. -/
def inFlight (s : State) (c : Nat) : Nat := (s.fab.sigs.filter fun m => decide (m.chan = c)).length

/-- R388. The causes that show as the places of the payload and of the signal become known: TEXT_WRITE, SCHEDULE, PROTECT (R159),
OPERAND (modules that differ; R151). -/
def sigCauses (s : State) (c : Nat) (d : SigDesc) (pay : List Part) (sg : Option Part) : List (Nat × Nat) :=
  let ms := ((pay ++ sg.toList).map fun p => p.ga / 2 ^ 44).eraseDups
  let other := fun (p : Part) => (localPart s p.ga).isSome && (if d.isFlag then boundBarrier s p.ga else boundLock s p.ga)
  (pay.filterMap fun p => (localPart s p.ga).bind fun l => textRefused s l p.n).map (fun x => (cTextWrite, x))
    ++ (if ms.any fun m => decide (m ≠ s.fab.id.toNat) && (sigTable s c m).isNone then [portSchedule s] else [])
    ++ (sg.toList.flatMap (barrierPlace 3 d.saddr))
    ++ (if 1 < ms.length ∨ sg.any other then [(cOperand, freeDetail s)] else [])

/-- R388. The places known of a message whose signal is translated last, at `saddr`, of `n` addresses: payload and signal. -/
def sigParts (s : State) (n saddr : Nat) (ps : List Part) : List Part × Option Part :=
  let sg := ps.getLast?.filter fun p => decide (ps.length = n) || (match tuFind s .core (myDie s) saddr with
    | some e => decide (p.ga = e.pa + (saddr - e.va))
    | none => false)
  (if sg.isSome then ps.dropLast else ps, sg)

/-- R152, R160, R164, R388. Hand a message over: to this module, its payload pieces and its signal with their cycles, an arrival
standing among the core's updates from now on; to another, the message waits for its slot. -/
def launchSig (c : Nat) (d : SigDesc) (bytes : List Byte) (pay : List Part) (sg : Part) (s : State) : State :=
  let dest := sg.ga / 2 ^ 44
  let here := decide (dest = s.fab.id.toNat)
  let runs := atHome (withBytes pay bytes)
  let bp := partsBound s 3 pay
  let bs := partBound s 3 sg
  let units := groupUnits runs
  let pieces := units.mapIdx fun i u => (s.cyc + 1 + freeBelow s (i + 1) bp, u)
  let payEnd := pieces.foldl (fun m x => Nat.max m x.1) (s.cyc + 1)
  let waits := waitsFor true sg.ga s
  let msg : SigMsg := {
    chan := c, id := s.fab.nextId, core := s.coreNo, dest := dest, sigAddr := sg.ga % 2 ^ 44
    flag := if d.isFlag then some d.flag else none
    pay := runs, earliest := s.cyc + 16, sent := false
    tab := ((sigTable s c dest).map LinkTable.slotA).getD 0, oks := 0, local_ := here
    pieces := if here then pieces else [], waits := waits
    sigAt := payEnd + freeBelow s 0 (s.cyc + bp + bs - payEnd + 1) }
  let s1 := spend (units.length + 1) { s with fab := { s.fab with nextId := s.fab.nextId + 1, sigs := s.fab.sigs ++ [msg] } }
  if here && !d.isFlag then
    postUpdateOf { BarrierUpd.plain s s.coreNo false msg.sigAddr 0 1 with sig := some msg.id, waits := waits } s1
  else s1

/-- R48, R388. PUTSIG. -/
def execPutsig (chan : BitVec 3) (v : BitVec 13) (q : SReg) (s : State) : Res :=
  let o := (rdS s q).toNat
  let c := chan.toNat
  let k := kindOf v
  let first := (if granted s c then [] else [(cPriv, c)]) ++ vecCause (nSrcBad k) v
    ++ (if 4 ≤ inFlight s c then [portSchedule s] else [])
  if 0x200000 < o + 32 ∨ o % 16 ≠ 0 then
    .next (checked' nSlot (first
      ++ (if 0x200000 < o + 32 then [(cProtect, o)] else []) ++ (if o % 16 ≠ 0 then [(cAlign, o)] else [])) id s)
  else
    let l := spadBase s.coreNo + o
    match badAddr s l 32 with
    | some b => .next (checked' nSlot first (fun s => recordErr nSlot (.memerr b) (classify b s)) s)
    | none =>
      let d := sigDescOf (bytesToNat (readHome s l 32))
      let badLen := decide (256 < d.plen) || decide (d.plen % 16 ≠ 0)
      let n := if d.isFlag then 8 else 16
      let vas := (if badLen then [] else (List.range (d.plen / 16)).map fun i => (wrap64 ((d.paddr + 16 * i : Nat) : Int), 16))
        ++ [(d.saddr, n)]
      let causes := first ++ (if badLen || d.res then [(cOperand, freeDetail s)] else [])
        ++ (if d.plen ≠ 0 then alignCauses 16 [(d.paddr, 16)] else []) ++ alignCauses n [(d.saddr, n)]
      let more := fun (ps : List Part) => let x := sigParts s vas.length d.saddr ps; sigCauses s c d x.1 x.2
      .next (resolve nSlot 3 true causes vas more (fun ps s =>
        match ps.getLast? with
        | none => s
        | some sg => launchSig c d ((nSrcBytes s k).take d.plen) ps.dropLast sg s) s)

/-! ### NCOLL (R389) -/

/-- R389. NCOLL. -/
def execNcoll (q : SReg) (produce : Tok) (s : State) : Res :=
  let o := (rdS s q).toNat
  let held := (s.colls.filter fun c => decide (c.die = myDie s)).length
  .next (checked' nSlot ((if 4 ≤ held ∨ rdTok s produce = .pending then [portSchedule s] else [])
      ++ (if 0x200000 < o + 64 then [(cProtect, o)] else []) ++ (if o % 16 ≠ 0 then [(cAlign, o)] else [])) (fun s =>
    let l := spadBase s.coreNo + o
    match badAddr s l 64 with
    | some b => recordErr nSlot (.memerr b) (classify b s)
    | none =>
      let c : Coll := {
        die := myDie s, core := s.coreNo, id := s.fab.nextId
        words := (List.range 8).map fun i => BitVec.ofNat 64 (bytesToNat (readHome s (l + 8 * i) 8))
        produce := produce, earliest := s.cyc + 64, start := none, data := [], dst := [], norm := none
        left := 0, lastEnd := 0, awaiting := 0, ok := true, heard := [], cut := false }
      produceTok produce { s with
        colls := s.colls ++ [c], fab := { s.fab with nextId := s.fab.nextId + 1 } }) s)

/-! ### NWAIT (R286) -/

/-- R286. NWAIT: empty bundles until the next slot of index `x` begins, counted in HOLDC. -/
def execNwait (x : BitVec 15) (s : State) : Res :=
  let n := s.fab.table.bind fun t => slotFrom t (s.cyc / 88 + 1) x.toNat
  .next (checked' nSlot (if n.isNone then [portSchedule s] else []) (fun s =>
    match n with
    | none => s
    | some n =>
      let k := 88 * n - s.cyc - 1
      let c := { s.core with holding := decide (0 < k), holdPos := textAfter s, nwait := some n }
      put 1 (.sys 0x014 (BitVec.ofNat 64 k)) { s with core := c }) s)

/-- R286. NNOP: nothing. -/
def execNnop (s : State) : Res := .next s

end Sys2Proof.Machine
end

