-- ==== Sys2Proof/Machine/Link.lean ====
section
/-! DEFINITION. The fabric's events (R31–R53, R425): slots sent and received, flits, replays, forwarding, remote accesses, link
timetables, groups, flit injection (R69), signals (R48) and collectives (R389–R392). -/

namespace Sys2Proof.Machine

open Host

/-! ### Counters and writes from outside a core -/

/-- R53. A port counter advances; it saturates. 0 PCOR, 1 PUNC, 2 PTRANS, 3 PLAST, 4 PSKEW. -/
def bumpPort (port i : Nat) (s : State) : State :=
  let v := mget 0 s.fab.ctr (8 * port + i)
  { s with fab := { s.fab with ctr := mset 0 s.fab.ctr (8 * port + i) (if v = BitVec.allOnes 32 then v else v + 1) } }

/-- A write at a local physical address, inside one sector or one coded block, by an agent that is no core of this module;
false: nothing is written (R17, R96, R252). -/
def homeUnit (w : Nat × List Byte) (s : State) : Bool × State := agentUnit false 0 [w] s

/-- Give the local parts of a range their bytes. -/
def placeBytes : List (Nat × Nat) → List Byte → List (Nat × List Byte)
  | [], _ => []
  | p :: ps, bs => (p.1, bs.take p.2) :: placeBytes ps (bs.drop p.2)

/-- Write runs of bytes; true when every unit was written. -/
def homeRuns (runs : List (Nat × List Byte)) (s : State) : Bool × State :=
  (groupUnits runs).foldl (fun st u =>
    let r := agentUnit false 0 u st.2
    (st.1 && r.1, r.2)) (true, s)

/-- A read at a local physical address by such an agent: success and the bytes. -/
def homeRead (a n : Nat) (s : State) : Bool × List Byte × State :=
  match devRead 0 a n s with
  | .error (_, s1) => (false, [], s1)
  | .ok (bs, s1) => (true, bs, s1)

/-! ### Reports (R41, R51, R52) -/

/-- R51. Ronilor fences a port: its PORT_MAP bit clears, and the fault log gets an entry of kind 8 (R67). -/
def fencePort (p : Nat) (s : State) : State :=
  let s1 := fenceUnit (.port p) s
  faultLog 8 (portDie p) 0x1FF 0 0 0xFFFF 0 p 0 s1

/-- R52, R425. A flit is finally ok or finally failed, its report usable from cycle `use_`. -/
def finalFlit (x : SentFlit) (ok : Bool) (use_ : Nat) (s : State) : State :=
  let s1 := match x.core with
    | some g => modCore g (fun c => { c with running := c.running.map fun r =>
        if r.cmd.seq = x.seq ∧ r.remote then
          { r with awaiting := r.awaiting - 1, ok := r.ok && ok, finish := Nat.max r.finish use_ }
        else r }) s
    | none => s
  let s2 := match x.msg with
    | some m =>
      let upd := fun (q : SigMsg) => if q.id = m then { q with oks := q.oks + 1 } else q
      let left := fun (q : SigMsg) => !(decide (q.id = m) && (!ok || decide (q.oks = 2)))
      { s1 with fab := { s1.fab with sigs := (if ok then s1.fab.sigs.map upd else s1.fab.sigs).filter left } }
    | none => s1
  match x.die with
  | some _ => { s2 with colls := s2.colls.map fun c =>
      if c.id = x.seq then { c with awaiting := c.awaiting - 1, ok := c.ok && ok } else c }
  | none => s2

/-- R51. What the reports of a sent flit come to, in the header of slot `m`: a replay where the flit is uncorrectable for
the first time and its entry names a replay slot still to come; else it is final. One that this module forwarded marked bad is never
sent again. A lasting failure of the port's own hop fences the port. -/
def settle (m : Nat) (x : SentFlit) (s : State) : State :=
  let use_ := 88 * m + 24
  let pass := match x.via, x.bad with
    | some v, some st => { s with fab := { s.fab with relay := s.fab.relay ++ [(v.1, v.2.1, v.2.2, st)] } }
    | _, _ => s
  match x.bad with
  | none => finalFlit x true use_ pass
  | some .unc =>
    if x.flit.marked then finalFlit x false use_ pass
    else match x.replayAt with
      | some r =>
        if x.flit.replay ∨ r ≤ m then finalFlit x false use_ pass
        else { pass with fab := { pass.fab with replays := pass.fab.replays ++ [(r, x)] } }
      | none => finalFlit x false use_ (if x.flit.replay && x.near then fencePort x.flit.port pass else pass)
  | some _ => finalFlit x false use_ pass

/-! ### SLOT_SEND (R40, R41, R44, R45, R422) -/

/-- R32, R33, R51. Hops from this module to `m` by way of a port. -/
def hopsTo (s : State) (port m : Nat) : Nat :=
  let me := s.fab.id.toNat
  let n := 2 ^ s.fab.d.toNat
  Nat.max 1 (if port < 24 then (diffDims me m).length
    else if port < 28 then (m + n - me) % n
    else (me + n - m) % n)

/-- R50. A flit of entry `e` in slot `n`, stamped with its group's generation. -/
def flitOf (s : State) (n : Nat) (e : BitVec 128) (i : Nat) (body : FlitBody) : Flit where
  port := ltPort e
  slot := n
  idx := i
  src := s.fab.id.toNat
  sport := ltPort e
  orig := n
  oidx := i
  dst := ltDst e
  group := BitVec.ofNat 10 (ltGroup e)
  gen := mget 0 s.fab.groupGen (ltGroup e)
  body := body
  fec := false
  bad := false
  marked := false
  replay := false

/-- R51. The record of a sent flit. Its replay slot is the first one of index RPSLOT after its own (log 101). -/
def sentOf (s : State) (t : LinkTable) (e : BitVec 128) (f : Flit) : SentFlit where
  flit := f
  core := none
  seq := 0
  replayAt := if ltRpv e then some (f.slot + (ltRpslot e + t.period - ltSlot e) % t.period) else none
  msg := none
  die := none
  hops := hopsTo s (ltPort e) (ltDst e)
  bad := none
  near := false
  via := none

/-- A flit leaves. -/
def emit (x : SentFlit) (s : State) : State :=
  { s with outbox := s.outbox ++ [.flit x.flit], fab := { s.fab with sent := s.fab.sent ++ [x] } }

/-- Numbered items. -/
def numbered {α : Type} (l : List α) : List (Nat × α) := l.mapIdx fun i x => (i, x)

/-- R386. A SEND entry: every reserved flit, the unfilled ones zeros. -/
def sendSend (t : LinkTable) (n : Nat) (e : BitVec 128) (s : State) : State :=
  let mine := fun (q : SendFlit) => decide (q.port = ltPort e) && decide (q.slot = n)
  let s1 := (List.range (ltFlits e)).foldl (fun s i =>
    let data := ((s.fab.sends.find? fun q => mine q && decide (q.idx = i)).map SendFlit.data).getD (List.replicate 256 0)
    emit (sentOf s t e (flitOf s n e i (.send data))) s) s
  { s1 with fab := { s1.fab with sends := s1.fab.sends.filter fun q => !mine q } }

/-- R45, R422. The command whose flits a COPY entry carries: the core's first with flits unsent. -/
def copyFor (s : State) (t : LinkTable) (e : BitVec 128) : Option Running :=
  match (coreAt s (ltSrc e)).running.find? fun r => r.remote && decide (r.unsent ≠ []) with
  | some r =>
    let walking := (coreAt s (ltSrc e)).walks.any fun w => decide (w.owner = .bte r.cmd.seq)
    if r.dest = ltDst e ∧ r.tab = t.slotA ∧ leadsTo s (ltPort e) r.dest ∧ !walking then some r else none
  | none => none

/-- R45, R422. A COPY entry: the command's next flits, up to FLITS + 1. -/
def sendCopy (t : LinkTable) (n : Nat) (e : BitVec 128) (s : State) : State :=
  match copyFor s t e with
  | none => s
  | some r =>
    let go := r.unsent.take (ltFlits e)
    let s1 := (numbered go).foldl (fun s x =>
      emit { sentOf s t e (flitOf s n e x.1 (.copy x.2 r.tags)) with core := some (ltSrc e), seq := r.cmd.seq } s) s
    modCore (ltSrc e) (fun c => { c with running := c.running.map fun q =>
      if q.cmd.seq = r.cmd.seq then
        { q with unsent := q.unsent.drop (ltFlits e), awaiting := q.awaiting + go.length }
      else q }) s1

/-- R48, R152, R388, R422. A SIG entry: the channel's first message that may use this slot, payload then signal. One whose slot has not
come, that goes elsewhere, or that a release holds back, keeps no other waiting. -/
def sendSig (t : LinkTable) (n : Nat) (e : BitVec 128) (s : State) : State :=
  let may := fun (m : SigMsg) => !m.local_ && !m.sent && decide (m.chan = ltSrc e) && decide (m.dest = ltDst e)
    && decide (m.tab = t.slotA) && decide (2 ≤ ltFlits e) && decide (m.earliest ≤ 88 * n) && leadsTo s (ltPort e) m.dest
    && !(m.waits.any (outstanding s))
  match s.fab.sigs.find? may with
  | none => s
  | some m =>
    let put1 := fun (i : Nat) (b : FlitBody) (s : State) =>
      emit { sentOf s t e (flitOf s n e i b) with msg := some m.id } s
    let s1 := put1 1 (.signal m.sigAddr m.flag) (put1 0 (.sigPayload m.pay) s)
    { s1 with fab := { s1.fab with sigs := s1.fab.sigs.map fun q => if q.id = m.id then { q with sent := true } else q } }

/-- The 256 bytes of a flit whose contents the specification leaves open, from the `k`-th draw on. -/
def freePayload (s : State) (k : Nat) : List Byte :=
  (List.range 32).flatMap fun i => natToBytes 8 (Config.free (s.free + k + i)).toNat

/-- R389. A COLL entry: the die's collective that is running sends its next flits; the first carries its fields. What else
the flits hold is not stated (log 102). -/
def sendColl (t : LinkTable) (n : Nat) (e : BitVec 128) (s : State) : State :=
  match s.colls.find? fun c => decide (c.die = ltSrc e) && c.start.isSome && decide (c.left ≠ 0) with
  | none => s
  | some c =>
    let k := Nat.min c.left (ltFlits e)
    let s1 := (List.range k).foldl (fun s i =>
      let first := decide (c.awaiting = 0) && decide (c.lastEnd = 0) && decide (i = 0)
      let fields := if first then some c.words else none
      spend 32 (emit { sentOf s t e (flitOf s n e i (.coll fields (freePayload s 0))) with die := some c.die, seq := c.id } s)) s
    { s1 with colls := s1.colls.map fun q =>
        if q.id = c.id then
          { q with left := q.left - k, lastEnd := 88 * (n + 1), awaiting := q.awaiting + k }
        else q }

/-- R45. The latest slot before `n` of index `x` under a timetable. -/
def slotBefore (t : LinkTable) (n x : Nat) : Option Nat :=
  if n ≤ t.slotA then none
  else
    let back := (ltIndex t (n - 1) + t.period - x) % t.period
    if x < t.period ∧ t.slotA + back ≤ n - 1 then some (n - 1 - back) else none

/-- R45. A FWD entry: the flits that arrived on INPORT in the latest slot of index INSLOT, as many as it reserves, the others
not at all (log 103). They stay held for other entries that name the same slot. -/
def sendFwd (t : LinkTable) (n : Nat) (e : BitVec 128) (s : State) : State :=
  match slotBefore t n (ltInslot e) with
  | none => s
  | some m =>
    let go := (s.fab.held.filter fun f => decide (f.port = ltInport e) && decide (f.slot = m)).take (ltFlits e)
    (numbered go).foldl (fun s x =>
      let y := x.2
      let f := { flitOf s n e x.1 y.body with
        src := y.src, sport := y.sport, orig := y.orig, oidx := y.oidx, dst := y.dst, marked := y.marked, replay := y.replay }
      emit { sentOf s t e f with via := some (y.port, y.slot, y.idx) } s) s

/-- R45. A flit is held for as long as the latest slot of its index is the one it arrived in. -/
def dropHeld (t : LinkTable) (n : Nat) (s : State) : State :=
  { s with fab := { s.fab with held := s.fab.held.filter fun f => decide (n ≤ f.slot + t.period) } }

/-- R47, R425. A SERV entry: the responses queued at the port for it, then the requests (log 104). -/
def sendServ (t : LinkTable) (n : Nat) (e : BitVec 128) (s : State) : State :=
  let mine := fun (m : ServMsg) => decide (m.port = ltPort e) && decide (m.tab = t.slotA)
  let rs := (s.fab.respq.filter mine).take (ltFlits e)
  let qs := (s.fab.reqq.filter mine).take (ltFlits e - rs.length)
  let s1 := { s with fab := { s.fab with
    respq := s.fab.respq.filter fun m => !(rs.any fun x => decide (x = m))
    reqq := s.fab.reqq.filter fun m => !(qs.any fun x => decide (x = m)) } }
  (numbered (rs ++ qs)).foldl (fun s x =>
    emit { sentOf s t e { flitOf s n e x.1 x.2.body with dst := x.2.dst } with hops := 1 } s) s1

/-- R51. A REPLAY entry: the failed flits whose replay slot this is, in their original order, from position 0 on (log 105);
what does not fit is finally uncorrectable. -/
def sendReplay (t : LinkTable) (n : Nat) (e : BitVec 128) (s : State) : State :=
  let mine := fun (x : Nat × SentFlit) => decide (x.1 = n) && decide (x.2.flit.port = ltPort e)
  let all := (s.fab.replays.filter mine).map Prod.snd
  let s1 := { s with fab := { s.fab with replays := s.fab.replays.filter fun x => !mine x } }
  let s2 := (numbered (all.take (ltFlits e))).foldl (fun s x =>
    let y := x.2
    let f := { y.flit with slot := n, idx := x.1, replay := true, gen := mget 0 s.fab.groupGen y.flit.group.toNat }
    emit { sentOf s t e f with
      core := y.core, seq := y.seq, msg := y.msg, die := y.die, hops := y.hops, via := y.via, replayAt := none } s) s1
  (all.drop (ltFlits e)).foldl (fun s x => finalFlit x false (88 * n) s) s2

/-- R45. What one entry sends. -/
def sendEntry (t : LinkTable) (n : Nat) (e : BitVec 128) (s : State) : State :=
  let k := ltKind e
  if !s.maps.port.getLsbD (ltPort e) then s
  else if k = kSend then sendSend t n e s
  else if k = kCopy then sendCopy t n e s
  else if k = kColl then sendColl t n e s
  else if k = kFwd then sendFwd t n e s
  else if k = kServ then sendServ t n e s
  else if k = kSig then sendSig t n e s
  else sendReplay t n e s

/-- R35, R41. The header of a port: the PTP fields, stamped at the start of the slot; the slot number; the statuses of reverse
slot n − 2 and reports passed on; link-management state, which is not stated (log 106). -/
def sendHeader (n port : Nat) (s : State) : State :=
  let st := (List.range 32).map fun i =>
    ((s.fab.rxStat.find? fun x => decide (x.1 = port) && decide (x.2.1 + 2 = n) && decide (x.2.2.1 = i)).map
      fun x => x.2.2.2).getD .ok
  let late := (s.fab.relay.filter fun x => decide (x.1 = port)).map Prod.snd
  spend 1 { s with
    outbox := s.outbox ++ [.header port n ⟨s.boot.domain, 88 * n⟩ (Config.free s.free) st late]
    fab := { s.fab with
      rxStat := s.fab.rxStat.filter fun x => !(decide (x.1 = port) && decide (x.2.1 + 2 ≤ n))
      relay := s.fab.relay.filter fun x => !decide (x.1 = port) } }

/-- R69. Slot `n` begins: ARM of the injection of the slot before is cleared; the flits of the slot before that have all
arrived, and one whose flit was not among them sets MISS (log 53). The injection armed for slot `n` comes into force. -/
def turnInjection (n : Nat) (s : State) : State :=
  let f := s.finj
  let ended := f.live.any fun x => x.own && decide (x.slot < n)
  let missed := f.live.any fun x => x.own && !x.hit && decide (x.slot + 1 < n)
  let w := f.word0 &&& (if ended then ~~~ (1#64 <<< 31) else BitVec.allOnes 64) ||| (if missed then 1#64 <<< 32 else 0#64)
  let keep := f.live.filter fun x => decide (n ≤ x.slot + 1)
  let new := if w.getLsbD 31 ∧ f.word1.toNat = n then
      [⟨natBits w.toNat 4 0, natBits w.toNat 9 5, n, false, true⟩]
    else []
  { s with finj := { f with word0 := w, live := keep ++ new } }

/-- The armed timetable of an arming slot. -/
def tableAt (s : State) (a : Nat) : Option LinkTable := ((armedTables s).map Prod.fst).find? fun t => decide (t.slotA = a)

/-- R45. A remote command none of whose entries is left (a fenced port, an arming replaced) fails what it has not sent. -/
def failStranded (g : Nat) (s : State) : State :=
  match (coreAt s g).running.find? fun r => r.remote && decide (r.unsent ≠ []) with
  | none => s
  | some r =>
    let has := match tableAt s r.tab with
      | none => false
      | some t => copyEntries s t g r.dest ≠ []
    if has then s
    else modCore g (fun c => { c with running := c.running.map fun q =>
      if q.cmd.seq = r.cmd.seq then { q with unsent := [], ok := false } else q }) s

/-- R388. A message none of whose entries is left fails finally. -/
def dropStrandedSigs (s : State) : State :=
  let keep := fun (m : SigMsg) => m.local_ || m.sent || ((tableAt s m.tab).map fun t =>
    decide (sigEntries s t m.chan m.dest ≠ [])).getD false
  { s with fab := { s.fab with sigs := s.fab.sigs.filter keep } }

/-- A slot begins in this cycle and has not been sent; with no port and no injection nothing would happen. -/
def slotDue (s : State) : Bool :=
  decide (s.cyc % 88 = 0) && decide (s.fab.sentThrough ≤ s.cyc / 88)
    && (decide (s.maps.port ≠ 0) || s.finj.word0.getLsbD 31 || !s.finj.live.isEmpty)

/-- R40, R45. SLOT_SEND: every port's header, and the flits of the slot's entries in port order. -/
def execSlotSend (s : State) : Res :=
  if !slotDue s then notEnabled "SLOT_SEND"
  else
    let n := s.cyc / 88
    let s1 := turnInjection n s
    let s2 := ((List.range 32).filter fun p => s1.maps.port.getLsbD p).foldl (fun s p => sendHeader n p s) s1
    let s3 := match s2.fab.table with
      | none => s2
      | some t =>
        if n < t.slotA then s2
        else dropHeld t n
          ((t.live.filter fun e => decide (ltSlot e = ltIndex t n)).foldl (fun s e => sendEntry t n e s) s2)
    .next (dropStrandedSigs
      ((liveCores s3).foldl (fun s g => failStranded g s) { s3 with fab := { s3.fab with sentThrough := n + 1 } }))

/-! ### SLOT_HEADER_RECEIVE, FLIT_RECEIVE (R39, R41, R42, R46, R50, R51) -/

/-- R387. The port's record of a slot that has reached it; the last four are kept. -/
def noteSlot (port n : Nat) (s : State) : State :=
  if s.fab.rx.any fun r => decide (r.port = port) && decide (r.slot = n) then s
  else
    let mine := (s.fab.rx.filter fun r => decide (r.port = port)) ++ [⟨port, n, []⟩]
    let newer := fun (r : RxSlot) => (mine.filter fun q => decide (r.slot < q.slot)).length
    { s with fab := { s.fab with
      rx := (s.fab.rx.filter fun r => !decide (r.port = port)) ++ mine.filter fun r => decide (newer r < 4) } }

/-- R387. A SEND flit and its status, kept with the slot it arrives in; a resent one replaces the flit it was first sent as. -/
def keepSend (f : Flit) (st : FlitStatus) (data : List Byte) (s : State) : State :=
  let x : RxFlit := ⟨f.idx, f.src, f.sport, f.orig, f.oidx, st, data⟩
  let same := fun (q : RxFlit) =>
    decide (q.src = f.src) && decide (q.sport = f.sport) && decide (q.orig = f.orig) && decide (q.oidx = f.oidx)
  { s with fab := { s.fab with rx := s.fab.rx.map fun r =>
      if r.port ≠ f.port then r
      else if f.replay then
        { r with flits := r.flits.map fun q => if same q then { q with status := st, data := data } else q }
      else if r.slot = f.slot then { r with flits := r.flits.filter (fun q => q.idx ≠ f.idx) ++ [x] }
      else r } }

/-- R35, R37. The offset estimate of a header of the parent port, for PTP messages of the module's domain. -/
def noteOffset (port : Nat) (ptp : PtpReading) (s : State) : State :=
  let offs := ptp.offs
  if s.fab.parent = some port ∧ ptp.event.domain = s.boot.domain then
    { s with fab := { s.fab with
      offs := offs
      badOffs := if offs.toInt < -2 ∨ 2 < offs.toInt then s.fab.badOffs + 1 else 0
      backIn := s.fab.hold && (s.fab.backIn || (decide (-1 ≤ offs.toInt) && decide (offs.toInt ≤ 1))) } }
  else s

/-- R39, R41, R51. SLOT_HEADER_RECEIVE: PTP's offset, the skew check, the reports on reverse slot n − 2 and those of further
hops. -/
def execSlotHeaderReceive (port slot : Nat) (skew : Int) (ptp : PtpReading) (status : List FlitStatus)
    (late : List (Nat × Nat × FlitStatus)) (s : State) : Res :=
  if 32 ≤ port ∨ !s.maps.port.getLsbD port then notEnabled "SLOT_HEADER_RECEIVE"
  else
    let s0 := noteSlot port slot (noteOffset port ptp s)
    let s1 := if skew < -3 ∨ 3 < skew then
        let s1 := bumpPort port 4 s0
        { s1 with fab := { s1.fab with
          skewed := (s1.fab.skewed.filter fun k => decide (slot ≤ k / 32 + 8)) ++ [slot * 32 + port] } }
      else s0
    let report := fun (x : SentFlit) =>
      let now := if x.flit.slot + 2 = slot then some (status.getD x.flit.idx .unc) else none
      let far := (late.find? fun l => decide (l.1 = x.flit.slot) && decide (l.2.1 = x.flit.idx)).map fun l => l.2.2
      let fails := fun (st : Option FlitStatus) => st.filter fun y => decide (y ≠ .ok)
      match fails now, fails far with
      | some st, _ => { x with bad := some (x.bad.getD st), near := true }
      | none, some st => { x with bad := some (x.bad.getD st) }
      | none, none => x
    let mine := fun (x : SentFlit) => decide (x.flit.port = port)
    let sent := s1.fab.sent.map fun x => if mine x then report x else x
    let isDone := fun (x : SentFlit) => mine x && decide (x.flit.slot + 1 + x.hops ≤ slot)
    let s2 := { s1 with fab := { s1.fab with sent := sent.filter fun x => !isDone x } }
    .next ((sent.filter isDone).foldl (fun s x => settle slot x s) s2)

/-- R48. Change the record of the message that a flit belongs to, making it first where there is none. -/
def modRxSig (x : Flit) (f : RxSig → RxSig) (s : State) : State :=
  let is := fun (r : RxSig) => decide (r.port = x.port) && decide (r.src = x.src) && decide (r.sport = x.sport)
    && decide (r.orig = x.orig)
  let l := if s.fab.rsigs.any is then s.fab.rsigs else s.fab.rsigs ++ [⟨x.port, x.src, x.sport, x.orig, false, none⟩]
  { s with fab := { s.fab with rsigs := l.map fun r => if is r then f r else r } }

/-- R124. A flit of module `src` has been written, of a command that tags the frames it writes entirely: a frame is tagged when
the last of its flits is. -/
def noteFrames (src : Nat) (runs : List (Nat × List Byte)) (t : FrameTags) (s : State) : State :=
  (t.frames.filter fun f => hitsFrame f.1 runs).foldl (fun s f =>
    let is := fun (x : Nat × Nat × Nat × Nat) =>
      decide (x.1 = src) && decide (x.2.1 = t.cmd) && decide (x.2.2.1 = f.1)
    let n := ((s.fab.rxFrames.find? is).map fun x => x.2.2.2).getD 0 + 1
    let others := s.fab.rxFrames.filter fun x => !is x
    if n = f.2 then tagFrames [f.1] t.tag { s with fab := { s.fab with rxFrames := others } }
    else { s with fab := { s.fab with rxFrames := others ++ [(src, t.cmd, f.1, n)] } }) s

/-- R389. The fields that the participants of a collective must have alike: KIND, FMT, OP, DMASK, SLOT0 and COUNT. -/
def sameFields (a b : List Word64) : Bool :=
  decide (natBits (mpN a 0) 36 0 = natBits (mpN b 0) 36 0) && decide (natBits (mpN a 3) 39 0 = natBits (mpN b 3) 39 0)

/-- R389. The first flit of another participant comes by a port: it belongs to the first collective, of a die that sends by that port,
that has not heard of that module yet (log 129). Fields that differ make it done-error. -/
def hearColl (port src : Nat) (fields : List Word64) (s : State) : State :=
  let dies := match s.fab.table with
    | none => []
    | some t => (t.live.filter fun e => decide (ltKind e = kColl) && decide (ltPort e = port)).map ltSrc
  match s.colls.find? fun c => dies.contains c.die && !c.heard.contains src with
  | none => s
  | some c => { s with colls := s.colls.map fun q =>
      if q.id = c.id then { q with heard := q.heard ++ [src], ok := q.ok && sameFields q.words fields } else q }

/-- R45–R48, R389. An ok flit whose destination this module is. -/
def deliver (f : Flit) (s : State) : State :=
  match f.body with
  | .copy runs tags =>
    let r := homeRuns runs s
    match tags with
    | some t => if r.1 then noteFrames f.src runs t r.2 else r.2
    | none => r.2
  | .sigPayload runs =>
    let r := homeRuns runs s
    if r.1 then modRxSig f (fun x => { x with payOk := true }) r.2 else r.2
  | .signal a v => modRxSig f (fun x => { x with sig := some (a, v) }) s
  | .coll (some ws) _ => hearColl f.port f.src ws s
  | _ => s

/-- R69. The injection in force makes this flit uncorrectable. -/
def injected (s : State) (f : Flit) : Bool :=
  (s.finj.live.any fun x => decide (x.port = f.port) && decide (x.flit = f.idx) && decide (x.slot = f.slot)) && !f.replay

/-- R42, R50, R69. The status of a flit that arrives. -/
def arrivalStatus (s : State) (f : Flit) : FlitStatus :=
  if f.bad || f.marked || injected s f || s.fab.skewed.contains (f.slot * 32 + f.port) then .unc
  else if !mget false s.fab.groupActive f.group.toNat || mget 0 s.fab.groupGen f.group.toNat ≠ f.gen then .stale
  else .ok

/-- R46. A flit of slot `n` arrives while the slot travels, give or take the skew, and is visible by the cycle of R46. -/
def inWindow (s : State) (n : Nat) : Bool := decide (88 * n ≤ s.cyc + 3) && decide (s.cyc ≤ visCyc n)

/-- R45, R46. A flit of slot `n` can take effect in this cycle: here, in the order of the slots (`here`); to be forwarded, by the end of
the slot, from which it is held. -/
def mayArrive (here : Bool) (n : Nat) (s : State) : Bool :=
  inWindow s n && (if here then decide (s.fab.seenSlot ≤ n) else decide (s.cyc ≤ 88 * (n + 1)))

/-- R46. A flit of slot `n` has become visible here. -/
def noteVisible (n : Nat) (s : State) : State := { s with fab := { s.fab with seenSlot := n } }

/-- R42, R50, R51, R69. What the arrival of a flit does to the port's counters, its reports and the injections. A flit that
was forwarded marked bad counts as uncorrectable, and fences no port where it was not found bad (log 107). -/
def noteArrival (f : Flit) (s : State) : State :=
  let st := arrivalStatus s f
  let s1 := noteSlot f.port f.slot (if f.fec then bumpPort f.port 0 s else s)
  let met := fun (x : FinjSlot) =>
    if x.port = f.port ∧ x.flit = f.idx ∧ x.slot = f.slot ∧ !f.replay then { x with hit := true } else x
  let s2 := { s1 with
    finj := { s1.finj with live := s1.finj.live.map met }
    fab := { s1.fab with rxStat := s1.fab.rxStat ++ [(f.port, f.slot, f.idx, st)] } }
  match st with
  | .unc =>
    let s3 := bumpPort f.port 1 s2
    if f.replay && !f.marked then fencePort f.port (bumpPort f.port 3 s3) else s3
  | .stale =>
    { s2 with fab := { s2.fab with
      gstale := if s2.fab.gstale = BitVec.allOnes 32 then s2.fab.gstale else s2.fab.gstale + 1 } }
  | .ok => if f.replay then bumpPort f.port 2 s2 else s2

/-- The flit carries a remote request or response, whose arrival is a step of its own. -/
def isServ (f : Flit) : Bool :=
  match f.body with
  | .request _ _ _ => true
  | .response _ _ _ => true
  | _ => false

/-- R42, R45, R46, R50, R51. FLIT_RECEIVE: the event at which the flit's bytes become visible, from its arrival to the cycle
of R46; the slots that reach this module become visible in order. -/
def execFlitReceive (f : Flit) (s : State) : Res :=
  let here := decide (f.dst = s.fab.id.toNat)
  if 32 ≤ f.port ∨ !s.maps.port.getLsbD f.port ∨ isServ f ∨ !mayArrive here f.slot s then
    notEnabled "FLIT_RECEIVE"
  else
    let st := arrivalStatus s f
    let s1 := noteArrival f s
    let s2 := match f.body with
      | .send data => if here then keepSend f st data s1 else s1
      | _ => s1
    .next (
      if here then
        let s3 := noteVisible f.slot s2
        if st = .ok then deliver f s3 else s3
      else if st = .stale then s2
      else { s2 with fab := { s2.fab with held := s2.fab.held ++ [{ f with marked := decide (st = .unc), bad := false }] } })

/-! ### Remote accesses (R47) -/

/-- R160. Another module as an agent. -/
def farAgent (m : Nat) : Nat := Config.coresPerModule + m

/-- R47. Perform a request of module `src` at a local physical address: its success, the data of the response. -/
def performRemote (src a : Nat) (op : RemoteOp) (s : State) : Bool × List Byte × State :=
  let swap := fun (n : Nat) (f : Nat → Option Nat) =>
    let r := homeRead a n s
    if !r.1 then r
    else match f (bytesToNat r.2.1) with
      | none => r
      | some v =>
        let w := homeUnit (a, natToBytes n v) r.2.2
        (w.1, r.2.1, w.2)
  let stores := fun (runs : List (Nat × List Byte)) =>
    let w := homeRuns runs s
    (w.1, [], w.2)
  let loads := fun (runs : List (Nat × Nat)) => runs.foldl (fun (x : Bool × List Byte × State) r =>
    if !x.1 then x
    else
      let y := homeRead r.1 r.2 x.2.2
      (y.1, x.2.1 ++ y.2.1, y.2.2)) (true, [], s)
  let updates := fun (kind : BitVec 2) (n : Word32) => match badAddr s a 16 with
    | some b => (false, [], classify b s)
    | none => (true, [], postUpdateOf (.plain s (farAgent src) false a kind n) s)
  match op with
  | .load n => homeRead a n s
  | .gather runs => loads runs
  | .store bs => stores [(a, bs)]
  | .scatter runs => stores runs
  | .amo o n v => swap n fun old => some (amoResult o.toNat n old v.toNat)
  | .cas n e v => swap n (casResult n e.toNat v.toNat)
  | .arrive => updates 0 1
  | .expect k => updates 2 k

/-- R47, R425. Queue a response to a request of slot `n` at a port; it travels under the timetable of that slot or not at
all. -/
def respond (n port dst id : Nat) (ok : Bool) (data : List Byte) (s : State) : State :=
  match servTab s n with
  | none => s
  | some a => { s with fab := { s.fab with respq := s.fab.respq ++ [⟨port, dst, .response id ok data, a⟩] } }

/-- R47. The requests that a port has queued. -/
def queued (s : State) (p : Nat) : Nat := (s.fab.reqq.filter fun m => decide (m.port = p)).length

/-- R47. A request of slot `n` that came by a port is passed on; one that no path takes, or that finds the queue full, is
answered as failed (log 100). -/
def passOn (n port src id addr : Nat) (op : RemoteOp) (s : State) : State :=
  match passHop s port (addr / 2 ^ 44), servTab s n with
  | some h, some a =>
    let p := servPort s h
    if 64 ≤ queued s p then respond n port src id false [] s
    else
      let m := s.fab.nextId
      { s with fab := { s.fab with
        nextId := m + 1, transit := s.fab.transit ++ [(m, port, src, id)]
        reqq := s.fab.reqq ++ [⟨p, addr / 2 ^ 44, .request m addr op, a⟩] } }
  | _, _ => respond n port src id false [] s

/-- R39, R42, R46, R47, R50. REMOTE_REQUEST: its flit arrives, `f` by its fields and `id`, `addr`, `op` by what it carries; unless it is
uncorrectable or stale, it is performed here or passed on toward its module; the response is queued on the reverse path. -/
def execRemoteRequest (f : Flit) (id addr : Nat) (op : RemoteOp) (s : State) : Res :=
  let here := (localPart s addr).isSome
  if 32 ≤ f.port ∨ !s.maps.port.getLsbD f.port ∨ !mayArrive here f.slot s then notEnabled "REMOTE_REQUEST"
  else
    let s1 := noteArrival f s
    .next (if arrivalStatus s f ≠ .ok then s1
      else match localPart s addr with
      | some a =>
        let r := performRemote f.src a op (noteVisible f.slot s1)
        respond f.slot f.port f.src id r.1 r.2.1 r.2.2
      | none => passOn f.slot f.port f.src id addr op s1)

/-- R402. The watched generation of a remote barrier is complete in its 16 bytes. -/
def remoteComplete (gen : Word32) (data : List Byte) : Bool :=
  decide (0 < (BitVec.ofNat 32 (bytesToNat (data.take 4)) - gen).toInt)

/-- R402. The wait on remote request `id` is over, or watches request `next_` from now on. -/
def answerWait (id : Nat) (done : Bool) (next_ : Nat) (s : State) : State :=
  match s.core.wait with
  | some ⟨.remoteBarrier i a _, im⟩ =>
    if i = id then
      { s with core := { s.core with wait := some ⟨.remoteBarrier (if done then id else next_) a done, im⟩ } }
    else s
  | _ => s

/-- R47. A request that is held may enter its port's queue now: what it waits for has come, no earlier one of its core to its sector is
held, and there is room. -/
def heldDue (s : State) : Option RemoteReq :=
  (numbered s.fab.heldReqs).findSome? fun x =>
    let r := x.2
    let full := match leavesBy s r.ga with
      | some p => decide (64 ≤ queuedAt s p)
      | none => false
    let behind := (s.fab.heldReqs.take x.1).any fun h => decide (h.core = r.core) && decide (h.ga / 16 = r.ga / 16)
    if (r.waits.any (outstanding s)) || behind || full then none else some r

/-- It does so; a look at a barrier whose wait is over is dropped. -/
def queueHeld (r : RemoteReq) (s : State) : State :=
  let s1 := { s with fab := { s.fab with heldReqs := s.fab.heldReqs.erase r } }
  match r.dst with
  | .barrier _ => if isAwaited (coreAt s r.core) r.id r.dst then queueRequest r s1 else s1
  | _ => queueRequest r s1

/-- R47, R402. The data of a response goes to the core's registers. A barrier's that shows the generation still to come is looked at
again, as soon as the port has room, while its wait lasts. -/
def landRemote (a : RemoteAcc) (data : List Byte) (s : State) : State :=
  match a.dst with
  | .barrier gen =>
    if remoteComplete gen data then answerWait a.id true 0 s
    else if !isAwaited s.core a.id a.dst then s
    else
      let m := s.fab.nextId
      let again : RemoteReq := ⟨m, a.core, a.pos, a.slot, 0, [], a.addr, .load 16, .barrier gen, []⟩
      let s1 := answerWait a.id false m s
      { s1 with fab := { s1.fab with nextId := m + 1, heldReqs := s1.fab.heldReqs ++ [again] } }
  | d =>
    let c := s.core
    let ps := (dstEffects d data).map fun e => (⟨c.icnt + 1, c.icnt + 1, e⟩ : Pend)
    { s with core := { c with pend := c.pend ++ ps } }

/-- R47. The response to request `id` reached this module in slot `n`: it goes one hop further back, or to the core that
asked; a failure that nothing waits for any more is dropped. -/
def takeResponse (n id : Nat) (ok : Bool) (data : List Byte) (s : State) : State :=
  match s.fab.transit.find? fun t => decide (t.1 = id) with
  | some (_, port, dst, from_) =>
    respond n port dst from_ ok data { s with fab := { s.fab with
      transit := s.fab.transit.filter fun t => !decide (t.1 = id) } }
  | none =>
    match s.fab.accs.find? fun a => decide (a.id = id) with
    | none => s
    | some a =>
      let s1 := select a.core { s with fab := { s.fab with accs := s.fab.accs.filter fun x => !decide (x.id = id) } }
      if ok then landRemote a data s1 else if isAwaited s1.core a.id a.dst then remoteError a s1 else s1

/-- R39, R42, R46, R47, R50. REMOTE_RESPONSE: its flit arrives (`answer`: the data, or none where the access failed); a response that is
uncorrectable or stale is not taken. -/
def execRemoteResponse (f : Flit) (id : Nat) (answer : Option (List Byte)) (s : State) : Res :=
  let here := !(s.fab.transit.any fun t => decide (t.1 = id))
  if 32 ≤ f.port ∨ !s.maps.port.getLsbD f.port ∨ !mayArrive here f.slot s then notEnabled "REMOTE_RESPONSE"
  else
    let s1 := noteArrival f s
    let s2 := if here then noteVisible f.slot s1 else s1
    .next (if arrivalStatus s f = .ok then takeResponse f.slot id answer.isSome (answer.getD []) s2 else s2)

/-! ### Link timetables (R43, R44, R425) -/

/-- R44. The LTCNT entries lie wholly in present HBM of this module: their local address. With LTCNT = 0 the specification does not
say where LTBASE may point: here at any local address (log 133). -/
def ltArea (s : State) : Option Nat :=
  let n := 16 * s.fab.ltcnt.toNat
  match localPart s s.fab.ltbase.toNat with
  | none => none
  | some a =>
    if n = 0 then some a
    else if 0xD800000000 < a + n then none
    else if (List.range ((a + n - 1) / Config.stackBytes - a / Config.stackBytes + 1)).all fun i =>
        s.maps.stack.getLsbD (a / Config.stackBytes + i) then some a
    else none

/-- Sort key of an entry (R43). -/
def ltKey (e : BitVec 128) : Nat := ltSlot e * 32 + ltPort e

/-- R43. Sorted by slot and port, each pair once. -/
def ltSorted : List (BitVec 128) → Bool
  | a :: b :: r => decide (ltKey a < ltKey b) && ltSorted (b :: r)
  | _ => true

/-- R44. The replay slot of an entry is proper. -/
def ltReplayOk (period : Nat) (live : List (BitVec 128)) (e : BitVec 128) : Bool :=
  !ltRpv e || (decide (ltRpslot e < period) && decide (3 ≤ (ltRpslot e + period - ltSlot e % period) % period)
    && live.any fun x => decide (ltKind x = kReplay) && decide (ltPort x = ltPort e) && decide (ltSlot x = ltRpslot e))

/-- R44. The table that an arming would put in force from slot `a`; none: the arming is refused. -/
def ltCheck (a : Nat) (s : State) : Option LinkTable :=
  let p := s.fab.ltper.toNat
  match ltArea s with
  | none => none
  | some l =>
    if p = 0 ∨ 32768 < p ∨ a < s.cyc / 88 + 1024 ∨ s.fab.ltbase.toNat % 16 ≠ 0
      ∨ (badAddr s l (16 * s.fab.ltcnt.toNat)).isSome then none
    else
      let es := (List.range s.fab.ltcnt.toNat).map fun i => BitVec.ofNat 128 (bytesToNat (s.mem.readBytes (l + 16 * i) 16))
      let live := es.filter ltV
      if ltSorted live && live.all (fun e => decide (ltKind e ≠ 0)) && live.all (ltReplayOk p live) then
        some ⟨es, p, a⟩
      else none

/-- R44. LTARM. An arming for the slot of a table not yet in force, or an earlier one, replaces that table. -/
def execLtarm (a : Word64) (s : State) : Res :=
  fromHost "LTARM" s <| .next (match ltCheck a.toNat s with
    | some t => { s with fab := { s.fab with
        pending := (s.fab.pending.filter fun q => decide (q.slotA < a.toNat)) ++ [t] } }
    | none => { s with fab := { s.fab with err := true } })

/-- R44. LTSTOP: the timetable in force ends at the next slot boundary. -/
def execLtstop (v : Word64) (s : State) : Res :=
  fromHost "LTSTOP" s <| .next (if v.getLsbD 0 && s.fab.table.isSome then
      { s with fab := { s.fab with stopAt := some (s.cyc / 88 + 1) } }
    else s)

/-- R286. A core whose NWAIT awaits a slot that has not begun in cycle `t` and that the ended timetable would have had: the
hold ends, and SCHEDULE is reported. -/
def endNwait (t detail : Nat) (c : Core) : Core :=
  match c.nwait with
  | none => c
  | some n => if 88 * n < t then c else { c with
      nwait := none, holding := false, holdc := 0
      reports := c.reports ++ [⟨BitVec.ofNat 8 cSchedule, BitVec.ofNat 3 nSlot, false, true, BitVec.ofNat 56 detail, false⟩] }

/-- R425. What the end of the timetable armed for slot `a` leaves of a core's commands. -/
def cutCommands (a : Nat) (c : Core) : Core :=
  { c with running := c.running.map fun r =>
      if r.remote ∧ r.tab = a ∧ r.unsent ≠ [] then { r with unsent := [], ok := false } else r }

/-- R425. A link timetable ends. -/
def endTable (s : State) : State :=
  let f := s.fab
  let a := (f.table.map LinkTable.slotA).getD 0
  let s1 := { s with
    fab := { f with
      table := none, stopAt := none, sends := f.sends.filter (fun q => !decide (q.tab = a)), reqq := [], respq := [], held := [], replays := []
      sent := f.sent.map fun x => { x with replayAt := none }
      sigs := f.sigs.filter fun m => m.local_ || m.sent || decide (m.tab ≠ a) }
    colls := s.colls.map fun c =>
      if c.left ≠ 0 ∨ c.start.isNone then { c with left := 0, cut := true, ok := false } else c }
  let s2 := (f.replays.map Prod.snd).foldl (fun s x => finalFlit x false s.cyc s) s1
  (liveCores s2).foldl (fun s g => spend 1 (modCore g (fun c => endNwait s.cyc (freeDetail s) (cutCommands a c)) s)) s2

/-- R44. The armed table that comes into force in this cycle. -/
def startingTable (s : State) : Option LinkTable := s.fab.pending.find? fun t => decide (88 * t.slotA ≤ s.cyc)

/-- R44, R47, R425. LINK_TIMETABLE_START: the table in force ends and the armed one takes effect; the latency table follows
it. -/
def execLinkTimetableStart (s : State) : Res :=
  match startingTable s with
  | none => notEnabled "LINK_TIMETABLE_START"
  | some t =>
    let s1 := if s.fab.table.isSome then endTable s else s
    .next { s1 with fab := { s1.fab with
      table := some t, stopAt := none, pending := s1.fab.pending.filter fun q => !decide (q = t) } }

/-- R44, R425. The stop of the table in force has come. -/
def tableStops (s : State) : Bool :=
  match s.fab.stopAt with
  | some n => decide (88 * n ≤ s.cyc)
  | none => false

/-- R425. LINK_TIMETABLE_END. -/
def execLinkTimetableEnd (s : State) : Res :=
  if !tableStops s then notEnabled "LINK_TIMETABLE_END" else .next (endTable s)

/-- R49. GROUP_ACTIVATE: a change of ACTIVE from 0 to 1 advances GEN. -/
def execGroupActivate (g : BitVec 10) (v : Byte) (s : State) : Res :=
  let was := mget false s.fab.groupActive g.toNat
  let on := v.getLsbD 7
  let gen := mget 0 s.fab.groupGen g.toNat
  fromHost "GROUP_ACTIVATE" s <| .next { s with fab := { s.fab with
    groupActive := mset false s.fab.groupActive g.toNat on
    groupGen := mset 0 s.fab.groupGen g.toNat (if on && !was then gen + 1 else gen) } }

/-- R69. FINJ_WRITE. A write to word 0 clears MISS; an arming whose slot had begun before the later of the two counting
writes sets MISS and injects nothing. -/
def execFinjWrite (word1 : Bool) (v : Word64) (s : State) : Res :=
  let f := s.finj
  let w0 := if word1 then f.word0 else v &&& 0x801FFFFF#64
  let w1 := if word1 then v else f.word1
  let missed := w0.getLsbD 31 && decide (88 * w1.toNat < s.cyc)
  fromHost "FINJ_WRITE" s <| .next { s with finj := { f with
    word0 := if missed then (w0 &&& ~~~ (1#64 <<< 31)) ||| (1#64 <<< 32) else w0
    word1 := w1
    live := f.live.map fun x => { x with own := x.own && word1 } } }

/-! ### Signals (R48, R164, R388) -/

/-- R48, R152, R160. The signal of a message that arrived from module `src` is applied at its home: an arrival, or a flag write, which is
a release. -/
def applyFar (src a : Nat) (flag : Option Word64) (s : State) : State :=
  let agent := farAgent src
  match flag with
  | none => postUpdateOf (.plain s agent false a 0 1) s
  | some v => noteRelease agent (globalOf s a) (homeUnit (a, natToBytes 8 v.toNat) s).2

/-- R48, R160. The arrival of a message to this module, where none of its core stands before it at the barrier. -/
def ownArrival (s : State) (m : SigMsg) : Option BarrierUpd :=
  (numbered s.barq).findSome? fun x =>
    let u := x.2
    let first := !((s.barq.take x.1).any fun v => decide (v.addr = u.addr) && decide (v.core = u.core) && (v.bte == u.bte))
    if decide (u.sig = some m.id) && first then some u else none

/-- R48. The signal of a message to this module is applied. -/
def applyOwn (m : SigMsg) (s : State) : State :=
  match m.flag, ownArrival s m with
  | none, some u => takeUpdate u s
  | none, none => s
  | some v, _ =>
    noteRelease m.core (globalOf s m.sigAddr) (homeUnit (m.sigAddr, natToBytes 8 v.toNat)
      { s with fab := { s.fab with sigs := s.fab.sigs.filter fun q => !decide (q.id = m.id) } }).2

/-- What SIGNAL_APPLY does next: a payload piece of a message to this module lands; its signal is applied; the signal of a
message that arrived is applied. -/
inductive SigAct where
  | piece (m : SigMsg) (p : Nat × WriteUnit)
  | own (m : SigMsg)
  | far (r : RxSig) (a : Nat) (flag : Option Word64)
  deriving DecidableEq, Repr

/-- R48, R152, R388. What one message to this module can do in this cycle: its signal follows its payload, and what it covers. -/
def msgAct (s : State) (m : SigMsg) : Option SigAct :=
  if !m.local_ then none
  else match m.pieces.find? fun p => decide (p.1 ≤ s.cyc) with
    | some p => some (.piece m p)
    | none =>
      if m.pieces = [] ∧ m.sigAt ≤ s.cyc ∧ !(m.waits.any (outstanding s)) ∧ (m.flag.isSome || (ownArrival s m).isSome) then some (.own m)
      else none

/-- What a message that arrived can do. -/
def rxSigAct (r : RxSig) : Option SigAct :=
  if r.payOk then r.sig.map fun x => .far r x.1 x.2 else none

def sigAct (s : State) : Option SigAct :=
  match s.fab.sigs.findSome? (msgAct s) with
  | some a => some a
  | none => s.fab.rsigs.findSome? rxSigAct

/-- R48, R388. SIGNAL_APPLY. -/
def execSignalApply (s : State) : Res :=
  match sigAct s with
  | none => notEnabled "SIGNAL_APPLY"
  | some (.piece m p) => .next (landPiece m.id p s)
  | some (.own m) => .next (applyOwn m s)
  | some (.far r a v) =>
    .next (applyFar r.src a v { s with fab := { s.fab with rsigs := s.fab.rsigs.filter fun q => !decide (q = r) } })

/-! ### Collectives (R389–R392) -/

/-- R389. The fields of a collective descriptor. -/
structure CollDesc where
  kind : Nat
  fmt : Nat
  op : Nat
  dmask : Nat
  slot0 : Nat
  bxl : Nat
  root : Nat
  src : Nat
  dst : Nat
  count : Nat
  norm : Nat
  deriving DecidableEq, Repr

def collDescOf (ws : List Word64) : CollDesc where
  kind := natBits (mpN ws 0) 2 0
  fmt := natBits (mpN ws 0) 7 3
  op := natBits (mpN ws 0) 9 8
  dmask := natBits (mpN ws 0) 21 10
  slot0 := natBits (mpN ws 0) 36 22
  bxl := natBits (mpN ws 0) 42 37
  root := natBits (mpN ws 0) 54 43
  src := mpN ws 1
  dst := mpN ws 2
  count := natBits (mpN ws 3) 39 0
  norm := mpN ws 4

/-- R389. The dimensions of the participant set, the number of participants, this module's rank. -/
def CollDesc.dims (d : CollDesc) : List Nat := (List.range 12).filter fun k => d.dmask.testBit k
def CollDesc.parts (d : CollDesc) : Nat := 2 ^ d.dims.length
def CollDesc.rank (d : CollDesc) (s : State) : Nat :=
  (d.dims.mapIdx fun i k => if s.fab.id.toNat.testBit k then 2 ^ i else 0).foldl (fun a b => a + b) 0

/-- R390. The reductions. -/
def CollDesc.isRed (d : CollDesc) : Bool := d.kind == 0 || d.kind == 1 || d.kind == 3

/-- R389–R391. Bytes each participant contributes, and bytes each one gets. -/
def CollDesc.inBytes (d : CollDesc) : Nat := if d.kind = 2 then d.count / d.parts else d.count
def CollDesc.outBytes (d : CollDesc) : Nat := if d.kind = 1 ∨ d.kind = 3 then d.count / d.parts else d.count

/-- R389–R392. The fields break a rule: the collective completes done-error at its first slot. -/
def CollDesc.bad (d : CollDesc) (s : State) : Bool :=
  let e := d.count * 8 / fmtWidth d.fmt
  decide (5 < d.kind) || decide (d.op = 3) || decide (d.count = 0) || decide (d.count % (16 * d.parts) ≠ 0)
    || decide (d.src % 16 ≠ 0) || decide (d.dst % 16 ≠ 0) || decide (17 < d.fmt)
    || d.dims.any (fun k => decide (s.fab.d.toNat ≤ k))
    || (d.isRed && !([4, 9, 10, 11].contains d.fmt))
    || (decide (d.kind = 3) && decide (d.norm % 8 ≠ 0))
    || (decide (d.kind = 5) && decide (d.parts ≤ d.root))
    || (decide (d.kind = 4) && (decide (d.src ≠ d.dst) || decide (d.dims.length ≠ 1)
      || !(fmtWidth d.fmt == 32 || fmtWidth d.fmt == 64) || decide (2 ^ Nat.log2 e ≠ e) || decide (Nat.log2 e ≤ d.bxl)))

/-- R389. The collectives of a die before `c`. -/
def collsBefore (s : State) (c : Coll) : List Coll :=
  (s.colls.filter fun q => decide (q.die = c.die)).takeWhile fun q => decide (q.id ≠ c.id)

/-- R389. The collective of a die that begins in this cycle: its first slot begins, and those before it have sent. -/
def startColl (s : State) (die : Nat) : Option Coll :=
  match s.fab.table with
  | none => none
  | some t =>
    match s.colls.find? fun c => decide (c.die = die) && c.start.isNone && !c.cut with
    | none => none
    | some c =>
      if s.cyc % 88 = 0 ∧ t.slotA ≤ s.cyc / 88 ∧ ltIndex t (s.cyc / 88) = (collDescOf c.words).slot0 ∧ c.earliest ≤ s.cyc
        ∧ ((collsBefore s c).all fun q => (q.start.isSome && decide (q.left = 0) && decide (q.lastEnd ≤ s.cyc)) || q.cut) then
        some c
      else none

/-- Local physical parts of a translated range; none when a part lies elsewhere. -/
def localParts (s : State) (ps : List Part) : Option (List (Nat × Nat)) :=
  ps.foldl (fun acc p => match acc, localPart s p.ga with
    | some l, some a => some (l ++ [(a, p.n)])
    | _, _ => none) (some [])

/-- R389. A collective is dropped and its token completes. -/
def endColl (c : Coll) (ok : Bool) (s : State) : State :=
  let s1 := select c.core { s with colls := s.colls.filter fun q => !decide (q.id = c.id) }
  setTok c.produce (if ok then .ok else .err) s1

/-- R389, R392. COLLECTIVE_START: the descriptor's checks, the translation of its addresses, the reading of the source. -/
def execCollectiveStart (die : Nat) (s : State) : Res :=
  match startColl s die with
  | none => notEnabled "COLLECTIVE_START"
  | some c =>
    let d := collDescOf c.words
    let s0 := select c.core s
    if d.bad s then .next (endColl c false s0)
    else
      let reads := decide (d.kind ≠ 5) || decide (d.rank s = d.root)
      let a := xlAll s0 .core die false (if reads then pieces128 d.src d.inBytes else [])
      let s1 := addWalks a.walks (spend a.used s0)
      let b := xlAll s1 .core die true (pieces128 d.dst d.outBytes ++ if d.kind = 3 then [(d.norm, 8)] else [])
      let s2 := addWalks b.walks (spend b.used s1)
      let good := a.causes = [] ∧ b.causes = [] ∧ a.fail.isNone ∧ b.fail.isNone
      let outs := if d.kind = 3 then b.parts.dropLast else b.parts
      let nrm := if d.kind = 3 then b.parts.getLast? else none
      match localParts s2 a.parts, (localParts s2 b.parts).bind (fun _ => localParts s2 outs), engParts 0 false a.parts s2 with
      | some _, some ds, .ok (bs, s3) =>
        if !decide good then .next (endColl c false s3)
        else
          let sends := match d.kind with
            | 4 => d.count / 2
            | 5 => if reads then d.count else 0
            | _ => d.dims.length * d.inBytes
          let c' := { c with
            start := some s.cyc, data := bs, dst := ds, norm := nrm.bind fun p => localPart s3 p.ga
            left := ceilDiv sends 256 }
          .next (spend engDraws { s3 with colls := s3.colls.map fun q => if q.id = c.id then c' else q })
      | _, _, .error (_, s3) => .next (endColl c false s3)
      | _, _, _ => .next (endColl c false s2)

/-- R190, R390. One element of a reduction over the participants, in rank order. -/
def collElem (f op n : Nat) (xs : List Nat) : Nat :=
  if isIntFmt f then
    (treeRed (fun a b =>
      (if op = 0 then narrowInt f false (intOf f a + intOf f b)
       else if decide (intOf f a < intOf f b) != (op == 2) then a else b, 0)) n xs).1
  else if op = 0 then
    let ff := ffmt f
    if badSum (xs.map ff.decode) then ff.nan
    else (treeRed (fun a b => finish ff Rnd.rne (addFV false (ff.decode a) (ff.decode b))) n xs).1
  else (treeRed (minMaxFV (ffmt f) (op == 2)) n xs).1

/-- Element `i` of `w` bits of some bytes. -/
def elemOf (w i : Nat) (bs : List Byte) : Nat := bytesToNat ((bs.drop (i * w / 8)).take (w / 8))

/-- R390. Elements [lo, lo + n) of the reduced vector. -/
def collReduce (d : CollDesc) (xs : List (List Byte)) (lo n : Nat) : List Nat :=
  let w := fmtWidth d.fmt
  (List.range n).map fun i => collElem d.fmt d.op d.dims.length (xs.map fun x => elemOf w (lo + i) x)

/-- R390. The FP64 sum of the exact squares of values, in order. -/
def sumSquares (f : Nat) (xs : List Nat) : Nat :=
  xs.foldl (fun acc x => (finish F64 Rnd.rne (fmaFV false (decodeFmt f x) (decodeFmt f x) (F64.decode acc))).1) 0

/-- R390, R391. What a participant of rank `r` gets, and NORM. -/
def collResult (d : CollDesc) (r : Nat) (b : Bool) (xs : List (List Byte)) : List Byte × Option Nat :=
  let w := fmtWidth d.fmt
  let bytes := fun (l : List Nat) => l.flatMap fun v => natToBytes (w / 8) v
  let per := d.count / d.parts * 8 / w
  match d.kind with
  | 0 => (bytes (collReduce d xs 0 (d.count * 8 / w)), none)
  | 1 => (bytes (collReduce d xs (r * per) per), none)
  | 2 => (xs.flatten, none)
  | 3 =>
    let ss := (List.range d.parts).map fun q => sumSquares d.fmt (collReduce d xs (q * per) per)
    (bytes (collReduce d xs (r * per) per), some (collElem 11 0 d.dims.length ss))
  | 4 =>
    let own := xs.getD r []
    let far := xs.getD (1 - r) []
    (bytes ((List.range (d.count * 8 / w)).map fun i =>
      if i.testBit d.bxl = b then elemOf w i own else elemOf w (i ^^^ 2 ^ d.bxl) far), none)
  | _ => (xs.getD d.root [], none)

/-- R392. A collective of a die whose timetable has ended and all of whose reports have returned. -/
def cutColl (s : State) (die : Nat) : Option Coll :=
  s.colls.find? fun c => decide (c.die = die) && c.cut && decide (c.awaiting = 0)

/-- The collective of a die that has sent everything and whose reports have returned. -/
def sentColl (s : State) (die : Nat) : Option Coll :=
  s.colls.find? fun c => decide (c.die = die) && c.start.isSome && decide (c.left = 0) && decide (c.awaiting = 0)

/-- The contributions have the shape of the collective. -/
def contribOk (d : CollDesc) (xs : List (List Byte)) : Bool :=
  decide (xs.length = d.parts) && xs.all fun x => decide (x.length = d.inBytes)

/-- R391. Of the elements of `w` bits that some runs hold in order, those that a BX replaces: index bit `l` is not `b`. -/
def replaced (w l : Nat) (b : Bool) (ws : List (Nat × List Byte)) : List (Nat × List Byte) :=
  let k := w / 8
  let es := ws.flatMap fun x => (List.range (x.2.length / k)).map fun i => (x.1 + k * i, (x.2.drop (k * i)).take k)
  ((numbered es).filter fun x => x.1.testBit l != b).map Prod.snd

/-- R390–R392. What a participant of a collective that began as `c` writes at local addresses, of its result. -/
def collWrites (c : Coll) (d : CollDesc) (b : Bool) (res : List Byte × Option Nat) : List (Nat × List Byte) :=
  let ws := placeBytes c.dst res.1
  (if d.kind = 4 then replaced (fmtWidth d.fmt) d.bxl b ws else ws)
    ++ (match c.norm, res.2 with
      | some a, some v => [(a, natToBytes 8 v)]
      | _, _ => [])

/-- R392. COLLECTIVE_COMPLETE: the other participants' contributions give the result (`contrib`, by rank). Done-error leaves
each sector old or new. -/
def execCollectiveComplete (die : Nat) (ok : Bool) (contrib : List (List Byte)) (s : State) : Res :=
  match cutColl s die, sentColl s die with
  | some c, _ => .next (endColl c false s)
  | none, none => notEnabled "COLLECTIVE_COMPLETE"
  | none, some c =>
    let d := collDescOf c.words
    let r := d.rank s
    let xs := if d.kind = 5 ∧ r ≠ d.root then contrib else contrib.set r c.data
    if !contribOk d xs then notEnabled "COLLECTIVE_COMPLETE"
    else
      let good := ok && c.ok
      let b := match d.dims with
        | k :: _ => s.fab.id.toNat.testBit k
        | [] => false
      let us := groupUnits (collWrites c d b (collResult d r b xs))
      let s1 := select c.core s
      let go := if good then us else ((numbered us).filter fun x => freeBit s1 x.1).map Prod.snd
      let w := engUnits 0 go (spend us.length s1)
      .next (endColl c (good && decide (w.1 = go.length)) w.2)

end Sys2Proof.Machine
end

