-- ==== Sys2Proof/Machine/Sched.lean ====
section
/-! DEFINITION. The task scheduler: timetables (R55–R65, R73–R87), the fault log's configuration (R66), the pool (R70,
R71, R88–R92), the ways a task starts, reruns, resumes and retires (R77–R87, R115, R427), and LAUNCH (R313). -/

namespace Sys2Proof.Machine

open Host

/-! ### Global physical memory as the walker and the pool reach it (R135, R193) -/

/-- `n` bytes at a global physical address as they can be read now; none where the range is another module's (log 121), absent
or uncorrectable. -/
def peekGa (s : State) (ga n : Nat) : Option (List Byte) :=
  (localPart s ga).bind fun a => (pieces128 a n).foldr (fun p r => match peek1 s p.1 p.2, r with
    | some b, some bs => some (b ++ bs)
    | _, _ => none) (some [])

/-- The same as a number. -/
def readGa (s : State) (ga n : Nat) : Option Nat := (peekGa s ga n).map bytesToNat

/-- R61, R73, R193, R253. The walker's or the pool's read of several ranges: their bytes, or none at the first that fails,
which is classified. -/
def walkReads : List (Nat × Nat) → State → Option (List (List Byte)) × State
  | [], s => (some [], s)
  | r :: rs, s =>
    let x := if r.2 = 0 then (some [], s)
      else match localPart s r.1 with
        | none => (none, classify r.1 s)
        | some a => match devRead 0 a r.2 s with
          | .error (_, s1) => (none, s1)
          | .ok (bs, s1) => (some bs, s1)
    match x with
    | (none, s1) => (none, s1)
    | (some bs, s1) =>
      match walkReads rs s1 with
      | (none, s2) => (none, s2)
      | (some l, s2) => (some (bs :: l), s2)

/-- One range, as a number. -/
def walkRead (ga n : Nat) (s : State) : Option Nat × State :=
  let r := walkReads [(ga, n)] s
  (r.1.map fun l => bytesToNat l.flatten, r.2)

/-- R426. A record's write: each 16-byte sector that fails is lost. One at a local address of a text-and-lexicon window, which only
translated accesses reach (R413), is lost too (log 121). -/
def writeRecord (ga : Nat) (bs : List Byte) (s : State) : State :=
  match localPart s ga with
  | none => s
  | some a =>
    (List.range (bs.length / 16)).foldl (fun s i =>
      let x := a + 16 * i
      let b := (bs.drop (16 * i)).take 16
      if place x = .coded then
        (if (blockAt s x).isNone then s
         else match codedWrite x b s with
          | .error (_, s1) => s1
          | .ok s1 => s1)
      else if writable s x 16 then memWrite 0 x b s
      else if present s x && !inText x then classify x s
      else s) s

/-! ### Descriptor fields and bounds (R61, R74) -/

def pdText (pd : BitVec 512) : Nat := natBits pd.toNat 63 0
def pdTextLen (pd : BitVec 512) : Nat := natBits pd.toNat 78 64
def pdLexCnt (pd : BitVec 512) : Nat := natBits pd.toNat 91 80
def pdEntry (pd : BitVec 512) : Nat := natBits pd.toNat 110 96
def pdTveci (pd : BitVec 512) : Nat := natBits pd.toNat 126 112
def pdLex (pd : BitVec 512) : Nat := natBits pd.toNat 191 128
def pdDtab (pd : BitVec 512) : Nat := natBits pd.toNat 255 192
def pdDtabCnt (pd : BitVec 512) : Nat := natBits pd.toNat 264 256
def pdDtabOff (pd : BitVec 512) : Nat := natBits pd.toNat 292 272
def pdInitCnt (pd : BitVec 512) : Nat := natBits pd.toNat 325 320
def pdInit (pd : BitVec 512) : Nat := natBits pd.toNat 447 384

def codeBytes (l : Launch) : Nat := 2 * pdTextLen l.pd + 48 * pdLexCnt l.pd
def spadBytes (l : Launch) : Nat := 8 * pdDtabCnt l.pd + l.imgSize.toNat + 16 * pdInitCnt l.pd
/-- R74. -/
def clb (l : Launch) : Nat := 600 + ceilDiv (codeBytes l) 128
def slb (l : Launch) : Nat := 600 + ceilDiv (spadBytes l) 128
def ldb (l : Launch) : Nat := 600 + ceilDiv (codeBytes l + spadBytes l) 128

/-- The global ranges of a task's images: text, lexicon (code part); drain table, input image, register list. -/
def codeRanges (l : Launch) : List (Nat × Nat) :=
  [(pdText l.pd, 2 * pdTextLen l.pd), (pdLex l.pd, 48 * pdLexCnt l.pd)]
def dataRanges (l : Launch) : List (Nat × Nat) :=
  [(pdDtab l.pd, 8 * pdDtabCnt l.pd), (l.imgAddr.toNat, l.imgSize.toNat), (pdInit l.pd, 16 * pdInitCnt l.pd)]

/-- Every nonempty range reads. -/
def rangesOk (s : State) (rs : List (Nat × Nat)) : Bool := rs.all fun r => decide (r.2 = 0) || (peekGa s r.1 r.2).isSome

/-- R62. The entries of an initial-register list, number and value of each. -/
def initsOf : Nat → List Byte → List (Nat × Nat)
  | 0, _ => []
  | n + 1, bs => (bytesToNat (bs.take 2), bytesToNat ((bs.drop 8).take 8)) :: initsOf n (bs.drop 16)

/-- R62. The initial-register list as it can be read now. -/
def initList (s : State) (l : Launch) : List (Nat × Nat) :=
  initsOf (pdInitCnt l.pd) ((peekGa s (pdInit l.pd) (16 * pdInitCnt l.pd)).getD [])

/-- R62. The registers the list may set. -/
def initAllowed (n : Nat) : Bool :=
  n == 0x020 || n == 0x022 || n == 0x023 || n == 0x024 || (decide (0x030 ≤ n) && decide (n ≤ 0x03F)) || n == 0x045
    || (decide (0x050 ≤ n) && decide (n ≤ 0x057))

/-- R63. A list entry's TEMP is negative or NaN. -/
def tempBad (v : Nat) : Bool :=
  let x := v % 2 ^ 32
  isNan32 x || (decide (2 ^ 31 ≤ x) && decide (x ≠ 2 ^ 31))

/-- R63. The entry's own fields, but for the owning die, CLUSTER, CMASK and CLASS (which a pool task has not). -/
def imageFieldsOk (pdAddr imgAddr imgSize : Nat) : Bool :=
  decide (imgSize % 16 = 0) && decide (imgSize ≤ 0x40000) && decide (pdAddr % 64 = 0) && decide (imgAddr % 16 = 0)

/-- R63. The descriptor check of a task whose descriptor reads. -/
def descriptorOk (s : State) (l : Launch) : Bool :=
  let pd := l.pd
  let h := if pdHalf pd then 16384 else 0
  let inHalf := fun p => decide (h ≤ p) && decide (p < h + 16384)
  decide (pdText pd % 16 = 0) && decide (pdLex pd % 16 = 0) && decide (pdInit pd % 16 = 0)
    && decide (0 < pdTextLen pd) && decide (pdTextLen pd ≤ 16384) && decide (pdLexCnt pd ≤ 2048)
    && inHalf (pdEntry pd) && inHalf (pdTveci pd) && decide (pdEntry pd < h + pdTextLen pd)
    && decide (pdDtabCnt pd ≤ 256) && decide (pdDtabOff pd % 8 = 0)
    && decide (pdDtabOff pd + 8 * pdDtabCnt pd ≤ 0x1C0000) && decide (pdInitCnt pd ≤ 32)
    && rangesOk s (codeRanges l ++ dataRanges l)
    && (initList s l).all fun x => initAllowed x.1 && !(decide (x.1 = 0x020) && tempBad x.2)

/-! ### Timetable entries (R60) -/

def ttOf (s : State) (d : Nat) : Timetable := mget Timetable.idle s.tt d
def setTt (d : Nat) (t : Timetable) (s : State) : State := { s with tt := mset Timetable.idle s.tt d t }

/-- Start tick of entry contents in a pass (R56). -/
def entryTick (t : Timetable) (pass : Nat) (e : BitVec 512) : Nat := t.t + pass * t.period.toNat + natBits e.toNat 63 0
def entAddr (t : Timetable) (i : Nat) : Nat := t.base.toNat + 64 * i
def entCluster (e : BitVec 512) : Nat := natBits e.toNat 70 68
def entCmask (e : BitVec 512) : Nat := natBits e.toNat 79 72
def entClass (e : BitVec 512) : Nat := natBits e.toNat 81 80
def entLatep (e : BitVec 512) : Nat := natBits e.toNat 87 86

/-- R63. The entry's own fields. -/
def entryOk (d : Nat) (e : BitVec 512) : Bool :=
  decide (natBits e.toNat 67 64 = d) && decide (entCluster e ≤ 5) && decide (entCmask e ≠ 0) && decide (entClass e ≠ 3)
    && decide (entLatep e ≠ 3) && imageFieldsOk (natBits e.toNat 191 128) (natBits e.toNat 319 256) (natBits e.toNat 338 320)

/-- The task that an entry starts for bit `b`. -/
def launchOf (s : State) (d i pass tick b : Nat) (prev : Option (Nat × Nat)) (e : BitVec 512) : Launch where
  pool := none
  die := d
  entry := i
  pass := pass
  bit := b
  tick := tick
  cls := e.extractLsb' 80 2
  pre := e.getLsbD 82
  dep := e.getLsbD 84
  rerun := e.getLsbD 85
  latep := e.extractLsb' 86 2
  prev := prev
  budget := e.extractLsb' 96 32
  pdAddr := e.extractLsb' 128 64
  args := e.extractLsb' 192 64
  imgAddr := e.extractLsb' 256 64
  imgSize := e.extractLsb' 320 19
  taskId := e.extractLsb' 352 32
  pd := BitVec.ofNat 512 ((readGa s (natBits e.toNat 191 128) 64).getD 0)

/-- R83. The previous entry for core `g`, as the walker has read them: the last one that selects it, of this pass or of the
one before. -/
def prevEntry (t : Timetable) (g pass : Nat) : Option (Nat × Nat) :=
  (mget none t.sel g).filter fun x => decide (pass ≤ x.2 + 1)

/-- R83. An entry that selects cores has been read. -/
def noteSelected (d i pass : Nat) (e : BitVec 512) (s : State) : State :=
  if entClass e = 2 ∨ 5 < entCluster e then s
  else
    let t := ttOf s d
    let gs := ((List.range 8).filter fun b => e.getLsbD (72 + b)).map fun b => d * 48 + entCluster e * 8 + b
    setTt d { t with sel := gs.foldl (fun m g => mset none m g (some (i, pass))) t.sel } s

/-! ### Entry runs and their records (R64, R87) -/

def isRun (die entry pass : Nat) (r : EntryRun) : Bool :=
  decide (r.die = die) && decide (r.entry = entry) && decide (r.pass = pass)

/-- Change an entry's run. -/
def modRun (die entry pass : Nat) (f : EntryRun → EntryRun) (s : State) : State :=
  { s with runs := s.runs.map fun r => if isRun die entry pass r then f r else r }

def bitMask (b : Nat) : BitVec 8 := 1#8 <<< b

/-- R64. The 32 bytes of a record. -/
def recordBytes (r : EntryRun) : List Byte :=
  let fault := r.faultM ≠ 0
  natToBytes 16 (r.taskId.toNat + r.doneM.toNat * 2 ^ 32 + r.faultM.toNat * 2 ^ 40 + r.skipM.toNat * 2 ^ 48
      + r.lateM.toNat * 2 ^ 56 + (if r.started = 0 then 0 else r.start % 2 ^ 64) * 2 ^ 64)
    ++ natToBytes 16 ((if r.started = 0 then 0 else r.end_ % 2 ^ 64) + (if fault then r.cause.toNat else 0) * 2 ^ 64
      + (if fault then r.fcore.toNat else 0) * 2 ^ 72 + r.reruns.toNat * 2 ^ 80
      + (if fault then r.ftepc.toNat else 0) * 2 ^ 88 + r.pass % 65536 * 2 ^ 104 + 2 ^ 127)

/-- R55. Some task of the entry has started, or its pool tasks are posted. -/
def EntryRun.begun (r : EntryRun) : Bool := r.started != 0 || (r.cls == 2 && r.posted)

/-- R55. The index of the next entry not yet started in the current pass: the lowest that is read and waits, else the next to
be read; COUNT when the pass has none (log 118). -/
def nextOf (s : State) (d : Nat) : Nat :=
  let t := ttOf s d
  let p := t.rep.toNat
  let unread := if t.reading ∧ t.rdPass ≤ p then t.rdEntry else t.count.toNat
  (s.runs.filter fun r => decide (r.die = d) && decide (r.pass = p) && !r.begun).foldl (fun m r => Nat.min m r.entry) unread

/-- R55, R58. NEXT follows the starts until the timetable is stopped. -/
def refreshNext (d : Nat) (s : State) : State :=
  let t := ttOf s d
  if t.run && t.stop.isNone then setTt d { t with next := BitVec.ofNat 16 (nextOf s d) } s else s

/-- R56, R58, R65. RUN clears when nothing more is read and every task of the die's entries has retired. -/
def endTimetable (d : Nat) (s : State) : State :=
  let t := ttOf s d
  if t.run && !t.reading && !(s.runs.any fun r => decide (r.die = d)) then
    sendIrq d 4 0 0 (setTt d { t with run := false } s)
  else s

/-- R64, R65. Write the record of an entry with no core open. -/
def closeRun (die entry pass : Nat) (s : State) : State :=
  match s.runs.find? (isRun die entry pass) with
  | none => s
  | some r =>
    if r.open_ ≠ 0 ∨ !r.posted then s
    else
      let s1 := writeRecord ((ttOf s die).cbase.toNat + 32 * entry) (recordBytes r)
        { s with runs := s.runs.filter fun x => !isRun die entry pass x }
      endTimetable die (refreshNext die (if r.irq then sendIrq die 0 entry pass s1 else s1))

/-- A core of an entry is skipped (R63, R79, R82, R83, R427). -/
def skipBit (die entry pass b : Nat) (s : State) : State :=
  closeRun die entry pass (modRun die entry pass (fun r =>
    { r with open_ := r.open_ &&& ~~~ bitMask b, skipM := r.skipM ||| bitMask b }) s)

/-! ### The pool (R70, R71, R88–R92) -/

def poolAt (s : State) (i : Nat) : BitVec 512 := mget 0 s.pool.entries i
def setPool (i : Nat) (e : BitVec 512) (s : State) : State :=
  { s with pool := { s.pool with entries := mset 0 s.pool.entries i e } }
def poolV (e : BitVec 512) : Bool := e.getLsbD 361
def poolTaken (e : BitVec 512) : Bool := e.getLsbD 362

/-- R71. The lowest free index. -/
def freePool (s : State) : Option Nat := (List.range 256).find? fun i => !poolV (poolAt s i)

/-- R9, R70. An entry image without its reserved bits. -/
def poolBits (img : BitVec 512) : BitVec 512 :=
  img &&& ~~~ ((BitVec.ofNat 512 (2 ^ 13 - 1) <<< 275) ||| (BitVec.ofNat 512 (2 ^ 84 - 1) <<< 364))

/-- R70, R71. An image with V, TAKEN and PARENT set by the pool. -/
def poolImage (img : BitVec 512) (parent : Nat) : BitVec 512 :=
  let x := poolBits img
  BitVec.ofNat 512 (x.toNat - natBits x.toNat 362 352 * 2 ^ 352 + parent % 512 * 2 ^ 352 + 2 ^ 361)

/-- R71. Post one image: its index, or none when the pool is full. -/
def postImage (img : BitVec 512) (parent : Nat) (s : State) : Option Nat × State :=
  match freePool s with
  | none => (none, s)
  | some i => (some i, setPool i (poolImage img parent) s)

/-- The task of pool entry `i`, for the core that takes it. -/
def poolLaunch (s : State) (i g : Nat) : Launch :=
  let e := poolAt s i
  let own := s.pool.owners.find? fun o => decide (o.1 = i)
  { pool := some i, die := (own.map fun o => o.2.1).getD (g / 48), entry := (own.map fun o => o.2.2.1).getD 0xFFFF
    pass := (own.map fun o => o.2.2.2.1).getD 0, bit := (own.map fun o => o.2.2.2.2).getD 0
    tick := s.cyc, cls := 1, pre := false, dep := false, rerun := false, latep := 0, prev := none
    budget := let b := e.extractLsb' 288 32; if b = 0 then 0x1000000#32 else b
    pdAddr := e.extractLsb' 64 64, args := e.extractLsb' 128 64, imgAddr := e.extractLsb' 192 64
    imgSize := e.extractLsb' 256 19, taskId := e.extractLsb' 320 32
    pd := BitVec.ofNat 512 ((readGa s (natBits e.toNat 127 64) 64).getD 0) }

/-- R70. A pool task's record. -/
def poolRecord (taskId doneM faultM skipM start end_ cause fcore ftepc rep : Nat) : List Byte :=
  natToBytes 16 (taskId + doneM * 2 ^ 32 + faultM * 2 ^ 40 + skipM * 2 ^ 48 + start % 2 ^ 64 * 2 ^ 64)
    ++ natToBytes 16 (end_ % 2 ^ 64 + cause * 2 ^ 64 + fcore * 2 ^ 72 + ftepc * 2 ^ 88 + rep * 2 ^ 104 + 2 ^ 127)

/-- R70, R91. Free a pool entry and write its record and message. `die` 15 and `rep` 0xFFFF when it never started. What a CRADDR that
is not 32-byte aligned does the specification does not say: it is used as it stands (log 133). -/
def freePoolEntry (i die rep : Nat) (rcd : List Byte) (s : State) : State :=
  let e := poolAt s i
  let cr := natBits e.toNat 511 448
  let s1 := setPool i (e &&& ~~~ (3#512 <<< 361)) s
  let s2 := { s1 with pool := { s1.pool with owners := s1.pool.owners.filter fun o => decide (o.1 ≠ i) } }
  let s3 := if cr ≠ 0 then writeRecord cr rcd s2 else s2
  if e.getLsbD 363 then sendIrq die 0 (i + 0x8000) rep s3 else s3

/-- A pool task that does not start (R63, R89, R427, R58): record SKIPMASK 0x01, its CLASS 2 entry's bit skipped. -/
def skipPool (i : Nat) (s : State) : State :=
  let e := poolAt s i
  let own := s.pool.owners.find? fun o => decide (o.1 = i)
  let s1 := freePoolEntry i 15 0xFFFF (poolRecord (natBits e.toNat 351 320) 0 0 1 0 0 0 0 0 0xFFFF) s
  match own with
  | some o => skipBit o.2.1 o.2.2.1 o.2.2.2.1 o.2.2.2.2 s1
  | none => s1

/-- R71. The cycle before which DONE reads 0 after a post or a cancel of this cycle: a free one, for the specification gives the
operation no time (log 95). -/
def postTime (s : State) : Nat := s.cyc + (Config.free s.free).toNat

/-- R71. No post or cancel is in progress. -/
def poolDone (s : State) : Bool := decide (s.pool.busyTo ≤ s.cyc)

/-- R71. The registers after a post or a cancel: INDEX, OK, and DONE for its time. -/
def poolResult (i : Option Nat) (s : State) : State :=
  spend 1 { s with pool := { s.pool with
    index := match i with
      | some i => BitVec.ofNat 16 i
      | none => 0xFFFF#16
    ok := i.isSome, busyTo := postTime s } }

/-- R71. POOL_POST: the host writes POOL_GO. -/
def execPoolPost (v : Word64) (s : State) : Res :=
  fromHost "POOL_POST" s (.next (if v.getLsbD 0 && poolDone s then
      let r := postImage s.pool.img 0x1FF s
      poolResult r.1 r.2
    else s))

/-- R71, R92. POOL_CANCEL: clears V of an entry that is not taken. -/
def execPoolCancel (v : Word64) (s : State) : Res :=
  let i := v.toNat % 256
  let e := poolAt s i
  fromHost "POOL_CANCEL" s (.next (if !poolDone s then s
    else if poolV e && !poolTaken e then
      let own := s.pool.owners.find? fun o => decide (o.1 = i)
      let s1 := setPool i (e &&& ~~~ (1#512 <<< 361)) s
      let s2 := poolResult (some i) { s1 with pool := { s1.pool with
        owners := s1.pool.owners.filter fun o => decide (o.1 ≠ i) } }
      match own with
      | some o => skipBit o.2.1 o.2.2.1 o.2.2.2.1 o.2.2.2.2 s2
      | none => s2
    else poolResult none s))

/-- R313. LAUNCH: post the image at core-scratchpad offset S[a]; Gd by t + 512. -/
def execLaunch (g : Guard) (d : GReg) (a : SReg) (s : State) : Res :=
  .next (whenG g (fun s =>
    let o := (rdS s a).toNat
    orRaise 1 [causeIf (decide (0x200000 < o + 64)) cProtect o, causeIf (decide (o % 16 ≠ 0)) cAlign o] (fun s =>
      let l := spadBase s.coreNo + o
      match badAddr s l 64 with
      | some b => recordErr 1 (.memerr b) (classify b s)
      | none =>
        let r := postImage (BitVec.ofNat 512 (bytesToNat (readHome s l 64))) s.coreNo s
        if d = 0 then put 512 .nothing r.2 else putBounded 512 [.g d.toNat r.1.isSome] r.2) s) s)

/-! ### Loading (R61, R75, R78, R124) -/

/-- R61. Load the code images into the named half and bank of core `g`, which it will fetch exactly as loaded (R398). False:
a read failed, and nothing is loaded. -/
def loadCode (g : Nat) (l : Launch) (s : State) : Bool × State :=
  let h := pdHalf l.pd
  match walkReads (codeRanges l) s with
  | (some [text, lex], s) =>
    let s1 := memWrite 0 (textBase g + (if h then 32768 else 0)) text s
    let s2 := memWrite 0 (textBase g + 0x10000 + (if h then 48 * 2048 else 0)) lex s1
    let keep := fun (p : Nat × List (Nat × Byte)) => (textSpot (p.1 - textBase g)).1 != h
    (true, modCore g (fun c => { c with unfetched := c.unfetched.filter keep }) s2)
  | (_, s) => (false, s)

/-- R61, R62, R75, R124. Load the drain table and the input image into the scratchpad of core `g`, and read the
initial-register list, which is the answer; the tags of the frames that the load writes entirely become 0. None: a read failed,
and nothing is loaded. -/
def loadSpad (g : Nat) (l : Launch) (s : State) : Option (List (Nat × Nat)) × State :=
  let copy := fun (dst : Nat) (bs : List Byte) (s : State) =>
    let frames := (List.range 512).filter fun f => decide (dst ≤ f * 4096) && decide (f * 4096 + 4096 ≤ dst + bs.length)
    let s1 := memWrite 0 (spadBase g + dst) bs s
    { s1 with frameTag := frames.foldl (fun m f => mset 0 m (g * 512 + f) 0) s1.frameTag }
  match walkReads (dataRanges l) s with
  | (some [dtab, img, inits], s) =>
    (some (initsOf (pdInitCnt l.pd) inits), copy 0x1C0000 img (copy (pdDtabOff l.pd) dtab s))
  | (_, s) => (none, s)

/-- R61, R78. The whole load. -/
def loadAll (g : Nat) (l : Launch) (s : State) : Option (List (Nat × Nat)) × State :=
  match loadCode g l s with
  | (false, s1) => (none, s1)
  | (true, s1) => loadSpad g l s1

/-- Put or remove the `i`-th queued task of core `g`. -/
def setQueued (g i : Nat) (q : Incoming) (s : State) : State := modCore g (fun c => { c with queue := c.queue.set i q }) s
def dropQueue (g i : Nat) (s : State) : State := modCore g (fun c => { c with queue := c.queue.eraseIdx i }) s

/-- R75. The core is free of tasks: nothing runs and no suspended task is being reloaded. -/
def coreFree (c : Core) : Bool :=
  decide (c.phase = .idle) && c.task.isNone
    && (match c.susp with
      | some x => x.reload.isNone
      | none => true)

/-- R79, R84. The core still holds a task: one that runs, drains or ends, or one that waits for its rerun. -/
def coreHolds (c : Core) : Bool := decide (c.phase ≠ .idle) || c.queue.any fun q => q.isRerun

/-- R84. A task that has ended by `k` is rerun. -/
def willRerun (t : Task) (k : EndKind) : Bool :=
  t.l.rerun && !t.isRerun && decide (k ≠ .done) && decide (k ≠ .thermal) && t.l.pool.isNone

/-- R84. The entry and pass of the task of this core that is rerun, from the end of its first run on. -/
def rerunOf (c : Core) : Option (Nat × Nat) :=
  match c.queue.find? fun q => q.isRerun, c.task with
  | some q, _ => some (q.l.entry, q.l.pass)
  | none, some t =>
    let again := match c.ending with
      | some k => willRerun t k
      | none => false
    if t.isRerun || again then some (t.l.entry, t.l.pass) else none
  | none, none => none

/-- R84. A task that depends on the one being rerun. -/
def afterRerun (c : Core) (l : Launch) : Bool := l.dep && (rerunOf c).isSome && decide (l.prev = rerunOf c)

/-- R81. The half that the reload of a suspended task is filling. -/
def reloading (c : Core) (h : Bool) : Bool :=
  match c.susp with
  | some x => x.reload.isSome && (pdHalf x.task.l.pd == h)
  | none => false

/-- R75, R84. Index of the first queued task whose code preload may begin: PRE = 1, not begun, its half neither active nor
held by another load, and not dependent on a task that is rerun. -/
def preloadIdx (c : Core) : Option Nat :=
  ((c.queue.mapIdx fun i q => (i, q)).find? fun x =>
    let h := pdHalf x.2.l.pd
    x.2.l.pre && x.2.code.isNone && !x.2.failed && !activeIs c h && !preloadHolds c h && !reloading c h
      && !afterRerun c x.2.l).map Prod.fst

/-- R75. CODE_PRELOAD: the walker begins the code load of a PRE = 1 entry. -/
def execCodePreload (core : Nat) (s : State) : Res :=
  let c := coreAt s core
  match (preloadIdx c).bind fun i => (c.queue[i]?).map fun q => (i, q) with
  | none => notEnabled "CODE_PRELOAD"
  | some (i, q) =>
    let r := loadCode core q.l s
    .next (setQueued core i { q with code := some (s.cyc + clb q.l), failed := !r.1 } r.2)

/-- The task of timetable entry `e` in pass `p` is on the core or still to come there. -/
def pending (c : Core) (e p : Nat) : Bool :=
  let is := fun (l : Launch) => l.pool.isNone && decide (l.entry = e) && decide (l.pass = p)
  (match c.task with
    | some t => is t.l
    | none => false)
  || (match c.susp with
    | some x => is x.task.l
    | none => false)
  || c.queue.any fun q => is q.l

/-- R83. What the dependence of a queued task says: `none` wait, `some true` run, `some false` skip. -/
def depState (c : Core) (l : Launch) : Option Bool :=
  if !l.dep then some true
  else match l.prev with
    | none => some true
    | some (e, p) =>
      match c.ends.find? fun x => decide (x.1 = e) && decide (x.2.1 = p) with
      | some x => some x.2.2
      | none => if pending c e p then none else some false

/-- R83. How a task of a timetable entry on core `g` ended finally. -/
def noteEnd (g : Nat) (l : Launch) (ok : Bool) (s : State) : State :=
  if l.pool.isSome then s
  else
    let last := mget none (ttOf s l.die).sel g
    modCore g (fun c =>
      let used := fun (x : Nat × Nat × Bool) => decide (last = some (x.1, x.2.1))
        || c.queue.any fun q => decide (q.l.prev = some (x.1, x.2.1))
      { c with ends := c.ends.filter used ++ [(l.entry, l.pass, ok)] }) s

/-- R77–R84, log 122. The queued task that loads and starts next on a free core: a rerun or a pool task, one whose load has
begun, one for which the suspended task was pre-empted, else the first; but for the first two, one whose dependence is
decided. -/
def nextQueued (c : Core) : Option (Nat × Incoming) :=
  let xs := c.queue.mapIdx fun i q => (i, q)
  let first := fun (p : Incoming → Bool) => xs.find? fun x => p x.2
  (first fun q => q.isRerun || q.l.pool.isSome) <|> (first fun q => q.spad.isSome)
    <|> (if c.susp.isSome then first fun q => q.asked && (depState c q.l).isSome else none)
    <|> first fun q => (depState c q.l).isSome

/-- Both loads of a queued task are complete. -/
def loaded (s : State) (q : Incoming) : Bool :=
  match q.code, q.spad with
  | some a, some b => decide (a ≤ s.cyc) && decide (b ≤ s.cyc)
  | _, _ => false

/-- R81. The suspended task may begin its reload: the core is idle, no task is ready or waits to start, and no entry read for
the core starts before C + LDB + what is left of the budget. -/
def resumeDue (s : State) (c : Core) : Bool :=
  match c.susp with
  | none => false
  | some x =>
    coreFree c && x.reload.isNone && !s.boot.tstop
      && c.queue.all fun q =>
        !q.isRerun && q.l.pool.isNone && !loaded s q
          && decide (s.cyc + ldb x.task.l + x.task.budget.getD 0 ≤ q.l.tick)

/-- R75, R78. The scratchpad load (PRE = 1) or the whole load (PRE = 0) of the next queued task may begin; in a cycle in which
the suspended task may resume, that task takes the core (R81). -/
def spadLoadDue (s : State) (c : Core) : Bool :=
  match nextQueued c with
  | none => false
  | some (_, q) =>
    coreFree c && !resumeDue s c && q.spad.isNone && !q.failed && !q.isRerun && (depState c q.l).isSome
      && (if q.l.pre then decide (q.l.tick ≤ s.cyc + slb q.l) else decide (q.l.tick ≤ s.cyc))

/-- R76, log 117. A whole load or a reload into half `h` takes the place of a code preload of another task there, which begins
again when the half is free. -/
def overrunPreloads (g : Nat) (h : Bool) (s : State) : State :=
  modCore g (fun c => { c with queue := c.queue.map fun q =>
    if q.spad.isNone && (pdHalf q.l.pd == h) then { q with code := none } else q }) s

/-- R75, R78, R83. SCRATCHPAD_LOAD. A dependent task whose previous entry did not end with DONE is skipped instead. -/
def execScratchpadLoad (core : Nat) (s : State) : Res :=
  let c := coreAt s core
  match nextQueued c with
  | none => notEnabled "SCRATCHPAD_LOAD"
  | some (i, q) =>
    if !spadLoadDue s c then notEnabled "SCRATCHPAD_LOAD"
    else if depState c q.l = some false then .next (skipBit q.l.die q.l.entry q.l.pass q.l.bit (dropQueue core i s))
    else if q.l.pre then
      let r := loadSpad core q.l s
      .next (setQueued core i { q with spad := some (s.cyc + slb q.l), failed := r.1.isNone, inits := r.1.getD [] } r.2)
    else
      let at_ := some (s.cyc + ldb q.l)
      let r := loadAll core q.l (overrunPreloads core (pdHalf q.l.pd) s)
      .next (setQueued core i { q with code := at_, spad := at_, failed := r.1.isNone, inits := r.1.getD [] } r.2)

/-! ### Start state (R62, R77, R115) -/

/-- R115. The start state of a core's registers; lane slices, L1, tags of frames, the count of SENDs of a slot (R385) and the
like are kept. -/
def startCore (g : Nat) (l : Launch) (cyc : Nat) (pc : BitVec 15) (c : Core) : Core :=
  { Core.idle with
    phase := .run, turn := cyc
    sreg := msetMany 0 [] [(1, l.args), (2, BitVec.ofNat 64 (coreId g)),
      (3, if l.imgSize = 0 then 0 else 0x1C0000#64)]
    tstart := BitVec.ofNat 64 cyc, taskId := l.taskId
    tvec := BitVec.ofNat 15 (pdTveci l.pd), draintab := BitVec.ofNat 21 (pdDtabOff l.pd)
    pc := pc, half := pdHalf l.pd
    lane := c.lane, lanePoison := c.lanePoison, l1 := c.l1, queue := c.queue, susp := c.susp, ends := c.ends
    unfetched := c.unfetched, micro := c.micro, seq := c.seq, cursor := c.cursor }

/-- R62. One entry of the initial-register list, with its MTS effect; an entry that the list may not hold, which the host can
have put there only after the check of R63, sets nothing (log 123). -/
def applyInit (x : Nat × Nat) (c : Core) : Core :=
  let v := BitVec.ofNat 64 x.2
  if !initAllowed x.1 then c
  else if x.1 = 0x020 then
    if tempBad x.2 then c
    else
      let t := x.2 % 2 ^ 32
      let t' := if t = 2 ^ 31 then 0 else t
      { c with temp := BitVec.ofNat 32 t', tinv := BitVec.ofNat 32 (fdiv32 one32 t').1 }
  else applySys x.1 v c

/-- R165. A task starts or resumes on core `g`: every read that it or its engines make sees what was visible before. -/
def acquireAll (g : Nat) (s : State) : State :=
  let vers := (s.vers.map fun x => (x.1, x.2.filter fun v => decide (v.core ≠ g))).filter fun x => decide (x.2 ≠ [])
  let slow := (s.slow.map fun x => (x.1, x.2.filter fun v => decide (v.core ≠ g))).filter fun x => decide (x.2 ≠ [])
  modCore g (fun c => { c with l1 := refreshL1 s c.l1 }) { s with vers := vers, slow := slow }

/-- R77, R81, R84. A task starts, reruns or resumes on core `g` in this cycle. -/
def beginTask (g : Nat) (l : Launch) (isRerun : Bool) (first : Nat) (budget : Option Nat) (inits : List (Nat × Nat))
    (pc : BitVec 15) (s : State) : State :=
  modCore g (fun c =>
    let c1 := startCore g l s.cyc pc c
    let c2 := inits.foldl (fun c x => applyInit x c) c1
    { c2 with task := some ⟨l, isRerun, first, budget.map fun b => s.cyc + b⟩ }) (acquireAll g s)

/-- R85. The budget of a first start or a rerun. -/
def budgetOf (l : Launch) : Option Nat := if l.budget = 0 then none else some l.budget.toNat

/-- R55. The entry of a task has started: REP names the highest pass that has. -/
def noteStart (l : Launch) (s : State) : State :=
  let t := ttOf s l.die
  refreshNext l.die (if t.stop.isSome ∨ l.pass ≤ t.rep.toNat then s
    else setTt l.die { t with rep := BitVec.ofNat 32 l.pass } s)

/-- The mask bits and START of a first start (R64). -/
def markStart (l : Launch) (late : Bool) (s : State) : State :=
  modRun l.die l.entry l.pass (fun r =>
    { r with
      start := if r.started = 0 then s.cyc else Nat.min r.start s.cyc
      started := r.started ||| bitMask l.bit
      lateM := if late then r.lateM ||| bitMask l.bit else r.lateM }) s

/-- R77, R84. The next queued task may start, for the first time or as a rerun. -/
def startDue (rerun : Bool) (s : State) (c : Core) : Bool :=
  match nextQueued c with
  | none => false
  | some (_, q) => coreFree c && loaded s q && !q.failed && (q.isRerun == rerun)
      && (rerun || decide (q.l.tick ≤ s.cyc)) && !s.boot.tstop

/-- R77, R78, R92. The start counts as late. -/
def isLate (s : State) (q : Incoming) : Bool :=
  match q.l.pool with
  | some i => decide ((poolAt s i).toNat % 2 ^ 64 + ldb q.l < s.cyc)
  | none => if q.l.pre then decide (q.l.tick < s.cyc) else decide (q.l.tick + ldb q.l < s.cyc)

/-- R77. TASK_START. -/
def execTaskStart (core : Nat) (s : State) : Res :=
  let c := coreAt s core
  match nextQueued c with
  | none => notEnabled "TASK_START"
  | some (i, q) =>
    if !startDue false s c then notEnabled "TASK_START"
    else
      let s1 := markStart q.l (isLate s q) (dropQueue core i s)
      let s2 := if q.l.pool.isNone then noteStart q.l s1 else s1
      .next (beginTask core q.l false s.cyc (budgetOf q.l) q.inits (BitVec.ofNat 15 (pdEntry q.l.pd)) s2)

/-- R84. TASK_RERUN: the rerun's load is complete and it starts; RERUNS counts one. -/
def execTaskRerun (core : Nat) (s : State) : Res :=
  let c := coreAt s core
  match nextQueued c with
  | none => notEnabled "TASK_RERUN"
  | some (i, q) =>
    if !startDue true s c then notEnabled "TASK_RERUN"
    else
      let s1 := modRun q.l.die q.l.entry q.l.pass (fun r => { r with reruns := r.reruns + 1 }) (dropQueue core i s)
      .next (beginTask core q.l true s.cyc (budgetOf q.l) q.inits (BitVec.ofNat 15 (pdEntry q.l.pd)) s1)

/-- R81, R75. A resume takes the scratchpad of the core: the scratchpad load of a queued task begins again when the core is free. -/
def overrunLoads (c : Core) : Core :=
  { c with queue := c.queue.map fun q => { q with spad := none, inits := [], failed := q.failed && q.spad.isNone } }

/-- R81. TASK_RESUME: the reload of the suspended task begins, or, LDB later, the task resumes at its stub. -/
def execTaskResume (core : Nat) (s : State) : Res :=
  let c := coreAt s core
  match c.susp with
  | none => notEnabled "TASK_RESUME"
  | some x =>
    match x.reload with
    | none =>
      if !resumeDue s c then notEnabled "TASK_RESUME"
      else
        let r := loadAll core x.task.l (overrunPreloads core (pdHalf x.task.l.pd) (modCore core overrunLoads s))
        .next (modCore core (fun c => { c with
          susp := some { x with reload := some (s.cyc + ldb x.task.l), failed := r.1.isNone, inits := r.1.getD [] } }) r.2)
    | some at_ =>
      if s.cyc < at_ || x.failed || s.boot.tstop || decide (c.phase ≠ .idle) then notEnabled "TASK_RESUME"
      else
        .next (beginTask core x.task.l x.task.isRerun x.task.firstStart x.task.budget x.inits x.stub
          (modCore core (fun c => { c with susp := none }) s))

/-! ### Reading entries (R57, R59, R63, R73, R82, R92) -/

/-- R58. Stop a die's timetable at this cycle: entries whose start tick is S or later do not start; nothing more is
read; NEXT is the first entry that does not start (log 118). A stop already in force stays, and NEXT with it, but for an entry that
the thermal stop now keeps from starting. -/
def stopTimetable (d : Nat) (s : State) : State :=
  let t := ttOf s d
  let gone := fun (l : Launch) => l.pool.isNone && decide (l.die = d) && decide (s.cyc ≤ l.tick)
  let keepQ := fun (c : Core) => { c with queue := c.queue.filter fun q => !(gone q.l) || q.isRerun }
  let s1 := (List.range 48).foldl (fun s i => if (coreAt s (d * 48 + i)).queue = [] then s else modCore (d * 48 + i) keepQ s) s
  let s2 := { s1 with runs := s1.runs.filter fun r => !(decide (r.die = d) && decide (s.cyc ≤ r.tick)) }
  let left := s.runs.find? fun r =>
    decide (r.die = d) && (decide (s.cyc ≤ r.tick) || (s.boot.tstop && !r.begun))
  let next := match left with
    | some r => r.entry
    | none => if t.stop.isSome then t.next.toNat else if t.reading then t.rdEntry else nextOf s d
  endTimetable d (setTt d { t with reading := false, stop := some (t.stop.getD s.cyc), next := BitVec.ofNat 16 next } s2)

/-- R58. TT_STOP. -/
def execTtStop (die : Nat) (v : Word64) (s : State) : Res :=
  if 9 ≤ die then notEnabled "TT_STOP"
  else fromHost "TT_STOP" s (.next (if v.getLsbD 0 && (ttOf s die).run then stopTimetable die s else s))

/-- R83. Nothing of an earlier arming of die `d`'s timetable is depended on any more. -/
def forgetEnds (d : Nat) (s : State) : State :=
  (List.range 48).foldl (fun s i =>
    if (coreAt s (d * 48 + i)).ends = [] then s else modCore (d * 48 + i) (fun c => { c with ends := [] }) s) s

/-- R56. TT_ARM. In thermal stop it arms, and the stop that is in force stops the timetable at once (log 120). -/
def execTtArm (die : Nat) (tick : Word64) (s : State) : Res :=
  if 9 ≤ die then notEnabled "TT_ARM"
  else
    let t := ttOf s die
    let ok := !t.run && decide (1 ≤ t.count.toNat) && decide (t.base.toNat % 64 = 0) && decide (t.cbase.toNat % 32 = 0)
      && decide (s.cyc + 1048576 ≤ tick.toNat)
    fromHost "TT_ARM" s (.next (if ok then
        let t' := { t with
          run := true, rep := 0, next := 0, t := tick.toNat, armed := s.cyc, rdEntry := 0, rdPass := 0
          lastTick := none, reading := true, stop := none, sel := [] }
        let s1 := setTt die t' (forgetEnds die s)
        if s.boot.tstop then stopTimetable die s1 else s1
      else setTt die { t with err := true } s))

/-- R55, R57. The read position after entry `i` of pass `p`. -/
def advanceRead (t : Timetable) : Timetable :=
  if t.rdEntry + 1 < t.count.toNat then { t with rdEntry := t.rdEntry + 1 }
  else if t.period = 0 ∨ (t.repeat_ ≠ 0 ∧ t.repeat_.toNat ≤ t.rdPass + 1) then { t with reading := false }
  else { t with rdEntry := 0, rdPass := t.rdPass + 1, lastTick := none }

/-- R73. The cycle of the next read: max(E − 2^20, A_w). Of an entry that cannot be read E is the earliest that the tick order
allows it (R57, log 119). -/
def readCycle (s : State) (t : Timetable) : Nat :=
  let e := match readGa s (entAddr t t.rdEntry) 64 with
    | none => t.t + t.rdPass * t.period.toNat + t.lastTick.getD 0
    | some x => entryTick t t.rdPass (BitVec.ofNat 512 x)
  Nat.max (e - 1048576) t.armed

/-- R63, R253. The check of a task's descriptor and images as they can be read now; what cannot be read is classified. -/
def checkTask (l : Launch) (s : State) : Bool × State :=
  let r := walkRead l.pdAddr.toNat 64 s
  if r.1.isNone then (false, r.2)
  else if descriptorOk s l then (true, r.2)
  else
    match (codeRanges l ++ dataRanges l).find? fun x => decide (x.2 ≠ 0) && (peekGa s x.1 x.2).isNone with
    | some x => (false, (walkReads [x] r.2).2)
    | none => (false, r.2)

/-- R63, R82. One selected core of an entry: skipped, or queued. -/
def readForCore (d i pass tick b : Nat) (e : BitVec 512) (s : State) : State :=
  let cl := entCluster e
  let g := d * 48 + cl * 8 + b
  let taskId := natBits e.toNat 383 352
  if cl ≤ 5 ∧ !s.maps.core.getLsbD g then
    modRun d i pass (fun r => { r with open_ := r.open_ &&& ~~~ bitMask b, skipM := r.skipM ||| bitMask b }) s
  else
    let l := launchOf s d i pass tick b (prevEntry (ttOf s d) g pass) e
    let r := if entryOk d e then checkTask l s else (false, s)
    if r.1 then
      modCore g (fun c => { c with queue := c.queue ++ [⟨l, none, none, false, false, false, [], false, (0, 0)⟩] }) r.2
    else
      let s1 := modRun d i pass (fun r => { r with open_ := r.open_ &&& ~~~ bitMask b, skipM := r.skipM ||| bitMask b }) r.2
      faultLog 6 d (if cl ≤ 5 then g else 0x1FF) 0 taskId i 0 0 0 s1

/-- R92. The read of a CLASS 2 entry: its own fields only. -/
def readBackground (d i pass : Nat) (e : BitVec 512) (s : State) : State :=
  if entryOk d e then s
  else
    let cl := entCluster e
    ((List.range 8).filter fun b => e.getLsbD (72 + b)).foldl (fun s b =>
      let s1 := modRun d i pass (fun r => { r with
        open_ := r.open_ &&& ~~~ bitMask b, skipM := r.skipM ||| bitMask b, posted := true }) s
      faultLog 6 d (if cl ≤ 5 then d * 48 + cl * 8 + b else 0x1FF) 0 (natBits e.toNat 383 352) i 0 0 0 s1) s

/-- R73. TT_ENTRY_READ: the walker of a die reads its next entry. The entry of the fault log for an order error names the entry that
breaks the order, which the specification does not say (R57, R67, log 132). -/
def execTtEntryRead (die : Nat) (s : State) : Res :=
  let t := ttOf s die
  if 9 ≤ die || !t.run || !t.reading || decide (s.cyc < readCycle s t) then notEnabled "TT_ENTRY_READ"
  else
    let i := t.rdEntry
    let pass := t.rdPass
    match walkRead (entAddr t i) 64 s with
    | (none, s1) =>
      .next (endTimetable die (refreshNext die (faultLog 6 die 0x1FF 0 0 i 0 0 0 (setTt die (advanceRead t) s1))))
    | (some x, s) =>
      let e := BitVec.ofNat 512 x
      let off := natBits x 63 0
      let bad := (match t.lastTick with
        | some p => decide (off < p)
        | none => false) || (decide (t.period ≠ 0) && decide (t.period.toNat ≤ off))
      if bad then
        .next (faultLog 7 die 0x1FF 0 0 i 0 0 0 (stopTimetable die (setTt die { t with order := true } s)))
      else
        let tick := entryTick t pass e
        let run : EntryRun := {
          die := die, entry := i, pass := pass, taskId := e.extractLsb' 352 32, irq := e.getLsbD 83, tick := tick
          cls := e.extractLsb' 80 2, ent := e, open_ := BitVec.ofNat 8 (entCmask e), started := 0, doneM := 0, faultM := 0
          skipM := 0, lateM := 0, start := 0, end_ := 0, cause := 0, fcore := 0, ftepc := 0, reruns := 0
          posted := decide (entClass e ≠ 2) }
        let s1 := { setTt die (advanceRead { t with lastTick := some off }) s with runs := s.runs ++ [run] }
        let s2 := if entCmask e = 0 then faultLog 6 die 0x1FF 0 (natBits x 383 352) i 0 0 0
            (modRun die i pass (fun r => { r with posted := true }) s1)
          else if entClass e = 2 then readBackground die i pass e s1
          else ((List.range 8).filter fun b => e.getLsbD (72 + b)).foldl (fun s b => readForCore die i pass tick b e s) s1
        .next (closeRun die i pass (refreshNext die (noteSelected die i pass e s2)))

/-! ### Background posts and takes (R60, R89, R92) -/

/-- The run of a CLASS 2 entry of a die that is due to post. -/
def postDue (s : State) (d : Nat) : Option EntryRun :=
  s.runs.find? fun r => decide (r.die = d) && decide (r.cls = 2) && !r.posted && decide (r.tick ≤ s.cyc)

/-- R92. The pool image of one posted task. -/
def backgroundImage (r : EntryRun) : BitVec 512 :=
  let e := r.ent.toNat
  BitVec.ofNat 512 (r.tick % 2 ^ 64 + natBits e 191 128 * 2 ^ 64 + natBits e 255 192 * 2 ^ 128
    + natBits e 319 256 * 2 ^ 192 + natBits e 338 320 * 2 ^ 256 + natBits e 127 96 * 2 ^ 288 + natBits e 383 352 * 2 ^ 320)

/-- R92. BACKGROUND_POST: one pool entry for each bit of CMASK whose core is present. A kind-10 entry names that core, which the
specification does not say (R67, log 132). -/
def execBackgroundPost (die : Nat) (s : State) : Res :=
  match postDue s die with
  | none => notEnabled "BACKGROUND_POST"
  | some r =>
    let cl := entCluster r.ent
    let skip := fun (b : Nat) (s : State) => modRun r.die r.entry r.pass (fun r =>
      { r with open_ := r.open_ &&& ~~~ bitMask b, skipM := r.skipM ||| bitMask b }) s
    let s1 := ((List.range 8).filter fun b => r.ent.getLsbD (72 + b)).foldl (fun s b =>
      let g := die * 48 + cl * 8 + b
      if !s.maps.core.getLsbD g then skip b s
      else
        match postImage (backgroundImage r) 0x1FF s with
        | (some i, s1) => { s1 with pool := { s1.pool with
            owners := s1.pool.owners ++ [(i, r.die, r.entry, r.pass, b)] } }
        | (none, s1) => faultLog 10 die g 0 r.taskId.toNat r.entry 0 0 0 (skip b s1)) s
    let s2 := modRun r.die r.entry r.pass (fun r => { r with posted := true }) s1
    .next (closeRun r.die r.entry r.pass (noteStart
      { launchOf s r.die r.entry r.pass r.tick 0 none r.ent with pass := r.pass } s2))

/-- R88, R89. The first eligible pool entry: the lowest PTICK, then the lowest index. -/
def firstPool (s : State) : Option Nat :=
  (((List.range 256).filter fun i =>
    let e := poolAt s i
    poolV e && !poolTaken e && decide (natBits e.toNat 63 0 ≤ s.cyc)).foldl (fun (m : Option Nat) i =>
      match m with
      | none => some i
      | some j => if natBits (poolAt s i).toNat 63 0 < natBits (poolAt s j).toNat 63 0 then some i else m) none)

/-- R88. Core `g` may take a pool task. -/
def poolEligible (s : State) (i g : Nat) : Bool :=
  let c := coreAt s g
  let l := poolLaunch s i g
  s.maps.core.getLsbD g && coreFree c && c.susp.isNone
    && c.queue.all fun q => q.code.isNone && q.spad.isNone && !q.isRerun && q.l.pool.isNone
        && decide (s.cyc + ldb l + l.budget.toNat ≤ q.l.tick)

/-- R89. The core that takes pool entry `i`: the lowest eligible one of the first cluster from the pointer on. -/
def poolCore (s : State) (i : Nat) : Option Nat :=
  ((List.range 54).map fun k => (s.pool.ptr + k) % 54).findSome? fun c =>
    ((List.range 8).map fun j => c * 8 + j).find? (poolEligible s i)

/-- R89. A take is possible in this cycle. -/
def takeDue (s : State) : Bool :=
  decide (s.pool.lastTake ≠ s.cyc) && !s.boot.tstop && (match firstPool s with
    | some i => (poolCore s i).isSome
    | none => false)

/-- R89. POOL_TAKE. -/
def execPoolTake (s : State) : Res :=
  if !takeDue s then notEnabled "POOL_TAKE"
  else match firstPool s with
  | none => notEnabled "POOL_TAKE"
  | some i =>
    match poolCore s i with
    | none => notEnabled "POOL_TAKE"
    | some g =>
      let l := poolLaunch s i g
      let s0 := { s with pool := { s.pool with lastTake := s.cyc } }
      let r := if imageFieldsOk l.pdAddr.toNat l.imgAddr.toNat l.imgSize.toNat then checkTask l s0 else (false, s0)
      if !r.1 then .next (faultLog 6 (g / 48) g 0 l.taskId.toNat 0xFFFF 0 0 0 (skipPool i r.2))
      else
        let s1 := setPool i (poolAt s i ||| (1#512 <<< 362)) r.2
        let x := loadAll g l { s1 with pool := { s1.pool with ptr := (g / 8 + 1) % 54 } }
        let at_ := some (s.cyc + ldb l)
        .next (modCore g (fun c => { c with
          queue := ⟨l, at_, at_, false, false, x.1.isNone, x.1.getD [], false, (0, 0)⟩ :: c.queue }) x.2)

/-! ### Late policy, pre-emption, overrun (R79, R80, R85, R90, R93) -/

/-- Request a drain of core `g`; a request already pending or a drain in progress takes it in (R85, R254). The specification does
not say what an overrun that is pending or in progress becomes when a thermal stop comes in a later cycle: here the task then
ends as by the thermal stop, CAUSE 0x20 (log 130). -/
def requestDrain (g : Nat) (cause : Nat) (why : DrainWhy) (s : State) : State :=
  modCore g (fun c =>
    if c.phase = .drain then
      (if why = .thermal ∨ (why = .overrun ∧ c.drainWhy ≠ .thermal) then { c with drainWhy := why } else c)
    else if c.phase ≠ .run then c
    else match c.drainReq with
      | none => { c with drainReq := some ⟨BitVec.ofNat 8 cause, why, s.cyc, s.cyc⟩ }
      | some r =>
        if why = .thermal ∨ (why = .overrun ∧ r.why ≠ .thermal) then
          { c with drainReq := some ⟨BitVec.ofNat 8 cause, why, r.since, s.cyc⟩ }
        else c) s

/-- Index of the queued entry whose tick is now while the core holds a task (R79). -/
def lateIdx (s : State) (c : Core) : Option Nat :=
  if !coreHolds c then none
  else ((c.queue.mapIdx fun i q => (i, q)).find? fun x =>
    decide (x.2.l.tick = s.cyc) && !x.2.late && !x.2.isRerun && x.2.l.pool.isNone).map Prod.fst

/-- R80. The holding task may be pre-empted for entry `l`. -/
def mayPreempt (c : Core) (l : Launch) : Bool :=
  match c.task with
  | none => false
  | some t =>
    decide (c.phase = .run) && decide (t.l.cls = 1) && c.susp.isNone
      && !(l.dep && t.l.pool.isNone && decide (l.prev = some (t.l.entry, t.l.pass)))

/-- R79, R84. LATE_POLICY: the core still holds a task at an entry's tick. An entry that depends on a task being rerun acts as
LATE. -/
def execLatePolicy (core : Nat) (s : State) : Res :=
  let c := coreAt s core
  match lateIdx s c with
  | none => notEnabled "LATE_POLICY"
  | some i =>
    match c.queue[i]? with
    | none => notEnabled "LATE_POLICY"
    | some q =>
      if q.l.latep = 1 && !afterRerun c q.l then
        .next (skipBit q.l.die q.l.entry q.l.pass q.l.bit (dropQueue core i s))
      else
        let ask := decide (q.l.latep = 2) && mayPreempt c q.l && !afterRerun c q.l
        let s1 := setQueued core i { q with late := true, asked := ask } s
        .next (if ask then requestDrain core 0x20 .late s1 else s1)

/-- R90. A timetable entry starts 2^17 cycles from now on a core that runs a pool task. -/
def preemptDue (s : State) (c : Core) : Bool :=
  decide (c.phase = .run) && c.drainReq.isNone
    && (match c.task with
      | some t => t.l.pool.isSome
      | none => false)
    && c.queue.any fun q => decide (q.l.tick = s.cyc + 131072)

/-- R90. POOL_PREEMPT. -/
def execPoolPreempt (core : Nat) (s : State) : Res :=
  if !preemptDue s (coreAt s core) then notEnabled "POOL_PREEMPT" else .next (requestDrain core 0x20 .pool s)

/-- R85. The budget is used up in this cycle, drain stubs counted. -/
def overrunDue (s : State) (c : Core) : Bool :=
  let other := fun (w : DrainWhy) => w != .overrun && w != .thermal
  (match c.task with
    | some t => decide (t.budget = some s.cyc)
    | none => false)
    && (if c.phase = .drain then other c.drainWhy
      else decide (c.phase = .run) && (match c.drainReq with
        | some r => other r.why
        | none => true))

/-- R85. OVERRUN: a drain with cause 0x21 is requested. -/
def execOverrun (core : Nat) (s : State) : Res :=
  if !overrunDue s (coreAt s core) then notEnabled "OVERRUN" else .next (requestDrain core 0x21 .overrun s)

/-! ### Retirement (R64, R84, R86, R87, R91) -/

/-- R86, R165. Everything the ended task of a core issued has finished and is visible: what has landed counts no more, though its
bound may be to come (R245). -/
def retireDue (s : State) (g : Nat) (c : Core) : Bool :=
  decide (c.phase = .ended) && (c.pend.all fun p => decide (p.eff = .nothing)) && !stillStoring (select g s)
    && decide (c.rtns = []) && c.rescale.isNone
    && decide (c.running = []) && decide (c.bte = []) && !accessing s g && !(s.barq.any fun u => decide (u.core = g))
    && !(s.fab.sigs.any fun m => decide (m.core = g)) && !(s.colls.any fun x => decide (x.core = g))

/-- R87. The record's CAUSE and the fault log's kind of an ending that is not DONE. -/
def endCause (_c : Core) (k : EndKind) : Nat × Nat :=
  match k with
  | .done => (0, 0)
  | .fault x => (x.toNat, 1)
  | .overrun => (0x21, 3)
  | .kill x => (x.toNat, 2)
  | .thermal => (0x20, 9)

/-- R67. ADDR: the DETAIL of the causes whose DETAIL is an address, else 0. -/
def faultAddr (cause : Nat) (tinfo : Word64) : Nat :=
  if [cSpadBank, cSchedule, cXlate, cProtect, cAlign, cCoded, cMemerr].contains cause then tinfo.toNat % 2 ^ 56 else 0

/-- R64, R87. The entry's run after the final ending of its task on a core. Which faulting core of a CLASS 2 entry, whose tasks may
have run in several clusters, is the lowest-numbered one the specification does not say: here the numbers within the clusters
compare, of the cores that the tasks ran on (R92, log 131). -/
def retireRun (l : Launch) (g : Nat) (ok : Bool) (cause : Nat) (c : Core) (now : Nat) (r : EntryRun) : EntryRun :=
  let b := bitMask l.bit
  let first := r.faultM = 0 ∨ g % 8 < r.fcore.toNat
  { r with
    open_ := r.open_ &&& ~~~ b
    doneM := if ok then r.doneM ||| b else r.doneM
    faultM := if ok then r.faultM else r.faultM ||| b
    end_ := Nat.max r.end_ now
    cause := if ok || !first then r.cause else BitVec.ofNat 8 cause
    fcore := if ok || !first then r.fcore else BitVec.ofNat 3 (g % 8)
    ftepc := if ok || !first then r.ftepc else c.tepc }

/-- The record of a task that has ended finally: its entry's run, its pool entry, its CLASS 2 entry. -/
def reportEnd (g : Nat) (t : Task) (ok : Bool) (cause : Nat) (c : Core) (s : State) : State :=
  let l := t.l
  let s1 := closeRun l.die l.entry l.pass (modRun l.die l.entry l.pass (retireRun l g ok cause c s.cyc) s)
  match l.pool with
  | none => s1
  | some i =>
    let rcd := poolRecord l.taskId.toNat (if ok then 1 else 0) (if ok then 0 else 1) 0 t.firstStart s.cyc
      (if ok then 0 else cause) (g % 8) (if ok then 0 else c.tepc.toNat) g
    freePoolEntry i (g / 48) g rcd s1

/-- R84. The next entries of a core whose task `l` reruns: one that depends on it begins its loads again. -/
def requeueForRerun (l : Launch) (q : Incoming) : Incoming :=
  if q.l.dep ∧ q.l.prev = some (l.entry, l.pass) then { q with code := none, spad := none } else q

/-- R84, R86, R87, R165. TASK_RETIRE: the fault log, the rerun or the record, and the core is free; what the task wrote is
released, so that no merge of another core reads older contents (R227), and nothing waits for its prefetches (R142). -/
def execTaskRetire (core : Nat) (s : State) : Res :=
  let c := coreAt s core
  match c.task, c.ending with
  | some t, some k =>
    if !retireDue s core c then notEnabled "TASK_RETIRE"
    else
      let ok := decide (k = .done)
      let (cause, kind) := endCause c k
      let l := t.l
      let s1 := if ok || decide (k = .thermal) then s
        else faultLogAt c.endCyc kind (core / 48) core cause l.taskId.toNat (if l.pool.isSome then 0xFFFF else l.entry)
          c.tepc.toNat (c.tinfo.toNat % 2 ^ 32) (faultAddr cause c.tinfo) s
      let again := willRerun t k && !s.boot.tstop
      let seen := mapVers (fun _ v => if v.core = core then { v with far := false } else v) s1
      let mine := { seen with fab := { seen.fab with
        accs := seen.fab.accs.filter fun a => !decide (a.core = core)
        heldReqs := seen.fab.heldReqs.filter fun r => !decide (r.core = core) } }
      let free := modCore core (fun c => { c with phase := .idle, task := none, ending := none }) mine
      if again then
        let at_ := some (s.cyc + ldb l)
        let s2 := modRun l.die l.entry l.pass (fun r => { r with end_ := Nat.max r.end_ s.cyc }) free
        let x := loadAll core l (overrunPreloads core (pdHalf l.pd) s2)
        let q : Incoming := ⟨l, at_, at_, false, true, x.1.isNone, x.1.getD [], false, (BitVec.ofNat 8 cause, c.tepc)⟩
        .next (modCore core (fun c => { c with queue := q :: c.queue.map (requeueForRerun l) }) x.2)
      else .next (reportEnd core t ok cause c (noteEnd core l ok free))
  | _, _ => notEnabled "TASK_RETIRE"

/-- R427. LOAD_FAILURE: a load or reload met an absent or uncorrectable image (classified as it was met). No bundle made the access
of a reload, and the specification gives its entry no TEPC, INFO and ADDR and its record no FTEPC: they are 0 here (log 132). -/
def execLoadFailure (core : Nat) (s : State) : Res :=
  let c := coreAt s core
  match c.queue.find? (fun q => q.failed), c.susp with
  | some q, _ =>
    let l := q.l
    let s1 := modCore core (fun c => { c with queue := c.queue.filter fun x => !decide (x = q) }) s
    let entry := if l.pool.isSome then 0xFFFF else l.entry
    let s2 := faultLog 6 (core / 48) core 0 l.taskId.toNat entry 0 0 0 s1
    if q.isRerun then
      -- FAULTMASK and CAUSE keep the first ending, and END its retirement; RERUNS counts one
      let keep := fun (r : EntryRun) => { retireRun l core false q.firstEnd.1.toNat { c with tepc := q.firstEnd.2 } 0 r with
        reruns := r.reruns + 1 }
      .next (closeRun l.die l.entry l.pass (modRun l.die l.entry l.pass keep (noteEnd core l false s2)))
    else match l.pool with
      | some i => .next (skipPool i s2)
      | none => .next (skipBit l.die l.entry l.pass l.bit s2)
  | none, some x =>
    if !x.failed then notEnabled "LOAD_FAILURE"
    else
      let l := x.task.l
      let s1 := noteEnd core l false (modCore core (fun c => { c with susp := none }) s)
      let s2 := faultLog 1 (core / 48) core cMemerr l.taskId.toNat (if l.pool.isSome then 0xFFFF else l.entry) 0 0 0 s1
      .next (reportEnd core x.task false cMemerr { c with tepc := 0 } s2)
  | none, none => notEnabled "LOAD_FAILURE"

/-- R66. FAULT_LOG_CONFIG: a write of FL_BASE or FL_SIZE resets both indices. -/
def execFaultLogConfig (size : Bool) (v : Word64) (s : State) : Res :=
  fromHost "FAULT_LOG_CONFIG" s (.next { s with flog := { s.flog with
    base := if size then s.flog.base else v
    size := if size then v.setWidth 17 else s.flog.size
    head := 0, tail := 0 } })

end Sys2Proof.Machine
end

