-- ==== Sys2Proof/Machine/Bringup.lean ====
section
/-! DEFINITION. Bring-up, failed starts, minimal mode, attestation, thermal protection and loss of lock (R12–R38). -/

namespace Sys2Proof.Machine

open Host

/-! ### BOOTSTAT (R27, R28) -/

/-- R27. BOOTSTAT as it reads. -/
def bootstat (b : Boot) : Nat :=
  b.stage.toNat + b.reason.toNat * 2 ^ 4 + b.fails.toNat * 2 ^ 8 + b.minimal.toNat * 2 ^ 10 + b.slot.toNat * 2 ^ 11
    + b.degraded.toNat * 2 ^ 12 + b.tstop.toNat * 2 ^ 13 + b.fenced.toNat * 2 ^ 14 + b.afail.toNat * 2 ^ 15

/-- R24, R28. The start fails: REASON, one more failed start, and no stage runs until the next reset. -/
def failStart (reason : Nat) (s : State) : State :=
  { s with boot := { s.boot with
    reason := BitVec.ofNat 4 reason
    fails := if s.boot.fails = 3 then 3 else s.boot.fails + 1
    failed := true } }

/-- R21. Stage `n` is in progress and the start has not failed. -/
def inStage (s : State) (n : Nat) : Bool := decide (s.boot.stage.toNat = n) && !s.boot.failed

/-- R21. Go on to a stage. -/
def toStage (n : Nat) (s : State) : State := { s with boot := { s.boot with stage := BitVec.ofNat 4 n } }

/-! ### Reset and the stages (R20–R28) -/

/-- R20, R21, R27. MODULE_RESET: every register takes its Reset value; BOOTSTAT keeps REASON, FAILS, MINIMAL, FENCED and
AFAIL, and Ronilor its fence list and its count of transient failures (log 94). Of what lies outside the module, the inputs
to come and what has left it stay. Out of thermal stop Ronilor allows it once every junction is below 85 °C. -/
def execModuleReset (s : State) : Res :=
  let b := s.boot
  if b.tstop && b.overheat then notEnabled "MODULE_RESET"
  else .next { State.reset with
    free := s.free, inputs := s.inputs, hostq := s.hostq, hostRead := s.hostRead, outbox := s.outbox, irqs := s.irqs
    boot := { Boot.reset with
      reason := b.reason, fails := b.fails, minimal := b.minimal, fenced := b.fenced, afail := b.afail
      fence := b.fence, transient := b.transient, reports := b.reports }
    maps := { Maps.reset with
      core := s.maps.fuseCore, stack := s.maps.fuseStack, csp := s.maps.fuseCsp, slice := s.maps.fuseSlice
      fuseCore := s.maps.fuseCore, fuseStack := s.maps.fuseStack, fuseCsp := s.maps.fuseCsp
      fuseSlice := s.maps.fuseSlice } }

/-- R22. An image passes verification: the public key is the one whose digest the fuses hold, and the image's signature over its
digest is valid under that key. -/
def imageOk (key : List Byte) (x : Image) : Bool :=
  Config.shake256 key == Config.keyDigest && Config.mlDsaVerify key (Config.shake256 x.bytes) x.sig

/-- R22. Append the digest of an image to the measurement log. -/
def measure (x : Image) (s : State) : State := { s with boot := { s.boot with log := s.boot.log ++ [Config.shake256 x.bytes] } }

/-- R22, R24, R25. The image of one slot starts: minimal mode follows from three failed starts in a row. -/
def startImage (slot : Bool) (s : State) : State :=
  toStage 2 { s with boot := { s.boot with slot := slot, afail := slot, minimal := decide (s.boot.fails = 3) } }

/-- R22, R25. RONILOR_START: stage 1. Slot B is verified only where A fails (log 97). -/
def execRonilorStart (a b : Image) (key : List Byte) (s : State) : Res :=
  if !inStage s 1 then notEnabled "RONILOR_START"
  else
    let s1 := measure a s
    if imageOk key a then .next (startImage false s1)
    else
      let s2 := measure b s1
      .next (if imageOk key b then startImage true s2
        else failStart 1 { s2 with boot := { s2.boot with romOnly := true } })

/-- R26. The retry of units of one stage that failed at first. A fenced unit is not tested. -/
def retryUnits (kind : HwUnit → Bool) (us : List UnitRetry) (s : State) : State :=
  us.foldl (fun s u =>
    if !kind u.unit || s.boot.fence.contains u.unit then s
    else if u.retryOk then { s with boot := { s.boot with transient := s.boot.transient + 1 } }
    else fenceUnit u.unit s) s

/-- R21. The units that each stage trains or tests. -/
def stage2Unit (u : HwUnit) : Bool :=
  match u with
  | .cluster _ => true
  | .core _ => true
  | .csp _ => true
  | .die d => decide (d ≠ 0) && decide (d ≠ 1)
  | _ => false
def stackUnit (u : HwUnit) : Bool :=
  match u with
  | .stack _ => true
  | _ => false
def linkUnit (u : HwUnit) : Bool :=
  match u with
  | .port _ => true
  | .cxl _ => true
  | _ => false

/-- R21, R24, R28. LINK_TRAINING: stage 2. -/
def execLinkTraining (ucieOk edge01Ok selfTest01Ok : Bool) (units : List UnitRetry) (s : State) : Res :=
  if !inStage s 2 then notEnabled "LINK_TRAINING"
  else
    .next (if !ucieOk then failStart 3 s
      else if !edge01Ok then failStart 4 s
      else if !selfTest01Ok then failStart 5 s
      else toStage 3 (retryUnits stage2Unit units s))

/-- R21. HBM_TRAINING: stage 3. -/
def execHbmTraining (units : List UnitRetry) (s : State) : Res :=
  if !inStage s 3 then notEnabled "HBM_TRAINING" else .next (toStage 4 (retryUnits stackUnit units s))

/-- R22. Images are verified in order; the first that fails ends it (log 97). -/
def verifyAll (key : List Byte) : List Image → State → Bool × State
  | [], s => (true, s)
  | x :: xs, s => if imageOk key x then verifyAll key xs (measure x s) else (false, measure x s)

/-- R21, R22, R28. FIRMWARE_LOAD: stage 4. -/
def execFirmwareLoad (images : Firmware) (key : List Byte) (s : State) : Res :=
  if !inStage s 4 then notEnabled "FIRMWARE_LOAD"
  else
    let r := verifyAll key [images.die, images.link, images.loader] s
    .next (if r.1 then toStage 5 r.2 else failStart 2 r.2)

/-- R25, R27. A Ronilor image runs. -/
def ronilorRuns (s : State) : Bool := decide (2 ≤ s.boot.stage.toNat)

/-- R32, R34, R35, R38. SET_MODULE_ID: through Ronilor, before stage 5. -/
def execSetModuleId (id : BitVec 12) (d : BitVec 4) (ptp : PtpSettings) (time : Option Word64) (s : State) : Res :=
  if !ronilorRuns s ∨ 5 ≤ s.boot.stage.toNat ∨ 12 < d.toNat ∨ 2 ^ d.toNat ≤ id.toNat then notEnabled "SET_MODULE_ID"
  else .next { s with
    boot := { s.boot with id := id, d := d, domain := ptp.domain, eligible := ptp.eligible, hostTime := time }
    fab := { s.fab with id := id, d := d } }

/-- R25, R38. The module has no PTP parent and is the grandmaster of a domain of its own. -/
def aloneClock (s : State) : Bool := s.boot.d == 0 || s.boot.minimal

/-- R36, R38. CYC is set, once; `parent` is the port the clock is recovered from (R35), none on a grandmaster. -/
def setClock (t : Nat) (parent : Option Nat) (s : State) : State :=
  { s with cyc := t, fab := { s.fab with
      lock := true, gm := parent.isNone, parent := parent, hold := false, offs := 0, badOffs := 0, backIn := false } }

/-- R16. CXL links train: the backing of each port, at most 2 TiB. -/
def trainCxl (sizes : List Nat) (s : State) : State :=
  { s with maps := { s.maps with
    cxlBytes := (List.range 4).foldl (fun m p => mset 0 m p (Nat.min (sizes.getD p 0) (2 ^ 41))) [] } }

/-- R21, R36, R38. PTP_LOCK: stage 5. -/
def execPtpLock (elected : Bool) (parent : Option (Nat × Word64)) (units : List UnitRetry) (cxl : List Nat) (s : State) : Res :=
  if !inStage s 5 then notEnabled "PTP_LOCK"
  else
    let host := match s.boot.hostTime with
      | some t => t.toNat
      | none => 0
    let s1 := toStage 6 (trainCxl cxl (retryUnits linkUnit units s))
    if aloneClock s || (elected && s.boot.eligible) then .next (setClock host none s1)
    else match parent with
      | some (p, t) => .next (setClock t.toNat (some p) s1)
      | none => notEnabled "PTP_LOCK"

/-- R28, R38. PTP_LOCK_TIMEOUT. -/
def execPtpLockTimeout (s : State) : Res :=
  if !inStage s 5 || aloneClock s then notEnabled "PTP_LOCK_TIMEOUT" else .next (failStart 8 s)

/-- R24, R28. BRING_UP_WATCHDOG. -/
def execBringUpWatchdog (s : State) : Res :=
  if s.boot.stage = 15 ∨ s.boot.failed then notEnabled "BRING_UP_WATCHDOG" else .next (failStart 7 s)

/-- R32, R33. The ports that the topology powers. -/
def poweredPorts (d : Nat) : BitVec 32 :=
  BitVec.ofNat 32 (((List.range 32).map fun p =>
    if (if p < 24 then decide (portDim p < d) else decide (2 ≤ d)) then 2 ^ p else 0).foldl (fun a b => a + b) 0)

/-- R15, R54. The CXL ports that are backed. -/
def backedCxl (m : Maps) : BitVec 4 :=
  BitVec.ofNat 4 (((List.range 4).map fun p => if mget 0 m.cxlBytes p = 0 then 0 else 2 ^ p).foldl (fun a b => a + b) 0)

/-- R21, R25, R29, R54. The maps that Ronilor publishes: the fuses less the fence list; die 0 alone in minimal mode. -/
def publishedMaps (s : State) : Maps :=
  let m := s.maps
  let full := { m with
    core := m.fuseCore, stack := m.fuseStack, csp := m.fuseCsp, slice := m.fuseSlice
    port := poweredPorts s.boot.d.toNat, cxl := backedCxl m }
  let fenced := s.boot.fence.foldl clearUnit full
  if s.boot.minimal then
    { fenced with
      core := fenced.core &&& BitVec.ofNat 432 (2 ^ 48 - 1), stack := fenced.stack &&& 3, csp := fenced.csp &&& 1
      slice := fenced.slice &&& 0x3F, port := 0, cxl := 0 }
  else fenced

/-- R27, R32, R33. A fenced unit sets DEGRADED, but for a port that the topology leaves without power. -/
def countsDegraded (s : State) (u : HwUnit) : Bool :=
  match u with
  | .port p => (poweredPorts s.boot.d.toNat).getLsbD p
  | _ => true

/-- R27. A unit is absent through fuses or fencing. -/
def isDegraded (s : State) : Bool :=
  s.boot.fence.any (countsDegraded s) || s.maps.fuseCore != BitVec.allOnes 432 || s.maps.fuseStack != BitVec.allOnes 18
    || s.maps.fuseCsp != BitVec.allOnes 9 || s.maps.fuseSlice != BitVec.allOnes 54

/-- R21, R24, R25. MAP_PUBLISH: stage 6; the start is complete and the host released. The count of failed starts is cleared,
but in minimal mode the host clears it (log 98). -/
def execMapPublish (s : State) : Res :=
  if !inStage s 6 then notEnabled "MAP_PUBLISH"
  else .next (toStage 15 { s with
    maps := publishedMaps s, boot := { s.boot with fails := if s.boot.minimal then s.boot.fails else 0, degraded := isDegraded s } })

/-! ### Requests to Ronilor (R23, R26, R27) -/

/-- R23. ATTESTATION_REQUEST: serial number, id, nonce, digests, BOOTSTAT and the maps, signed. -/
def execAttestationRequest (nonce : BitVec 256) (s : State) : Res :=
  if !ronilorRuns s then notEnabled "ATTESTATION_REQUEST"
  else
    let fields := [Config.serial, s.boot.id.toNat, nonce.toNat] ++ s.boot.log.map BitVec.toNat
      ++ [bootstat s.boot, s.maps.core.toNat, s.maps.stack.toNat, s.maps.port.toNat]
    .next { s with boot := { s.boot with reports := s.boot.reports ++ [(fields, Config.signature fields)] } }

/-- R26. FENCE_LIST_CLEAR: through Ronilor. -/
def execFenceListClear (s : State) : Res :=
  if !ronilorRuns s then notEnabled "FENCE_LIST_CLEAR"
  else .next { s with boot := { s.boot with fence := [], fenced := false } }

/-- R27. BOOTSTAT_FAILS_WRITE. -/
def execBootstatFailsWrite (v : Word32) (s : State) : Res :=
  fromHost "BOOTSTAT_FAILS_WRITE" s <| .next (if v.getLsbD 8 || v.getLsbD 9 then { s with boot := { s.boot with fails := 0 } } else s)

/-! ### Thermal and power protection (R18, R20, R58, R93) -/

/-- R20, R65. THERMAL_WARNING. -/
def execThermalWarning (die : Nat) (s : State) : Res :=
  if 9 ≤ die then notEnabled "THERMAL_WARNING" else .next (sendIrq die 2 0 0 s)

/-- R58. A queued task of core `g` that the thermal stop does not let start: skipped, or, where it waits for its rerun,
ended as its first run ended. -/
def dropQueued (g : Nat) (q : Incoming) (s : State) : State :=
  let l := q.l
  let s1 := modCore g (fun c => { c with queue := c.queue.filter fun x => !decide (x = q) }) s
  if q.isRerun then
    closeRun l.die l.entry l.pass (modRun l.die l.entry l.pass
      (retireRun l g false q.firstEnd.1.toNat { coreAt s1 g with tepc := q.firstEnd.2 } 0) s1)
  else match l.pool with
    | some i => skipPool i s1
    | none => skipBit l.die l.entry l.pass l.bit s1

/-- R20, R58, R87, R93. The thermal stop on one core. -/
def stopCore (s : State) (g : Nat) : State :=
  let s1 := (coreAt s g).queue.foldl (fun s q => dropQueued g q s) s
  let s2 := match (coreAt s1 g).susp with
    | none => s1
    | some x =>
      reportEnd g x.task false cPreempt { coreAt s1 g with tepc := 0 } (modCore g (fun c => { c with susp := none }) s1)
  requestDrain g cPreempt .thermal s2

/-- R92. The background posts of entries that the stop keeps from starting. -/
def dropPosts (s : State) : State :=
  (s.pool.owners.filter fun o => !poolTaken (poolAt s o.1)).foldl (fun s o => skipPool o.1 s) s

/-- R20, R58, R67. The thermal stop takes effect. During stage 2 it fails the start (R24); in another stage of bring-up it does
not, and the stages go on (log 99). -/
def thermalHold (s : State) : State :=
  if inStage s 2 then failStart 6 { s with boot := { s.boot with tstop := true, overheat := true } }
  else
    let s0 := faultLog 9 (freeBelow s 0 9) 0x1FF 0 0 0xFFFF 0 0 0 (spend 1 { s with boot := { s.boot with tstop := true, overheat := true } })
    let s1 := (List.range 9).foldl (fun s d => if (ttOf s d).run then stopTimetable d s else s) s0
    let s2 := (liveCores s1).foldl stopCore s1
    dropPosts s2

/-- R20. THERMAL_STOP: a junction has reached 105 °C. -/
def execThermalStop (s : State) : Res := .next (thermalHold s)

/-- R20. POWER_OVERLOAD_STOP: power has stayed above 110 % of TDP for 10 ms. -/
def execPowerOverloadStop (s : State) : Res := .next (thermalHold s)

/-! ### Loss of lock (R37) -/

/-- R37. The parent port has left PORT_MAP, which holds no port before bring-up publishes it (R21), or its offset has been out of
range in 16 consecutive headers. -/
def lockLost (s : State) : Bool :=
  s.fab.lock && match s.fab.parent with
    | none => false
    | some p => (released s && !s.maps.port.getLsbD p) || decide (16 ≤ s.fab.badOffs)

/-- R37, R65. LOSS_OF_LOCK: the parent port goes down (`portDown`), or the state shows the loss. Holdover, and a time message,
whose die is not stated. -/
def execLossOfLock (portDown : Bool) (s : State) : Res :=
  if lockLost s || (portDown && s.fab.lock && s.fab.parent.isSome) then
    .next (sendIrq (freeBelow s 0 9) 3 0 0 (spend 1 { s with fab := { s.fab with
      lock := false, hold := true, badOffs := 0, backIn := false } }))
  else notEnabled "LOSS_OF_LOCK"

/-- R37. LEAVE_HOLDOVER: the offset estimate toward the parent port is again within ±1; CYC does not step. -/
def execLeaveHoldover (port : Nat) (s : State) : Res :=
  if s.fab.hold && s.fab.backIn && decide (s.fab.parent = some port) then
    .next { s with fab := { s.fab with lock := true, hold := false, badOffs := 0, backIn := false } }
  else notEnabled "LEAVE_HOLDOVER"

end Sys2Proof.Machine
end

