-- ==== Sys2Proof/Machine/Mmio.lean ====
section
/-! DEFINITION. Register writes from outside the cores (R53–R55, R66, R68, R71, R131, R141, R149, R194, R211), slice
configuration (R131), evictions (R130, R204, R205), coded regions' flush (R207) and accesses from outside (R208). -/

namespace Sys2Proof.Machine

open Host

/-! ### REGISTER_WRITE (R9, R54) -/

/-- R55. A timetable register of a die, by its offset. The settings are ignored while RUN = 1. -/
def writeTt (d off : Nat) (v : Word64) (s : State) : Option State :=
  let t := ttOf s d
  let cfg := fun (t' : Timetable) => some (if t.run then s else setTt d t' s)
  match off with
  | 0x00 => cfg { t with base := v }
  | 0x08 => cfg { t with count := v.setWidth 16 }
  | 0x10 => cfg { t with period := v }
  | 0x18 => cfg { t with repeat_ := v.setWidth 32 }
  | 0x30 => cfg { t with cbase := v }
  | 0x38 => some (setTt d { t with err := t.err && !v.getLsbD 1, order := t.order && !v.getLsbD 2 } s)
  | _ => none

/-- R53. A fabric register that stores what is written. -/
def writeFabric (off : Nat) (v : Word64) (s : State) : Option State :=
  let f := s.fab
  if off = 0x010 then some { s with fab := { f with gstale := v.setWidth 32 } }
  else if off = 0x020 then some { s with fab := { f with ltbase := v } }
  else if off = 0x028 then some { s with fab := { f with ltcnt := v.setWidth 16 } }
  else if off = 0x030 then some { s with fab := { f with ltper := v.setWidth 16 } }
  else if off = 0x048 then some { s with fab := { f with err := f.err && !v.getLsbD 1 } }
  else if 0x1000 ≤ off ∧ off < 0x1800 ∧ (off - 0x1000) % 0x40 < 0x28 ∧ off % 8 = 0 then
    some { s with fab := { f with
      ctr := mset 0 f.ctr (8 * ((off - 0x1000) / 0x40) + (off - 0x1000) % 0x40 / 8) (v.setWidth 32) } }
  else none

/-- R149. A doubleword of a binding entry. -/
def writeBinding (i w : Nat) (v : Word64) (s : State) : State :=
  let b := bindAt s i
  let b' := match w with
    | 0 => { b with base := v.setWidth 56 }
    | 1 => { b with size := v.setWidth 40 }
    | 2 => { b with obj := v.setWidth 56 }
    | _ => { b with scope := v.setWidth 3, kind := v.getLsbD 3, v := v.getLsbD 4 }
  { s with bind := mset Binding.none s.bind i b' }

/-- R194. A doubleword of a region entry; FLUSH = 0. -/
def writeRegion (i w : Nat) (v : Word64) (s : State) : State :=
  let r := regionOf s i
  let r' := match w with
    | 0 => { r with lbase := v.setWidth 44 }
    | 1 => { r with len := v.setWidth 40 }
    | 2 => { r with pbase := v.setWidth 44 }
    | _ => { r with bc := v.setWidth 4, v := v.getLsbD 4 }
  { s with region := mset Region.none s.region i r' }

/-- R211. A counter of a slice for an entry. -/
def writeCodedCtr (sl i w : Nat) (v : Word64) (s : State) : State :=
  let c := ctrOf s sl i
  let c' := match w with
    | 0 => { c with blks := v }
    | 1 => { c with clip := v }
    | 2 => { c with nonf := v }
    | _ => { c with errsq := v }
  { s with cctrs := mset ⟨0, 0, 0, 0⟩ s.cctrs (sl * 64 + i) c' }

/-- R66. A fault-log register that stores what is written. -/
def writeFlog (off : Nat) (v : Word64) (s : State) : Option State :=
  match off with
  | 0x18 => some { s with flog := { s.flog with tail := v.setWidth 17 } }
  | 0x20 => some { s with flog := { s.flog with lost := v.setWidth 32 } }
  | 0x28 => some { s with flog := { s.flog with irq := v.getLsbD 0 } }
  | _ => none

/-- R68. A doubleword of a channel's grant. -/
def writeSigcap (k : Nat) (v : Word64) (s : State) : State :=
  { s with sigcap := mset 0 s.sigcap k (if k % 2 = 1 then v &&& 1 else v) }

/-- R71. A doubleword of POOL_IMG. -/
def writePoolImg (i : Nat) (v : Word64) (s : State) : State :=
  let x := s.pool.img.toNat
  let lo := 2 ^ (64 * i)
  { s with pool := { s.pool with img := poolBits (BitVec.ofNat 512 (x - x / lo % 2 ^ 64 * lo + v.toNat * lo)) } }

/-- R141. A translation register that stores what is written. -/
def writeXlat (off : Nat) (v : Word64) (s : State) : Option State :=
  match off with
  | 0x000 => some { s with xlat := { s.xlat with xroot := v } }
  | 0x008 => some { s with xlat := { s.xlat with xen := v.getLsbD 0 } }
  | 0x020 => some { s with xlat := { s.xlat with xmiss := v.setWidth 32 } }
  | _ => none

/-- R54. The registers whose write does more than store: each has a step of its own. -/
def ownStep (o : Nat) (v : Word64) : Bool :=
  o == 0x0000 || o == 0x0300 || o == 0x0308 || o == 0x0400 || o == 0x0408 || o == 0x0540 || o == 0x0548
    || (decide (0x1000 ≤ o) && decide (o < 0x1900) && (o % 0x100 == 0x20 || o % 0x100 == 0x28))
    || o == 0x20038 || o == 0x20040 || (decide (0x20400 ≤ o) && decide (o < 0x20800)) || o == 0x30010
    || (decide (0x31000 ≤ o) && decide (o < 0x31000 + 54 * 16) && o % 16 == 0)
    || (decide (0x34000 ≤ o) && decide (o < 0x34800) && o % 0x20 == 0x18 && v.getLsbD 6)

/-- R9, R54. The write of a doubleword of the MMIO range at offset `o`. Reserved offsets and read-only registers ignore
it. -/
def storeRegister (o : Nat) (v : Word64) (s : State) : State :=
  if 0x0200 ≤ o ∧ o < 0x0280 then writeSigcap ((o - 0x0200) / 8) v s
  else if 0x0400 ≤ o ∧ o < 0x0430 then (writeFlog (o - 0x0400) v s).getD s
  else if 0x0500 ≤ o ∧ o < 0x0540 then writePoolImg ((o - 0x0500) / 8) v s
  else if 0x1000 ≤ o ∧ o < 0x1900 then (writeTt ((o - 0x1000) / 0x100) (o % 0x100) v s).getD s
  else if 0x20000 ≤ o ∧ o < 0x22000 then (writeFabric (o - 0x20000) v s).getD s
  else if 0x30000 ≤ o ∧ o < 0x31000 then (writeXlat (o - 0x30000) v s).getD s
  else if 0x32000 ≤ o ∧ o < 0x34000 then writeBinding ((o - 0x32000) / 0x20) (o % 0x20 / 8) v s
  else if 0x34000 ≤ o ∧ o < 0x34800 then writeRegion ((o - 0x34000) / 0x20) (o % 0x20 / 8) v s
  else if 0x38000 ≤ o ∧ o < 0x38000 + 54 * 0x800 then
    writeCodedCtr ((o - 0x38000) / 0x800) ((o - 0x38000) % 0x800 / 0x20) (o % 0x20 / 8) v s
  else s

/-- R9, R14, R54. REGISTER_WRITE: a whole doubleword of the MMIO range, by the host or privileged software. -/
def execRegisterWrite (addr : Nat) (v : Word64) (s : State) : Res :=
  let o := addr - 0xFF00000000
  if addr < 0xFF00000000 ∨ 0x10000000000 ≤ addr ∨ addr % 8 ≠ 0 ∨ ownStep o v then notEnabled "REGISTER_WRITE"
  else fromHost "REGISTER_WRITE" s (.next (storeRegister o v s))

/-! ### Evictions (R130, R204, R205) -/

/-- The resident block that holds a line of the coded view, by its place in the list. -/
def blockOfLine (s : State) (line : Nat) : Option (Nat × CodedBlock) :=
  (numbered s.coded).find? fun x =>
    decide (codedLine s x.2.entry x.2.k ≤ line) && decide (line < codedLine s x.2.entry x.2.k + 2)

/-- R205. What replacement has taken out first: a line, and the resident block it belongs to where it is one of the coded
view. -/
def evicted (s : State) : Option (Nat × Option (Nat × CodedBlock)) :=
  s.evq.head?.map fun e => (e.1, if place (e.1 * 64) = .coded then blockOfLine s e.1 else none)

/-- R130. L2_EVICTION: the dirty sectors of a line that replacement has taken out are written back. -/
def execL2Eviction (line : Nat) (s : State) : Res :=
  match evicted s with
  | some (n, none) => if n = line then .next { s with evq := s.evq.drop 1 } else notEnabled "L2_EVICTION"
  | _ => notEnabled "L2_EVICTION"

/-- R205, R206, R213. CODED_WRITEBACK: resident block `block` of the list, which replacement has taken out, leaves its slice; a
dirty one is encoded and written back first, and stays resident where the backing write fails. -/
def execCodedWriteback (block : Nat) (fails : Bool) (s : State) : Res :=
  match evicted s with
  | some (_, some (i, b)) =>
    if i = block then .next (evictBlock b fails { s with evq := s.evq.drop 1 }) else notEnabled "CODED_WRITEBACK"
  | _ => notEnabled "CODED_WRITEBACK"

/-! ### Slice configuration (R131, R133) -/

/-- The lines that ways 12–15 of a slice hold. -/
def stagedLines (s : State) (slice : Nat) : List Nat :=
  (s.l2.filter fun x => decide (x.1 / 16384 = slice)).flatMap fun x =>
    (x.2.ways.filter fun w => decide (12 ≤ w.1)).filterMap fun w => w.2.map L2Line.line

/-- R131. The dirty sectors of ways 12–15 are written back and the ways are invalidated. -/
def clearStaged (slice : Nat) (s : State) : State :=
  (stagedLines s slice).foldl (fun s line =>
    match if place (line * 64) = .coded then blockOfLine s line else none with
    | some x => evictBlock x.2 false s
    | none => l2Drop (slice / 6) line s) s

/-- R131. SLCFG_WRITE: a change of WMODE begins; it completes within 70,000 cycles. -/
def execSlcfgWrite (slice : Nat) (v : Word64) (s : State) : Res :=
  if 54 ≤ slice then notEnabled "SLCFG_WRITE"
  else
    let m : BitVec 2 := v.setWidth 2
    let rest := s.wchange.filter fun w => !decide (w.1 = slice)
    fromHost "SLCFG_WRITE" s (
      if m = mget 0 s.wmode slice then .next { s with wchange := rest }
      else
        let s1 := spend 1 { s with wchange := rest ++ [(slice, m, s.cyc + 1 + freeBelow s 0 70000)] }
        .next (clearStaged slice s1))

/-- R131. The change of a slice's mode that is due. -/
def wmodeDue (s : State) (slice : Nat) : Option (BitVec 2) :=
  (s.wchange.find? fun w => decide (w.1 = slice) && decide (w.2.2 ≤ s.cyc)).map fun w => w.2.1

/-- R131, R133. WMODE_CHANGE_COMPLETE: what accesses made during the change left in ways 12–15 goes too; staging contents are
discarded when the mode leaves 2. -/
def execWmodeChangeComplete (slice : Nat) (s : State) : Res :=
  match wmodeDue s slice with
  | none => notEnabled "WMODE_CHANGE_COMPLETE"
  | some m =>
    let lo := 0xF000000000 + slice * 0x1000000
    let keep := fun (c : Host.Cell) => !(decide (lo ≤ c.1) && decide (c.1 < lo + 0x1000000))
    let s := clearStaged slice s
    .next { s with
      mem := if mget 0 s.wmode slice = 2 then s.mem.filter keep else s.mem
      wmode := mset 0 s.wmode slice m
      wchange := s.wchange.filter fun w => !decide (w.1 = slice) }

/-! ### Coded regions (R207, R208) -/

/-- R207. Discard the L1 sectors of an entry's logical range in every core. -/
def discardRegionL1 (i : Nat) (s : State) : State :=
  let r := regionOf s i
  let lo := globalOf s r.lbase.toNat
  let keep := fun (p : Nat × Option (BitVec 128)) => !(decide (lo ≤ p.1 * 16) && decide (p.1 * 16 < lo + r.len.toNat))
  (liveCores s).foldl (fun s g => modCore g (fun c => { c with l1 := c.l1.filter keep }) s) s

/-- Resident blocks of an entry. -/
def blocksOf (s : State) (i : Nat) : List (Nat × Nat) :=
  (s.coded.filter fun b => decide (b.entry = i)).map fun b => (b.entry, b.k)

/-- R54, R194, R207. REGION_FLUSH: a write of +0x18 with FLUSH = 1 stores BC and V as any other, and FBUSY reads 1 until the
flush completes; each block is written back and discarded at once or by then (a free choice), as the entry then stands (log
124). -/
def execRegionFlush (w : RegionWrite) (s : State) : Res :=
  let entry := w.entry
  let v := w.v
  if 64 ≤ entry ∨ !v.getLsbD 6 then notEnabled "REGION_FLUSH"
  else
    let bs := blocksOf s entry
    let now := ((numbered bs).filter fun x => freeBit s (1 + x.1)).map Prod.snd
    let s1 := writeRegion entry 3 v s
    let s2 := { s1 with
      region := mset Region.none s1.region entry
        { regionOf s1 entry with fbusy := some (s.cyc + 1 + freeBelow s 0 (2 ^ 20)) } }
    fromHost "REGION_FLUSH" s (.next (flushBlocks false true now (spend (1 + bs.length) s2)).1)

/-- R207. The flush of an entry that is due to complete. -/
def flushDue (s : State) (i : Nat) : Bool :=
  match (regionOf s i).fbusy with
  | some t => decide (t ≤ s.cyc)
  | none => false

/-- R207. REGION_FLUSH_COMPLETE. -/
def execRegionFlushComplete (entry : Nat) (s : State) : Res :=
  if !flushDue s entry then notEnabled "REGION_FLUSH_COMPLETE"
  else
    let s1 := discardRegionL1 entry (flushBlocks false true (blocksOf s entry) s).1
    .next { s1 with region := mset Region.none s1.region entry { regionOf s1 entry with fbusy := none } }

/-- R14, R208. CODED_ACCESS: a read (`none`) or write of bytes of one coded block by an agent that is no core of this module,
as one event at the home slice. -/
def execCodedAccess (addr len : Nat) (write : Option (List Byte)) (s : State) : Res :=
  if place addr ≠ .coded ∨ len = 0 ∨ 128 < addr % 128 + len then notEnabled "CODED_ACCESS"
  else match write with
    | none =>
      .next (match codedRead addr len s with
        | .error (_, s1) => s1
        | .ok (_, s1) => s1)
    | some bs =>
      if bs.length ≠ len then notEnabled "CODED_ACCESS"
      else .next (match codedWrite addr bs s with
        | .error (_, s1) => s1
        | .ok s1 => s1)

end Sys2Proof.Machine
end

