-- ==== Sys2Proof/Machine/HostView.lean ====
section
/-! DEFINITION. What a read of the MMIO range gives (R9, R27, R53–R55, R66, R68–R71, R131, R141, R149, R194, R211). No
core reaches these registers (R139); the host and privileged software read them, and a read changes nothing. The accesses
that the Syarri makes to storage, and errors of storage, stand beside it (R14, R252). -/

namespace Sys2Proof.Machine

open Host

/-- A field of a doubleword at its lowest bit. -/
def fieldAt (v lo : Nat) : Nat := v * 2 ^ lo

/-- R54. The map registers, and BOOTSTAT (R27), by offset. -/
def readMaps (o : Nat) (s : State) : Nat :=
  let m := s.maps
  if o = 0 then bootstat s.boot
  else if 0x0100 ≤ o ∧ o < 0x0138 then m.core.toNat / 2 ^ (64 * ((o - 0x0100) / 8)) % 2 ^ 64
  else if o = 0x0140 then m.stack.toNat + fieldAt m.csp.toNat 18 + fieldAt m.cxl.toNat 32
  else if o = 0x0148 then m.slice.toNat
  else if o = 0x0150 then m.port.toNat
  else 0

/-- R55. A die's timetable registers. -/
def readTt (d off : Nat) (s : State) : Nat :=
  let t := ttOf s d
  match off with
  | 0x00 => t.base.toNat
  | 0x08 => t.count.toNat
  | 0x10 => t.period.toNat
  | 0x18 => t.repeat_.toNat
  | 0x30 => t.cbase.toNat
  | 0x38 => t.run.toNat + fieldAt t.err.toNat 1 + fieldAt t.order.toNat 2 + fieldAt t.next.toNat 16
      + fieldAt t.rep.toNat 32
  | _ => 0

/-- R66, R69, R71. The fault log, the injection and the pool registers. -/
def readHostBlock (o : Nat) (s : State) : Nat :=
  if 0x0200 ≤ o ∧ o < 0x0280 then (mget 0 s.sigcap ((o - 0x0200) / 8)).toNat
  else if 0x0500 ≤ o ∧ o < 0x0540 then s.pool.img.toNat / 2 ^ (64 * ((o - 0x0500) / 8)) % 2 ^ 64
  else match o with
  | 0x0300 => s.finj.word0.toNat
  | 0x0308 => s.finj.word1.toNat
  | 0x0400 => s.flog.base.toNat
  | 0x0408 => s.flog.size.toNat
  | 0x0410 => s.flog.head.toNat
  | 0x0418 => s.flog.tail.toNat
  | 0x0420 => s.flog.lost.toNat
  | 0x0428 => s.flog.irq.toNat
  | 0x0550 => s.pool.index.toNat + fieldAt (poolDone s).toNat 16 + fieldAt s.pool.ok.toNat 17
  | _ => 0

/-- R53. One byte of the group table. -/
def readGroup (i : Nat) (s : State) : Nat :=
  (mget 0 s.fab.groupGen i).toNat + fieldAt (mget false s.fab.groupActive i).toNat 7

/-- R53. The fabric block. -/
def readFabric (off : Nat) (s : State) : Nat :=
  let f := s.fab
  if 0x400 ≤ off ∧ off < 0x800 then
    (List.range 8).foldr (fun i acc => readGroup (off - 0x400 + i) s + 256 * acc) 0
  else if 0x1000 ≤ off ∧ off < 0x1800 then
    if (off - 0x1000) % 0x40 < 0x28 then (mget 0 f.ctr (8 * ((off - 0x1000) / 0x40) + (off - 0x1000) % 0x40 / 8)).toNat
    else 0
  else match off with
  | 0x000 => f.id.toNat + fieldAt f.d.toNat 12
  | 0x008 => f.lock.toNat + fieldAt f.hold.toNat 1 + fieldAt f.gm.toNat 2 + fieldAt f.offs.toNat 8
  | 0x010 => f.gstale.toNat
  | 0x020 => f.ltbase.toNat
  | 0x028 => f.ltcnt.toNat
  | 0x030 => f.ltper.toNat
  | 0x048 => f.table.isSome.toNat + fieldAt f.err.toNat 1
  | _ => 0

/-- R141. The translation block; XBUSY while some die has not completed the invalidation. -/
def readXlat (off : Nat) (s : State) : Nat :=
  match off with
  | 0x000 => s.xlat.xroot.toNat
  | 0x008 => s.xlat.xen.toNat
  | 0x018 => (!s.xlat.inval.isEmpty).toNat
  | 0x020 => s.xlat.xmiss.toNat
  | _ => 0

/-- R149. A binding entry. -/
def readBinding (i w : Nat) (s : State) : Nat :=
  let b := bindAt s i
  match w with
  | 0 => b.base.toNat
  | 1 => b.size.toNat
  | 2 => b.obj.toNat
  | _ => b.scope.toNat + fieldAt b.kind.toNat 3 + fieldAt b.v.toNat 4

/-- R194. A region entry, with INF (R195) and FBUSY (R207). -/
def readRegion (i w : Nat) (s : State) : Nat :=
  let r := regionOf s i
  match w with
  | 0 => r.lbase.toNat
  | 1 => r.len.toNat
  | 2 => r.pbase.toNat
  | _ => r.bc.toNat + fieldAt r.v.toNat 4 + fieldAt (inForce s i).toNat 5 + fieldAt r.fbusy.isSome.toNat 7

/-- R131. SLCFG reads the mode last written, also while the change to it is in progress. -/
def readSlcfg (sl : Nat) (s : State) : Nat :=
  match s.wchange.find? fun w => decide (w.1 = sl) with
  | none => (mget 0 s.wmode sl).toNat
  | some w => w.2.1.toNat

/-- R211. A counter of a slice for an entry. -/
def readCodedCtr (sl i w : Nat) (s : State) : Nat :=
  let c := ctrOf s sl i
  match w with
  | 0 => c.blks.toNat
  | 1 => c.clip.toNat
  | 2 => c.nonf.toNat
  | _ => c.errsq.toNat

/-- R9, R54. A read of the doubleword of the MMIO range at offset `o`: reserved and write-only fields read zero. -/
def readRegister (o : Nat) (s : State) : Word64 :=
  BitVec.ofNat 64 <|
    if o % 8 ≠ 0 then 0
    else if o < 0x0200 then readMaps o s
    else if o < 0x1000 then readHostBlock o s
    else if o < 0x1900 then readTt ((o - 0x1000) / 0x100) (o % 0x100) s
    else if 0x10000 ≤ o ∧ o < 0x14000 then
      (mget 0 s.pool.entries ((o - 0x10000) / 0x40)).toNat / 2 ^ (64 * (o % 0x40 / 8)) % 2 ^ 64
    else if 0x20000 ≤ o ∧ o < 0x22000 then readFabric (o - 0x20000) s
    else if 0x30000 ≤ o ∧ o < 0x31000 then readXlat (o - 0x30000) s
    else if 0x31000 ≤ o ∧ o < 0x31000 + 54 * 16 then (if o % 16 = 0 then readSlcfg ((o - 0x31000) / 16) s else 0)
    else if 0x32000 ≤ o ∧ o < 0x34000 then readBinding ((o - 0x32000) / 0x20) (o % 0x20 / 8) s
    else if 0x34000 ≤ o ∧ o < 0x34800 then readRegion ((o - 0x34000) / 0x20) (o % 0x20 / 8) s
    else if 0x38000 ≤ o ∧ o < 0x38000 + 54 * 0x800 then
      readCodedCtr ((o - 0x38000) / 0x800) ((o - 0x38000) % 0x800 / 0x20) (o % 0x20 / 8) s
    else 0

/-! ### The Syarri's accesses to storage (R14, R144) and what goes bad there (R252, R253) -/

/-- An access of `n` bytes at `a` lies in one 16-byte sector. -/
def oneSector (a n : Nat) : Bool := decide (0 < n) && decide (a % 16 + n ≤ 16)

/-- R14. What a read by the Syarri returns: `none` for one that meets an error, is not one of a sector, or, in the MMIO range, of
a whole register. -/
def hostLoad (a n : Nat) (s : State) : Option (List Byte) × State :=
  if !oneSector a n then (none, s)
  else if place a = .mmio then
    (if n = 8 ∧ a % 8 = 0 then some (natToBytes 8 (readRegister (a - 0xFF00000000) s).toNat) else none, s)
  else match devRead1 0 a n s with
    | .error e => (none, e.2)
    | .ok (bs, s1) => (some bs, s1)

/-- R14, R96. A write by the Syarri; one that a text window refuses or that meets an error changes nothing. A register's write
is REGISTER_WRITE. -/
def hostStore (a : Nat) (bs : List Byte) (s : State) : State :=
  if !oneSector a bs.length || decide (place a = .mmio) then s else (homeUnit (a, bs) s).2

/-- R247, R252, R253. A core meets an uncorrectable error in its register array. What it does to the task the specification does not
say: here it ends it with MEMERR at the bundle that issues next, and the slot and the address that TINFO and the log give are free
(log 112). -/
def badRegister (g : Nat) (lasting : Bool) (s : State) : State :=
  let a := (Config.free s.free).toNat % 2 ^ 56
  let c := coreAt s g
  let hit := modCore g (fun c => c.meetError (trapPos c) (BitVec.ofNat 3 (freeBelow s 1 8)) cMemerr a) s
  let s1 := spend 2 (if c.phase = .run ∨ c.phase = .drain then hit else s)
  if lasting then faultLog 5 (g / 48) 0x1FF 0 0 0xFFFF 0 0 a (fenceUnit (.core g) s1)
  else faultLog 4 (g / 48) 0x1FF 0 0 0xFFFF 0 0 a { s1 with boot := { s1.boot with transient := s1.boot.transient + 1 } }

/-- R14, R252. One thing that the outside does to storage. -/
def hostAct (x : HostAcc) (s : State) : State :=
  match x with
  | .read a n => let r := hostLoad a n s; { r.2 with hostRead := r.2.hostRead ++ [r.1] }
  | .write a bs => hostStore a bs s
  | .bad a p => { s with poison := mset none s.poison (a / 16) (some p) }
  | .badLane g sec lasting => modCore g (fun c => { c with lanePoison := mset none c.lanePoison sec (some lasting) }) s
  | .badReg g lasting => badRegister g lasting s
  | .cooled => { s with boot := { s.boot with overheat := false } }

/-- R21. What the outside does next, where it is due: the Syarri waits until bring-up has released it. -/
def hostDue (s : State) : Option HostAcc :=
  match s.hostq with
  | [] => none
  | (t, x) :: _ =>
    if s.cyc < t then none
    else match x with
      | .read _ _ => if released s then some x else none
      | .write _ _ => if released s then some x else none
      | x => some x

end Sys2Proof.Machine
end

