-- ==== Sys2Proof/Machine/Predicate.lean ====
section
/-! DEFINITION. V slots: lane predicates and probability predicates (R229–R244, R339–R349). -/

namespace Sys2Proof.Machine

/-! ### Operands (R339) and writes (R340) -/

/-- R339. A field that must be class P, or class Q with no site. -/
def notP (k : Kind) : Bool := !k.isP
def notQ : Kind → Bool
  | .q _ 0 => false
  | _ => true

/-- R108. Number of a P or Q operand. -/
def regNum : Kind → Nat
  | .p n => n.toNat
  | .q n _ => n
  | _ => 0

/-- R108. A lane predicate's value in lane `l`. -/
def pAt (s : State) (k : Kind) (l : Nat) : Bool :=
  match k with
  | .p n => (rdP s n).getLsbD l
  | _ => false
/-- R229. A probability predicate's value and lineage in lane `l`. -/
def qAt (s : State) (k : Kind) (l : Nat) : Nat := (mget 0 s.core.qval (regNum k * 64 + l)).toNat
def linAt (s : State) (k : Kind) (l : Nat) : Byte := mget 0 s.core.qlin (regNum k * 64 + l)

/-- R229. Canonicalise a value written to a Q register; NV for a NaN. -/
def canonQ (x : Nat) : Nat × Flags :=
  if isNan32 x then (0, NV) else if 2 ^ 31 ≤ x then (0, 0) else if one32 < x then (one32, 0) else (x, 0)

/-- The lanes whose guard holds. -/
def lanesOn (s : State) (v : VOp) : List Nat := (List.range 64).filter (laneGuard s v)

/-- R340. Write a lane predicate in the guarded lanes; P0 discards. -/
def writeP (lat : Nat) (v : VOp) (val : Nat → Bool) (s : State) : State :=
  let n := regNum (kindOf v.d)
  if n = 0 then s else putMany lat ((lanesOn s v).map fun l => Effect.p n l (val l)) s

/-- R229, R340. Write a Q register in the guarded lanes: canonicalised value, lineage, and flags unless nf. -/
def writeQ (lat : Nat) (v : VOp) (val : Nat → Nat × Flags) (lin : Nat → Byte) (s : State) : State :=
  let n := regNum (kindOf v.d)
  putMany lat ((lanesOn s v).flatMap fun l =>
    let x := val l
    let w := Effect.q n l (BitVec.ofNat 32 (canonQ x.1).1) (lin l)
    if v.nf || x.2 == 0 then [w] else [w, .lflg l x.2]) s

/-! ### Lane predicates (R342, R343) -/

/-- R342. PLOG. -/
def execPlog (v : VOp) (s : State) : Res :=
  let ka := kindOf v.a
  let kb := kindOf v.b
  let op := v.sub.toNat
  guarded (vSlot v)
    [opCause (notP (kindOf v.d)) v.d, opCause (notP ka) v.a, opCause (op != 4 && notP kb) v.b]
    (fun s => writeP 2 v (fun l => logOp op (pAt s ka l) (pAt s kb l)) s) s
/-- R343. PMOV: P from P, P from a vector, scalar or immediate, or a vector from P. -/
def execPmov (v : VOp) (s : State) : Res :=
  let kd := kindOf v.d
  let ka := kindOf v.a
  let f := if v.fmt = 10 then 10 else 5
  if kd.isP && ka.isP then .next (writeP 2 v (fun l => pAt s ka l) s)
  else if kd.isP then
    guarded (vSlot v) [opCause (!(ka.isVec || ka.isS || ka.isImm) || srcBad f ka) v.a]
      (fun s => writeP 2 v (fun l =>
        if f = 10 then !(F32.decode (srcVal s f ka l)).isZero else decide (srcVal s f ka l ≠ 0)) s) s
  else
    guarded (vSlot v) [opCause (!kd.isVec) v.d, opCause (notP ka) v.a]
      (fun s => vecWrite 2 5 v (fun l => (if pAt s ka l then (if f = 10 then one32 else 1) else 0, 0)) s) s

/-! ### Soft comparison (R233, R344) -/

/-- R233. The difference the relation tests: 0 for equal operands, b − a for LT and LE, else a − b. -/
def softDif (cc a b : Nat) : Nat :=
  if eq32 a b then 0 else if cc = 2 ∨ cc = 3 then (fsub32 b a).1 else (fsub32 a b).1
/-- The pattern of +∞. -/
def inf32 : Nat := 0x7F800000
/-- R233. z: the difference scaled by TINV. -/
def softZ (tinv dif : Nat) : Nat := if abs32 dif = 0 then 0 else if tinv = 0 then 0 else (fmul32 dif tinv).1
/-- R233. RNE(1 + |z|). -/
def softDen (z : Nat) : Nat := (fadd32 one32 (abs32 z)).1
/-- The pattern 0.5. -/
def half32 : Nat := 0x3F000000
/-- R233. The soft comparison of one lane, and its NV. -/
def softCmp (cc tinv a b : Nat) : Nat × Flags :=
  if isNan32 a || isNan32 b then (if cc = 1 then one32 else 0, NV)
  else
    let z := softZ tinv (softDif cc a b)
    let q :=
      if cc ≤ 1 then
        let e := if abs32 z = inf32 then 0 else (fdiv32 one32 (softDen z)).1
        if cc = 0 then e else (fsub32 one32 e).1
      else if abs32 z = inf32 then (if z = inf32 then one32 else 0)
      else if abs32 z = 0 ∧ tinv = inf32 then (if cc = 5 ∨ cc = 3 then one32 else 0)
      else (fma32 half32 (fdiv32 z (softDen z)).1 half32).1
    (q, 0)
/-- R344. SCMP. -/
def execScmp (v : VOp) (s : State) : Res :=
  let site := match kindOf v.d with
    | .q _ st => st
    | _ => 0
  guarded (vSlot v)
    [opCause (!(kindOf v.d).isQ) v.d, opCause (srcBad 10 (kindOf v.a)) v.a, opCause (srcBad 10 (kindOf v.b)) v.b]
    (fun s => writeQ 6 v (fun l => softCmp v.sub.toNat s.core.tinv.toNat (vA s 10 v l) (vB s 10 v l))
      (fun _ => 1#8 <<< site) s) s

/-! ### Combination (R235, R345) -/

/-- R235. The mode AUTO resolves to: IND when the lineages are disjoint, else POS. -/
def qMode (mode : Nat) (la lb : Byte) : Nat := if mode = 3 then (if la &&& lb = 0 then 0 else 1) else mode
/-- Round an exact FP32 expression once. -/
def rne32 (x : FV) : Nat := (finish F32 Rnd.rne (x, 0)).1
/-- R235. One lane of QLOG under a resolved mode. -/
def qCombine (mode : Nat) (isOr : Bool) (a b : Nat) : Nat :=
  let x := F32.decode a
  let y := F32.decode b
  let one := FV.fin false 1 0
  let sum := (addFV false x y).1
  match mode with
  | 0 => if isOr then rne32 (addFV false sum (mulFV x y).1.flip).1 else rne32 (mulFV x y).1
  | 1 => if lt32 a b != isOr then a else b
  | _ =>
    if isOr then (if 0 < cmpFV sum one then one32 else rne32 sum)
    else
      let t := (addFV false sum one.flip).1
      if cmpFV t (.fin false 0 0) ≤ 0 then 0 else rne32 t
/-- R345. QLOG. -/
def execQlog (v : VOp) (s : State) : Res :=
  let ka := kindOf v.a
  let kb := kindOf v.b
  let mode := v.sub.toNat % 4
  let isOr := v.sub.getLsbD 2
  guarded (vSlot v)
    [opCause (notQ (kindOf v.d)) v.d, opCause (notQ ka) v.a, opCause (notQ kb) v.b]
    (fun s => writeQ 2 v
      (fun l => (qCombine (qMode mode (linAt s ka l) (linAt s kb l)) isOr (qAt s ka l) (qAt s kb l), 0))
      (fun l => linAt s ka l ||| linAt s kb l) s) s
/-- R345. QNOT: RNE(1 − a), lineage kept. -/
def execQnot (v : VOp) (s : State) : Res :=
  let ka := kindOf v.a
  guarded (vSlot v) [opCause (notQ (kindOf v.d)) v.d, opCause (notQ ka) v.a]
    (fun s => writeQ 2 v (fun l => ((fsub32 one32 (qAt s ka l)).1, 0)) (linAt s ka) s) s

/-! ### Blend, collapse and hard decision (R236–R240, R346, R347) -/

/-- R236. One lane of QBLEND: the copies at q = 1 and q = 0, else q·a + w·b formed exactly and rounded once. -/
def qBlend (q a b : Nat) : Nat × Flags :=
  if q = one32 then (a, 0)
  else if q = 0 then (b, 0)
  else
    let w := (fsub32 one32 q).1
    let x := mulFV (F32.decode q) (F32.decode a)
    let y := mulFV (F32.decode w) (F32.decode b)
    let z := addFV false x.1 y.1
    finish F32 Rnd.rne (z.1, x.2 ||| y.2 ||| z.2)
/-- R346. QBLEND; the Q number stands in SUB. -/
def execQblend (v : VOp) (s : State) : Res :=
  guarded (vSlot v) (vChecks 10 true v)
    (fun s => vecWrite 4 10 v (fun l => qBlend (qAt s (.q v.sub.toNat 0) l) (vA s 10 v l) (vB s 10 v l)) s) s
/-- R238. u < q, with u = m/2^24. -/
def collapses (u q : Nat) : Bool := decide (cmpFV (.fin false u (-24)) (F32.decode q) < 0)
/-- R347. QCOL: a draw per lane from one counter value. -/
def execQcol (v : VOp) (s : State) : Res :=
  let ka := kindOf v.a
  guarded (vSlot v) [opCause (notP (kindOf v.d)) v.d, opCause (notQ ka) v.a]
    (fun s => advCctr true (writeP 3 v (fun l => collapses (drawU s l) (qAt s ka l)) s)) s
/-- R347. QHARD: q > 0.5. -/
def execQhard (v : VOp) (s : State) : Res :=
  let ka := kindOf v.a
  guarded (vSlot v) [opCause (notP (kindOf v.d)) v.d, opCause (notQ ka) v.a]
    (fun s => writeP 2 v (fun l => decide (half32 < qAt s ka l)) s) s

/-! ### Moves between classes (R348) -/

/-- R348. QMOV. -/
def execQmov (v : VOp) (s : State) : Res :=
  let kd := kindOf v.d
  let ka := kindOf v.a
  if kd.isQ then
    if ka.isQ then
      guarded (vSlot v) [opCause (notQ kd) v.d, opCause (notQ ka) v.a]
        (fun s => writeQ 2 v (fun l => (qAt s ka l, 0)) (linAt s ka) s) s
    else if ka.isP then
      guarded (vSlot v) [opCause (notQ kd) v.d]
        (fun s => writeQ 2 v (fun l => (if pAt s ka l then one32 else 0, 0)) (fun _ => 0) s) s
    else
      guarded (vSlot v) [opCause (notQ kd) v.d, opCause (srcBad 10 ka) v.a]
        (fun s => writeQ 2 v (fun l => (vA s 10 v l, (canonQ (vA s 10 v l)).2)) (fun _ => 0) s) s
  else
    guarded (vSlot v) [opCause (!kd.isVec) v.d, opCause (notQ ka) v.a]
      (fun s => vecWrite 2 10 v (fun l => (qAt s ka l, 0)) s) s

/-! ### Gradients (R241, R242, R349) -/

/-- R241. ∂q/∂a of a soft comparison, and its NV. -/
def softGrad (cc tinv a b : Nat) : Nat × Flags :=
  if isNan32 a || isNan32 b then (0, NV)
  else
    let z := softZ tinv (softDif cc a b)
    if tinv = inf32 ∨ tinv = 0 ∨ abs32 z = inf32 then (0, 0)
    else
      let den := softDen z
      let g0 := (fdiv32 (fmul32 half32 tinv).1 (fmul32 den den).1).1
      let g1 := if cc = 2 ∨ cc = 3 then neg32 g0 else g0
      if cc ≤ 1 then
        let t :=
          if abs32 z = 0 then 0
          -- −2·sgn(a − b)·g, an exact doubling
          else (fmul32 (if lt32 a b then 0x40000000 else 0xC0000000) g1).1
        (if cc = 1 then neg32 t else t, 0)
      else (g1, 0)
/-- R349. QGRAD. -/
def execQgrad (v : VOp) (s : State) : Res :=
  guarded (vSlot v) (vChecks 10 true v)
    (fun s => vecWrite 6 10 v (fun l => softGrad v.sub.toNat s.core.tinv.toNat (vA s 10 v l) (vB s 10 v l)) s) s
/-- R242, R349. QBGRAD: RNE(a − b). -/
def execQbgrad (v : VOp) (s : State) : Res :=
  guarded (vSlot v) (vChecks 10 true v)
    (fun s => vecWrite 4 10 v (fun l => fsub32 (vA s 10 v l) (vB s 10 v l)) s) s
/-- R242. One partial of a product rule. -/
def qPartial (mode : Nat) (isOr wb : Bool) (a b : Nat) : Nat :=
  let ind := fun (c : Bool) => if c then one32 else 0
  match mode with
  | 0 =>
    let other := if wb then a else b
    if isOr then (fsub32 one32 other).1 else other
  | 1 =>
    if isOr then (if wb then ind (lt32 a b) else ind (!lt32 a b))
    else (if wb then ind (lt32 b a) else ind (!lt32 b a))
  | _ =>
    let sum := (addFV false (F32.decode a) (F32.decode b)).1
    if isOr then ind (decide (rne32 sum < one32))
    else
      let t := rne32 (addFV false sum (.fin true 1 0)).1
      ind (decide (t ≠ 0) && decide (t < 2 ^ 31))
/-- R349. QPGRAD. -/
def execQpgrad (v : VOp) (s : State) : Res :=
  let ka := kindOf v.a
  let kb := kindOf v.b
  let mode := v.sub.toNat % 4
  guarded (vSlot v)
    [opCause (!(kindOf v.d).isVec) v.d, opCause (notQ ka) v.a, opCause (notQ kb) v.b]
    (fun s => vecWrite 6 10 v (fun l =>
      (qPartial (qMode mode (linAt s ka l) (linAt s kb l)) (v.sub.getLsbD 2) (v.sub.getLsbD 3) (qAt s ka l) (qAt s kb l), 0)) s) s

end Sys2Proof.Machine
end

