-- ==== Sys2Proof/Machine/Sequencer.lean ====
section
/-! DEFINITION. The sequencer's events on one core: walks (R139–R141), landings (R99, R354), errors (R252), waits (R401–R405),
trap entry (R245), asynchronous reports (R251), drains (R254, R255), pauses and quotes (R95). -/

namespace Sys2Proof.Machine

open Host

/-! ### Walks (R139–R141) -/

/-- A running command whose remaining work is `n` cycles later. -/
def Running.delay (n : Nat) (r : Running) : Running :=
  { r with finish := r.finish + n, moved := r.moved + n, writes := r.writes.map fun w => (w.1 + n, w.2) }

/-- R140, R354. A walk of `n` cycles delays the work of the engine whose access missed. -/
def delayOwner (o : WalkFor) (n : Nat) (c : Core) : Core :=
  match o with
  | .core => c
  | .bte q => { c with running := c.running.map fun r => if r.cmd.seq = q then r.delay n else r }
  | .mu q => { c with rtns := c.rtns.map fun r =>
      if r.seq = q then
        { r with finish := r.finish + n, usr := r.usr.map fun u => { u with next := u.next + n } }
      else r }

/-- R140. The order of misses of one cycle: the core's, the BTE's, the matrix unit's. -/
def WalkFor.rank : WalkFor → Nat
  | .core => 0
  | .bte _ => 1
  | .mu _ => 2

/-- R140. The walk in progress. -/
def walkNow (c : Core) : Option Walk := c.walks.find? fun w => w.ends.isSome

/-- R140. The walk that begins next: the earliest miss, in the order of its cycle. -/
def walkNext (c : Core) : Option Walk :=
  c.walks.foldl (fun best w => match best with
    | none => some w
    | some b => if w.since < b.since ∨ (w.since = b.since ∧ w.owner.rank < b.owner.rank) then some w else best) none

/-- R140. TRANSLATION_MISS: the shadow context begins the next walk of the core; it lasts at most 2,000 cycles. -/
def execTranslationMiss (core : Nat) (s : State) : Res :=
  let s := select core s
  match walkNow s.core, walkNext s.core with
  | none, some w =>
    let x := s.xlat.xmiss
    let s1 := { s with xlat := { s.xlat with xmiss := if x = BitVec.allOnes 32 then x else x + 1 } }
    let n := freeBelow s 0 2001
    let c := delayOwner w.owner n s1.core
    .next (spend 1 { s1 with core := { c with
      walks := c.walks.map fun x => if x = w then { w with ends := some (s.cyc + n) } else x } })
  | _, _ => notEnabled "TRANSLATION_MISS"

/-- R93. A drain request of this very cycle lapses at a fault. -/
def lapse (s : State) : State :=
  match s.core.drainReq with
  | some r => if r.last = s.cyc then { s with core := { s.core with drainReq := none } } else s
  | none => s

/-- R139. WALK_COMPLETE: a success is installed in the die's unit, as the tables give it now (R141); after the last walk a failed
one's cause is taken at the missing bundle. -/
def execWalkComplete (core : Nat) (s : State) : Res :=
  let s := select core s
  match walkNow s.core with
  | none => notEnabled "WALK_COMPLETE"
  | some w =>
    if s.cyc < w.ends.getD 0 then notEnabled "WALK_COMPLETE"
    else
      let found := match w.entry with
        | none => []
        | some e => match walkOut s e.die w.va (freeBit s 0) with
          | .ok e1 => [e1]
          | .error _ => []
      let s1 := spend 1 { s with
        core := { s.core with walks := s.core.walks.erase w }
        xlat := { s.xlat with tu := s.xlat.tu ++ found } }
      let s2 := match w.bad with
        | some a => classify a s1
        | none => s1
      .next (match s2.core.walks, s2.core.raised with
        | [], some t => takeCauseAt (s2.core.icnt - 1) (trapPos s2.core) t (lapse s2)
        | _, _ => s2)

/-- R141. XINV: an invalidation begins at every die; each completes it within 64 cycles of receiving the write. -/
def execXinv (v : Word64) (s : State) : Res :=
  fromHost "XINV" s (.next (if v.getLsbD 0 then
      spend 9 { s with xlat := { s.xlat with
        inval := (List.range 9).map fun d => (d, s.cyc + freeBelow s d 65) } }
    else s))

/-- R141. INVALIDATION_COMPLETE: the die's unit holds nothing from before. -/
def execInvalidationComplete (die : Nat) (s : State) : Res :=
  if !(s.xlat.inval.any fun p => p.1 == die) then notEnabled "INVALIDATION_COMPLETE"
  else .next { s with xlat := { s.xlat with
    tu := s.xlat.tu.filter fun e => !decide (e.die = die)
    inval := s.xlat.inval.filter fun p => !(p.1 == die) } }

/-! ### Landing and errors -/

/-- R99–R101. RESULT_LAND: every result due at this issue count is written, in issue order, then the flags; an MSTOP that
takes effect stops its routine (R353). -/
def execResultLand (core : Nat) (s : State) : Res :=
  let s := select core s
  if dueNow s.core = [] then notEnabled "RESULT_LAND"
  else
    let stops := (dueNow s.core).filterMap fun p => match p.eff with
      | .mstop n => some n
      | _ => none
    .next (stops.foldl (fun s n => stopRoutine n s) (landAll s))

/-- R247, R252. MEMERR: an uncorrectable error or a malformed coded block reaches the core and ends the task. -/
def execMemerr (core : Nat) (s : State) : Res :=
  let s := select core s
  match s.core.memerr with
  | none => notEnabled "MEMERR"
  | some (code, addr, pos, slot) =>
    if s.core.phase = .run ∨ s.core.phase = .drain then
      let t : TrapRec := ⟨code, slot, false, true, BitVec.ofNat 56 addr, false⟩
      .next (endTask (.fault code) { s with core := { s.core with
        tcause := code, tepc := pos, tinfo := tinfoOf t false } })
    else .next { s with core := { s.core with memerr := none } }

/-! ### Drain table and boundaries (R254, R255) -/

/-- R254. The text position of the bundle that would issue next. -/
def boundaryPos (s : State) : Nat := s.core.pc.toNat

/-- R255. The search of the drain table from offset `o` on: the stub of the first of `n` entries that covers position `p`, none
where the table ends first; or the address of an entry that is absent or uncorrectable. -/
def drainFrom (s : State) (p : Nat) : Nat → Nat → Except Nat (Option (BitVec 15))
  | 0, _ => .ok none
  | n + 1, o =>
    if 0x200000 < o + 8 then .ok none
    else
      let a := spadBase s.coreNo + o
      match badAddr s a 8 with
      | some b => .error b
      | none =>
        let e := bytesToNat (s.mem.readBytes a 8)
        if natBits e 63 63 = 0 then .ok none
        else if natBits e 14 0 ≤ p ∧ p ≤ natBits e 30 16 then .ok (some (BitVec.ofNat 15 (natBits e 46 32)))
        else drainFrom s p n (o + 8)

/-- R255. The search for the current boundary. -/
def drainFind (s : State) : Except Nat (Option (BitVec 15)) := drainFrom s (boundaryPos s) 256 s.core.draintab.toNat

/-- R254. A drain request can be served at this boundary where the drain table has an entry for it. -/
def drainOpen (s : State) : Bool :=
  decide (s.core.phase = .run) && s.core.drainReq.isSome && !s.core.handler && !(s.core.walks.any fun w => decide (w.since < s.cyc))
    && decide (s.core.delay = .none) && !s.core.inQuote && s.core.entering.isNone && s.core.pastEnd.isNone

/-- R254. The stub to which this boundary diverts, when a drain request can be served here. -/
def drainStub (s : State) : Option (BitVec 15) :=
  if drainOpen s then
    match drainFind s with
    | .ok r => r
    | .error _ => none
  else none

/-- R252. The search of the drain table at this boundary meets an entry that is absent or uncorrectable. -/
def drainBad (s : State) : Option Nat :=
  if drainOpen s then
    match drainFind s with
    | .ok _ => none
    | .error a => some a
  else none

/-- R252, R253. Such an entry ends the task with MEMERR at the position of the boundary; no slot made the access (log 134). -/
def drainError (a : Nat) (s : State) : State := taskErrorAt s.core.pc 0 cMemerr a (classify a s)

/-- R254, R256. DRAIN_DIVERSION: fetch goes to the stub in this cycle. WAITR and WAITOP keep a wait whose freeze it ends. -/
def execDrainDiversion (core : Nat) (s : State) : Res :=
  let s := select core s
  match s.core.drainReq, drainStub s with
  | some r, some stub =>
    let c := s.core
    let w := c.wait.map Wait.image
    let t : TrapRec := ⟨r.cause, 0, false, false, 0, false⟩
    .next { s with core := { c with
      phase := .drain, drainReq := none, drainWhy := r.why, drainAt := s.cyc
      tcause := r.cause, tepc := c.pc, tinfo := tinfoOf t (isClean c c.icnt)
      waitr := w.isSome, waitop := w.getD 0, wait := none, rewait := none
      pausing := false, holding := false, nwait := none, resuming := none, swapping := false
      pc := stub, pastEnd := none } }
  | _, _ => notEnabled "DRAIN_DIVERSION"

/-- R255. A request that found no boundary within 65,536 cycles of its arrival. -/
def deferralDue (s : State) (c : Core) : Bool :=
  decide (c.phase = .run) && (match c.drainReq with
    | some r => decide (r.since + 65536 < s.cyc)
    | none => false)

/-- R255. DRAIN_DEFERRAL_KILL: a kill, whatever asked for the drain. -/
def execDrainDeferralKill (core : Nat) (s : State) : Res :=
  let s := select core s
  match s.core.drainReq with
  | none => notEnabled "DRAIN_DEFERRAL_KILL"
  | some r =>
    if !deferralDue s s.core then notEnabled "DRAIN_DEFERRAL_KILL"
    else .next (endTask (.kill r.cause) s)

/-- R255. A stub that has not issued YIELD or DONE by D + 4,095. -/
def stubDue (s : State) (c : Core) : Bool := decide (c.phase = .drain) && decide (c.drainAt + 4095 < s.cyc)

/-- R255. STUB_TIMEOUT_KILL. -/
def execStubTimeoutKill (core : Nat) (s : State) : Res :=
  let s := select core s
  if !stubDue s s.core then notEnabled "STUB_TIMEOUT_KILL"
  else
    .next (endTask (.kill (if s.core.drainWhy = .overrun then 0x21 else 0x20)) s)

/-! ### Waits (R401–R405) -/

/-- R402. Note the completion of the generation a WAITB watches. -/
def noteSeen (s : State) : State :=
  match s.core.wait with
  | some ⟨.barrier a g b none, i⟩ =>
    if genComplete s a g then
      let r := seenAt s s.cyc b
      { r.2 with core := { r.2.core with wait := some ⟨.barrier a g b (some r.1), i⟩ } }
    else s
  | _ => s

/-- R103, R401. The wait's condition holds in this cycle. -/
def waitOver (s : State) : Bool :=
  match s.core.wait with
  | none => false
  | some w => match w.kind with
    | .barrier _ _ _ (some c) => decide (c ≤ s.cyc)
    | .barrier _ _ _ none => false
    | .remoteBarrier _ _ d => d
    | .token n => decide (rdTok s (BitVec.ofNat 6 n) ≠ .pending)
    | .cycle c => decide (c ≤ s.cyc)

/-- R251. A report is pending that this core may make. -/
def reportDue (s : State) : Bool :=
  decide (s.core.phase = .run) && !s.core.handler && decide (s.core.reports ≠ []) && s.core.entering.isNone

/-- R403–R405. WAIT_RELEASE: the condition holds, or a report ends the freeze. A WAITB that completed acquires its
barrier (R153). -/
def execWaitRelease (core : Nat) (s : State) : Res :=
  let s := select core s
  match s.core.wait with
  | none => notEnabled "WAIT_RELEASE"
  | some w =>
    if waitOver s then
      let s1 := { s with core := { s.core with wait := none } }
      .next (match w.kind with
        | .barrier a _ _ _ => acquire (globalOf s a) s1
        | .remoteBarrier _ a _ => acquire a s1
        | _ => s1)
    else if reportDue s then .next { s with core := { s.core with wait := none } }
    else notEnabled "WAIT_RELEASE"

/-! ### Traps and reports -/

/-- R245. TRAP_ENTRY: the handler's first bundle issues in this cycle. -/
def execTrapEntry (core : Nat) (s : State) : Res :=
  let s := select core s
  match s.core.entering with
  | none => notEnabled "TRAP_ENTRY"
  | some e => if s.core.icnt < e.due then notEnabled "TRAP_ENTRY" else .next (enterHandler e s)

/-- R251. TIMING_REPORT: the earliest pending report is made at the bundle that would issue now, which has no effect; the
others lapse. -/
def execTimingReport (core : Nat) (s : State) : Res :=
  let s := select core s
  match s.core.reports with
  | [] => notEnabled "TIMING_REPORT"
  | t :: _ =>
    if !reportDue s || s.core.wait.isSome then notEnabled "TIMING_REPORT"
    else
      let s1 := lapse { s with core := { s.core with reports := [] } }
      let s2 := takeCause t s1
      .next { s2 with core := { s2.core with icnt := s2.core.icnt + 1, turn := s.cyc + 1 } }

/-! ### After a bundle (R97–R99) -/

/-- R398, R399. A half swap: of the unmarked writes, fetch keeps what the swap shows. -/
def swapHalf (s : State) : State :=
  let c := s.core
  let shown := c.unfetched.filterMap fun p =>
    if (textSpot (p.1 - textBase s.coreNo)).1 == c.half then some p
    else (swapByte s p.1).map fun b => (p.1, [(0, b)])
  { s with core := { c with half := !c.half, unfetched := shown } }

/-- R97. Move the position to `n`; past 32,767 the index that did it is kept. -/
def goTo (n : Nat) (s : State) : State :=
  { s with core := { s.core with
      pc := BitVec.ofNat 15 n, pastEnd := if 32768 ≤ n then some s.core.pc else none } }

/-- R98. A bundle has issued that may be a delay bundle; `n` is the position after it in text order. The target of a taken
branch follows its delay bundle. -/
def afterBundle (n : Nat) (s : State) : State :=
  let c := s.core
  let s1 := match c.redir with
    | none => goTo n s
    | some r =>
      { s with core := { c with
          pc := r.target, pastEnd := none
          swapping := decide (r.kind = RedirKind.swap)
          resuming := match r.kind with
            | .restx w => some w
            | _ => none } }
  { s1 with core := { s1.core with
      redir := c.nextRedir, delay := c.nextDelay, nextRedir := none, nextDelay := .none, inQuote := false } }

/-- One unfrozen cycle of the core has passed. -/
def cycleDone (s : State) : State :=
  { s with core := { s.core with icnt := s.core.icnt + 1, turn := s.cyc + 1 } }

/-- R95, R98. PAUSE: its first empty bundle. As the delay bundle of a taken branch it is the only one. -/
def execPause (n : BitVec 12) (s : State) : Res :=
  let p := s.core.pc.toNat + 1
  .next (cycleDone (
    if s.core.redir.isSome then afterBundle p { s with core := { s.core with pausec := 0, pausing := false } }
    else if n = 0 then afterBundle p { s with core := { s.core with pausec := 0, pausing := false } }
    else { s with core := { s.core with
      pausec := n, pausing := true, delay := .none, redir := s.core.nextRedir, nextRedir := none, nextDelay := .none } }))

/-- R95. QUOTE: its empty bundle; the literal bundle is next, and is the delay bundle where one is due (R98). -/
def execQuote (s : State) : Res := .next (cycleDone { s with core := { s.core with inQuote := true } })

end Sys2Proof.Machine
end

