-- ==== Sys2Proof/Machine/Dispatch.lean ====
section
/-! DEFINITION. One arm for each instruction, in the order of `Instr`: what executing it does. -/

namespace Sys2Proof.Machine

open Host

/-- The meaning of every instruction. -/
def exec (i : Instr) (s : State) : Host.Outcome State Fault Refusal :=
  match i with
  | .ronilorStart a b key => Sys2Proof.Machine.execRonilorStart a b key s
  | .linkTraining ucieOk edge01Ok selfTest01Ok units => Sys2Proof.Machine.execLinkTraining ucieOk edge01Ok selfTest01Ok units s
  | .hbmTraining units => Sys2Proof.Machine.execHbmTraining units s
  | .firmwareLoad images key => Sys2Proof.Machine.execFirmwareLoad images key s
  | .ptpLock elected parent units cxl => Sys2Proof.Machine.execPtpLock elected parent units cxl s
  | .attestationRequest nonce => Sys2Proof.Machine.execAttestationRequest nonce s
  | .moduleReset => Sys2Proof.Machine.execModuleReset s
  | .setModuleId id d ptp time => Sys2Proof.Machine.execSetModuleId id d ptp time s
  | .bootstatFailsWrite v => Sys2Proof.Machine.execBootstatFailsWrite v s
  | .thermalWarning die => Sys2Proof.Machine.execThermalWarning die s
  | .lossOfLock portDown => Sys2Proof.Machine.execLossOfLock portDown s
  | .slotHeaderReceive port slot skew ptp status late => Sys2Proof.Machine.execSlotHeaderReceive port slot skew ptp status late s
  | .flitReceive f => Sys2Proof.Machine.execFlitReceive f s
  | .remoteRequest f id addr op => Sys2Proof.Machine.execRemoteRequest f id addr op s
  | .remoteResponse f id answer => Sys2Proof.Machine.execRemoteResponse f id answer s
  | .ltarm a => Sys2Proof.Machine.execLtarm a s
  | .ltstop v => Sys2Proof.Machine.execLtstop v s
  | .groupActivate g v => Sys2Proof.Machine.execGroupActivate g v s
  | .finjWrite word1 v => Sys2Proof.Machine.execFinjWrite word1 v s
  | .ttArm die t => Sys2Proof.Machine.execTtArm die t s
  | .ttStop die v => Sys2Proof.Machine.execTtStop die v s
  | .ttEntryRead die => Sys2Proof.Machine.execTtEntryRead die s
  | .codePreload core => Sys2Proof.Machine.execCodePreload core s
  | .scratchpadLoad core => Sys2Proof.Machine.execScratchpadLoad core s
  | .taskStart core => Sys2Proof.Machine.execTaskStart core s
  | .loadFailure core => Sys2Proof.Machine.execLoadFailure core s
  | .latePolicy core => Sys2Proof.Machine.execLatePolicy core s
  | .poolPreempt core => Sys2Proof.Machine.execPoolPreempt core s
  | .taskResume core => Sys2Proof.Machine.execTaskResume core s
  | .taskRerun core => Sys2Proof.Machine.execTaskRerun core s
  | .overrun core => Sys2Proof.Machine.execOverrun core s
  | .taskRetire core => Sys2Proof.Machine.execTaskRetire core s
  | .faultLogConfig size v => Sys2Proof.Machine.execFaultLogConfig size v s
  | .poolPost v => Sys2Proof.Machine.execPoolPost v s
  | .poolCancel v => Sys2Proof.Machine.execPoolCancel v s
  | .backgroundPost die => Sys2Proof.Machine.execBackgroundPost die s
  | .registerWrite addr v => Sys2Proof.Machine.execRegisterWrite addr v s
  | .xinv v => Sys2Proof.Machine.execXinv v s
  | .translationMiss core => Sys2Proof.Machine.execTranslationMiss core s
  | .walkComplete core => Sys2Proof.Machine.execWalkComplete core s
  | .slcfgWrite slice v => Sys2Proof.Machine.execSlcfgWrite slice v s
  | .wmodeChangeComplete slice => Sys2Proof.Machine.execWmodeChangeComplete slice s
  | .l2Eviction line => Sys2Proof.Machine.execL2Eviction line s
  | .regionFlush w => Sys2Proof.Machine.execRegionFlush w s
  | .regionFlushComplete entry => Sys2Proof.Machine.execRegionFlushComplete entry s
  | .codedAccess addr len write => Sys2Proof.Machine.execCodedAccess addr len write s
  | .codedWriteback block fails => Sys2Proof.Machine.execCodedWriteback block fails s
  | .memerr core => Sys2Proof.Machine.execMemerr core s
  | .resultLand core => Sys2Proof.Machine.execResultLand core s
  | .waitRelease core => Sys2Proof.Machine.execWaitRelease core s
  | .trapEntry core => Sys2Proof.Machine.execTrapEntry core s
  | .timingReport core => Sys2Proof.Machine.execTimingReport core s
  | .drainDiversion core => Sys2Proof.Machine.execDrainDiversion core s
  | .drainDeferralKill core => Sys2Proof.Machine.execDrainDeferralKill core s
  | .stubTimeoutKill core => Sys2Proof.Machine.execStubTimeoutKill core s
  | .copyStart core => Sys2Proof.Machine.execCopyStart core s
  | .copyComplete core => Sys2Proof.Machine.execCopyComplete core s
  | .cflushComplete core => Sys2Proof.Machine.execCflushComplete core s
  | .routineStart core => Sys2Proof.Machine.execRoutineStart core s
  | .routineComplete core => Sys2Proof.Machine.execRoutineComplete core s
  | .rescaleComplete core => Sys2Proof.Machine.execRescaleComplete core s
  | .collectiveStart die => Sys2Proof.Machine.execCollectiveStart die s
  | .collectiveComplete die ok contrib => Sys2Proof.Machine.execCollectiveComplete die ok contrib s
  | .pause n => Sys2Proof.Machine.execPause n s
  | .add g d a b => Sys2Proof.Machine.execAdd g d a b s
  | .sub g d a b => Sys2Proof.Machine.execSub g d a b s
  | .mul g d a b => Sys2Proof.Machine.execMul g d a b s
  | .mulh g d a b => Sys2Proof.Machine.execMulh g d a b s
  | .mulhu g d a b => Sys2Proof.Machine.execMulhu g d a b s
  | .div g d a b => Sys2Proof.Machine.execDiv g d a b s
  | .divu g d a b => Sys2Proof.Machine.execDivu g d a b s
  | .rem g d a b => Sys2Proof.Machine.execRem g d a b s
  | .remu g d a b => Sys2Proof.Machine.execRemu g d a b s
  | .and g d a b => Sys2Proof.Machine.execAnd g d a b s
  | .or g d a b => Sys2Proof.Machine.execOr g d a b s
  | .xor g d a b => Sys2Proof.Machine.execXor g d a b s
  | .andn g d a b => Sys2Proof.Machine.execAndn g d a b s
  | .shl g d a b => Sys2Proof.Machine.execShl g d a b s
  | .shr g d a b => Sys2Proof.Machine.execShr g d a b s
  | .sar g d a b => Sys2Proof.Machine.execSar g d a b s
  | .rol g d a b => Sys2Proof.Machine.execRol g d a b s
  | .min g d a b => Sys2Proof.Machine.execMin g d a b s
  | .max g d a b => Sys2Proof.Machine.execMax g d a b s
  | .minu g d a b => Sys2Proof.Machine.execMinu g d a b s
  | .maxu g d a b => Sys2Proof.Machine.execMaxu g d a b s
  | .clz g d a => Sys2Proof.Machine.execClz g d a s
  | .popc g d a => Sys2Proof.Machine.execPopc g d a s
  | .pdep g d a b => Sys2Proof.Machine.execPdep g d a b s
  | .pext g d a b => Sys2Proof.Machine.execPext g d a b s
  | .addi g d a imm => Sys2Proof.Machine.execAddi g d a imm s
  | .andi g d a imm => Sys2Proof.Machine.execAndi g d a imm s
  | .ori g d a imm => Sys2Proof.Machine.execOri g d a imm s
  | .xori g d a imm => Sys2Proof.Machine.execXori g d a imm s
  | .shli g d a c => Sys2Proof.Machine.execShli g d a c s
  | .shri g d a c => Sys2Proof.Machine.execShri g d a c s
  | .sari g d a c => Sys2Proof.Machine.execSari g d a c s
  | .lui g d v => Sys2Proof.Machine.execLui g d v s
  | .cmp g d a b cc => Sys2Proof.Machine.execCmp g d a b cc s
  | .cmpi g d a cc imm => Sys2Proof.Machine.execCmpi g d a cc imm s
  | .sel g d a b s1 => Sys2Proof.Machine.execSel g d a b s1 s
  | .glog g d a b op => Sys2Proof.Machine.execGlog g d a b op s
  | .puni g d p => Sys2Proof.Machine.execPuni g d p s
  | .fadd g d a b rnd fmt => Sys2Proof.Machine.execFadd g d a b rnd fmt s
  | .fsub g d a b rnd fmt => Sys2Proof.Machine.execFsub g d a b rnd fmt s
  | .fmul g d a b rnd fmt => Sys2Proof.Machine.execFmul g d a b rnd fmt s
  | .ffma g d a b c rnd fmt => Sys2Proof.Machine.execFfma g d a b c rnd fmt s
  | .fdiv g d a b rnd fmt => Sys2Proof.Machine.execFdiv g d a b rnd fmt s
  | .fsqrt g d a rnd fmt => Sys2Proof.Machine.execFsqrt g d a rnd fmt s
  | .fmin g d a b rnd fmt => Sys2Proof.Machine.execFmin g d a b rnd fmt s
  | .fmax g d a b rnd fmt => Sys2Proof.Machine.execFmax g d a b rnd fmt s
  | .fcvt g d a rnd dfmt sfmt sat => Sys2Proof.Machine.execFcvt g d a rnd dfmt sfmt sat s
  | .fcmp g d a b cc fmt => Sys2Proof.Machine.execFcmp g d a b cc fmt s
  | .ld g d m off => Sys2Proof.Machine.execLd g d m off s
  | .st g b m off => Sys2Proof.Machine.execSt g b m off s
  | .amo g d b m op off => Sys2Proof.Machine.execAmo g d b m op off s
  | .cas g d b m off => Sys2Proof.Machine.execCas g d b m off s
  | .mfs g d sr => Sys2Proof.Machine.execMfs g d sr s
  | .mts g a sr => Sys2Proof.Machine.execMts g a sr s
  | .mtsTemp g a => Sys2Proof.Machine.execMtsTemp g a s
  | .mtsLsc g a => Sys2Proof.Machine.execMtsLsc g a s
  | .mtsLscr g a => Sys2Proof.Machine.execMtsLscr g a s
  | .mtsTripKix g a kix => Sys2Proof.Machine.execMtsTripKix g a kix s
  | .mtsHot g a n => Sys2Proof.Machine.execMtsHot g a n s
  | .mtsRslim g a => Sys2Proof.Machine.execMtsRslim g a s
  | .mtsTcause g a => Sys2Proof.Machine.execMtsTcause g a s
  | .mtsCctr g a => Sys2Proof.Machine.execMtsCctr g a s
  | .mpset g m a imm => Sys2Proof.Machine.execMpset g m a imm s
  | .cdset g n w a => Sys2Proof.Machine.execCdset g n w a s
  | .launch g d a => Sys2Proof.Machine.execLaunch g d a s
  | .vadd v => Sys2Proof.Machine.execVadd v s
  | .vsub v => Sys2Proof.Machine.execVsub v s
  | .vmul v => Sys2Proof.Machine.execVmul v s
  | .vfma v => Sys2Proof.Machine.execVfma v s
  | .vfms v => Sys2Proof.Machine.execVfms v s
  | .vfnma v => Sys2Proof.Machine.execVfnma v s
  | .vdiv v => Sys2Proof.Machine.execVdiv v s
  | .vsqrt v => Sys2Proof.Machine.execVsqrt v s
  | .vmin v => Sys2Proof.Machine.execVmin v s
  | .vmax v => Sys2Proof.Machine.execVmax v s
  | .vabs v => Sys2Proof.Machine.execVabs v s
  | .vneg v => Sys2Proof.Machine.execVneg v s
  | .vexp2 v => Sys2Proof.Machine.execVexp2 v s
  | .vlog2 v => Sys2Proof.Machine.execVlog2 v s
  | .vsqacc v => Sys2Proof.Machine.execVsqacc v s
  | .vcmul v => Sys2Proof.Machine.execVcmul v s
  | .vcfma v => Sys2Proof.Machine.execVcfma v s
  | .vconj v => Sys2Proof.Machine.execVconj v s
  | .vand v => Sys2Proof.Machine.execVand v s
  | .vor v => Sys2Proof.Machine.execVor v s
  | .vxor v => Sys2Proof.Machine.execVxor v s
  | .vshl v => Sys2Proof.Machine.execVshl v s
  | .vshr v => Sys2Proof.Machine.execVshr v s
  | .vsar v => Sys2Proof.Machine.execVsar v s
  | .vcvt v => Sys2Proof.Machine.execVcvt v s
  | .vqnt v => Sys2Proof.Machine.execVqnt v s
  | .vdqnt v => Sys2Proof.Machine.execVdqnt v s
  | .vmxq v => Sys2Proof.Machine.execVmxq v s
  | .vmxd v => Sys2Proof.Machine.execVmxd v s
  | .vmov v => Sys2Proof.Machine.execVmov v s
  | .vbcast v => Sys2Proof.Machine.execVbcast v s
  | .vperm v => Sys2Proof.Machine.execVperm v s
  | .vbitx v => Sys2Proof.Machine.execVbitx v s
  | .vlane v => Sys2Proof.Machine.execVlane v s
  | .vred v => Sys2Proof.Machine.execVred v s
  | .vextr v => Sys2Proof.Machine.execVextr v s
  | .vins v => Sys2Proof.Machine.execVins v s
  | .vcmp v => Sys2Proof.Machine.execVcmp v s
  | .vsel v => Sys2Proof.Machine.execVsel v s
  | .vflag v => Sys2Proof.Machine.execVflag v s
  | .vrnd v => Sys2Proof.Machine.execVrnd v s
  | .plog v => Sys2Proof.Machine.execPlog v s
  | .pmov v => Sys2Proof.Machine.execPmov v s
  | .scmp v => Sys2Proof.Machine.execScmp v s
  | .qlog v => Sys2Proof.Machine.execQlog v s
  | .qnot v => Sys2Proof.Machine.execQnot v s
  | .qblend v => Sys2Proof.Machine.execQblend v s
  | .qcol v => Sys2Proof.Machine.execQcol v s
  | .qhard v => Sys2Proof.Machine.execQhard v s
  | .qmov v => Sys2Proof.Machine.execQmov v s
  | .qgrad v => Sys2Proof.Machine.execQgrad v s
  | .qbgrad v => Sys2Proof.Machine.execQbgrad v s
  | .qpgrad v => Sys2Proof.Machine.execQpgrad v s
  | .gemm m => Sys2Proof.Machine.execGemm m s
  | .gemmt m => Sys2Proof.Machine.execGemmt m s
  | .conv m => Sys2Proof.Machine.execConv m s
  | .cgemm m => Sys2Proof.Machine.execCgemm m s
  | .gate m => Sys2Proof.Machine.execGate m s
  | .accrd m => Sys2Proof.Machine.execAccrd m s
  | .accclr m => Sys2Proof.Machine.execAccclr m s
  | .skinit m => Sys2Proof.Machine.execSkinit m s
  | .skfold m => Sys2Proof.Machine.execSkfold m s
  | .skshrink m => Sys2Proof.Machine.execSkshrink m s
  | .skmerge m => Sys2Proof.Machine.execSkmerge m s
  | .skrd m => Sys2Proof.Machine.execSkrd m s
  | .skwr m => Sys2Proof.Machine.execSkwr m s
  | .userRoutineCall rtn m => Sys2Proof.Machine.execUserRoutineCall rtn m s
  | .userRoutineLoad rtn m => Sys2Proof.Machine.execUserRoutineLoad rtn m s
  | .mstop t => Sys2Proof.Machine.execMstop t s
  | .mstat mp clr => Sys2Proof.Machine.execMstat mp clr s
  | .ldv c1 v b off space => Sys2Proof.Machine.execLdv c1 v b off space s
  | .stv c1 v b off space => Sys2Proof.Machine.execStv c1 v b off space s
  | .ldvs c1 v b s1 tag space => Sys2Proof.Machine.execLdvs c1 v b s1 tag space s
  | .stvs c1 v b s1 space => Sys2Proof.Machine.execStvs c1 v b s1 space s
  | .ldx c1 v b ix space => Sys2Proof.Machine.execLdx c1 v b ix space s
  | .stx c1 v b ix space => Sys2Proof.Machine.execStx c1 v b ix space s
  | .ldt c1 t b p tag cols space => Sys2Proof.Machine.execLdt c1 t b p tag cols space s
  | .stt c1 t b p cols space => Sys2Proof.Machine.execStt c1 t b p cols space s
  | .copy c1 cd time produce k1 k2 k3 => Sys2Proof.Machine.execCopy c1 cd time produce k1 k2 k3 s
  | .arrive c1 a space => Sys2Proof.Machine.execArrive c1 a space s
  | .expect c1 a space k => Sys2Proof.Machine.execExpect c1 a space k s
  | .tokclr c1 t => Sys2Proof.Machine.execTokclr c1 t s
  | .cflush c1 a l inv produce => Sys2Proof.Machine.execCflush c1 a l inv produce s
  | .send port v x => Sys2Proof.Machine.execSend port v x s
  | .recv port v x => Sys2Proof.Machine.execRecv port v x s
  | .recvadd port v x => Sys2Proof.Machine.execRecvadd port v x s
  | .recvsq port v x => Sys2Proof.Machine.execRecvsq port v x s
  | .putsig chan v q => Sys2Proof.Machine.execPutsig chan v q s
  | .ncoll q produce => Sys2Proof.Machine.execNcoll q produce s
  | .nwait x => Sys2Proof.Machine.execNwait x s
  | .br g target => Sys2Proof.Machine.execBr g target s
  | .brc g a => Sys2Proof.Machine.execBrc g a s
  | .call g target => Sys2Proof.Machine.execCall g target s
  | .ret g => Sys2Proof.Machine.execRet g s
  | .loop target => Sys2Proof.Machine.execLoop target s
  | .loopr target d => Sys2Proof.Machine.execLoopr target d s
  | .bswap g target => Sys2Proof.Machine.execBswap g target s
  | .ifence g => Sys2Proof.Machine.execIfence g s
  | .waitb g a gen space => Sys2Proof.Machine.execWaitb g a gen space s
  | .waitt g t => Sys2Proof.Machine.execWaitt g t s
  | .waitc g a n => Sys2Proof.Machine.execWaitc g a n s
  | .hold g a n => Sys2Proof.Machine.execHold g a n s
  | .done g => Sys2Proof.Machine.execDone g s
  | .yield g target => Sys2Proof.Machine.execYield g target s
  | .trap g e => Sys2Proof.Machine.execTrap g e s
  | .ebreak g e => Sys2Proof.Machine.execEbreak g e s
  | .savex g a => Sys2Proof.Machine.execSavex g a s
  | .restx g a => Sys2Proof.Machine.execRestx g a s
  | .acq g a space => Sys2Proof.Machine.execAcq g a space s
  | .rel g a space => Sys2Proof.Machine.execRel g a space s
  | .fence g scope => Sys2Proof.Machine.execFence g scope s
  | .invalidationComplete die => Sys2Proof.Machine.execInvalidationComplete die s
  | .leaveHoldover port => Sys2Proof.Machine.execLeaveHoldover port s
  | .mapPublish => Sys2Proof.Machine.execMapPublish s
  | .bringUpWatchdog => Sys2Proof.Machine.execBringUpWatchdog s
  | .ptpLockTimeout => Sys2Proof.Machine.execPtpLockTimeout s
  | .fenceListClear => Sys2Proof.Machine.execFenceListClear s
  | .thermalStop => Sys2Proof.Machine.execThermalStop s
  | .powerOverloadStop => Sys2Proof.Machine.execPowerOverloadStop s
  | .slotSend => Sys2Proof.Machine.execSlotSend s
  | .signalApply => Sys2Proof.Machine.execSignalApply s
  | .linkTimetableStart => Sys2Proof.Machine.execLinkTimetableStart s
  | .linkTimetableEnd => Sys2Proof.Machine.execLinkTimetableEnd s
  | .poolTake => Sys2Proof.Machine.execPoolTake s
  | .barrierUpdate => Sys2Proof.Machine.execBarrierUpdate s
  | .quote => Sys2Proof.Machine.execQuote s
  | .mnop => Sys2Proof.Machine.execMnop s
  | .cnop => Sys2Proof.Machine.execCnop s
  | .nnop => Sys2Proof.Machine.execNnop s
  | .bnop => Sys2Proof.Machine.execBnop s

end Sys2Proof.Machine
end

