-- ==== Sys2Proof/Machine/Bundle.lean ====
section
/-! DEFINITION. What is known of a bundle before it issues: the fixed landings that two of its operations share (R100,
R112, R289, R318, R340) and the reads of the register array's banks (R106, R107). -/

namespace Sys2Proof.Machine

/-! ### Fixed latencies and destinations (R100, R289) -/

/-- What an operation writes in one landing cycle, as its encoding names it. One rotation is in force for the whole bundle
(R111), so equal names are equal elements. -/
inductive Dst where
  | none
  | s (n : SReg)
  | p (n : PReg)
  | q (n : Nat)
  | vec (k : Kind)
  | tile (t : Nat)
  /-- P8–P15, written by RESTX (R257). -/
  | stages
  /-- HOLDC, written by HOLD and NWAIT (R286, R406). -/
  | holdc
  deriving DecidableEq, Repr

/-- A vector destination. -/
def dstVec (k : Kind) : Dst := if k.isVec then .vec k else .none
/-- A scalar destination; S0 discards. -/
def dstS (n : SReg) : Dst := if n = 0 then .none else .s n
/-- A vector or scalar destination (VRED, VEXTR). -/
def dstVecS (k : Kind) : Dst :=
  match k with
  | .s n => dstS n
  | k => dstVec k
/-- A lane-predicate destination; P0 discards. -/
def dstP (k : Kind) : Dst :=
  match k with
  | .p n => if n = 0 then .none else .p n
  | _ => .none
/-- A probability-predicate destination. -/
def dstQ (k : Kind) : Dst :=
  match k with
  | .q n _ => .q n
  | _ => .none
/-- A destination of PMOV and QMOV. -/
def dstPQV (k : Kind) : Dst :=
  match k with
  | .p n => if n = 0 then .none else .p n
  | .q n _ => .q n
  | k => dstVec k

/-- Tile of a vector. -/
def tileOf : Kind → Option Nat
  | .row t _ => some t
  | .col t _ => some t
  | .diag t _ => some t
  | _ => Option.none

/-- R105. Two vectors of one tile meet unless they have one direction and two indices. -/
def vecMeet (a b : Kind) : Bool :=
  match a, b with
  | .row t i, .row u j => decide (t = u) && decide (i = j)
  | .col t i, .col u j => decide (t = u) && decide (i = j)
  | .diag t i, .diag u j => decide (t = u) && decide (i = j)
  | a, b => decide (tileOf a = tileOf b) && (tileOf a).isSome

/-- R100. Two destinations share an element. -/
def Dst.meet (a b : Dst) : Bool :=
  match a, b with
  | .s m, .s n => decide (m = n)
  | .p m, .p n => decide (m = n)
  | .q m, .q n => decide (m = n)
  | .vec x, .vec y => vecMeet x y
  | .vec x, .tile t => decide (tileOf x = some t)
  | .tile t, .vec x => decide (tileOf x = some t)
  | .tile t, .tile u => decide (t = u)
  | .stages, .p n => decide (8 ≤ n.toNat)
  | .p n, .stages => decide (8 ≤ n.toNat)
  | .holdc, .holdc => true
  | _, _ => false

/-- R289. A V operation's latency, by its resolved format: `i` for integers, `f` for floating formats. -/
def byFmt (s : State) (v : VOp) (i f : Nat) : Nat := if isIntFmt (resFmt s v.fmt) then i else f

/-- R289. The fixed latency of an operation and what it writes then; none for an operation without one. -/
def fixedLanding (s : State) : Instr → Option (Nat × Dst)
  | .add _ d _ _ => some (1, dstS d)
  | .sub _ d _ _ => some (1, dstS d)
  | .and _ d _ _ => some (1, dstS d)
  | .or _ d _ _ => some (1, dstS d)
  | .xor _ d _ _ => some (1, dstS d)
  | .andn _ d _ _ => some (1, dstS d)
  | .shl _ d _ _ => some (1, dstS d)
  | .shr _ d _ _ => some (1, dstS d)
  | .sar _ d _ _ => some (1, dstS d)
  | .rol _ d _ _ => some (1, dstS d)
  | .min _ d _ _ => some (1, dstS d)
  | .max _ d _ _ => some (1, dstS d)
  | .minu _ d _ _ => some (1, dstS d)
  | .maxu _ d _ _ => some (1, dstS d)
  | .clz _ d _ => some (1, dstS d)
  | .popc _ d _ => some (1, dstS d)
  | .addi _ d _ _ => some (1, dstS d)
  | .andi _ d _ _ => some (1, dstS d)
  | .ori _ d _ _ => some (1, dstS d)
  | .xori _ d _ _ => some (1, dstS d)
  | .shli _ d _ _ => some (1, dstS d)
  | .shri _ d _ _ => some (1, dstS d)
  | .sari _ d _ _ => some (1, dstS d)
  | .lui _ d _ => some (1, dstS d)
  | .sel _ d _ _ _ => some (1, dstS d)
  | .mfs _ d _ => some (1, dstS d)
  | .cmp _ _ _ _ _ => some (1, .none)
  | .cmpi _ _ _ _ _ => some (1, .none)
  | .glog _ _ _ _ _ => some (1, .none)
  | .mpset _ _ _ _ => some (1, .none)
  | .cdset _ _ _ _ => some (1, .none)
  | .pdep _ d _ _ => some (2, dstS d)
  | .pext _ d _ _ => some (2, dstS d)
  | .puni _ _ _ => some (2, .none)
  | .fmin _ d _ _ _ _ => some (2, dstS d)
  | .fmax _ d _ _ _ _ => some (2, dstS d)
  | .fcmp _ _ _ _ _ _ => some (2, .none)
  | .mul _ d _ _ => some (3, dstS d)
  | .mulh _ d _ _ => some (3, dstS d)
  | .mulhu _ d _ _ => some (3, dstS d)
  | .fadd _ d _ _ _ _ => some (4, dstS d)
  | .fsub _ d _ _ _ _ => some (4, dstS d)
  | .fmul _ d _ _ _ _ => some (4, dstS d)
  | .ffma _ d _ _ _ _ _ => some (4, dstS d)
  | .fcvt _ d _ _ _ _ _ => some (4, dstS d)
  | .fdiv _ d _ _ _ _ => some (12, dstS d)
  | .fsqrt _ d _ _ _ => some (14, dstS d)
  | .div _ d _ _ => some (18, dstS d)
  | .divu _ d _ _ => some (18, dstS d)
  | .rem _ d _ _ => some (18, dstS d)
  | .remu _ d _ _ => some (18, dstS d)
  | .ld _ d m _ => if m.space = 0 ∧ d ≠ 0 then some (8, dstS d) else none
  | .amo _ d _ m _ _ => if m.space = 0 then some (12, dstS d) else none
  | .cas _ d _ m _ => if m.space = 0 then some (12, dstS d) else none
  | .vadd v => some (byFmt s v 2 4, dstVec (kindOf v.d))
  | .vsub v => some (byFmt s v 2 4, dstVec (kindOf v.d))
  | .vmul v => some (byFmt s v 2 4, dstVec (kindOf v.d))
  | .vfma v => some (4, dstVec (kindOf v.d))
  | .vfms v => some (4, dstVec (kindOf v.d))
  | .vfnma v => some (4, dstVec (kindOf v.d))
  | .vcmul v => some (4, dstVec (kindOf v.d))
  | .vcfma v => some (4, dstVec (kindOf v.d))
  | .vdiv v => some (14, dstVec (kindOf v.d))
  | .vsqrt v => some (16, dstVec (kindOf v.d))
  | .vexp2 v => some (10, dstVec (kindOf v.d))
  | .vlog2 v => some (10, dstVec (kindOf v.d))
  | .vmin v => some (2, dstVec (kindOf v.d))
  | .vmax v => some (2, dstVec (kindOf v.d))
  | .vabs v => some (2, dstVec (kindOf v.d))
  | .vneg v => some (2, dstVec (kindOf v.d))
  | .vconj v => some (2, dstVec (kindOf v.d))
  | .vand v => some (2, dstVec (kindOf v.d))
  | .vor v => some (2, dstVec (kindOf v.d))
  | .vxor v => some (2, dstVec (kindOf v.d))
  | .vshl v => some (2, dstVec (kindOf v.d))
  | .vshr v => some (2, dstVec (kindOf v.d))
  | .vsar v => some (2, dstVec (kindOf v.d))
  | .vbcast v => some (2, dstVec (kindOf v.d))
  | .vins v => some (2, dstVec (kindOf v.d))
  | .vsel v => some (2, dstVec (kindOf v.d))
  | .vflag v => some (2, dstVec (kindOf v.d))
  | .vcvt v => some (3, dstVec (kindOf v.d))
  | .vrnd v => some (3, dstVec (kindOf v.d))
  | .vextr v => some (3, dstVecS (kindOf v.d))
  | .vperm v => some (4, dstVec (kindOf v.d))
  | .vbitx v => some (4, dstVec (kindOf v.d))
  | .vlane v => some (4, dstVec (kindOf v.d))
  | .qblend v => some (4, dstVec (kindOf v.d))
  | .qbgrad v => some (4, dstVec (kindOf v.d))
  | .vqnt v => some (6, dstVec (kindOf v.d))
  | .vdqnt v => some (6, dstVec (kindOf v.d))
  | .vmxq v => some (6, dstVec (kindOf v.d))
  | .vmxd v => some (6, dstVec (kindOf v.d))
  | .qgrad v => some (6, dstVec (kindOf v.d))
  | .qpgrad v => some (6, dstVec (kindOf v.d))
  | .vsqacc v => some (8, dstVec (kindOf v.d))
  | .vred v => some (8, dstVecS (kindOf v.d))
  | .vmov v => some (if isDiag (kindOf v.d) || isDiag (kindOf v.a) then 3 else 2, dstVec (kindOf v.d))
  | .vcmp v => some (2, dstP (kindOf v.d))
  | .plog v => some (2, dstP (kindOf v.d))
  | .qhard v => some (2, dstP (kindOf v.d))
  | .qcol v => some (3, dstP (kindOf v.d))
  | .pmov v => some (2, dstPQV (kindOf v.d))
  | .scmp v => some (6, dstQ (kindOf v.d))
  | .qlog v => some (2, dstQ (kindOf v.d))
  | .qnot v => some (2, dstQ (kindOf v.d))
  | .qmov v => some (2, dstPQV (kindOf v.d))
  | .mstat _ _ => some (2, .none)
  | .ldv _ v _ _ sp =>
    if sp = 1 then some (4, dstVec (kindOf v)) else if sp = 0 ∧ v ≠ 0x1A00 then some (10, dstPQV (kindOf v)) else none
  | .ldvs _ v _ _ _ sp =>
    if sp = 1 then some (4, dstVec (kindOf v)) else if sp = 0 ∧ v ≠ 0x1A00 then some (10, dstPQV (kindOf v)) else none
  | .ldx _ v _ _ sp =>
    if sp = 1 then some (4, dstVec (kindOf v)) else if sp = 0 then some (12, dstVec (kindOf v)) else none
  | .ldt _ t _ _ _ _ sp => if sp = 1 then some (36, .tile t.toNat) else if sp = 0 then some (42, .tile t.toNat) else none
  | .recv _ v _ => some (6, dstVec (kindOf v))
  | .recvadd _ v _ => some (8, dstVec (kindOf v))
  | .recvsq _ v _ => some (8, dstVec (kindOf v))
  | .hold _ _ _ => some (1, .holdc)
  | .nwait _ => some (1, .holdc)
  | .restx _ _ => some (2, .stages)
  | .loop _ => some (2, .none)
  | .loopr _ _ => some (2, .none)
  | _ => none

/-- R100. Two operations of one bundle write a common element in one cycle. -/
def clash (s : State) (i j : Instr) : Bool :=
  match fixedLanding s i, fixedLanding s j with
  | some (l, x), some (m, y) => decide (l = m) && x.meet y
  | _, _ => false

/-- R370. A load, whose predicate destination no rule forbids beside a LOOPR. -/
def isLoad : Instr → Bool
  | .ldv _ _ _ _ _ => true
  | .ldvs _ _ _ _ _ _ => true
  | _ => false

/-- R318, R340. A VCMP or an operation of chapter 17 that writes one of P8–P15, which a LOOPR of its bundle forbids. -/
def writesStage (s : State) (i : Instr) : Bool :=
  match fixedLanding s i with
  | some (_, .p n) => decide (8 ≤ n.toNat) && !isLoad i
  | _ => false

def isLoopr : Instr → Bool
  | .loopr _ _ => true
  | _ => false

/-- R290. The operation issues: only the S slot has a guard of the whole operation. -/
def guardHolds (s : State) (k w : Nat) : Bool := k != 1 || guardOn s ⟨bit 39 w, fld 4 35 w⟩

/-! ### Bank reads (R106, R107) -/

/-- The vector operands an operation reads, as R106 counts them. -/
def bankOperands : Instr → List Kind
  | .vadd v => [kindOf v.a, kindOf v.b]
  | .vsub v => [kindOf v.a, kindOf v.b]
  | .vmul v => [kindOf v.a, kindOf v.b]
  | .vdiv v => [kindOf v.a, kindOf v.b]
  | .vmin v => [kindOf v.a, kindOf v.b]
  | .vmax v => [kindOf v.a, kindOf v.b]
  | .vcmul v => [kindOf v.a, kindOf v.b]
  | .vand v => [kindOf v.a, kindOf v.b]
  | .vor v => [kindOf v.a, kindOf v.b]
  | .vxor v => [kindOf v.a, kindOf v.b]
  | .vshl v => [kindOf v.a, kindOf v.b]
  | .vshr v => [kindOf v.a, kindOf v.b]
  | .vsar v => [kindOf v.a, kindOf v.b]
  | .vperm v => [kindOf v.a, kindOf v.b]
  | .vcmp v => [kindOf v.a, kindOf v.b]
  | .vsel v => [kindOf v.a, kindOf v.b]
  | .scmp v => [kindOf v.a, kindOf v.b]
  | .qblend v => [kindOf v.a, kindOf v.b]
  | .qgrad v => [kindOf v.a, kindOf v.b]
  | .qbgrad v => [kindOf v.a, kindOf v.b]
  | .vfma v => [kindOf v.a, kindOf v.b, kindOf v.d]
  | .vfms v => [kindOf v.a, kindOf v.b, kindOf v.d]
  | .vfnma v => [kindOf v.a, kindOf v.b, kindOf v.d]
  | .vcfma v => [kindOf v.a, kindOf v.b, kindOf v.d]
  | .vsqacc v => [kindOf v.a, kindOf v.d]
  | .vsqrt v => [kindOf v.a]
  | .vabs v => [kindOf v.a]
  | .vneg v => [kindOf v.a]
  | .vexp2 v => [kindOf v.a]
  | .vlog2 v => [kindOf v.a]
  | .vconj v => [kindOf v.a]
  | .vcvt v => [kindOf v.a]
  | .vqnt v => [kindOf v.a]
  | .vdqnt v => [kindOf v.a]
  | .vmxq v => [kindOf v.a]
  | .vmxd v => [kindOf v.a]
  | .vmov v => [kindOf v.a]
  | .vbcast v => [kindOf v.a]
  | .vbitx v => [kindOf v.a]
  | .vlane v => [kindOf v.a]
  | .vred v => [kindOf v.a]
  | .vextr v => [kindOf v.a]
  | .pmov v => [kindOf v.a]
  | .qmov v => [kindOf v.a]
  | .stv _ v _ _ _ => [kindOf v]
  | .stvs _ v _ _ _ => [kindOf v]
  | .stx _ v _ i _ => [kindOf v, kindOf i]
  | .ldx _ _ _ i _ => [kindOf i]
  | .send _ v _ => [kindOf v]
  | .putsig _ v _ => [kindOf v]
  | .recvadd _ v _ => [kindOf v]
  | .recvsq _ v _ => [kindOf v]
  | _ => []

/-- R107. An enabled HOT entry names this physical row or column. -/
def mirrored (c : Core) (k : Kind) : Bool :=
  let hit := fun (t i d : Nat) => (List.range 8).any fun n =>
    let h := (mget 0 c.hot n).toNat
    decide (natBits h 15 15 = 1) && decide (natBits h 10 6 = t) && decide (natBits h 11 11 = d)
      && decide (natBits h 5 0 = physI c t i)
  match k with
  | .row t i => hit t i 0
  | .col t i => hit t i 1
  | _ => false

/-- R106. Reads that have to use bank `b`. -/
def fixedReads (c : Core) (ks : List Kind) (b : Nat) : Nat :=
  (ks.map fun k => match tileOf k with
    | some t => if t % 4 = b ∧ !mirrored c k then (if isDiag k then 2 else 1) else 0
    | none => 0).foldl (fun x y => x + y) 0

/-- R107. Reads of mirrored vectors, which may use bank `b` or `b + 2`, for `b` 0 or 1. -/
def freeReads (c : Core) (ks : List Kind) (b : Nat) : Nat :=
  (ks.filter fun k => match tileOf k with
    | some t => decide (t % 2 = b) && mirrored c k
    | none => false).length

/-- R106. The banks that no assignment keeps at two reads. -/
def overloaded (c : Core) (ks : List Kind) : List Nat :=
  (List.range 4).filter fun b =>
    let p := b % 2
    decide (2 < fixedReads c ks b)
      || decide (4 < fixedReads c ks p + fixedReads c ks (p + 2) + freeReads c ks p)

/-- R106, R247. REG_BANK, where it faults; which of several overloaded banks DETAIL names is not stated. -/
def bankCause (s : State) (is : List Instr) : Option TrapRec :=
  let bs := overloaded s.core (is.flatMap bankOperands)
  if bs = [] then none
  else some ⟨BitVec.ofNat 8 cRegBank, 0, true, false, BitVec.ofNat 56 (bs.getD (freeBelow s 0 bs.length) 0), false⟩

end Sys2Proof.Machine
end

