-- ==== Sys2Proof/Machine/Issue.lean ====
section
/-! DEFINITION. What happens next: the events that come due of themselves, a core's turn of one cycle (R94–R103), the issue of
a bundle with its causes by priority (R245–R250), the fetch, and the passing of a cycle (R36). -/

namespace Sys2Proof.Machine

open Host

/-! ### A bundle's operations and causes (R94, R250, R278) -/

/-- A slot of a bundle that is not its no-op: its number, its word and the operation (none: ILLEGAL_OP). -/
structure SlotOp where
  k : Nat
  w : Nat
  i : Option Instr
  deriving DecidableEq, Repr

/-- R94, R278. The slots of a bundle that hold operations, in slot order. -/
def slotsOf (b : Nat) : List SlotOp :=
  ((List.range 8).filter fun k => decide (slotWord b k ≠ 0)).map fun k => ⟨k, slotWord b k, decodeSlot k (slotWord b k)⟩

/-- R250. The op field of a slot word. -/
def opField (k w : Nat) : Nat :=
  if k = 1 then w / 2 ^ 40 else if k = 2 ∨ k = 3 then w / 2 ^ 54 else if k = 4 then w / 2 ^ 42 else w / 2 ^ 34

/-- ILLEGAL_OP of a slot. -/
def illegalOp (x : SlotOp) : TrapRec :=
  ⟨BitVec.ofNat 8 cIllegalOp, BitVec.ofNat 3 x.k, false, false, BitVec.ofNat 56 (opField x.k x.w), false⟩

/-- The cause that an operation raises by itself. -/
def raisedBy (s : State) (i : Instr) : Option TrapRec :=
  match exec i s with
  | .next t => t.core.raised
  | _ => none

/-- R249, R250, R407. A TRAP or EBREAK of the bundle traps or ends the task: as the B slot's it comes before every cause of the
slots after it and before every walk. -/
def trapFirst (s : State) (ops : List SlotOp) : Bool :=
  ops.any fun x => match x.i with
    | some (.trap g _) => guardOn s g
    | some (.ebreak g _) => guardOn s g
    | _ => false

/-- R246. TRAP's or EBREAK's own cause, with which the other slots take effect. -/
def isOwnTrap (t : TrapRec) : Bool := decide (t.code = BitVec.ofNat 8 cTrapi) || decide (t.code = BitVec.ofNat 8 cBreak)

/-- R100. Slots that fault ILLEGAL_OP for an element written with another slot; which of the two is reported is not stated. -/
def clashSlots (s : State) (ops : List SlotOp) : List Nat :=
  ops.flatMap fun x => ops.filterMap fun y =>
    match x.i, y.i with
    | some i, some j => if x.k < y.k ∧ clash s i j then some (if freeBit s 1 then x.k else y.k) else none
    | _, _ => none

/-- R250. ILLEGAL_OP in any slot: the word, an element written twice, a stage predicate beside LOOPR, or the operation's
own check. -/
def illegalCause (s : State) (ops : List SlotOp) (alone : List (Option TrapRec)) : Option TrapRec :=
  let cs := clashSlots s ops
  let looping := ops.any fun x => match x.i with
    | some i => isLoopr i
    | none => false
  (List.zip ops alone).findSome? fun x =>
    match x.1.i with
    | none => some (illegalOp x.1)
    | some i =>
      if cs.contains x.1.k || (looping && writesStage s i) then some (illegalOp x.1)
      else match x.2 with
        | some t => if t.code = BitVec.ofNat 8 cIllegalOp then some t else none
        | none => none

/-- R250. The issue-time cause that a bundle reports, from the causes of its operations alone. -/
def bundleCause (s : State) (ops : List SlotOp) : Option TrapRec :=
  let alone := ops.map fun x => x.i.bind (raisedBy s)
  match illegalCause s ops alone with
  | some t => some t
  | none => match bankCause s (ops.filterMap SlotOp.i) with
    | some t => some t
    | none => if trapFirst s ops then none else (alone.filterMap id).find? fun t => !t.byWalk

/-- A bundle being issued: the state so far, a cause found only in sequence, the first failed walk with the walks up to
it, TRAP's or EBREAK's own cause, and an outcome that is no state. -/
structure Issuing where
  st : State
  cause : Option TrapRec
  walk : Option (List Walk × TrapRec)
  own : Option TrapRec
  stop : Option (Host.Outcome State Fault Refusal)

/-- R245. An operation of fixed latency counts for H and CLEAN until it lands, whatever it writes. -/
def countLanding (b : State) (x : SlotOp) (i : Instr) (s : State) : State :=
  match fixedLanding b i with
  | some (l, _) => if guardHolds b x.k x.w then put l .nothing s else s
  | none => s

/-- One more operation of a bundle; `b` is the state the bundle issues in. Beside a TRAP or EBREAK (`trap`), an operation that has
a cause or a failed walk of its own has no effect (log 114). -/
def issueSlot (trap : Bool) (b : State) (a : Issuing) (x : SlotOp) : Issuing :=
  match a.stop, a.cause, x.i with
  | none, none, some i =>
    match exec i a.st with
    | .next t =>
      match t.core.raised with
      | none => { a with st := countLanding b x i t }
      | some r =>
        let t1 := { t with core := { t.core with raised := none } }
        if isOwnTrap r then { a with st := t1, own := some r }
        else if trap then a
        else if r.byWalk then
          { a with st := t1, walk := match a.walk with
              | none => some (t.core.walks, r)
              | some w => some w }
        else { a with cause := some r }
    | o => { a with stop := some o }
  | _, _, _ => a

/-- The state in which a bundle issues: what its operations must not see of one another is fixed here (R123, R396). -/
def startBundle (s : State) : State :=
  { s with core := { s.core with
      bold := [], rsd0 := s.core.rsdepth, h0 := s.core.rs.length, nextRedir := none, nextDelay := .none, raised := none } }

/-- Draws set aside for what a bundle that traps has drawn. -/
def trapDraws : Nat := 2 * engDraws

/-- R245. The bundle traps: none of its operations takes effect. -/
def faulted (t : TrapRec) (pos : BitVec 15) (b : State) : State :=
  cycleDone (takeCauseAt b.core.icnt pos t (lapse (spend trapDraws b)))

/-- R245, R246, R248. TRAP or EBREAK: the other slots have taken effect in `s`; TEPC is the position `n` that follows, which
is free past the end of the text. -/
def ownTrap (t : TrapRec) (n : Nat) (b s : State) : State :=
  let pos := if n < 32768 then BitVec.ofNat 15 n else BitVec.ofNat 15 (freeBelow s 0 32768)
  let clean := isClean s.core (b.core.icnt + 1) && !s.core.holding
  let s1 := lapse (spend 1 s)
  cycleDone (
    if s.core.handler || decide (s.core.phase = .drain) then
      endTask (.fault t.code) { s1 with core := { s1.core with tcause := t.code, tepc := pos, tinfo := tinfoOf t clean } }
    else
      { s1 with core := { s1.core with
          entering := some { cause := t, tepc := pos, clean := clean, due := Nat.max (b.core.icnt + 1) (latestLanding b.core) } } })

/-- R86, R258. After the last operation of a bundle that ended or suspended the task: nothing of the engine's buffer is
left to start, and a free core has nothing in flight. -/
def settleEnd (s : State) : State :=
  match s.core.phase, s.core.ending with
  | .ended, some .done => s
  | .ended, _ => discardBte s
  | .idle, _ =>
    let s1 := discardBte s
    { s1 with core := { s1.core with pend := [], walks := [] } }
  | _, _ => s

/-- How late among the operations of a bundle one is taken: ACQ and FENCE after every access of their bundle (R153–R156), an MTS to
LSC after an MCALL, whose routine may be the first to fill an accumulator or a sketch (R191, R192, log 65), and DONE last, so that
no other operation reads what the end of the task leaves (R407). -/
def SlotOp.turn (x : SlotOp) : Nat :=
  match x.i with
  | some (.done _) => 2
  | some (.acq _ _ _) => 1
  | some (.fence _ _) => 1
  | some (.mtsLsc _ _) => 1
  | _ => 0

/-- R100, R289. The order in which the operations of a bundle are taken: slot order, but for what is taken late. -/
def effectOrder (ops : List SlotOp) : List SlotOp := (List.range 3).flatMap fun n => ops.filter fun x => decide (x.turn = n)

/-- R94–R103, R245–R250. A bundle issues; `n` is the position that follows it in text order. -/
def issueBundle (w n : Nat) (s : State) : Res :=
  let b := startBundle s
  let ops := slotsOf w
  match bundleCause b ops with
  | some t => .next (faulted t (trapPos b.core) b)
  | none =>
    let a := (effectOrder ops).foldl (issueSlot (trapFirst b ops) b) ⟨b, none, none, none, none⟩
    match a.stop, a.cause, a.walk, a.own with
    | some o, _, _, _ => o
    | none, some t, _, _ => .next (faulted t (trapPos b.core) b)
    | none, none, some (ws, t), _ =>
      .next (cycleDone (lapse (spend trapDraws { b with core := { b.core with walks := ws, raised := some t } })))
    | none, none, none, some t => .next (ownTrap t n b a.st)
    | none, none, none, none => .next (cycleDone (afterBundle n (settleEnd a.st)))

/-! ### Fetch (R95–R98) -/

/-- ILLEGAL_INDEX (R97, R250). -/
def illegalIndex (detail : Nat) (pos : BitVec 15) (s : State) : State :=
  faulted ⟨BitVec.ofNat 8 cIllegalIndex, 0, true, false, BitVec.ofNat 56 detail, false⟩ pos s

/-- R96. The 48 bytes of a lexeme. -/
def lexemeWord (s : State) (n : Nat) : Nat := bytesToNat ((List.range 48).map fun i => fetchByte s (0x10000 + 48 * n + i))

/-- R8, R95. The literal of a quote at position `p`: the next 24 indices. -/
def literalWord (s : State) (p : Nat) : Nat := bytesToNat ((List.range 48).map fun i => fetchByte s (2 * p + 2 + i))

/-- R97. The first position past the half that holds position `p`. -/
def halfEnd (p : Nat) : Nat := if p < 16384 then 16384 else 32768

/-- R95–R97. Fetch at the PC, and issue what stands there. -/
def fetch (s : State) : Res :=
  let c := s.core
  let p := c.pc.toNat
  if c.pastEnd.isSome || !inHalf c p then .next (illegalIndex 0 (trapPos c) s)
  else if c.inQuote then
    if halfEnd p < p + 25 then
      .next (illegalIndex 0 (if p < 16384 then BitVec.ofNat 15 16384 else c.pc) s)
    else issueBundle (literalWord s p) (p + 25) s
  else
    match decodeIndex (indexAt s p) with
    | .lexeme n =>
      if decide (2048 ≤ n) != c.half then .next (illegalIndex (indexAt s p) c.pc s)
      else issueBundle (lexemeWord s n) (p + 1) s
    | .instr i => exec i s
    | .illegal => .next (illegalIndex (indexAt s p) c.pc s)

/-- R399. In the cycle its target issues, a BSWAP swaps the halves. -/
def arrive (s : State) : State :=
  if s.core.swapping then swapHalf { s with core := { s.core with swapping := false } } else s

/-- What issues in an issue cycle: a wait that RESTX re-issues (R257), an empty bundle of a hold (R286, R406) or of a pause
(R95), or what the PC names. -/
def issueNext (s : State) : Res :=
  let c := s.core
  match c.rewait with
  | some w => issueBundle (slotPlace 0 w.toNat) c.pc.toNat { s with core := { c with rewait := none } }
  | none =>
    let clear := { s with core := { c with holding := false, nwait := none } }
    let left := holdLeft s
    if c.holding && decide (left ≠ 0) then
      .next (cycleDone { s with core := { c with holdc := BitVec.ofNat 32 (left - 1) } })
    else if c.pausing && decide (c.pausec ≠ 0) then
      let s1 := { clear with core := { clear.core with pausec := c.pausec - 1 } }
      .next (cycleDone (
        if c.pausec = 1 then afterBundle (c.pc.toNat + 1) { s1 with core := { s1.core with pausing := false } } else s1))
    else fetch (arrive clear)

/-! ### A core's turn (R103, R245, R251–R255, R401–R405) -/

/-- R103. A frozen cycle. -/
def frozen (s : State) : State := { s with core := { s.core with frzc := s.core.frzc + 1, turn := s.cyc + 1 } }

/-- R254, R93. A drain request of this very cycle gives way to a fault or a DONE of the bundle that would issue. -/
def divertOr (g : Nat) (s : State) : Res :=
  let now := match s.core.drainReq with
    | some r => decide (r.last = s.cyc)
    | none => false
  if now then
    match issueNext s with
    | .next t =>
      if t.core.entering.isSome || t.core.raised.isSome || decide (t.core.phase = .ended) then .next t
      else exec (.drainDiversion g) s
    | o => o
  else exec (.drainDiversion g) s

/-- A bundle boundary of the current core `g`. -/
def boundary (g : Nat) (s : State) : Res :=
  let report := reportDue s
  match drainStub s, drainBad s with
  | _, some a =>
    if s.core.wait.isSome && (waitOver s || report) then exec (.waitRelease g) s
    else if report then exec (.timingReport g) (arrive s)
    else .next (drainError a s)
  | stub, none =>
    if s.core.wait.isSome then
      if waitOver s || report then exec (.waitRelease g) s
      else if stub.isSome then exec (.drainDiversion g) s
      else .next (frozen s)
    else if report then exec (.timingReport g) (arrive s)
    else if stub.isSome then divertOr g s
    else issueNext s

/-- R257. The target of a RESTX is next: the wait, the hold and the pause that the record holds. -/
def resumeAt (w : Option (BitVec 40)) (s : State) : State :=
  { s with core := { s.core with
      resuming := none, rewait := w, nwait := none, holdPos := none
      pausing := decide (s.core.pausec ≠ 0), holding := decide (s.core.holdc ≠ 0) } }

/-- R47. A remote access that its bound has passed without an answer. -/
def unanswered (s : State) (g : Nat) : Option RemoteAcc :=
  s.fab.accs.find? fun a => decide (a.core = g) && decide (a.deadline ≤ s.core.icnt)

/-- R140. What the walks of core `g` ask for in this cycle: a miss freezes the core from the cycle after it. -/
def walkTurn (g : Nat) (s : State) : Option Res :=
  match walkNow s.core with
  | some w => some (if w.ends.getD 0 ≤ s.cyc then exec (.walkComplete g) s else .next (frozen s))
  | none => if s.core.walks.any fun w => decide (w.since < s.cyc) then some (exec (.translationMiss g) s) else none

/-- One thing that core `g` does in this cycle: what has to come before a bundle first, then the bundle or empty cycle. No
result lands in a cycle that a wait freezes (R103). -/
def coreTurn (g : Nat) (s : State) : Res :=
  let s := select g s
  let c := s.core
  match unanswered s g, walkTurn g s with
  | some a, _ =>
    let s1 := { s with fab := { s.fab with accs := s.fab.accs.filter fun x => !decide (x = a) } }
    .next (if isAwaited c a.id a.dst then remoteError a s1 else s1)
  | none, some r => r
  | none, none =>
    if c.memerr.isSome then exec (.memerr g) s
    else if c.wait.isSome && (decide (c.phase = .run) || decide (c.phase = .drain)) then boundary g s
    else if dueNow c ≠ [] then exec (.resultLand g) s
    else if c.phase = .ended ∨ c.phase = .idle then .next (cycleDone s)
    else
      match c.entering, c.resuming with
      | some e, _ => if c.icnt < e.due then .next (cycleDone s) else exec (.trapEntry g) s
      | none, some w => .next (resumeAt w s)
      | none, none => boundary g s

/-- Core `g` has something to do in this cycle. -/
def hasTurn (s : State) (g : Nat) : Bool :=
  let c := coreAt s g
  decide (c.turn ≤ s.cyc)
    && (match c.phase with
      | .run => true
      | .drain => true
      | .idle => false
      | .ended => decide (c.pend ≠ []) || decide (c.walks ≠ []) || c.memerr.isSome || accessing s g)

/-- The lowest-numbered core whose turn it is. -/
def turnOf (s : State) : Option Nat := (liveCores s).find? (hasTurn s)

/-! ### Events that come due of themselves -/

/-- Search the live cores in order. -/
def eachCore (f : State → Nat → Option Instr) (s : State) : Option Instr :=
  (liveCores s).findSome? fun g => f (select g s) g

/-- `some i` when the test holds. -/
def eventIf (b : Bool) (i : Instr) : Option Instr := if b then some i else none

/-- Completions on a core (R192, R354, R381, R384). -/
def completionDue (s : State) (g : Nat) : Option Instr :=
  eventIf (finished s).isSome (.routineComplete g)
    <|> eventIf (match s.core.rescale with
      | some (t, _) => decide (t ≤ s.cyc)
      | none => false) (.rescaleComplete g)
    <|> eventIf (doneCmd false s).isSome (.copyComplete g)
    <|> eventIf (doneCmd true s).isSome (.cflushComplete g)

/-- R99, R103. Results of the current core `g` are still to land in this cycle, in its turn. -/
def landsNow (s : State) (g : Nat) : Bool :=
  let c := s.core
  hasTurn s g && decide (dueNow c ≠ []) && c.memerr.isNone && (unanswered s g).isNone && (walkTurn g s).isNone
    && (c.wait.isNone || decide (c.phase = .ended) || waitOver s || reportDue s || (drainStub s).isSome)

/-- R353, R367, R375. What a core's engines do of a cycle before the core, but after its results have landed, a token among
them: a start that fails, a microword. -/
def engineDue (s : State) (g : Nat) : Option Instr :=
  if landsNow s g then none
  else eventIf (startable false s).isSome (.routineStart g) <|> eventIf (nextCmd false s).isSome (.copyStart g)

/-- R353, R375. The starts of a core's engines, which come after the bundle that issues in their cycle. -/
def startsDue (s : State) (g : Nat) : Option Instr :=
  eventIf (startable true s).isSome (.routineStart g) <|> eventIf (nextCmd true s).isSome (.copyStart g)

/-- R81. The reload of the suspended task is complete. -/
def reloadDue (s : State) (c : Core) : Bool :=
  match c.susp with
  | none => false
  | some x => match x.reload with
    | none => false
    | some t => decide (t ≤ s.cyc) && !x.failed && !s.boot.tstop && decide (c.phase = .idle)

/-- R427. A load or a reload has failed. -/
def loadFailed (c : Core) : Bool :=
  (c.queue.any fun q => q.failed) || (match c.susp with
    | some x => x.failed
    | none => false)

/-- What the scheduler does with a core in this cycle, in the order of the events' rules (R79–R93, R255, R427). -/
def schedDue (s : State) (g : Nat) : Option Instr :=
  let c := s.core
  let fresh := decide (c.turn ≤ s.cyc)
  eventIf (deferralDue s c) (.drainDeferralKill g)
    <|> eventIf (stubDue s c) (.stubTimeoutKill g)
    <|> eventIf (fresh && overrunDue s c) (.overrun g)
    <|> eventIf (lateIdx s c).isSome (.latePolicy g)
    <|> eventIf (fresh && preemptDue s c) (.poolPreempt g)
    <|> eventIf (loadFailed c) (.loadFailure g)
    <|> eventIf (retireDue s g c) (.taskRetire g)
    <|> eventIf (preloadIdx c).isSome (.codePreload g)
    <|> eventIf (spadLoadDue s c) (.scratchpadLoad g)
    <|> eventIf (startDue false s c) (.taskStart g)
    <|> eventIf (startDue true s c) (.taskRerun g)
    <|> eventIf (resumeDue s c || reloadDue s c) (.taskResume g)

/-- The die of something due. -/
def eachDie (p : Nat → Bool) (i : Nat → Instr) : Option Instr := ((List.range 9).find? p).map i

/-- R73. A die's walker reads its next entry in this cycle. -/
def readDue (s : State) (d : Nat) : Bool :=
  let t := ttOf s d
  t.run && t.reading && decide (readCycle s t ≤ s.cyc)

/-- The link timetables' ends and beginnings (R44, R425). -/
def tableDue (s : State) : Option Instr :=
  eventIf (startingTable s).isSome .linkTimetableStart <|> eventIf (tableStops s) .linkTimetableEnd

/-- Collectives that were cut off complete done-error (R425); the next ones start (R389). -/
def collDue (s : State) : Option Instr :=
  if s.colls = [] then none
  else eachDie (fun d => (cutColl s d).isSome) (fun d => .collectiveComplete d false [])
    <|> eachDie (fun d => (startColl s d).isSome) .collectiveStart

/-- R130, R205. What replacement has taken out of L2 leaves it. -/
def evictionDue (s : State) : Option Instr :=
  (evicted s).map fun e => match e.2 with
    | none => .l2Eviction e.1
    | some b => .codedWriteback b.1 false

/-- Events of the module that are neither a core's nor a port's. -/
def moduleDue (s : State) : Option Instr :=
  eventIf (lockLost s) (.lossOfLock false) <|> (s.fab.parent.bind fun p => eventIf (s.fab.hold && s.fab.backIn) (.leaveHoldover p))
    <|> eventIf (decide (readyUpdates s ≠ [])) .barrierUpdate
    <|> ((s.xlat.inval.find? fun p => decide (p.2 ≤ s.cyc)).map fun p => .invalidationComplete p.1)
    <|> (if s.runs = [] then none else eachDie (fun d => (postDue s d).isSome) .backgroundPost)
    <|> (if s.pool.entries = [] then none else eventIf (takeDue s) .poolTake)
    <|> ((s.wchange.find? fun w => decide (w.2.2 ≤ s.cyc)).map fun w => .wmodeChangeComplete w.1)
    <|> (((s.region.map Prod.fst).find? (flushDue s)).map .regionFlushComplete)

/-- R57, R73. A walker reads, before any task starts: an entry that breaks the tick order stops the timetable at once. -/
def walkerDue (s : State) : Option Instr := if s.tt = [] then none else eachDie (readDue s) .ttEntryRead

/-- The next event that is due in this cycle, before any core's turn (log 2). -/
def dueEvent (s : State) : Option Instr :=
  evictionDue s <|> tableDue s <|> eachCore completionDue s <|> eachCore engineDue s <|> collDue s
    <|> eventIf (sigAct s).isSome .signalApply <|> walkerDue s <|> eachCore schedDue s <|> moduleDue s

/-- The events of this cycle that come after every core's turn: the engines' starts, and the slot that begins, whose COPY
entries take a command that starts now (R45). -/
def lastEvent (s : State) : Option Instr := eachCore startsDue s <|> eventIf (slotDue s) .slotSend

/-! ### The step (logs 2, 3) -/

/-- R402. Every core that waits notes what the homes have completed in this cycle. -/
def noteAll (s : State) : State :=
  (liveCores s).foldl (fun s g => if (coreAt s g).wait.isSome then noteSeen (select g s) else s) s

/-- R36. CYC counts once it is set at lock, in holdover too. -/
def tick (s : State) : State :=
  if s.fab.lock || s.fab.hold then
    let s1 := noteAll s
    { s1 with cyc := s1.cyc + 1 }
  else s

/-- R381. The next single write of a running command that lands in this cycle, with the core. -/
def writeDue (s : State) : Option (Nat × Running × Nat × WriteUnit) :=
  (liveCores s).findSome? fun g => (landDue s g).map fun x => (g, x)

/-- What the module does of itself: a write of a running command, a request that need wait no longer (R47), an event that is due, a
core's turn, an event after the cores, or the next cycle. -/
def internal (s : State) : Res :=
  match writeDue s, heldDue s with
  | some (g, r, w), _ => .next (landWrite g r w s)
  | none, some q => .next (queueHeld q s)
  | none, none =>
    match dueEvent s with
    | some i => exec i s
    | none =>
      match turnOf s with
      | some g => coreTurn g s
      | none =>
        match lastEvent s with
        | some i => exec i s
        | none => .next (tick s)

/-- What the outside does to storage, or what the module does of itself. -/
def noInput (s : State) : Res :=
  match hostDue s with
  | some x => .next (hostAct x { s with hostq := s.hostq.drop 1 })
  | none => internal s

/-- One step: an input that is due, or what comes next without one. -/
def nextStep (s : State) : Res :=
  match s.inputs with
  | (t, i) :: rest => if t ≤ s.cyc then exec i { s with inputs := rest } else noInput s
  | [] => noInput s

/-! ### Placing one instruction (log 3) -/

/-- The current core as it stands before the fetch of a bundle at position `p`, with nothing before it. -/
def readyCore (p : Nat) (c : Core) : Core :=
  { c with
    phase := .run, turn := 0, pc := BitVec.ofNat 15 p, pastEnd := none, redir := none, delay := .none
    swapping := false, inQuote := false, pausing := false, holding := false, holdPos := none, nwait := none, resuming := none
    pend := [], wait := none, rewait := none, walks := [], raised := none, entering := none, reports := []
    memerr := none, drainReq := none, task := none, queue := [], susp := none, bte := [], running := [], rtns := [], rescale := none
    unfetched := [] }

/-- The module with nothing due in this cycle but the current core's fetch. -/
def quiet (s : State) : State :=
  { s with
    inputs := [], hostq := [], others := [], evq := [], tt := [], runs := [], barq := [], colls := [], wchange := []
    region := s.region.foldl (fun m r => mset Region.none m r.1 { r.2 with fbusy := none }) []
    pool := { s.pool with entries := [] }
    xlat := { s.xlat with inval := [] }
    fab := { s.fab with
      pending := [], stopAt := none, sigs := [], rsigs := [], accs := [], heldReqs := [], parent := none, backIn := false
      sentThrough := Nat.max s.fab.sentThrough (s.cyc / 88 + 1) } }

/-- The text position at which an instruction is placed: the PC, or the start of the active half where the PC lies
outside it or so near its end that a quote would not fit. -/
def placePos (c : Core) : Nat :=
  let p := c.pc.toNat
  if inHalf c p ∧ p + 25 ≤ halfEnd p then p else if c.half then 16384 else 0

/-- The instruction of `nbits` bits `w` where the current core fetches next: an index, or a bundle as the first lexeme of
the active bank with its index. -/
def placeFetch (s : State) (nbits w : Nat) : State :=
  let p := placePos s.core
  let q := quiet s
  let s1 := { q with core := readyCore p q.core }
  let t := textBase s.coreNo
  if nbits ≤ 16 then { s1 with mem := s1.mem.writeBytes (t + 2 * p) (natToBytes 50 w) }
  else
    let n := if s.core.half then 2048 else 0
    { s1 with mem := (s1.mem.writeBytes (t + 2 * p) (natToBytes 2 n)).writeBytes (t + 0x10000 + 48 * n) (natToBytes 48 w) }

end Sys2Proof.Machine
end

