-- ==== Sys2Proof/Machine/Step.lean ====
section
/-! DEFINITION. One step of the module, and an instruction placed where it fetches next. -/

namespace Sys2Proof.Machine

/-- One step: an input that is due, an event that is due, a core's turn, or the passing of a cycle. -/
def step (s : State) : Host.Outcome State Fault Refusal := nextStep s

/-- `s` with the instruction of `nbits` bits `w` where the current core fetches next, and nothing due before it. -/
def State.withFetchWord (s : State) (nbits w : Nat) : State := placeFetch s nbits w

end Sys2Proof.Machine
end

