-- ==== Sys2Proof/Safety.lean ====
section
/-! DEFINITION. The terms claims are stated in: what an instruction answers, when its results land (R99), what it may
change, and where an access of a core reaches. -/

namespace Sys2Proof.Machine

/-- Executing `i` in `s` answers a next state, and `Q` holds of it. -/
def Completes (i : Instr) (s : State) (Q : State → Prop) : Prop := ∃ t, exec i s = .next t ∧ Q t

/-- Executing `i` in `s` raises a cause: code, slot, DETAIL (R245, R247); the state is otherwise `s`. -/
def Traps (i : Instr) (s : State) (code slot detail : Nat) : Prop := exec i s = .next (raise code slot detail s)

/-- R99. `s` after `n` issue cycles in which nothing else issues: what is due by then has landed. -/
def later (n : Nat) (s : State) : State := landAll { s with core := { s.core with icnt := s.core.icnt + n } }

/-- `s` with what is still in flight left out of account. -/
def noFlight (s : State) : State := { s with core := { s.core with pend := [] } }

/-- R99, R101. `t` is `s` with results in flight whose whole effect is `w`, in cycle t + `lat`: until then nothing of it is
seen, and in that cycle it prevails over what `s` already had in flight. -/
def Lands (lat : Nat) (w : State → State) (s t : State) : Prop :=
  (∀ n, n < lat → noFlight (later n t) = noFlight (later n s)) ∧ later lat t = w (later lat s)

/-- R108, R290. A scalar register takes a value; S0 discards it. The register was fixed at issue (R101). -/
def writeS (d : SReg) (p : Nat) (v : Word64) (s : State) : State :=
  if d = 0 then s else { s with core := { s.core with sreg := mset 0 s.core.sreg p v } }

/-- R108, R290. A uniform predicate takes a value; G0 discards it. -/
def writeG (d : GReg) (v : Bool) (s : State) : State :=
  if d = 0 then s else { s with core := { s.core with greg := mset false s.core.greg d.toNat v } }

/-- R178, R299. Flags are ORed into SFLG. -/
def orSflg (f : Flags) (s : State) : State := { s with core := { s.core with sflg := s.core.sflg ||| f } }

/-- R290. An S-slot operation under its guard: with a false guard the state stays, with a true one `Q` holds of the next. -/
def SOp (i : Instr) (g : Guard) (s : State) (Q : State → Prop) : Prop :=
  Completes i s fun t => (guardOn s g = false → t = s) ∧ (guardOn s g = true → Q t)

/-- R290, R291. The whole effect of an S-slot operation is a scalar register written at t + `lat`. -/
def SWrites (i : Instr) (g : Guard) (d : SReg) (lat : Nat) (v : Word64) (s : State) : Prop :=
  SOp i g s (Lands lat (writeS d (physS s.core d) v) s)

/-- R290, R295. The whole effect of an S-slot operation is a uniform predicate written at t + `lat`. -/
def GWrites (i : Instr) (g : Guard) (d : GReg) (lat : Nat) (v : Bool) (s : State) : Prop :=
  SOp i g s (Lands lat (writeG d v) s)

/-- R299, R300. The whole effect of a scalar floating-point operation: the pattern `x.1` in a scalar register and the flags
`x.2` in SFLG at t + `lat`; CCTR advances at issue when the rounding is stochastic (R240). -/
def FpWrites (i : Instr) (g : Guard) (d : SReg) (lat rnd : Nat) (v : Word64) (f : Flags) (s : State) : Prop :=
  SOp i g s fun t => Lands lat (fun u => orSflg f (writeS d (physS s.core d) v u)) (advCctr (rnd == 5) s) t

/-- R281, R295. A condition code on two 64-bit integers: codes 0–5 signed, 6–9 unsigned. -/
def intRel (cc : BitVec 4) (x y : Word64) : Bool :=
  match cc.toNat with
  | 0 => x == y
  | 1 => x != y
  | 2 => x.slt y
  | 3 => x.sle y
  | 4 => y.slt x
  | 5 => y.sle x
  | 6 => x.ult y
  | 7 => x.ule y
  | 8 => y.ult x
  | 9 => y.ule x
  | _ => false

/-- R168. A NaN pattern of FP16, BF16, FP32 or FP64, read from its fields. -/
def NanBits (F : FFmt) (x : Nat) : Prop := x / 2 ^ F.fb % 2 ^ F.eb = 2 ^ F.eb - 1 ∧ x % 2 ^ F.fb ≠ 0

/-- R168. A signalling one: the top bit of its fraction is 0. -/
def SigBits (F : FFmt) (x : Nat) : Prop := NanBits F x ∧ x % 2 ^ F.fb < 2 ^ (F.fb - 1)

/-- R168. The canonical NaN: the exponent and the top bit of the fraction. -/
def nanPattern (F : FFmt) : Nat := (2 ^ F.eb - 1) * 2 ^ F.fb + 2 ^ (F.fb - 1)

/-- R168. The patterns of −0 and of ±∞. -/
def minusZero (F : FFmt) : Nat := 2 ^ (F.eb + F.fb)
def infPattern (F : FFmt) (neg : Bool) : Nat := (2 ^ F.eb - 1) * 2 ^ F.fb + if neg then minusZero F else 0

/-- R168. The order of the values of patterns that are no NaN: their magnitude bits with their sign, −0 as +0. -/
def signedBits (F : FFmt) (x : Nat) : Int :=
  if x < 2 ^ (F.eb + F.fb) then (x : Int) else -((x - 2 ^ (F.eb + F.fb) : Nat) : Int)

/-- R174. NV exactly when a signalling NaN is among the operands, and no other flag. -/
def NvIf (P : Prop) (fl : Flags) : Prop := (P → fl = NV) ∧ (¬P → fl = 0)

/-- R168. An FP32 pattern holds the integer `k`, with the sign of `k`. -/
def Holds32 (x : Nat) (k : Int) : Prop :=
  ∃ m e, F32.decode x = .fin (decide (k < 0)) m e ∧ m * 2 ^ (e + 149).toNat = k.natAbs * 2 ^ 149

/-- Number of one bits of `x` below bit `n`. -/
def onesBelow (x : Word64) (n : Nat) : Nat := ((List.range n).filter fun i => x.getLsbD i).length

/-- R110, R310. The whole effect of an S-slot operation is a system register written at t + 1. -/
def SysWrites (i : Instr) (g : Guard) (n : Nat) (v : Word64) (s : State) : Prop :=
  SOp i g s (Lands 1 (fun s => { s with core := applySys n v s.core }) s)

/-- R105, R178, R316–R318. `t` is `s` with one vector result on its way, landing in cycle t + `lat`: until then nothing of it
is seen; then the element that lane `l` of the vector `k` named at issue holds `(lane l).1` for every guarded lane, that lane's
flags are ORed into its sticky flags unless nf, and nothing else differs. -/
def LaneWrites (lat : Nat) (nf : Bool) (k : Kind) (guard : Nat → Bool) (lane : Nat → Nat × Flags) (s t : State) : Prop :=
  (∀ n, n < lat → noFlight (later n t) = noFlight (later n s)) ∧
  let u := later lat s
  let w := later lat t
  { w with core := { w.core with tile := u.core.tile, lflag := u.core.lflag } } = u
  ∧ (∀ l, l < 64 → guard l = true → mget 0 w.core.tile (elKey s.core k l) = BitVec.ofNat 32 (lane l).1)
  ∧ (∀ x, (∀ l, l < 64 → guard l = true → x ≠ elKey s.core k l) → mget 0 w.core.tile x = mget 0 u.core.tile x)
  ∧ (∀ l, l < 64 → mget 0 w.core.lflag l =
      mget 0 u.core.lflag l ||| (if guard l = true ∧ nf = false then (lane l).2 else 0))

/-- The register array and the lane flags of the current core are canonical data. -/
def LanesOk (s : State) : Prop := mwf 0 s.core.tile = true ∧ mwf 0 s.core.lflag = true

/-- R315–R318. A V operation whose whole effect is to write the values `val` of format `f` to d, with the guards of their lanes,
at t + `lat`; CCTR advances at issue when the rounding is stochastic. -/
def VOut (i : Instr) (v : VOp) (lat f rnd : Nat) (val : Nat → Nat × Flags) (s : State) : Prop :=
  Completes i s (LaneWrites lat v.nf (kindOf v.d) (vGuard s v f) (laneOf f val) (advCctr (rnd == 5) s))

/-- R114. The format, source-format and rounding codes in force for an operation issued in `s`. -/
def fmtOf (s : State) (f : BitVec 5) : Nat :=
  if f = 30 then (mget 0 s.core.ft (s.core.olc.toNat % 16)).toNat % 32 else f.toNat
def sfmtOf (s : State) (f : BitVec 5) : Nat :=
  if f = 30 then (mget 0 s.core.ft (s.core.olc.toNat % 16)).toNat / 2 ^ 5 % 32 else f.toNat
def rndOf (s : State) (r : BitVec 3) : Nat :=
  if r = 6 then (mget 0 s.core.ft (s.core.olc.toNat % 16)).toNat / 2 ^ 10 % 8 else r.toNat

/-- R173. The rounding of value `i` of a vector of format `f`, with its own draw. -/
def laneRnd (s : State) (r : Nat) (sat : Bool) (f i : Nat) : Rnd :=
  ⟨r, sat, if r = 5 then genU s.core.ckey s.core.cctr (ellOf f i) else 0⟩

/-- R316, R318, R340. The whole effect is a lane predicate on its way: from t + `lat` the guarded lanes of Pp hold their values
(P0 discards them) and their flags are ORed unless nf; nothing else differs. A collapse (QCOL) also advances CCTR at issue. -/
def PredWrites (i : Instr) (lat : Nat) (nf : Bool) (p : PReg) (guard : Nat → Bool) (val : Nat → Bool × Flags) (s : State) :
    Prop :=
  Completes i s fun t =>
    let s' := advCctr (match i with
      | .qcol _ => true
      | _ => false) s
    (∀ n, n < lat → noFlight (later n t) = noFlight (later n s')) ∧
    let u := later lat s'
    let w := later lat t
    { w with core := { w.core with preg := u.core.preg, lflag := u.core.lflag } } = u
    ∧ (∀ m, m ≠ p.toNat → mget 0 w.core.preg m = mget 0 u.core.preg m)
    ∧ (∀ l, l < 64 → (mget 0 w.core.preg p.toNat).getLsbD l =
        if p ≠ 0 ∧ guard l = true then (val l).1 else (mget 0 u.core.preg p.toNat).getLsbD l)
    ∧ (∀ l, l < 64 → mget 0 w.core.lflag l =
        mget 0 u.core.lflag l ||| (if guard l = true ∧ nf = false then (val l).2 else 0))

/-- R229, R340. The whole effect is a probability predicate on its way: from t + `lat` the guarded lanes of Qd hold the canonical
form of their values and their lineages, their flags are ORed unless nf, and nothing else differs. -/
def QWrites (i : Instr) (lat : Nat) (nf : Bool) (d : Nat) (guard : Nat → Bool) (val : Nat → Nat × Flags) (lin : Nat → Byte)
    (s : State) : Prop :=
  Completes i s fun t =>
    (∀ n, n < lat → noFlight (later n t) = noFlight (later n s)) ∧
    let u := later lat s
    let w := later lat t
    { w with core := { w.core with qval := u.core.qval, qlin := u.core.qlin, lflag := u.core.lflag } } = u
    ∧ (∀ l, l < 64 → guard l = true → mget 0 w.core.qval (d * 64 + l) = BitVec.ofNat 32 (canonQ (val l).1).1
        ∧ mget 0 w.core.qlin (d * 64 + l) = lin l)
    ∧ (∀ x, (∀ l, l < 64 → guard l = true → x ≠ d * 64 + l) →
        mget 0 w.core.qval x = mget 0 u.core.qval x ∧ mget 0 w.core.qlin x = mget 0 u.core.qlin x)
    ∧ (∀ l, l < 64 → mget 0 w.core.lflag l =
        mget 0 u.core.lflag l ||| (if guard l = true ∧ nf = false then (val l).2 else 0))

/-! ### Memory -/

/-- R119, R126, R136. The `n` bytes at address `va` of a space are reached without a walk at the local physical address
`l` of this module: a scratchpad or cluster offset inside its space, or a global address that an installed translation
permits, in no invalidation. -/
def Reaches (s : State) (space : Nat) (wr : Bool) (va n l : Nat) (nl1 : Bool) : Prop :=
  (space ≠ 3 ∧ va + n ≤ spaceSize space ∧ l = spaceBase s space + va ∧ nl1 = true)
  ∨ (space = 3 ∧ va < 2 ^ 56 ∧ (s.xlat.inval.any fun p => p.1 == myDie s) = false
    ∧ ∃ e, tuFind s .core (myDie s) va = some e ∧ tuAllows s e wr = true ∧ nl1 = e.nl1
      ∧ localPart s (e.pa + (va - e.va)) = some l)

/-- R17, R252. The bytes are plain storage of this module: present, correctable, outside the coded view. -/
def Stored (s : State) (l n : Nat) : Prop := place l ≠ .coded ∧ badAddr s l n = none

/-- R76, R96. A write there is not refused. -/
def Writable (s : State) (l n : Nat) : Prop := Stored s l n ∧ textRefused s l n = none

/-- Every byte of `[a, a + bs.length)` reads as `bs`, and every other byte as in `m`. -/
def StoredBytes (m m' : Memory) (a : Nat) (bs : List Byte) : Prop :=
  (∀ i, i < bs.length → m'.read (a + i) = bs.getD i 0) ∧ ∀ x, x < a ∨ a + bs.length ≤ x → m'.read x = m.read x

/-- `u` is `s` but for memory and the records kept beside it: what L2 holds and has displaced, earlier contents for what may
still read them, L1, the draws made; of another core only the old bytes of its text (R398). -/
def OnlyMemory (s u : State) : Prop :=
  { u with
    mem := s.mem, l2 := s.l2, evq := s.evq, vers := s.vers, slow := s.slow, others := s.others, free := s.free
    core := { u.core with bold := s.core.bold, unfetched := s.core.unfetched, l1 := s.core.l1 } } = s
  ∧ (mwf Core.idle s.others = true → ∀ g,
      { mget Core.idle u.others g with unfetched := (mget Core.idle s.others g).unfetched } = mget Core.idle s.others g)

/-- `u` is `s` but for what L1 and L2 hold and have displaced, and the draws made. -/
def OnlyL1 (s u : State) : Prop :=
  { u with free := s.free, l2 := s.l2, evq := s.evq, core := { u.core with l1 := s.core.l1 } } = s

/-- R123, R128, R148. The bytes a load of the current core returns from `[l, l + n)`: those at the home as its bundle sees
them, or those of a sector that L1 holds. -/
def LoadBytes (s : State) (l n : Nat) (nl1 : Bool) (bs : List Byte) : Prop :=
  bs = readHome s l n
  ∨ (l1Caches l nl1 = true ∧ ∃ v : BitVec 128, mget none s.core.l1 (globalOf s l / 16) = some v
    ∧ bs = ((natToBytes 16 v.toNat).drop (l % 16)).take n)

/-- An operation that counts for H and CLEAN until its bound and writes nothing then (R245). -/
def boundMark (bound : Nat) (u : State) : Pend := ⟨u.core.icnt + bound, u.core.icnt + bound, .nothing⟩

/-- R102, R119, R245, R289. A scalar result on its way: fixed in space 0, in another space at some cycle from t + 1 to t + `bound`,
until which the operation counts as outstanding (with d = S0 nothing is written). -/
def Arrives (space fixed bound : Nat) (d : SReg) (v : Word64) (u t : State) : Prop :=
  if space = 0 then Lands fixed (writeS d (physS u.core d) v) u t
  else if d = 0 then t = put bound .nothing u
  else ∃ k, 1 ≤ k ∧ k ≤ bound ∧ { t with free := u.free } =
    { u with core := { u.core with
        pend := u.core.pend ++ [⟨u.core.icnt + k, u.core.icnt + bound, .s (physS u.core d) v⟩, boundMark bound u] } }

/-- R104, R119, R126. The bound of an access of this module: 10 in space 0, 48 in space 2, else that of its place. -/
def localBound (s : State) (space l : Nat) : Nat :=
  if space = 0 then 10 else if space = 2 then 48 else globalBound s.coreNo l

/-- R148, R160. No update that the current core has issued to a barrier in these bytes waits to be applied (log 126). -/
def OwnDone (s : State) (l n : Nat) : Prop :=
  ∀ u ∈ s.barq, u.core = s.coreNo → u.bte = false → u.addr + 16 ≤ l ∨ l + n ≤ u.addr

/-- Every part of an access is reached: part `i` of the `cnt` parts of `n` bytes at `va i` lies at the local address `l i` and is
plain storage inside one sector that no update of this core's is on its way to, and for a write is not refused. -/
def AllReach (s : State) (space : Nat) (wr : Bool) (n cnt : Nat) (va l : Nat → Nat) (nl1 : Nat → Bool) : Prop :=
  ∀ i, i < cnt → Reaches s space wr (va i) n (l i) (nl1 i) ∧ l i % 16 + n ≤ 16 ∧ OwnDone s (l i) n ∧ (if wr then Writable s (l i) n else Stored s (l i) n)

/-- R369, R370. The 32-bit elements `w` that a C-slot load returns from parts of `n` bytes at the local addresses `l`. -/
def LoadWords (s : State) (n cnt : Nat) (l : Nat → Nat) (nl1 : Nat → Bool) (w : Nat → Nat) : Prop :=
  ∀ i, i < cnt → ∃ bs, LoadBytes s (l i) n (nl1 i) bs ∧
    ∀ j, j < n / 4 → w (i * (n / 4) + j) = bytesToNat ((bs.drop (4 * j)).take 4)

/-- R102, R245, R289, R370. Results on their way: in space 0 at t + `fixed`, in another space each at some cycle from t + 1 to
t + `bound`, until which the operation counts as outstanding. -/
def AllArrive (space fixed bound : Nat) (es : List Effect) (u t : State) : Prop :=
  if space = 0 then t = putMany fixed es u
  else ∃ ks : List Nat, ks.length = es.length ∧ (∀ k ∈ ks, 1 ≤ k ∧ k ≤ bound) ∧ { t with free := u.free } =
    { u with core := { u.core with
        pend := u.core.pend ++ List.zipWith (fun k e => ⟨u.core.icnt + k, u.core.icnt + bound, e⟩) ks es
          ++ [boundMark bound u] } }

/-- R104, R119, R369. The bound of an access of `cnt` parts: the largest of its parts. -/
def largestBound (s : State) (space cnt : Nat) (l : Nat → Nat) : Nat :=
  (List.range cnt).foldl (fun m i => Nat.max m (localBound s space (l i))) 1

/-- `cnt` parts of `n` bytes with the bytes `b` are stored at the local addresses `l`: a byte of some part holds what one of
the parts that cover it stores, and every other byte is as before. -/
def StoredParts (m m' : Memory) (n cnt : Nat) (l : Nat → Nat) (b : Nat → List Byte) : Prop :=
  (∀ i x, i < cnt → x < n → ∃ j y, j < cnt ∧ y < n ∧ l j + y = l i + x ∧ m'.read (l i + x) = (b j).getD y 0)
  ∧ ∀ a, (∀ i, i < cnt → a < l i ∨ l i + n ≤ a) → m'.read a = m.read a

/-! ### The matrix unit -/

/-- R284, R350, R357–R367. The MCALL forms: the instruction, its routine number, the flag bits [9:5] its row defines, what its
row makes of the parameters, and the state with what its unit has read at issue chosen (SKINIT reads a descriptor, a load its
image's header; R156). -/
def matrixCalls (m : MOp) (u : BitVec 8) (s : State) : List (Instr × Nat × Nat × Plan × State) :=
  let sk := (engView true (if (mpN (mpRegs s) 0).testBit 3 then [(initAddr s (mpRegs s), 32)] else []) s).1
  let img := (engView true [(spadBase s.coreNo + imgOff s, 16)] s).1
  [(.gemm m, 0, 3, gemmPlan 0 s m, s), (.gemmt m, 1, 3, gemmPlan 1 s m, s), (.conv m, 2, 3, gemmPlan 2 s m, s),
    (.cgemm m, 3, 3, gemmPlan 3 s m, s), (.gate m, 4, 0, gatePlan s m, s), (.accrd m, 8, 0, accrdPlan s m, s),
    (.accclr m, 9, 0, accclrPlan s m, s), (.skinit m, 16, 0, skinitPlan sk m, { sk with mem := s.mem }),
    (.skfold m, 17, 0, skfoldPlan s m, s), (.skshrink m, 18, 0, skshrinkPlan s m, s), (.skmerge m, 19, 0, skmergePlan s m, s),
    (.skrd m, 20, 0, skrdPlan s m, s), (.skwr m, 21, 0, skwrPlan s m, s),
    (.userRoutineCall u m, u.toNat, 0, userPlan u.toNat s m, s),
    (.userRoutineLoad u m, u.toNat, 1, loadPlan img m, { img with mem := s.mem })]

/-- R351, R352. What makes an MCALL of routine `k` with plan `p` a SCHEDULE: its token pends, its pipe is full, an accumulator it
names is occupied, or a rescale occupies what it names. -/
def callBusy (s : State) (m : MOp) (k : Nat) (p : Plan) : Prop :=
  rdTok s m.produce = .pending ∨ pipeLimit (pipeOf k) ≤ onPipe s.core (pipeOf k) ∨ (∃ i ∈ p.occM, mBusy s.core i = true)
    ∨ (s.core.rescale ≠ none ∧ (p.occM ≠ [] ∨ p.occK ≠ []))

/-! ### Fetching -/

/-- R94–R98. The next step is a fetch of the current core at its PC: no input or event is due, it is this core's turn, nothing
lands, waits, traps, drains, holds or pauses, and the PC lies in the active half. -/
def State.atFetch (s : State) : Prop :=
  (∀ x i rest, s.inputs = (x, i) :: rest → s.cyc < x) ∧ hostDue s = none ∧ writeDue s = none ∧ heldDue s = none ∧ dueEvent s = none ∧ turnOf s = some s.coreNo
  ∧ unanswered s s.coreNo = none ∧ s.core.walks = [] ∧ s.core.memerr = none ∧ dueNow s.core = []
  ∧ (s.core.phase = .run ∨ s.core.phase = .drain) ∧ s.core.entering = none ∧ s.core.resuming = none ∧ s.core.wait = none
  ∧ s.core.rewait = none ∧ s.core.reports = [] ∧ s.core.drainReq = none ∧ s.core.holding = false ∧ s.core.nwait = none
  ∧ s.core.pausing = false ∧ s.core.swapping = false ∧ s.core.pastEnd = none ∧ inHalf s.core s.core.pc.toNat = true

/-! ### Invariants -/

/-- Memory is in its canonical form. -/
def State.memOk (s : State) : Prop := s.mem.wf = true

/-- Every register file and every record of a core is in its canonical form. -/
def Core.canon (c : Core) : Prop :=
  (mwf 0 c.sreg = true ∧ mwf false c.greg = true ∧ mwf 0 c.preg = true ∧ mwf 0 c.qval = true ∧ mwf 0 c.qlin = true
    ∧ mwf 0 c.tile = true ∧ mwf 0 c.lane = true ∧ mwf 0 c.lflag = true)
  ∧ (mwf 0 c.macc = true ∧ mwf false c.mfull = true ∧ mwf 0 c.mtag = true ∧ mwf false c.mf64 = true ∧ mwf 0 c.sk = true
    ∧ mwf 0 c.micro = true ∧ mwf none c.user = true)
  ∧ (mwf 0 c.mp = true ∧ mwf 0 c.cd = true ∧ mwf .ok c.dt = true ∧ mwf 0 c.ft = true ∧ mwf 0 c.hot = true)
  ∧ mwf none c.l1 = true ∧ mwf none c.bold = true ∧ mwf [] c.unfetched = true ∧ mwf [] c.laneSlow = true
    ∧ mwf none c.lanePoison = true ∧ mwf 0 c.cursor = true

/-- Every sparse map of the module is in its canonical form: equal contents are equal data. -/
def State.canon (s : State) : Prop :=
  s.core.canon ∧ mwf Core.idle s.others = true ∧ (∀ p ∈ s.others, p.2.canon) ∧ s.memOk
  ∧ (mwf L2Set.empty s.l2 = true ∧ (∀ p ∈ s.l2, mwf none p.2.ways = true) ∧ mwf [] s.vers = true ∧ mwf [] s.slow = true)
  ∧ (mwf none s.poison = true ∧ mwf 0 s.frameTag = true ∧ mwf 0 s.maps.cxlBytes = true
    ∧ mwf Timetable.idle s.tt = true ∧ (∀ p ∈ s.tt, mwf none p.2.sel = true) ∧ mwf 0 s.pool.entries = true ∧ mwf 0 s.sigcap = true)
  ∧ (mwf false s.fab.groupActive = true ∧ mwf 0 s.fab.groupGen = true ∧ mwf 0 s.fab.ctr = true)
  ∧ mwf false s.relObjs = true ∧ mwf 0 s.wmode = true ∧ mwf Binding.none s.bind = true ∧ mwf Region.none s.region = true
    ∧ mwf ⟨0, 0, 0, 0⟩ s.cctrs = true

end Sys2Proof.Machine
end

