-- ==== Sys2Proof/Certificates/Slice0/Obligations.lean ====
section
/-! DEFINITION. The statements for the provers. The forms they are written in (`SWrites`, `Lands`, `Reaches`, …) stand in
Sys2Proof/Safety.lean. -/

open Sys2Proof Sys2Proof.Machine

/-! ### S slot: integers (R290–R298) -/

/-- R291–R293. Every register form computes f(a, b) on 64-bit values with the latency of R291's table and raises no flag; the
edge cases of the divisions are those of R292; PDEP and PEXT move bits as R293's loops do. -/
def Obligations.ScalarRegisterForms : Prop :=
  (∀ (s : State) (g : Guard) (d a b : SReg),
    let x := rdS s a
    let y := rdS s b
    let c := y.toNat % 64
    SWrites (.add g d a b) g d 1 (x + y) s
    ∧ SWrites (.sub g d a b) g d 1 (x - y) s
    ∧ SWrites (.mul g d a b) g d 3 (x * y) s
    ∧ SWrites (.mulh g d a b) g d 3 ((x.signExtend 128 * y.signExtend 128).extractLsb' 64 64) s
    ∧ SWrites (.mulhu g d a b) g d 3 ((x.setWidth 128 * y.setWidth 128).extractLsb' 64 64) s
    ∧ (y ≠ 0 → SWrites (.div g d a b) g d 18 (x.sdiv y) s ∧ SWrites (.divu g d a b) g d 18 (x / y) s
        ∧ SWrites (.rem g d a b) g d 18 (x.srem y) s ∧ SWrites (.remu g d a b) g d 18 (x % y) s)
    ∧ (y = 0 → SWrites (.div g d a b) g d 18 (BitVec.allOnes 64) s ∧ SWrites (.divu g d a b) g d 18 (BitVec.allOnes 64) s
        ∧ SWrites (.rem g d a b) g d 18 x s ∧ SWrites (.remu g d a b) g d 18 x s)
    ∧ (x = BitVec.intMin 64 → y = BitVec.allOnes 64 →
        SWrites (.div g d a b) g d 18 (BitVec.intMin 64) s ∧ SWrites (.rem g d a b) g d 18 0 s)
    ∧ SWrites (.and g d a b) g d 1 (x &&& y) s
    ∧ SWrites (.or g d a b) g d 1 (x ||| y) s
    ∧ SWrites (.xor g d a b) g d 1 (x ^^^ y) s
    ∧ SWrites (.andn g d a b) g d 1 (x &&& ~~~ y) s
    ∧ SWrites (.shl g d a b) g d 1 (x <<< c) s
    ∧ SWrites (.shr g d a b) g d 1 (x >>> c) s
    ∧ SWrites (.sar g d a b) g d 1 (x.sshiftRight c) s
    ∧ SWrites (.rol g d a b) g d 1 (x <<< c ||| x >>> (64 - c)) s
    ∧ SWrites (.min g d a b) g d 1 (if x.toInt ≤ y.toInt then x else y) s
    ∧ SWrites (.max g d a b) g d 1 (if x.toInt ≤ y.toInt then y else x) s
    ∧ SWrites (.minu g d a b) g d 1 (if x.toNat ≤ y.toNat then x else y) s
    ∧ SWrites (.maxu g d a b) g d 1 (if x.toNat ≤ y.toNat then y else x) s
    ∧ (∃ n, n ≤ 64 ∧ SWrites (.clz g d a) g d 1 (BitVec.ofNat 64 n) s
        ∧ (∀ j, 64 - n ≤ j → j < 64 → x.getLsbD j = false) ∧ (n < 64 → x.getLsbD (63 - n) = true))
    ∧ SWrites (.popc g d a) g d 1 (BitVec.ofNat 64 (onesBelow x 64)) s
    ∧ (∃ r : Word64, SWrites (.pdep g d a b) g d 2 r s
        ∧ ∀ j, j < 64 → r.getLsbD j = (y.getLsbD j && x.getLsbD (onesBelow y j)))
    ∧ (∃ r : Word64, SWrites (.pext g d a b) g d 2 r s
        ∧ (∀ j, j < 64 → y.getLsbD j = true → r.getLsbD (onesBelow y j) = x.getLsbD j)
        ∧ ∀ j, onesBelow y 64 ≤ j → r.getLsbD j = false))
  ∧ (∀ w : Nat, 0x1A ≤ w / 2 ^ 40 → w / 2 ^ 40 ≤ 0x1F → decodeSlot 1 w = none)

/-- R294. The immediate forms, latency 1, the 17-bit immediate sign-extended; bits [16:6] of a shift's word are 0; LUI followed
by ADDI builds every value of −2^45 … 2^45 − 2^16 − 1. -/
def Obligations.ScalarImmediateForms : Prop :=
  (∀ (s : State) (g : Guard) (d a : SReg) (e : BitVec 17) (c : BitVec 6) (v : BitVec 29),
    let x := rdS s a
    SWrites (.addi g d a e) g d 1 (BitVec.ofInt 64 (x.toInt + e.toInt)) s
    ∧ SWrites (.andi g d a e) g d 1 (x &&& BitVec.ofInt 64 e.toInt) s
    ∧ SWrites (.ori g d a e) g d 1 (x ||| BitVec.ofInt 64 e.toInt) s
    ∧ SWrites (.xori g d a e) g d 1 (x ^^^ BitVec.ofInt 64 e.toInt) s
    ∧ SWrites (.shli g d a c) g d 1 (x <<< c.toNat) s
    ∧ SWrites (.shri g d a c) g d 1 (x >>> c.toNat) s
    ∧ SWrites (.sari g d a c) g d 1 (x.sshiftRight c.toNat) s
    ∧ SWrites (.lui g d v) g d 1 (BitVec.ofInt 64 (v.toInt * 2 ^ 17)) s)
  ∧ (∀ w : Nat, 0x24 ≤ w / 2 ^ 40 → w / 2 ^ 40 ≤ 0x26 → w / 2 ^ 6 % 2 ^ 11 ≠ 0 → decodeSlot 1 w = none)
  ∧ (∀ x : Int, -2 ^ 45 ≤ x → x ≤ 2 ^ 45 - 2 ^ 16 - 1 →
      ∃ (v : BitVec 29) (e : BitVec 17), v.toInt * 2 ^ 17 + e.toInt = x)

/-- R295–R297. CMP and CMPI write a uniform predicate by the condition code, SEL selects by a uniform predicate read at issue,
GLOG is one of five logical operations; each has latency 1. The codes these rows do not list are no instructions.
R298. PUNI takes the common value of a lane predicate at t + 2; lanes that disagree are a precise NONUNIFORM of slot 1
with the predicate's number as DETAIL; P0 gives true. -/
def Obligations.ScalarCompareSelect : Prop :=
  ((∀ (s : State) (g : Guard) (d : GReg) (a b : SReg) (cc : BitVec 4) (e : BitVec 13), cc.toNat ≤ 9 →
     GWrites (.cmp g d a b cc) g d 1 (intRel cc (rdS s a) (rdS s b)) s
     ∧ GWrites (.cmpi g d a cc e) g d 1 (intRel cc (rdS s a) (BitVec.ofInt 64 e.toInt)) s)
   ∧ (∀ (s : State) (g : Guard) (d a b : SReg) (sel : GReg),
     SWrites (.sel g d a b sel) g d 1 (if rdG s sel then rdS s a else rdS s b) s)
   ∧ (∀ (s : State) (g : Guard) (d a b : GReg),
     GWrites (.glog g d a b 0) g d 1 (rdG s a && rdG s b) s
     ∧ GWrites (.glog g d a b 1) g d 1 (rdG s a || rdG s b) s
     ∧ GWrites (.glog g d a b 2) g d 1 (xor (rdG s a) (rdG s b)) s
     ∧ GWrites (.glog g d a b 3) g d 1 (rdG s a && !rdG s b) s
     ∧ GWrites (.glog g d a 0 4) g d 1 (!rdG s a) s)
   ∧ (∀ w : Nat, (w / 2 ^ 40 = 0x28 ∨ w / 2 ^ 40 = 0x29) → 10 ≤ w / 2 ^ 13 % 2 ^ 4 → decodeSlot 1 w = none)
   ∧ (∀ w : Nat, w / 2 ^ 40 = 0x2B →
       5 ≤ w / 2 ^ 13 % 2 ^ 4 ∨ (w / 2 ^ 13 % 2 ^ 4 = 4 ∧ w / 2 ^ 17 % 2 ^ 6 ≠ 0) → decodeSlot 1 w = none))
  ∧ (∀ (s : State) (g : Guard) (d : GReg) (p : PReg),
     ((∀ l, l < 64 → (rdP s p).getLsbD l = true) → GWrites (.puni g d p) g d 2 true s)
     ∧ ((∀ l, l < 64 → (rdP s p).getLsbD l = false) → GWrites (.puni g d p) g d 2 false s)
     ∧ (∀ j l, j < 64 → l < 64 → (rdP s p).getLsbD j = true → (rdP s p).getLsbD l = false →
         (guardOn s g = true → Traps (.puni g d p) s 0x08 1 p.toNat)
         ∧ (guardOn s g = false → exec (.puni g d p) s = .next s))
     ∧ GWrites (.puni g d 0) g d 2 true s)

/-! ### S slot: floating point (R299–R302) -/

/-- R299, R300. The arithmetic forms round their exact result once, into the format and by the rounding in force (a code 30 or
6 read from FT[OLC mod 16]), write it zero-extended and OR its flags into SFLG in the landing cycle; a stochastic rounding
draws with argument 0 and advances CCTR. -/
def Obligations.ScalarFloatArithmetic : Prop :=
  ∀ (s : State) (g : Guard) (d a b c : SReg) (rnd : BitVec 3) (fmt : BitVec 5),
    let f := if fmt = 30 then (mget 0 s.core.ft (s.core.olc.toNat % 16)).toNat % 32 else fmt.toNat
    let r := if rnd = 6 then (mget 0 s.core.ft (s.core.olc.toNat % 16)).toNat / 2 ^ 10 % 8 else rnd.toNat
    let ff := ffmt f
    let arg := fun n : SReg => ff.decode ((rdS s n).toNat % 2 ^ fmtWidth f)
    let rounded := fun x : FV × Flags => finish ff ⟨r, false, genU s.core.ckey s.core.cctr 0⟩ x
    let out := fun (i : Instr) (lat : Nat) (x : Nat × Flags) => FpWrites i g d lat r (BitVec.ofNat 64 x.1) x.2 s
    8 ≤ f → f ≤ 11 → r ≤ 5 →
      out (.fadd g d a b rnd fmt) 4 (rounded (addFV (r == 3) (arg a) (arg b)))
      ∧ out (.fsub g d a b rnd fmt) 4 (rounded (addFV (r == 3) (arg a) (arg b).flip))
      ∧ out (.fmul g d a b rnd fmt) 4 (rounded (mulFV (arg a) (arg b)))
      ∧ out (.ffma g d a b c rnd fmt) 4 (rounded (fmaFV (r == 3) (arg a) (arg b) (arg c)))
      ∧ out (.fdiv g d a b rnd fmt) 12 (rounded (divFV (arg a) (arg b)))
      ∧ out (.fsqrt g d a rnd fmt) 14 (rounded (sqrtFV (arg a)))

/-- R300–R302. FMIN and FMAX are minimumNumber and maximumNumber, FCVT converts once (INT32 sign-extended, everything else
zero-extended), FCMP compares with NaN unordered; their flags go to SFLG.
R174, R175, R281, R302. What those operations are, on the bits: a NaN loses to a number in minimumNumber and maximumNumber and
two give the canonical one; −0 lies below +0 there and equals it in a compare; numbers compare by value; a NaN makes every
relation false but NE and UNO; a NaN converts to 0 with NV in an integer format and to the canonical NaN in a floating one; an
infinity clamps with NV in an integer format, stays one where sat = 0 and becomes the largest value with NX in a narrower
format where sat = 1; equal formats copy; integers keep their low bits, or clamp where sat = 1. NV is raised by a signalling
NaN alone (the conversions into integers aside). -/
def Obligations.ScalarFloatCompareConvert : Prop :=
  (∀ (f x y : Nat), 8 ≤ f → f ≤ 11 → x < 2 ^ fmtWidth f → y < 2 ^ fmtWidth f →
    let F := ffmt f
    let a := signedBits F x
    let b := signedBits F y
    (∀ mx : Bool, NvIf (SigBits F x ∨ SigBits F y) (minMaxFV F mx x y).2
      ∧ (NanBits F x → NanBits F y → (minMaxFV F mx x y).1 = nanPattern F)
      ∧ (NanBits F x → ¬NanBits F y → (minMaxFV F mx x y).1 = y ∧ (minMaxFV F mx y x).1 = y))
    ∧ (¬NanBits F x → ¬NanBits F y →
      (a < b → (minMaxFV F false x y).1 = x ∧ (minMaxFV F false y x).1 = x
        ∧ (minMaxFV F true x y).1 = y ∧ (minMaxFV F true y x).1 = y)
      ∧ (x = minusZero F → y = 0 → (minMaxFV F false x y).1 = x ∧ (minMaxFV F false y x).1 = x
        ∧ (minMaxFV F true x y).1 = y ∧ (minMaxFV F true y x).1 = y)
      ∧ (x = y → (minMaxFV F false x y).1 = x ∧ (minMaxFV F true x y).1 = x))
    ∧ (let rel := fun cc => (relFV cc (F.decode x) (F.decode y)).1
      (∀ cc, NvIf (SigBits F x ∨ SigBits F y) (relFV cc (F.decode x) (F.decode y)).2)
      ∧ (NanBits F x ∨ NanBits F y →
        (∀ cc, cc = 0 ∨ 2 ≤ cc ∧ cc ≤ 5 ∨ cc = 10 → rel cc = false) ∧ rel 1 = true ∧ rel 11 = true)
      ∧ (¬NanBits F x → ¬NanBits F y →
        rel 0 = decide (a = b) ∧ rel 1 = decide (a ≠ b) ∧ rel 2 = decide (a < b) ∧ rel 3 = decide (a ≤ b)
        ∧ rel 4 = decide (b < a) ∧ rel 5 = decide (b ≤ a) ∧ rel 10 = true ∧ rel 11 = false)))
  ∧ (∀ (f df x : Nat) (r : Rnd), 8 ≤ f → f ≤ 11 → x < 2 ^ fmtWidth f →
    let F := ffmt f
    let w := fmtWidth df
    let y := convert f df r x
    (4 ≤ df → df ≤ 7 →
      (NanBits F x → y = (0, NV))
      ∧ (x = infPattern F false → y = (if df % 2 = 0 then 2 ^ (w - 1) - 1 else 2 ^ w - 1, NV))
      ∧ (x = infPattern F true → y = (if df % 2 = 0 then 2 ^ (w - 1) else 0, NV)))
    ∧ (8 ≤ df → df ≤ 11 →
      (NanBits F x → y.1 = nanPattern (ffmt df) ∧ NvIf (SigBits F x) y.2)
      ∧ (∀ n, x = infPattern F n →
        y = if r.sat && decide (w < fmtWidth f) then (infPattern (ffmt df) n - 1, NX) else (infPattern (ffmt df) n, 0)))
    ∧ (df = f → ¬NanBits F x → y = (x, 0)))
  ∧ (∀ (f df x : Nat) (r : Rnd), 4 ≤ f → f ≤ 7 → 4 ≤ df → df ≤ 7 → x < 2 ^ fmtWidth f →
    let v := intOf f x
    let lo : Int := if df % 2 = 0 then -2 ^ (fmtWidth df - 1) else 0
    let hi : Int := if df % 2 = 0 then 2 ^ (fmtWidth df - 1) - 1 else 2 ^ fmtWidth df - 1
    let y := convert f df r x
    y.2 = 0 ∧ y.1 < 2 ^ fmtWidth df
    ∧ ((r.sat = false ∨ f = df) → (y.1 : Int) % 2 ^ fmtWidth df = v % 2 ^ fmtWidth df)
    ∧ (r.sat = true → f ≠ df → intOf df y.1 = if v < lo then lo else if hi < v then hi else v))
  ∧ ∀ (s : State) (g : Guard) (d : SReg) (dg : GReg) (a b : SReg) (cc : BitVec 4) (rnd : BitVec 3) (fmt sfmt : BitVec 5)
    (sat : Bool),
    let e := (mget 0 s.core.ft (s.core.olc.toNat % 16)).toNat
    let f := if fmt = 30 then e % 32 else fmt.toNat
    let sf := if sfmt = 30 then e / 2 ^ 5 % 32 else sfmt.toNat
    let r := if rnd = 6 then e / 2 ^ 10 % 8 else rnd.toNat
    let raw := fun (k : Nat) (n : SReg) => (rdS s n).toNat % 2 ^ fmtWidth k
    (8 ≤ f → f ≤ 11 →
      (let x := minMaxFV (ffmt f) false (raw f a) (raw f b)
       FpWrites (.fmin g d a b 0 fmt) g d 2 0 (BitVec.ofNat 64 x.1) x.2 s)
      ∧ (let x := minMaxFV (ffmt f) true (raw f a) (raw f b)
         FpWrites (.fmax g d a b 0 fmt) g d 2 0 (BitVec.ofNat 64 x.1) x.2 s)
      ∧ (let x := relFV cc.toNat ((ffmt f).decode (raw f a)) ((ffmt f).decode (raw f b))
         SOp (.fcmp g dg a b cc fmt) g s fun t => Lands 2 (fun u => orSflg x.2 (writeG dg x.1 u)) s t))
    ∧ (4 ≤ f → f ≤ 11 → 4 ≤ sf → sf ≤ 11 → r ≤ 5 →
      let x := convert sf f ⟨r, sat, genU s.core.ckey s.core.cctr 0⟩ (raw sf a)
      let v : Word64 := if f = 4 then (BitVec.ofNat 32 x.1).signExtend 64 else BitVec.ofNat 64 x.1
      FpWrites (.fcvt g d a rnd fmt sfmt sat) g d 4 r v x.2 s)

/-- R114, R290, R299. A format or rounding code taken from the format table that the row does not accept raises OPERAND with
the code as DETAIL, whatever the guard; the destination format, the source format, then the rounding.
R114, R279, R314, R319. The OPERAND checks of the element-wise forms: a table format they do not accept (DETAIL the code), a
destination or a source whose class or format is refused (DETAIL its 13 bits), whatever the guard. -/
def Obligations.OperandFaults : Prop :=
  (∀ (s : State) (g : Guard) (d : SReg) (dg : GReg) (a b c : SReg) (cc : BitVec 4) (rnd : BitVec 3) (fmt sfmt : BitVec 5)
     (sat : Bool),
     let f := if fmt = 30 then (mget 0 s.core.ft (s.core.olc.toNat % 16)).toNat % 32 else fmt.toNat
     let r := if rnd = 6 then (mget 0 s.core.ft (s.core.olc.toNat % 16)).toNat / 2 ^ 10 % 8 else rnd.toNat
     (¬(8 ≤ f ∧ f ≤ 11) →
       ∀ i ∈ [Instr.fadd g d a b rnd fmt, .fsub g d a b rnd fmt, .fmul g d a b rnd fmt, .ffma g d a b c rnd fmt,
         .fdiv g d a b rnd fmt, .fsqrt g d a rnd fmt, .fmin g d a b rnd fmt, .fmax g d a b rnd fmt, .fcmp g dg a b cc fmt],
         Traps i s 0x11 1 f)
     ∧ (8 ≤ f → f ≤ 11 → 5 < r →
       ∀ i ∈ [Instr.fadd g d a b rnd fmt, .fsub g d a b rnd fmt, .fmul g d a b rnd fmt, .ffma g d a b c rnd fmt,
         .fdiv g d a b rnd fmt, .fsqrt g d a rnd fmt], Traps i s 0x11 1 r)
     ∧ (let sf := if sfmt = 30 then (mget 0 s.core.ft (s.core.olc.toNat % 16)).toNat / 2 ^ 5 % 32 else sfmt.toNat
        (¬(4 ≤ f ∧ f ≤ 11) → Traps (.fcvt g d a rnd fmt sfmt sat) s 0x11 1 f)
        ∧ (4 ≤ f → f ≤ 11 → ¬(4 ≤ sf ∧ sf ≤ 11) → Traps (.fcvt g d a rnd fmt sfmt sat) s 0x11 1 sf)
        ∧ (4 ≤ f → f ≤ 11 → 4 ≤ sf → sf ≤ 11 → 5 < r → Traps (.fcvt g d a rnd fmt sfmt sat) s 0x11 1 r)))
  ∧ (∀ (s : State) (v : VOp),
     let f := fmtOf s v.fmt
     let r := rndOf s v.rnd
     let slot := if v.slot1 then 3 else 2
     let two := [Instr.vadd v, .vsub v, .vmul v]
     let one := [Instr.vabs v, .vneg v]
     (11 < f → ∀ i ∈ two ++ one ++ [Instr.vfma v, .vdiv v, .vsqrt v, .vmin v, .vmax v], Traps i s 0x11 slot f)
     ∧ (f ≤ 11 → (if f < 8 then 0 < r else 5 < r) → ∀ i ∈ two, Traps i s 0x11 slot r)
     ∧ (f ≤ 11 → (if f < 8 then r = 0 else r ≤ 5) → (f < 8 ∨ v.sat = false) →
       (dstBad f (kindOf v.d) = true → ∀ i ∈ two ++ one, Traps i s 0x11 slot v.d.toNat)
       ∧ (dstBad f (kindOf v.d) = false → srcBad f (kindOf v.a) = true → ∀ i ∈ two ++ one, Traps i s 0x11 slot v.a.toNat)
       ∧ (dstBad f (kindOf v.d) = false → srcBad f (kindOf v.a) = false → srcBad f (kindOf v.b) = true →
           ∀ i ∈ two, Traps i s 0x11 slot v.b.toNat)))

/-- R172, R173. Every rounding of a magnitude m·2^e in units of 2^q gives one of its two neighbours and reports whether it was
inexact; RTZ goes down, RUP and RDN go by the sign, RNE and RNA to the nearer one with their ties, and the stochastic one up
toward +∞ exactly when its draw lies below the fraction.
R168, R172, R174. Rounding leaves a value that the format holds alone: no flag, and the same pattern, whatever the rounding. -/
def Obligations.Rounding : Prop :=
  (∀ (r : Rnd) (neg : Bool) (m : Nat) (e q : Int), e < q →
     let sh := (q - e).toNat
     let x := (roundAt r neg m e q).1
     m / 2 ^ sh ≤ x ∧ x * 2 ^ sh < m + 2 ^ sh
     ∧ ((roundAt r neg m e q).2 = true ↔ m % 2 ^ sh ≠ 0)
     ∧ (r.rnd = 1 → x * 2 ^ sh ≤ m)
     ∧ (r.rnd = 2 → if neg then x * 2 ^ sh ≤ m else m ≤ x * 2 ^ sh)
     ∧ (r.rnd = 3 → if neg then m ≤ x * 2 ^ sh else x * 2 ^ sh ≤ m)
     ∧ (r.rnd = 4 → 2 * (x * 2 ^ sh) ≤ 2 * m + 2 ^ sh ∧ 2 * m < 2 * (x * 2 ^ sh) + 2 ^ sh)
     ∧ (r.rnd = 5 → m % 2 ^ sh ≠ 0 →
         (x = m / 2 ^ sh + 1 ↔
           if neg then (2 ^ sh - m % 2 ^ sh) * 2 ^ 24 ≤ r.u * 2 ^ sh else r.u * 2 ^ sh < m % 2 ^ sh * 2 ^ 24))
     ∧ (r.rnd = 0 → 2 * (x * 2 ^ sh) ≤ 2 * m + 2 ^ sh ∧ 2 * m ≤ 2 * (x * 2 ^ sh) + 2 ^ sh
         ∧ ((2 * (x * 2 ^ sh) = 2 * m + 2 ^ sh ∨ 2 * m = 2 * (x * 2 ^ sh) + 2 ^ sh) → x % 2 = 0)))
  ∧ (∀ (f b : Nat) (r : Rnd) (n : Bool) (m : Nat) (e : Int), 8 ≤ f → f ≤ 14 → b < 2 ^ fmtWidth f →
     (ffmt f).decode b = .fin n m e → roundFin (ffmt f) r n m e = (b, 0))

/-! ### S slot: memory (R303–R307) -/

/-- R303, R304. A load reads its bytes at S[a] + off·size and extends them by its width: into d at t + 8 in space 0, within the
bound elsewhere. With d = S0 it is a prefetch (R142): it writes no register and no byte of memory and raises nothing, and it has
no effect where its line misses the translation unit.
Choices of the model that it rests on: log 5, 6, 7, 31. -/
def Obligations.ScalarLoad : Prop :=
  ∀ (s : State) (g : Guard) (d : SReg) (m : MemRef) (off : BitVec 12) (l : Nat) (nl1 : Bool),
    m.width ≠ 7 → m.space ≠ 1 →
    let n : Nat := 2 ^ (m.width.toNat % 4)
    let va := (rdS s m.a + BitVec.ofInt 64 (off.toInt * (n : Int))).toNat
    (va % n = 0 → d ≠ 0 → Reaches s m.space.toNat false va n l nl1 → Stored s l n →
      SOp (.ld g d m off) g s fun t =>
        ∃ bs u, LoadBytes (ownUpdates l n s) l n nl1 bs ∧ OnlyL1 (ownUpdates l n s) u ∧
          let v := bytesToNat bs
          let x : Word64 := if m.width.toNat < 4 then BitVec.ofNat 64 v
            else if v < 2 ^ (8 * n - 1) then BitVec.ofNat 64 v else BitVec.ofInt 64 ((v : Int) - 2 ^ (8 * n))
          Arrives m.space.toNat 8 (localBound s m.space.toNat l) d x u t)
    ∧ (m.space ≠ 3 → exec (.ld g 0 m off) s = .next s)
    ∧ (m.space = 3 → (∀ e ∈ s.xlat.tu, e.die = myDie s → va / 64 * 64 < e.va ∨ e.va + e.size ≤ va / 64 * 64) →
        exec (.ld g 0 m off) s = .next s)
    ∧ Completes (.ld g 0 m off) s (fun t => t.mem = s.mem ∧ t.core.sreg = s.core.sreg ∧ t.core.pend = s.core.pend
        ∧ t.core.raised = s.core.raised)

/-- R303, R305. A store writes the low size bytes of b at S[a] + off·size, and nothing else.
Choices of the model that it rests on: log 5. -/
def Obligations.ScalarStore : Prop :=
  ∀ (s : State) (g : Guard) (b : SReg) (m : MemRef) (off : BitVec 12) (l : Nat) (nl1 : Bool),
    m.width.toNat ≤ 3 → m.space ≠ 1 → s.memOk →
    let n : Nat := 2 ^ m.width.toNat
    let va := (rdS s m.a + BitVec.ofInt 64 (off.toInt * (n : Int))).toNat
    va % n = 0 → Reaches s m.space.toNat true va n l nl1 → Writable s l n →
      SOp (.st g b m off) g s fun t =>
        let s' := ownUpdates l n s
        StoredBytes s'.mem t.mem l (natToBytes n (rdS s b).toNat) ∧ OnlyMemory s' t

/-- R303, R306, R307. An atomic replaces the word at its address by f(old, b), a compare-and-swap by b when the word is d's; the
old value arrives in d, zero-extended, at t + 12 in space 0 and within the bound elsewhere. With d = S0 it is still
performed.
Choices of the model that it rests on: log 5, 6. -/
def Obligations.ScalarAtomics : Prop :=
  ∀ (s : State) (g : Guard) (d b : SReg) (m : MemRef) (op : BitVec 4) (off : BitVec 8) (off' : BitVec 12) (l : Nat)
    (nl1 : Bool), (m.width = 2 ∨ m.width = 3) → m.space ≠ 1 → op.toNat ≤ 8 → s.memOk →
    let n : Nat := 2 ^ m.width.toNat
    let w := 8 * n
    let va := (rdS s m.a + BitVec.ofInt 64 (off.toInt * (n : Int))).toNat
    let va' := (rdS s m.a + BitVec.ofInt 64 (off'.toInt * (n : Int))).toNat
    let old := bytesToNat (s.mem.readBytes l n)
    let x := BitVec.ofNat w old
    let y := (rdS s b).setWidth w
    let new : BitVec w :=
      match op.toNat with
      | 0 => x + y
      | 1 => x &&& y
      | 2 => x ||| y
      | 3 => x ^^^ y
      | 4 => y
      | 5 => if x.slt y then x else y
      | 6 => if x.slt y then y else x
      | 7 => if x.ult y then x else y
      | _ => if x.ult y then y else x
    Writable s l n → OwnDone s l n →
    (va % n = 0 → Reaches s m.space.toNat true va n l nl1 →
      SOp (.amo g d b m op off) g s fun t =>
        ∃ u, StoredBytes s.mem u.mem l (natToBytes n new.toNat) ∧ OnlyMemory s u
          ∧ Arrives m.space.toNat 12 (localBound s m.space.toNat l) d (BitVec.ofNat 64 old) u t)
    ∧ (va' % n = 0 → Reaches s m.space.toNat true va' n l nl1 →
      SOp (.cas g d b m off') g s fun t =>
        ∃ u, (if x = (rdS s d).setWidth w then StoredBytes s.mem u.mem l (natToBytes n y.toNat) else u.mem = s.mem)
          ∧ OnlyMemory s u ∧ Arrives m.space.toNat 12 (localBound s m.space.toNat l) d (BitVec.ofNat 64 old) u t)

/-- R143, R250, R303, R369. A scalar access whose address is not a multiple of its size raises ALIGN, in space 0 or 2 and in space 3,
where it walks nothing; one past the end of space 0 or 2 PROTECT; DETAIL is the address, the slot is 1, and no access takes place.
ALIGN has the higher code, so PROTECT prevails.
Choices of the model that it rests on: log 26. -/
def Obligations.ScalarAccessFaults : Prop :=
  ∀ (s : State) (g : Guard) (d b : SReg) (m : MemRef) (op : BitVec 4) (off : BitVec 12) (off8 : BitVec 8),
    off8.toInt = off.toInt → guardOn s g = true →
    let n : Nat := 2 ^ (m.width.toNat % 4)
    let va := (rdS s m.a + BitVec.ofInt 64 (off.toInt * (n : Int))).toNat
    let all := fun (code : Nat) => (d ≠ 0 → Traps (.ld g d m off) s code 1 va) ∧ Traps (.st g b m off) s code 1 va
      ∧ Traps (.cas g d b m off) s code 1 va ∧ Traps (.amo g d b m op off8) s code 1 va
    (m.space.toNat % 2 = 0 → (spaceSize m.space.toNat < va + n → all 0x0A)
      ∧ (va + n ≤ spaceSize m.space.toNat → va % n ≠ 0 → all 0x0B))
    ∧ (m.space = 3 → va % n ≠ 0 → va < 2 ^ 56 →
      (tuFind s .core (s.coreNo / 48) va = none → all 0x0B)
      ∧ (∀ e l, (s.xlat.inval.any fun p => p.1 == s.coreNo / 48) = false → tuFind s .core (s.coreNo / 48) va = some e →
          tuAllows s e true = true → tuAllows s e false = true → localPart s (e.pa + (va - e.va)) = some l →
          place l ≠ .coded → textRefused s l n = none → all 0x0B))

/-! ### S slot: system registers, parameters, descriptors, LAUNCH (R109–R112, R192, R232, R309–R313) -/

/-- R109, R309. MFS writes d at t + 1 with the value the register has for the bundle issuing now, zero-extended; a number of
0x800 or above raises PRIV whatever the guard (R110, R290). -/
def Obligations.SystemRegisterRead : Prop :=
  ∀ (s : State) (g : Guard) (d : SReg),
    (∀ n v, (n, v) ∈ ([(0x000#12, BitVec.ofNat 64 s.cyc), (0x001#12, s.core.tstart), (0x002#12, s.core.taskId.setWidth 64),
        (0x003#12, BitVec.ofNat 64 (s.coreNo / 48 * 2 ^ 8 + s.coreNo % 48 / 8 * 2 ^ 4 + s.coreNo % 8)),
        (0x004#12, s.core.sflg.setWidth 64), (0x010#12, s.core.trip.setWidth 64), (0x011#12, s.core.kix.setWidth 64),
        (0x012#12, s.core.olc.setWidth 64), (0x013#12, s.core.rot.setWidth 64), (0x014#12, s.core.holdc.setWidth 64),
        (0x015#12, s.core.pausec.setWidth 64), (0x020#12, s.core.temp.setWidth 64), (0x021#12, s.core.tinv.setWidth 64),
        (0x022#12, s.core.ckey), (0x023#12, s.core.cctr), (0x024#12, s.core.lsc.setWidth 64),
        (0x040#12, s.core.tvec.setWidth 64), (0x041#12, s.core.tcause.setWidth 64), (0x042#12, s.core.tepc.setWidth 64),
        (0x043#12, s.core.tinfo), (0x044#12, s.core.draintab.setWidth 64), (0x045#12, s.core.rslim),
        (0x047#12, s.core.frzc), (0x048#12, s.core.rsd0.setWidth 64)] : List (BitVec 12 × Word64)) →
      SWrites (.mfs g d n) g d 1 v s)
    ∧ (∀ k, k < 16 → SWrites (.mfs g d (BitVec.ofNat 12 (0x030 + k))) g d 1 (mget 0 s.core.ft k) s)
    ∧ (∀ k, k < 8 → SWrites (.mfs g d (BitVec.ofNat 12 (0x050 + k))) g d 1 (mget 0 s.core.hot k) s)
    ∧ (∀ k, k < 128 → SWrites (.mfs g d (BitVec.ofNat 12 (0x080 + k))) g d 1 (BitVec.ofNat 64 (latTable s s.coreNo k)) s)
    ∧ (∃ v : Word64, SWrites (.mfs g d 0x060) g d 1 v s
        ∧ ∀ n, n < 64 → (v.getLsbD n = true ↔ rdTok s (BitVec.ofNat 6 n) ≠ .pending))
    ∧ (∃ v : Word64, SWrites (.mfs g d 0x061) g d 1 v s
        ∧ ∀ n, n < 64 → (v.getLsbD n = true ↔ rdTok s (BitVec.ofNat 6 n) = .err))
    ∧ (∃ v : Word64, SWrites (.mfs g d 0x046) g d 1 v s
        ∧ ((s.core.task.bind Task.budget) = none → v = BitVec.allOnes 64)
        ∧ ∀ e, (s.core.task.bind Task.budget) = some e → v = BitVec.ofNat 64 (e - s.cyc))
    ∧ (∀ n : BitVec 12, 0x800 ≤ n.toNat → Traps (.mfs g d n) s 0x12 1 n.toNat)

/-- R110, R310 and the rules it names: what each MTS does. An MTS to SFLG is followed by the flags that land in its cycle
(R299); TEMP faults a NaN or a negative value but −0 and sets TINV (R232); LSC faults a value that some tag differs from (R192);
RSLIM faults while entries are spilled (R117). -/
def Obligations.SystemRegisterWrite : Prop :=
  ∀ (s : State) (g : Guard) (a : SReg),
    let x := rdS s a
    (∀ n : BitVec 12, n.toNat < 0x800 → n ≠ 0x004 → SysWrites (.mts g a n) g n.toNat x s)
    ∧ (SOp (.mts g a 0x004) g s fun t =>
        later 1 t = { later 1 s with core := { (later 1 s).core with
          sflg := (s.core.pend.filter fun p => decide (p.due ≤ s.core.icnt + 1)).foldl
            (fun f p => match p.eff with
              | .sflg y => f ||| y
              | _ => f) (x.setWidth 5) } })
    ∧ (∀ n : BitVec 12, 0x800 ≤ n.toNat → Traps (.mts g a n) s 0x12 1 n.toNat)
    ∧ SysWrites (.mtsTripKix g a false) g 0x010 x s
    ∧ SysWrites (.mtsTripKix g a true) g 0x011 x s
    ∧ (∀ n : BitVec 3, SysWrites (.mtsHot g a n) g (0x050 + n.toNat) x s)
    ∧ SysWrites (.mtsTcause g a) g 0x041 x s
    ∧ SysWrites (.mtsCctr g a) g 0x023 x s
    ∧ (s.core.rsd0.toNat ≤ s.core.h0 → SysWrites (.mtsRslim g a) g 0x045 x s)
    ∧ (s.core.h0 < s.core.rsd0.toNat → guardOn s g = true → Traps (.mtsRslim g a) s 0x0F 1 s.core.rsd0.toNat)
    ∧ ((tags s.core).all (fun t => t == x.setWidth 8) = true → SysWrites (.mtsLsc g a) g 0x024 x s)
    ∧ ((tags s.core).any (fun t => t != x.setWidth 8) = true → guardOn s g = true →
        Traps (.mtsLsc g a) s 0x10 1 (x.setWidth 8).toNat)
    ∧ (let v : BitVec 32 := x.setWidth 32
       let bad := 0x7F800000 < v.toNat % 2 ^ 31 ∨ 2 ^ 31 < v.toNat
       (bad → guardOn s g = true → Traps (.mtsTemp g a) s 0x16 1 v.toNat)
       ∧ (¬bad → SOp (.mtsTemp g a) g s (Lands 1 (fun u =>
            let w := if v = 0x80000000 then 0 else v
            { u with core := { u.core with temp := w, tinv := BitVec.ofNat 32 (fdiv32 0x3F800000 w.toNat).1 } }) s)))

/-- R9, R107, R109, R112. What a system-register write leaves: the register reads the value cut to its fields, every other
number reads as before, and no other state of the core changes but P8–P15 (TRIP, KIX) and handler mode (TCAUSE). -/
def Obligations.SystemRegisterReadBack : Prop :=
  ∀ (s : State) (n : Nat) (v : Word64), mwf 0 s.core.ft = true → mwf 0 s.core.hot = true →
    let u : State := { s with core := applySys n v s.core }
    (∀ w, (n, w) ∈ [(0x004, 5), (0x010, 32), (0x011, 32), (0x012, 32), (0x013, 6), (0x020, 32), (0x021, 32), (0x022, 64),
        (0x023, 64), (0x024, 8), (0x040, 15), (0x041, 8), (0x042, 15), (0x044, 21)] →
      sysValue u n = (v.setWidth w).setWidth 64)
    ∧ (0x030 ≤ n → n ≤ 0x03F → sysValue u n = v &&& 0x1FFF)
    ∧ (n = 0x043 → sysValue u n = v &&& 0x9FFFFFFFFFFFFFFF)
    ∧ (n = 0x045 → sysValue u n = v &&& 0x001FFFFF001FFFFF)
    ∧ (0x050 ≤ n → n ≤ 0x057 → sysValue u n = v &&& 0x8FFF)
    ∧ (∀ k, n < 0x1000 → k ≠ n → sysValue u k = sysValue s k)
    ∧ (n = 0x041 → u.core.handler = (s.core.handler && v.setWidth 8 != 0#8))
    ∧ ((n = 0x010 ∨ n = 0x011) → mwf 0 s.core.preg = true → ∀ j, j < 8 → ∀ l, l < 64 →
        (mget 0 u.core.preg (8 + j)).getLsbD l = decide (j ≤ u.core.kix.toNat ∧ u.core.kix.toNat - j < u.core.trip.toNat))
    ∧ (n ≠ 0x041 → u.core.handler = s.core.handler) ∧ (n < 0x1000 → n ≠ 0x010 → n ≠ 0x011 → u.core.preg = s.core.preg)
    ∧ (mwf 0 s.core.preg = true → ∀ j, j < 8 → mget 0 u.core.preg j = mget 0 s.core.preg j)
    -- beside P8–P15, handler mode and the registers that have a number, the core is as it was
    ∧ { u.core with
        sflg := s.core.sflg, trip := s.core.trip, kix := s.core.kix, olc := s.core.olc, rot := s.core.rot, holdc := s.core.holdc
        pausec := s.core.pausec, temp := s.core.temp, tinv := s.core.tinv, ckey := s.core.ckey, cctr := s.core.cctr
        lsc := s.core.lsc, ft := s.core.ft, tvec := s.core.tvec, tcause := s.core.tcause, tepc := s.core.tepc
        tinfo := s.core.tinfo, draintab := s.core.draintab, rslim := s.core.rslim, hot := s.core.hot
        preg := s.core.preg, handler := s.core.handler } = s.core

/-- R191, R192, R351. MTS LSCR rescales by 2^(v − LSC) when no routine occupies a non-empty accumulator or sketch and no rescale is
in progress, else it is a SCHEDULE: LSC becomes v at t + 1, every tag becomes v at once, every element of a non-empty accumulator, FP32
or FP64, is multiplied, rounded once, and every energy by the square; a sketch's U shows the old or the new words until the rescale
has completed.
Choices of the model that it rests on: log 58. -/
def Obligations.LossScaleRescale : Prop :=
  ∀ (s : State) (g : Guard) (a : SReg), mwf 0 s.core.macc = true → mwf 0 s.core.mtag = true → mwf false s.core.mf64 = true →
    mwf 0 s.core.sk = true →
    let c := s.core
    let v : Byte := (rdS s a).setWidth 8
    let k : Int := v.toInt - c.lsc.toInt
    let full := fun i => mget false c.mfull i = true
    let wide := fun i => mget false c.mf64 (i / 2 * 2) = true
    let el := fun (x : Core) (i o : Nat) => mget 0 x.macc (i * 16384 + o)
    let pair := fun (x : Core) (i o : Nat) => (el x i o).toNat + (el x (i + 1) o).toNat * 2 ^ 32
    let held := ∃ r ∈ c.rtns, (∃ i ∈ r.occM, mNonEmpty c i = true) ∨ ∃ i ∈ r.occK, kNonEmpty c i = true
    (guardOn s g = true → held → ∃ d, Traps (.mtsLscr g a) s 0x07 1 d)
    ∧ (guardOn s g = true → c.rescale ≠ none → (∃ i, i < 4 ∧ full i) → ∃ d, Traps (.mtsLscr g a) s 0x07 1 d)
    ∧ (¬held → c.rescale = none → SOp (.mtsLscr g a) g s fun t =>
        (later 1 t).core.lsc = v
        ∧ (∀ i, i < 4 → full i → mget 0 t.core.mtag i = v)
        ∧ (∀ i o, i < 4 → o < 16384 → full i → ¬wide i → el t.core i o = BitVec.ofNat 32 (scalePat F32 k (el c i o).toNat).1)
        ∧ (∀ i o, i = 0 ∨ i = 2 → o < 16384 → full i → wide i → pair t.core i o = (scalePat F64 k (pair c i o)).1)
        ∧ (∀ i o, i < 4 → o < 16384 → ¬full i → ¬wide i → el t.core i o = el c i o)
        ∧ (∀ i, i < 8 → (skAt c i).c = 0 → skAt t.core i = skAt c i)
        ∧ (∀ i, i < 8 → (skAt c i).c ≠ 0 →
            skAt t.core i = { skAt c i with de := (scalePat F64 (2 * k) (skAt c i).de).1, lst := v.toNat })
        ∧ ∃ ws, t.core.rescale = some (s.cyc + 16 + 256 * ((List.range 4).filter fun i => mget false c.mfull i).length
              + (((List.range 8).filter fun i => decide ((skAt c i).c ≠ 0)).map fun i =>
                  ((skAt c i).m * (skAt c i).c + 63) / 64).foldl (fun x y => x + y) 0, ws)
          ∧ ∀ i, i < 8 → (∀ j, j < 8 → j ≠ i → (skAt c j).c = 0) → s.vers = [] → s.memOk → (skAt c i).base % 16 = 0 →
              (∀ j, j < (skAt c i).c → badAddr s ((skAt c i).colAt s.coreNo false j) (4 * (skAt c i).m) = none) →
              ∀ j r, j < (skAt c i).c → r < (skAt c i).m →
                let x := (skAt c i).colAt s.coreNo false j + 4 * r
                let old := s.mem.readBytes x 4
                let new := natToBytes 4 (scalePat F32 k (bytesToNat old)).1
                (t.mem.readBytes x 4 = old ∨ t.mem.readBytes x 4 = new)
                ∧ (ws.foldl (fun m w => m.writeBytes w.1 w.2) t.mem).readBytes x 4 = new)

/-- R311, R312. MPSET sets a parameter register to a + imm17, CDSET one word of a descriptor to the whole of a, both at t + 1;
bits [16:3] and b of a CDSET are 0. -/
def Obligations.ParametersAndDescriptors : Prop :=
  (∀ (s : State) (g : Guard) (m : BitVec 3) (a : SReg) (e : BitVec 17),
    SOp (.mpset g m a e) g s (Lands 1 (fun u => { u with core := { u.core with
      mp := mset 0 u.core.mp m.toNat (rdS s a + BitVec.ofInt 64 e.toInt) } }) s))
  ∧ (∀ (s : State) (g : Guard) (n : BitVec 4) (w : BitVec 3) (a : SReg),
    SOp (.cdset g n w a) g s (Lands 1 (fun u => { u with core := { u.core with
      cd := mset 0 u.core.cd (n.toNat * 8 + w.toNat) (rdS s a) } }) s))
  ∧ (∀ w : Nat, w / 2 ^ 40 = 0x4B → w / 2 ^ 3 % 2 ^ 20 ≠ 0 → decodeSlot 1 w = none)

/-- R313. LAUNCH posts the 64-byte image at the scratchpad offset S[a] as a pool entry with V = 1, TAKEN = 0 and this core as
PARENT, whatever G register it names; Gd is on its way with whether an entry was free; a misaligned or too high offset raises
ALIGN or PROTECT. -/
def Obligations.LaunchPosts : Prop :=
  ∀ (s : State) (g : Guard) (d : GReg) (a : SReg),
    let o := (rdS s a).toNat
    let l := spadBase s.coreNo + o
    (o % 16 = 0 → o + 64 ≤ 0x200000 → badAddr s l 64 = none →
      SOp (.launch g d a) g s fun t =>
        let img : BitVec 512 := BitVec.ofNat 512 (bytesToNat (readHome s l 64))
        (∀ i, freePool s = some i → mwf 0 s.pool.entries = true →
          let e := mget 0 t.pool.entries i
          e.getLsbD 361 = true ∧ e.getLsbD 362 = false ∧ (e.extractLsb' 352 9).toNat = s.coreNo % 512
          ∧ (∀ b, b < 275 ∨ (288 ≤ b ∧ b < 352) ∨ b = 363 ∨ (448 ≤ b ∧ b < 512) → e.getLsbD b = img.getLsbD b)
          ∧ (∀ b, (275 ≤ b ∧ b ≤ 287) ∨ (364 ≤ b ∧ b ≤ 447) → e.getLsbD b = false)
          ∧ (∀ j, j ≠ i → mget 0 t.pool.entries j = mget 0 s.pool.entries j))
        ∧ (freePool s = none → t.pool = s.pool)
        ∧ (∃ k, 1 ≤ k ∧ k ≤ 512 ∧ { t with free := s.free, pool := s.pool } = { s with core := { s.core with
            pend := s.core.pend ++ (if d = 0 then [] else [⟨s.core.icnt + k, s.core.icnt + 512, .g d.toNat (freePool s).isSome⟩])
              ++ [boundMark 512 s] } }))
    ∧ (guardOn s g = true → 0x200000 < o + 64 → Traps (.launch g d a) s 0x0A 1 o)
    ∧ (guardOn s g = true → o + 64 ≤ 0x200000 → o % 16 ≠ 0 → Traps (.launch g d a) s 0x0B 1 o)

/-! ### V slots (R314–R338) -/

/-- R105, R178, R316–R318. What writing a vector does when it lands, for every vector, guard and lane function: the guarded lanes'
elements and flags and nothing else, in the landing cycle and not before.
R315. Values packed into the 32-bit lanes read back: value i of a vector whose lanes hold the values `val` is `val i`, for
every format of up to 64 bits; a lane's flags are those of its values. -/
def Obligations.VectorLanding : Prop :=
  (∀ (s : State) (v : VOp) (lat : Nat) (guard : Nat → Bool) (lane : Nat → Nat × Flags), LanesOk s →
     (kindOf v.d).isVec = true →
       LaneWrites lat v.nf (kindOf v.d) guard lane s (putMany lat (vecEffects s v (kindOf v.d) guard lane) s))
  ∧ (∀ (f : Nat) (val : Nat → Nat × Flags) (i : Nat), f ≤ 17 → i < numVals f → (∀ j, (val j).1 < 2 ^ fmtWidth f) →
     let w := fmtWidth f
     let lane := fun l => (laneOf f val l).1
     (if w = 32 then lane i
      else if w = 64 then lane (2 * i) + lane (2 * i + 1) * 2 ^ 32
      else lane (i / (32 / w)) / 2 ^ (w * (i % (32 / w))) % 2 ^ w) = (val i).1
     ∧ (∀ b, (val i).2.getLsbD b = true →
         (laneOf f val (if w = 64 then 2 * i else if w = 32 then i else i / (32 / w))).2.getLsbD b = true))

/-- R317–R320. The element-wise arithmetic forms: each value of d is the exact result rounded once into the format (floating) or
narrowed by wrapping or clamping (integer); VMIN, VMAX, VABS and VNEG as R320 says; latency by R319's table. -/
def Obligations.VectorArithmetic : Prop :=
  ∀ (s : State) (v : VOp), LanesOk s →
    let f := fmtOf s v.fmt
    let r := rndOf s v.rnd
    let w := fmtWidth f
    let a := srcVal s f (kindOf v.a)
    let b := srcVal s f (kindOf v.b)
    let d := srcVal s f (kindOf v.d)
    let dec := decodeFmt f
    let int := intOf f
    let lat := if f < 8 then 2 else 4
    let arith := fun (op : Nat → FV × Flags) (iop : Nat → Int) (i : Nat) =>
      if f < 8 then (narrowInt f v.sat (iop i), 0) else finish (ffmt f) (laneRnd s r v.sat f i) (op i)
    let rdn := r == 3
    f ≤ 11 → r ≤ 5 → (f < 8 → r = 0) → dstBad f (kindOf v.d) = false → srcBad f (kindOf v.a) = false →
      (srcBad f (kindOf v.b) = false →
        VOut (.vadd v) v lat f r (arith (fun i => addFV rdn (dec (a i)) (dec (b i))) fun i => int (a i) + int (b i)) s
        ∧ VOut (.vsub v) v lat f r (arith (fun i => addFV rdn (dec (a i)) (dec (b i)).flip) fun i => int (a i) - int (b i)) s
        ∧ VOut (.vmul v) v lat f r (arith (fun i => mulFV (dec (a i)) (dec (b i))) fun i => int (a i) * int (b i)) s
        ∧ VOut (.vmin v) v 2 f 0 (fun i => if f < 8 then (if int (a i) < int (b i) then a i else b i, 0)
            else minMaxFV (ffmt f) false (a i) (b i)) s
        ∧ VOut (.vmax v) v 2 f 0 (fun i => if f < 8 then (if int (a i) < int (b i) then b i else a i, 0)
            else minMaxFV (ffmt f) true (a i) (b i)) s
        ∧ (8 ≤ f →
          VOut (.vfma v) v 4 f r (arith (fun i => fmaFV rdn (dec (a i)) (dec (b i)) (dec (d i))) fun _ => 0) s
          ∧ VOut (.vfms v) v 4 f r (arith (fun i => fmaFV rdn (dec (a i)) (dec (b i)) (dec (d i)).flip) fun _ => 0) s
          ∧ VOut (.vfnma v) v 4 f r (arith (fun i => fmaFV rdn (dec (a i)).flip (dec (b i)) (dec (d i))) fun _ => 0) s
          ∧ VOut (.vdiv v) v 14 f r (arith (fun i => divFV (dec (a i)) (dec (b i))) fun _ => 0) s))
      ∧ (8 ≤ f → VOut (.vsqrt v) v 16 f r (arith (fun i => sqrtFV (dec (a i))) fun _ => 0) s)
      ∧ ((f < 8 ∨ v.sat = false) →
        VOut (.vabs v) v 2 f 0 (fun i => if f < 8 then (narrowInt f v.sat (int (a i)).natAbs, 0)
          else (a i % 2 ^ (w - 1), 0)) s
        ∧ VOut (.vneg v) v 2 f 0 (fun i => if f < 8 then (narrowInt f v.sat (-int (a i)), 0)
          else (if a i < 2 ^ (w - 1) then a i + 2 ^ (w - 1) else a i - 2 ^ (w - 1), 0)) s)

/-- R321–R323. VEXP2 and VLOG2 (correct rounding where the result is no special case: log 16), the squares accumulated by
VSQACC in the fixed tree, and the complex product, multiply-add and conjugate.
R321. The special cases, on the bits: a NaN, ±0, ±∞, a value below −0, and the integers, whose results are exact and raise no flag.
Choices of the model that it rests on: log 16; the NV for a NaN in the element that VSQACC adds to is log 22 (DEDUCED). -/
def Obligations.VectorFunctions : Prop :=
  (∀ (x : Nat) (rd : Rnd), x < 2 ^ 32 → rd.rnd ≤ 4 →
    let e2 := finish F32 rd (exp2FV (F32.decode x))
    let l2 := finish F32 rd (log2FV (F32.decode x))
    (NanBits F32 x → e2.1 = nanPattern F32 ∧ l2.1 = nanPattern F32 ∧ NvIf (SigBits F32 x) e2.2 ∧ NvIf (SigBits F32 x) l2.2)
    ∧ (x = 0 ∨ x = minusZero F32 → e2 = (0x3F800000, 0) ∧ l2 = (infPattern F32 true, DZ))
    ∧ (x = infPattern F32 true → e2 = (0, 0))
    ∧ (minusZero F32 < x → ¬NanBits F32 x → l2 = (nanPattern F32, NV))
    ∧ (x = infPattern F32 false → e2 = (infPattern F32 false, 0) ∧ l2 = (infPattern F32 false, 0))
    ∧ (∀ k : Int, k ≠ 0 → -149 ≤ k → k ≤ 127 → Holds32 x k →
      e2 = (if k < -126 then 2 ^ (k + 149).toNat else (k + 127).toNat * 2 ^ 23, 0))
    ∧ (∀ k : Int, -149 ≤ k → k ≤ 127 → x = (if k < -126 then 2 ^ (k + 149).toNat else (k + 127).toNat * 2 ^ 23) →
      l2.2 = 0 ∧ Holds32 l2.1 k ∧ (k = 0 → l2.1 = 0)))
  ∧ ∀ (s : State) (v : VOp), LanesOk s →
    let f := fmtOf s v.fmt
    let r := rndOf s v.rnd
    let a := srcVal s f (kindOf v.a)
    let b := srcVal s f (kindOf v.b)
    let d := srcVal s f (kindOf v.d)
    dstBad f (kindOf v.d) = false → srcBad f (kindOf v.a) = false →
      (f = 10 → r ≤ 4 →
        VOut (.vexp2 v) v 10 10 r (fun i => finish F32 (laneRnd s r v.sat 10 i) (exp2FV (F32.decode (a i)))) s
        ∧ VOut (.vlog2 v) v 10 10 r (fun i => finish F32 (laneRnd s r v.sat 10 i) (log2FV (F32.decode (a i)))) s)
      ∧ (f = 17 → r ≤ 5 → srcBad f (kindOf v.b) = false →
        let re := fun x : Nat => F32.decode (x % 2 ^ 32)
        let im := fun x : Nat => F32.decode (x / 2 ^ 32)
        let rdn := r == 3
        let rd := fun l : Nat => (⟨r, v.sat, if r = 5 then genU s.core.ckey s.core.cctr l else 0⟩ : Rnd)
        let pair := fun (x y : Nat × Flags) => (x.1 + y.1 * 2 ^ 32, x.2 ||| y.2)
        let plus := fun (x : FV × Flags) (y : FV) => let z := addFV rdn x.1 y; (z.1, x.2 ||| z.2)
        let pr := fun k => twoProd rdn (re (a k)) (re (b k)) (im (a k)) (im (b k)) true
        let pi := fun k => twoProd rdn (re (a k)) (im (b k)) (im (a k)) (re (b k)) false
        VOut (.vcmul v) v 4 17 r
          (fun k => pair (finish F32 (rd (2 * k)) (pr k)) (finish F32 (rd (2 * k + 1)) (pi k))) s
        ∧ VOut (.vcfma v) v 4 17 r
          (fun k => pair (finish F32 (rd (2 * k)) (plus (pr k) (re (d k)))) (finish F32 (rd (2 * k + 1)) (plus (pi k) (im (d k))))) s)
      ∧ (f = 17 → VOut (.vconj v) v 2 17 0 (fun k => (if a k < 2 ^ 63 then a k + 2 ^ 63 else a k - 2 ^ 63, 0)) s)
      ∧ ((f = 10 ∨ f = 11) →
        let ff := ffmt f
        let n := 2048 / fmtWidth f
        let on := fun k => laneGuard s v (if f = 11 then 2 * k else k)
        let sq := fun k => if on k then mulFV (ff.decode (a k)) (ff.decode (a k)) else (FV.fin true 0 0, 0)
        let sums := (List.range (n / 2)).map fun k => finish ff Rnd.rne (addFV false (sq (2 * k)).1 (sq (2 * k + 1)).1)
        let tree := treeRed (fun x y => finish ff Rnd.rne (addFV false (ff.decode x) (ff.decode y))) 5 (sums.map Prod.fst)
        let bad := (List.range n).any fun k => on k && (ff.decode (a k)).isNan
        let tot := if bad then (ff.nan, NV) else (tree.1, orFlags (sums.map Prod.snd) ||| tree.2)
        let val := fun k =>
          let x := finish ff Rnd.rne (addFV false (ff.decode (d k)) (ff.decode tot.1))
          (x.1, if (ff.decode (d k)).isNan then x.2 ||| NV else x.2)
        Completes (.vsqacc v) s (LaneWrites 8 v.nf (kindOf v.d) (fun _ => true)
          (fun l =>
            let x := laneOf f val l
            (x.1, x.2 ||| (if l = 0 ∨ (f = 11 ∧ l = 1) then tot.2 else 0))) s))

/-- R324. The logic operations act on the bits of the values; a shift by the width or more gives 0 (VSHL, VSHR) or copies of the
top bit (VSAR). -/
def Obligations.VectorLogic : Prop :=
  ∀ (s : State) (v : VOp), LanesOk s →
    let f := fmtOf s v.fmt
    let w := fmtWidth f
    let a := srcVal s f (kindOf v.a)
    let b := srcVal s f (kindOf v.b)
    let out := fun (i : Instr) (g : BitVec w → BitVec w → BitVec w) =>
      VOut i v 2 f 0 (fun i => ((g (BitVec.ofNat w (a i)) (BitVec.ofNat w (b i))).toNat, 0)) s
    f < 8 → dstBad f (kindOf v.d) = false → srcBad f (kindOf v.a) = false → srcBad f (kindOf v.b) = false →
      out (.vand v) (· &&& ·) ∧ out (.vor v) (· ||| ·) ∧ out (.vxor v) (· ^^^ ·)
      ∧ out (.vshl v) (fun x y => x <<< y.toNat) ∧ out (.vshr v) (fun x y => x >>> y.toNat)
      ∧ out (.vsar v) (fun x y => x.sshiftRight y.toNat)

/-- R325–R329. The conversions: VCVT value by value, VQNT and VDQNT of a QN4 block, VMXQ and VMXD of MX blocks.
Choices of the model that it rests on: log 20, 21, 125. -/
def Obligations.VectorConversions : Prop :=
  ∀ (s : State) (v : VOp), LanesOk s →
    let df := fmtOf s v.fmt
    let sf := sfmtOf s (v.b.extractLsb' 0 5)
    let r := rndOf s v.rnd
    r ≤ 5 → (kindOf v.d).isVec = true →
      (accC df = true → accC sf = true → dstBad df (kindOf v.d) = false → srcBad sf (kindOf v.a) = false →
        let a := srcVal s sf (kindOf v.a)
        let n := Nat.min (2048 / fmtWidth sf) (2048 / fmtWidth df)
        VOut (.vcvt v) v 3 df r (fun i => if i < n then convert sf df (laneRnd s r v.sat df i) (a i) else (0, 0)) s)
      ∧ (srcBad 10 (kindOf v.a) = false → (kindOf v.b).isS = true →
        let a := srcVal s 10 (kindOf v.a)
        let amax := srcVal s 10 (kindOf v.b) 0
        let big := maxFinite ((List.range 64).map a)
        let bad := match F32.decode amax with
          | .nan _ => true
          | .inf _ => true
          | .fin n m _ => if m = 0 then decide (big ≠ 0) else n
        let sb := if bad then 0 else qn4Scale big amax
        let db := (fmul32 (natF32 sb) (fdiv32 amax (natF32 255)).1).1
        let code := fun i => if bad then (7, (0 : Flags))
          else qn4Code ⟨r, false, if r = 5 then genU s.core.ckey s.core.cctr (ellOf 15 i) else 0⟩ sb db
            (if i < 64 then a i else 0)
        Completes (.vqnt v) s (LaneWrites 6 v.nf (kindOf v.d) (laneGuard s v)
          (fun l => if l < 8 then laneOf 15 code l else if l = 63 then (sb, if bad then NV else 0) else (0, 0))
          (advCctr (r == 5) s)))
      ∧ (srcBad 15 (kindOf v.a) = false → (kindOf v.b).isS = true →
        let a := srcVal s 15 (kindOf v.a)
        let g := srcVal s 10 (kindOf v.b) 0
        let db := fmul32 (natF32 (a 504 + a 505 * 2 ^ 4)) g
        VOut (.vdqnt v) v 6 10 0 (fun l => if isNan32 g then (F32.nan, NV)
          else
            let x := qn4Value (a l) db.1
            (x.1, x.2 ||| db.2)) s)
      ∧ (12 ≤ df → df ≤ 14 → (sf = 9 ∨ sf = 10) → srcBad sf (kindOf v.a) = false →
        let n := 2048 / fmtWidth sf
        let vs := (List.range n).map fun i => decodeFmt sf (srcVal s sf (kindOf v.a) i)
        let blk := fun j => (vs.drop (32 * j)).take 32
        let scale := fun j => mxScale df (blk j)
        let code := fun i => if i < n then
            mxElem df (laneRnd s r false df i) (scale (i / 32)) ((blk (i / 32)).all FV.isZero) (vs.getD i (.nan false))
          else (0, 0)
        Completes (.vmxq v) s (LaneWrites 6 v.nf (kindOf v.d) (laneGuard s v)
          (fun l =>
            if l = 63 then
              (((List.range (n / 32)).map fun j => (scale j).getD 0xFF * 2 ^ (8 * j)).sum,
                if (List.range (n / 32)).any (fun j => (scale j).isNone) then NV else 0)
            else if l * (32 / fmtWidth df) < n then laneOf df code l else (0, 0))
          (advCctr (r == 5) s)))
      ∧ ((df = 9 ∨ df = 10) → 12 ≤ sf → sf ≤ 14 → srcBad sf (kindOf v.a) = false →
        let a := srcVal s sf (kindOf v.a)
        let w := fmtWidth sf
        let scale := fun j => if w = 8 then a (252 + j) else a (504 + 2 * j) + a (505 + 2 * j) * 2 ^ 4
        VOut (.vmxd v) v 6 df r (fun i => mxDecode sf df (laneRnd s r v.sat df i) (scale (i / 32)) (a i)) s)

/-- R330–R334, R336. Data movement: each value of d is a value of a, chosen by the form. VBITX permutes by R331's σ, VLANE
rotates or shifts lanes, VSEL selects by the guard and writes every lane, VEXTR and VINS act on one named element. -/
def Obligations.VectorMovement : Prop :=
  ∀ (s : State) (v : VOp), LanesOk s →
    let f := v.fmt.toNat
    let a := srcVal s f (kindOf v.a)
    let b := srcVal s f (kindOf v.b)
    let c := ctlVal s f (kindOf v.b)
    let ctl := (kindOf v.b).isS || (kindOf v.b).isImm
    (dstBad f (kindOf v.d) = false → elemBad f (kindOf v.a) = false →
      VOut (.vmov v) v (if isDiag (kindOf v.d) || isDiag (kindOf v.a) then 3 else 2) f 0 (fun i => (a i, 0)) s
      ∧ VOut (.vbcast v) v 2 f 0 (fun _ => (a 0, 0)) s
      ∧ (elemBad f (kindOf v.b) = false →
        VOut (.vperm v) v 4 f 0 (fun i => (if (BitVec.ofNat 64 (b i)).getLsbD 7 then 0 else a (b i % 64), 0)) s
        ∧ Completes (.vsel v) s (LaneWrites 2 v.nf (kindOf v.d) (fun _ => true)
            (laneOf f fun i => (if laneGuard s v (if isPair f then 2 * i else i) then a i else b i, 0)) s))
      ∧ (ctl = true →
        (let w := if isPair f then 5 else 6
         let p := c / 2 ^ 8 % 64
         let q := c / 2 ^ 16 % 64
         ∃ σ : Nat → Nat, VOut (.vbitx v) v 4 f 0 (fun i => (a (σ i), 0)) s
          ∧ ∀ i j, i < 2 ^ w → j < w → (σ i).testBit j =
              (let k := if p ≠ q ∧ p < w ∧ q < w then (if j = p then q else if j = q then p else j) else j
               i.testBit k ^^ c.testBit k))
        ∧ (let m := c / 2 ^ 6 % 4
           let h := c % 64
           (m = 0 → VOut (.vlane v) v 4 f 0 (fun l => (a ((l + h) % 64), 0)) s)
           ∧ (m = 1 → VOut (.vlane v) v 4 f 0 (fun l => (if l + h ≤ 63 then a (l + h) else 0, 0)) s)
           ∧ (m = 2 → VOut (.vlane v) v 4 f 0 (fun l => (if h ≤ l then a (l - h) else 0, 0)) s)
           ∧ (m = 3 → Traps (.vlane v) s 0x01 (if v.slot1 then 3 else 2) 0x02C))))
    ∧ (ctl = true → ∀ n : SReg, kindOf v.d = .s n → elemBad f (kindOf v.a) = false →
      let l := c % 64
      let i := if isPair f then l / 2 else l
      let x : Word64 := if f = 4 then (BitVec.ofNat 32 (a i)).signExtend 64 else BitVec.ofNat 64 (a i)
      Completes (.vextr v) s fun t =>
        (vGuard s v f l = true → Lands 3 (writeS n (physS s.core n) x) s t) ∧ (vGuard s v f l = false → t = s))
    ∧ (ctl = true → dstBad f (kindOf v.d) = false → (kindOf v.a).isS = true →
      let l := c % 64
      Completes (.vins v) s (LaneWrites 2 v.nf (kindOf v.d)
        (fun x => (if isPair f then x / 2 == l / 2 else x == l) && vGuard s v f l) (laneOf f fun _ => (a 0, 0)) s))

/-- R189, R190, R316, R334. VRED reduces the values whose guard holds over the fixed pairwise tree, the others giving the
identity, into every lane of d or into a scalar register; a sum with a NaN, or with infinities of both signs, is NaN with NV.
R189. The fixed pairwise tree over 2^k leaves: two halves reduced alike, then combined, the lower half first. -/
def Obligations.VectorReduction : Prop :=
  (∀ (s : State) (v : VOp), LanesOk s →
     let f := fmtOf s v.fmt
     let op := v.sub.toNat
     let ff := ffmt f
     let n := 2048 / fmtWidth f
     let a := srcVal s f (kindOf v.a)
     let on := fun i => laneGuard s v (if isPair f then 2 * i else i)
     let idn : Nat :=
       if f < 8 then (if op = 0 then 0 else wrapInt (fmtWidth f) (if op = 1 then intMax f else intMin f))
       else ff.signed (op != 1) (if op = 0 then 0 else ff.infMag)
     let xs := (List.range n).map fun i => if on i then a i else idn
     let red : Nat × Flags :=
       if f < 8 then ((treeRed (fun x y => (if op = 0 then wrapInt (fmtWidth f) (intOf f x + intOf f y)
           else if op = 1 then (if intOf f x < intOf f y then x else y) else (if intOf f x < intOf f y then y else x), 0)) 6 xs).1, 0)
       else if op = 0 then
         (if badSum (xs.map ff.decode) then (ff.nan, NV)
          else treeRed (fun x y => finish ff Rnd.rne (addFV false (ff.decode x) (ff.decode y))) 6 xs)
       else treeRed (minMaxFV ff (op == 2)) 6 xs
     accR f = true → op ≤ 2 → srcBad f (kindOf v.a) = false →
       (dstBad f (kindOf v.d) = false →
         Completes (.vred v) s (LaneWrites 8 v.nf (kindOf v.d) (fun _ => true)
           (fun l => ((laneOf f (fun _ => (red.1, 0)) l).1, if l = 0 ∨ (isPair f = true ∧ l = 1) then red.2 else 0)) s))
       ∧ (∀ m : SReg, kindOf v.d = .s m →
         let x : Word64 := if f = 4 then (BitVec.ofNat 32 red.1).signExtend 64 else BitVec.ofNat 64 red.1
         Completes (.vred v) s fun t =>
           (∀ k, k < 8 → noFlight (later k t) = noFlight (later k s))
           ∧ (let u := later 8 s
              let w := later 8 t
              { w with core := { w.core with sreg := u.core.sreg, lflag := u.core.lflag } } = u
              ∧ w.core.sreg = (writeS m (physS s.core m) x u).core.sreg
              ∧ ∀ l, l < 64 → mget 0 w.core.lflag l = mget 0 u.core.lflag l
                 ||| (if v.nf = false ∧ (l = 0 ∨ (isPair f = true ∧ l = 1)) then red.2 else 0))))
  ∧ (∀ (op : Nat → Nat → Nat × Flags) (k : Nat) (xs ys : List Nat), xs.length = 2 ^ k → ys.length = 2 ^ k →
     (treeRed op (k + 1) (xs ++ ys)).1 = (op (treeRed op k xs).1 (treeRed op k ys).1).1
     ∧ (treeRed op (k + 1) (xs ++ ys)).2 =
         (treeRed op k xs).2 ||| (treeRed op k ys).2 ||| (op (treeRed op k xs).1 (treeRed op k ys).1).2)

/-! ### V slots: predicates (R229–R244, R335–R349) -/

/-- R335, R342, R343. VCMP, PLOG and the forms of PMOV that write a lane predicate: the guarded lanes take their values at
t + 2, the others keep theirs; P0 discards. -/
def Obligations.LanePredicates : Prop :=
  ∀ (s : State) (v : VOp) (p : PReg), LanesOk s → mwf 0 s.core.preg = true → kindOf v.d = .p p →
    let f := fmtOf s v.fmt
    let a := srcVal s f (kindOf v.a)
    let b := srcVal s f (kindOf v.b)
    let cc := v.sub.toNat
    let rel := fun i => if f < 8 then (relInt cc (intOf f (a i)) (intOf f (b i)) (a i) (b i), (0 : Flags))
      else relFV cc (decodeFmt f (a i)) (decodeFmt f (b i))
    let pa := fun l => match kindOf v.a with
      | .p n => (rdP s n).getLsbD l
      | _ => false
    let pb := fun l => match kindOf v.b with
      | .p n => (rdP s n).getLsbD l
      | _ => false
    (accR f = true → (if f < 8 then cc ≤ 9 else cc ≤ 5 ∨ cc = 10 ∨ cc = 11) → srcBad f (kindOf v.a) = false →
      srcBad f (kindOf v.b) = false →
      PredWrites (.vcmp v) 2 v.nf p (vGuard s v f) (fun l => rel (if isPair f then l / 2 else l)) s)
    ∧ ((kindOf v.a).isP = true →
      ((kindOf v.b).isP = true →
        (cc = 0 → PredWrites (.plog v) 2 v.nf p (laneGuard s v) (fun l => (pa l && pb l, 0)) s)
        ∧ (cc = 1 → PredWrites (.plog v) 2 v.nf p (laneGuard s v) (fun l => (pa l || pb l, 0)) s)
        ∧ (cc = 2 → PredWrites (.plog v) 2 v.nf p (laneGuard s v) (fun l => (pa l ^^ pb l, 0)) s)
        ∧ (cc = 3 → PredWrites (.plog v) 2 v.nf p (laneGuard s v) (fun l => (pa l && !pb l, 0)) s))
      ∧ (cc = 4 → PredWrites (.plog v) 2 v.nf p (laneGuard s v) (fun l => (!pa l, 0)) s)
      ∧ PredWrites (.pmov v) 2 v.nf p (laneGuard s v) (fun l => (pa l, 0)) s)
    ∧ ((kindOf v.a).isVec = true ∨ (kindOf v.a).isS = true →
      (v.fmt = 5 → PredWrites (.pmov v) 2 v.nf p (laneGuard s v) (fun l => (srcVal s 5 (kindOf v.a) l != 0, 0)) s)
      ∧ (v.fmt = 10 → PredWrites (.pmov v) 2 v.nf p (laneGuard s v)
          (fun l => (!(F32.decode (srcVal s 10 (kindOf v.a) l)).isZero, 0)) s))

/-- R337, R338, R343. PMOV from a lane predicate writes 1 or 1.0; VFLAG reads the lanes' sticky flags and, unless nf, clears
them; VRND writes one generator value per lane and advances CCTR whatever the guards. -/
def Obligations.FlagsAndRandom : Prop :=
  ∀ (s : State) (v : VOp), LanesOk s → (kindOf v.d).isVec = true →
    (∀ p : PReg, kindOf v.a = .p p →
      VOut (.pmov v) v 2 5 0 (fun l => (if (rdP s p).getLsbD l then (if v.fmt = 10 then 0x3F800000 else 1) else 0, 0)) s)
    ∧ (v.nf = true → Completes (.vflag v) s (LaneWrites 2 true (kindOf v.d) (laneGuard s v)
        (fun l => ((mget 0 s.core.lflag l).toNat, 0)) s))
    ∧ (v.nf = false → Completes (.vflag v) s fun t =>
        (∀ l, l < 64 → laneGuard s v l = true → (∀ p ∈ s.core.pend, ∀ x, p.eff ≠ .lflg l x) →
          mget 0 (later 1 t).core.lflag l = 0)
        ∧ (∀ l, l < 64 → laneGuard s v l = false → mget 0 (later 1 t).core.lflag l = mget 0 (later 1 s).core.lflag l)
        ∧ (∀ l, l < 64 → laneGuard s v l = true →
          mget 0 (later 2 t).core.tile (elKey s.core (kindOf v.d) l) = (mget 0 s.core.lflag l).setWidth 32))
    ∧ (v.fmt = 5 → Completes (.vrnd v) s (LaneWrites 3 v.nf (kindOf v.d) (laneGuard s v)
        (fun l => ((genZ s.core.ckey s.core.cctr l >>> 32).toNat, 0)) (advCctr true s)))
    ∧ (v.fmt = 10 → Completes (.vrnd v) s (LaneWrites 3 v.nf (kindOf v.d) (laneGuard s v)
        (fun l => ((roundFin F32 Rnd.rne false (genZ s.core.ckey s.core.cctr l >>> 40).toNat (-24)).1, 0)) (advCctr true s)))

/-- R229–R235, R344, R345, R348. Writing a probability predicate: the guarded lanes take the canonical value and the lineage; SCMP
names its site, QLOG joins the lineages and resolves AUTO by them, QNOT is RNE(1 − a).
R229. The canonical form a Q register takes: a NaN gives +0 with NV, a negative value or −0 gives +0, a value above 1.0 gives 1.0,
every other value itself. -/
def Obligations.ProbabilityPredicates : Prop :=
  (∀ (s : State) (v : VOp) (d st : Nat), LanesOk s → mwf 0 s.core.qval = true → mwf 0 s.core.qlin = true →
     kindOf v.d = .q d st → d < 16 →
     let va := fun l => srcVal s 10 (kindOf v.a) l
     let vb := fun l => srcVal s 10 (kindOf v.b) l
     let q := fun (n l : Nat) => (mget 0 s.core.qval (n * 64 + l)).toNat
     let lin := fun (n l : Nat) => mget 0 s.core.qlin (n * 64 + l)
     (srcBad 10 (kindOf v.a) = false → srcBad 10 (kindOf v.b) = false →
       QWrites (.scmp v) 6 v.nf d (laneGuard s v) (fun l => softCmp v.sub.toNat s.core.tinv.toNat (va l) (vb l))
         (fun _ => 1#8 <<< st) s)
     ∧ (st = 0 → ∀ a b : Nat, kindOf v.a = .q a 0 →
       QWrites (.qnot v) 2 v.nf d (laneGuard s v) (fun l => ((fsub32 0x3F800000 (q a l)).1, 0)) (lin a) s
       ∧ QWrites (.qmov v) 2 v.nf d (laneGuard s v) (fun l => (q a l, 0)) (lin a) s
       ∧ (kindOf v.b = .q b 0 →
         let mode := fun l => if v.sub.toNat % 4 = 3 then (if lin a l &&& lin b l = 0 then 0 else 1) else v.sub.toNat % 4
         QWrites (.qlog v) 2 v.nf d (laneGuard s v)
           (fun l => (qCombine (mode l) (v.sub.getLsbD 2) (q a l) (q b l), 0)) (fun l => lin a l ||| lin b l) s))
     ∧ (st = 0 → ∀ p : PReg, kindOf v.a = .p p →
       QWrites (.qmov v) 2 v.nf d (laneGuard s v) (fun l => (if (rdP s p).getLsbD l then 0x3F800000 else 0, 0)) (fun _ => 0) s)
     ∧ (st = 0 → (kindOf v.a).isVec = true →
       QWrites (.qmov v) 2 v.nf d (laneGuard s v) (fun l => (va l, (canonQ (va l)).2)) (fun _ => 0) s))
  ∧ (∀ x : Nat, x < 2 ^ 32 →
     (0x7F800000 < x % 2 ^ 31 → canonQ x = (0, 16))
     ∧ (2 ^ 31 ≤ x → x % 2 ^ 31 ≤ 0x7F800000 → canonQ x = (0, 0))
     ∧ (0x3F800000 < x → x ≤ 0x7F800000 → canonQ x = (0x3F800000, 0))
     ∧ (x ≤ 0x3F800000 → canonQ x = (x, 0)))

/-- R236–R242, R346–R349. What probability predicates yield: blends, collapses (one draw per lane, CCTR advanced), hard decisions,
their values as vectors, and the gradients.
Choices of the model that it rests on: log 24. -/
def Obligations.ProbabilityUses : Prop :=
  ∀ (s : State) (v : VOp), LanesOk s →
    let va := fun l => srcVal s 10 (kindOf v.a) l
    let vb := fun l => srcVal s 10 (kindOf v.b) l
    let q := fun (n l : Nat) => (mget 0 s.core.qval (n * 64 + l)).toNat
    let lin := fun (n l : Nat) => mget 0 s.core.qlin (n * 64 + l)
    (dstBad 10 (kindOf v.d) = false → srcBad 10 (kindOf v.a) = false → srcBad 10 (kindOf v.b) = false →
      VOut (.qblend v) v 4 10 0 (fun l => qBlend (q v.sub.toNat l) (va l) (vb l)) s
      ∧ VOut (.qgrad v) v 6 10 0 (fun l => softGrad v.sub.toNat s.core.tinv.toNat (va l) (vb l)) s
      ∧ VOut (.qbgrad v) v 4 10 0 (fun l => fsub32 (va l) (vb l)) s)
    ∧ (∀ a : Nat, kindOf v.a = .q a 0 →
      (∀ p : PReg, kindOf v.d = .p p → mwf 0 s.core.preg = true →
        PredWrites (.qcol v) 3 v.nf p (laneGuard s v)
          (fun l => (decide (cmpFV (.fin false (genU s.core.ckey s.core.cctr l) (-24)) (F32.decode (q a l)) < 0), 0)) s
        ∧ PredWrites (.qhard v) 2 v.nf p (laneGuard s v) (fun l => (decide (0x3F000000 < q a l), 0)) s)
      ∧ ((kindOf v.d).isVec = true →
        VOut (.qmov v) v 2 10 0 (fun l => (q a l, 0)) s
        ∧ ∀ b : Nat, kindOf v.b = .q b 0 →
          let mode := fun l => if v.sub.toNat % 4 = 3 then (if lin a l &&& lin b l = 0 then 0 else 1) else v.sub.toNat % 4
          VOut (.qpgrad v) v 6 10 0
            (fun l => (qPartial (mode l) (v.sub.getLsbD 2) (v.sub.getLsbD 3) (q a l) (q b l), 0)) s))

/-! ### Matrix unit (R350–R368) -/

/-- R350–R354. When an MCALL issues: its row accepts the parameters, its produce token does not pend and is not consumed, its
pipe has room, what it names is free, and with elastic code 0 every consumed token is done-ok. Then its token pends and the
routine, with the key, counter and loss scale in force, joins its pipe; CCTR advances where the routine draws. -/
def Obligations.MatrixCall : Prop :=
  ∀ (s : State) (m : MOp) (u : BitVec 8), ∀ x ∈ matrixCalls m u s,
    let k := x.2.1
    let p := x.2.2.2.1
    let v := x.2.2.2.2
    p.causes = [] → ¬callBusy s m k p → (m.produce ≠ 0 → m.produce ∉ [m.c1, m.c2, m.c3]) →
    (m.comp = true → x.1 = .gemm m) → m.spec.toNat &&& x.2.2.1 = m.spec.toNat →
    (m.elastic = 0 → ∀ t ∈ [m.c1, m.c2, m.c3], rdTok s t = .ok) →
      ∃ r : Routine,
        exec x.1 s = .next (
          let s1 := advCctr p.stoch (produceTok m.produce v)
          { s1 with core := { s1.core with seq := s.core.seq + 1, rtns := s.core.rtns ++ [r] } })
        ∧ v.core = s.core ∧ v.mem = s.mem
        ∧ r.seq = s.core.seq ∧ r.rtn = k ∧ r.op = m ∧ r.mp = p.mp ∧ r.issue = s.cyc ∧ r.start = none ∧ r.lat = p.lat
        ∧ r.occM = p.occM ∧ r.occK = p.occK ∧ r.ckey = s.core.ckey ∧ r.cctr = s.core.cctr ∧ r.lsc = s.core.lsc
        ∧ r.result = none

/-- R250, R351–R353, R367. The traps of an MCALL, by ascending code: a routine number that is not loaded, the first consumed
token that is not done-ok (elastic code 0), SCHEDULE, what its row refuses, OPERAND. A trapping MCALL has no
effect, but for the record of what its unit may still read (log 8).
Choices of the model that it rests on: log 52, 55, 56. -/
def Obligations.MatrixCallFaults : Prop :=
  ∀ (s : State) (m : MOp) (u : BitVec 8),
    (mget none s.core.user u.toNat = none → Traps (.userRoutineCall u m) s 0x01 4 1)
    ∧ ∀ x ∈ matrixCalls m u s,
      let k := x.2.1
      let p := x.2.2.2.1
      let traps := fun (c d : Nat) => exec x.1 s = .next (raise c 4 d x.2.2.2.2)
      let late := m.elastic = 0 ∧ ∃ t ∈ [m.c1, m.c2, m.c3], rdTok s t ≠ .ok
      (∀ t, m.elastic = 0 → ([m.c1, m.c2, m.c3].find? fun t => decide (rdTok s t ≠ .ok)) = some t →
        (∀ c ∈ p.causes, 0x06 < c.1) → traps 0x06 t.toNat)
      ∧ (¬late → callBusy s m k p → (∀ c ∈ p.causes, 0x07 < c.1) → ∃ d, traps 0x07 d)
      ∧ (¬late → ¬callBusy s m k p → ∀ c d, minCause p.causes = some (c, d) → c ≤ 0x11 → traps c d)
      ∧ (¬late → ¬callBusy s m k p → p.causes = [] →
          (m.produce ≠ 0 ∧ m.produce ∈ [m.c1, m.c2, m.c3]) ∨ (m.comp = true ∧ x.1 ≠ .gemm m)
            ∨ m.spec.toNat &&& x.2.2.1 ≠ m.spec.toNat → ∃ d, traps 0x11 d)

/-- R355, R356. MSTOP lands at t + 1: the routine that has the token as its produce token is gone, its token done-error, the M
registers it occupied empty and untagged; with no such routine nothing happens. MSTAT writes the status word to MPd at
t + 2 and, with clr, clears the sticky flags at once.
Choices of the model that it rests on: log 91. -/
def Obligations.MatrixControl : Prop :=
  ∀ (s : State), s.core.canon →
    (∀ t : Tok, exec (.mstop t) s = .next (put 1 (.mstop t.toNat) s))
    ∧ (∀ (t : Tok) (b : Nat), dueNow s.core = [⟨s.core.icnt, b, .mstop t.toNat⟩] →
      (∀ r, (s.core.rtns.find? fun r => decide (r.op.produce ≠ 0) && decide (r.op.produce = t)) = some r →
        Completes (.resultLand s.coreNo) s fun u => rdTok u t = .err ∧ (∀ y ∈ u.core.rtns, y.seq ≠ r.seq)
          ∧ (∀ i, i ∈ r.occM → mget false u.core.mfull i = false ∧ mget 0 u.core.mtag i = 0
            ∧ ∀ o, o < 16384 → mget 0 u.core.macc (i * 16384 + o) = 0)
          ∧ ∀ i, i ∉ r.occM → mget false u.core.mfull i = mget false s.core.mfull i
            ∧ ∀ o, o < 16384 → mget 0 u.core.macc (i * 16384 + o) = mget 0 s.core.macc (i * 16384 + o))
      ∧ ((∀ r ∈ s.core.rtns, r.op.produce = 0 ∨ r.op.produce ≠ t) →
        Completes (.resultLand s.coreNo) s fun u =>
          { u with core := { u.core with pend := s.core.pend } } = s))
    ∧ (∀ (n : BitVec 3) (clr : Bool), Completes (.mstat n clr) s fun t =>
      ∃ w : Word64,
        Lands 2 (fun v => { v with core := { v.core with mp := mset 0 v.core.mp n.toNat w } })
          (if clr then { s with core := { s.core with muFlags := 0 } } else s) t
        ∧ (onPipe s.core .sketch ≤ 4 →
          w.extractLsb' 0 5 = s.core.muFlags
          ∧ w.getLsbD 5 = decide (0 < onPipe s.core .array) ∧ w.getLsbD 6 = decide (0 < onPipe s.core .readout)
          ∧ (w.extractLsb' 7 3).toNat = onPipe s.core .sketch ∧ w.getLsbD 10 = s.core.rescale.isSome
          ∧ w.extractLsb' 11 5 = 0 ∧ (∀ i, i < 4 → w.getLsbD (16 + i) = !mget false s.core.mfull i)
          ∧ w.extractLsb' 20 8 = s.core.muErr ∧ w.extractLsb' 28 36 = 0))

/-- R192, R353–R355, R363, R367. The unit's events. A waiting routine starts in the first cycle in which its tokens are
done-ok; in an elastic window that has ended, or with a token done-error, it never starts: its token completes done-error and
TIMING is reported. ACCCLR, started, completes its latency later. A routine that completes makes its token done-ok, ORs its
flags and empties what it clears; one that failed makes its token done-error and sets ERR. A rescale completes.
Choices of the model that it rests on: log 51, 59, 89. -/
def Obligations.RoutineEvents : Prop :=
  ∀ (g : Nat) (s : State),
    let u := select g s
    u.core.canon →
    (∀ r, startable false u = none → startable true u = some (r, .start) →
      Completes (.routineStart g) s fun t =>
        (∃ r', r'.start = some u.cyc ∧ r'.seq = r.seq ∧ r'.op = r.op
          ∧ t.core.rtns = u.core.rtns.map fun y => if y.seq = r.seq then r' else y)
        ∧ t.core.dt = u.core.dt ∧ t.core.macc = u.core.macc ∧ t.core.sreg = u.core.sreg ∧ t.core.pc = u.core.pc
        ∧ (r.rtn = 9 → t.core.rtns = u.core.rtns.map fun y => if y.seq = r.seq then
            { r with start := some u.cyc, finish := u.cyc + r.lat, result := some { MuResult.none with clr := r.occM } }
          else y))
    ∧ (∀ r k, startable false u = some (r, .never k) →
      Completes (.routineStart g) s fun t => (r.op.produce ≠ 0 → rdTok t r.op.produce = .err)
        ∧ t.core.rtns = u.core.rtns.filter (fun y => decide (y.seq ≠ r.seq))
        ∧ t.core.reports = u.core.reports ++ [⟨0x06, 4, false, true, BitVec.ofNat 56 k.toNat, false⟩]
        ∧ t.mem = u.mem ∧ t.core.sreg = u.core.sreg)
    ∧ (∀ r y, startable false u = some (r, .micro y) →
      Completes (.routineStart g) s fun t => t.core.dt = u.core.dt ∧ t.core.sreg = u.core.sreg ∧ t.core.pc = u.core.pc)
    ∧ (∀ r ∈ u.core.rtns, r.start = none →
      let ts := [r.op.c1, r.op.c2, r.op.c3].filter fun t => decide (t ≠ 0)
      (rtnAct u r = some .start ↔ r.op.elastic = 0 ∨ ∀ t ∈ ts, startTok u t = .ok)
      ∧ ((∃ k, rtnAct u r = some (.never k)) ↔
          r.op.elastic ≠ 0 ∧ (∃ t ∈ ts, startTok u t ≠ .ok)
          ∧ (r.issue + 2 ^ (r.op.elastic.toNat + 4) - 1 ≤ u.cyc ∨ ∃ t ∈ ts, startTok u t = .err)))
    ∧ (∀ r x0, finished u = some (r, x0) →
      Completes (.routineComplete g) s fun t =>
        let x := if r.rtn = 19 then skmergeEnd r x0 u else x0
        (r.op.produce ≠ 0 → rdTok t r.op.produce = if x.ok then .ok else .err)
        ∧ t.core.rtns = u.core.rtns.filter (fun y => decide (y.seq ≠ r.seq))
        ∧ (x.ok = true → t.core.muFlags = u.core.muFlags ||| x.flags ∧ t.core.muErr = u.core.muErr
          ∧ ∀ i ∈ x.clr, i ∉ x.full → (∀ p ∈ x.m, p.1 / 16384 ≠ i) → mget false t.core.mfull i = false
            ∧ ∀ o, o < 16384 → mget 0 t.core.macc (i * 16384 + o) = 0)
        ∧ (x.ok = false → t.core.muErr = x.err ∧ ∀ i ∈ r.occM, mget false t.core.mfull i = false
            ∧ ∀ o, o < 16384 → mget 0 t.core.macc (i * 16384 + o) = 0)
        ∧ t.core.sreg = u.core.sreg ∧ t.core.pc = u.core.pc)
    ∧ (∀ c ws, u.core.rescale = some (c, ws) → c ≤ u.cyc →
      Completes (.rescaleComplete g) s fun t => t.core.rescale = none ∧ t.core.rtns = u.core.rtns
        ∧ t.core.macc = u.core.macc
        ∧ (u.memOk → ∀ a, (∀ w ∈ ws, a < w.1 ∨ w.1 + w.2.length ≤ a) → t.mem.read a = u.mem.read a))

/-! ### C slots (R369–R384) -/

/-- R120, R122, R125, R369–R372. The loads of the C slots: the sectors of a row, one element a lane, a whole tile, each 4-byte element of the
destination from its address; into a lane predicate, its 64 bits or which elements are nonzero. In space 0 they arrive at
t + 10, t + 12 (LDX) or t + 42 (LDT), in space 1 (no sector of the slices being uncorrectable) at t + 4 or t + 36, elsewhere
within the bound (LDT: 32 more). P0 discards.
Choices of the model that it rests on: log 5, 6, 7, 27, 28, 31, 112. -/
def Obligations.TransferLoads : Prop :=
  ∀ (s : State) (c1 : CSlot) (v : BitVec 13) (t : BitVec 5) (b st tag p : SReg) (i : BitVec 13) (off : BitVec 13) (cols : Bool)
    (sp : BitVec 2) (l : Nat → Nat) (nl1 : Nat → Bool), mwf none s.core.l1 = true →
    let k := kindOf v
    let row := (rdS s b + BitVec.ofNat 64 (256 * off.toNat)).toNat
    let tagged := fun (n : Nat) =>
      tag = 0 ∨ sp = 3 ∨ ∀ j, j < n → mget 0 s.frameTag (frameKey (l j)) = (rdS s tag).setWidth 16
    let noClash := fun (a : Nat → Nat) => sp = 0 → ∀ x y, x < 64 → y < 64 → x / 32 = y / 32 →
      a x / 16 % 32 = a y / 16 % 32 → a x / 16 = a y / 16
    let vec := fun (w : Nat → Nat) => (List.range 64).map fun j => Effect.t (elKey s.core k j) (BitVec.ofNat 32 (w j))
    (sp ≠ 1 →
      (row % 16 = 0 → k.isVec = true → AllReach s sp.toNat false 16 16 (fun j => (row + 16 * j) % 2 ^ 64) l nl1 →
        Completes (.ldv c1 v b off sp) s fun t => ∃ u w, OnlyL1 s u ∧ LoadWords s 16 16 l nl1 w
          ∧ AllArrive sp.toNat 10 (largestBound s sp.toNat 16 l) (vec w) u t)
      ∧ (∀ n : PReg, k = .p n → n ≠ 0 → row % 16 = 0 → AllReach s sp.toNat false 8 1 (fun _ => row) l nl1 →
        Completes (.ldv c1 v b off sp) s fun t => ∃ u bs, OnlyL1 s u ∧ LoadBytes s (l 0) 8 (nl1 0) bs
          ∧ AllArrive sp.toNat 10 (largestBound s sp.toNat 1 l) [.pAll n.toNat (BitVec.ofNat 64 (bytesToNat bs))] u t)
      ∧ (let a := stridedAddr s b st
         noClash a → tagged 64 → (∀ j, j < 64 → a j % 4 = 0) → AllReach s sp.toNat false 4 64 a l nl1 →
          (k.isVec = true → Completes (.ldvs c1 v b st tag sp) s fun t => ∃ u w, OnlyL1 s u ∧ LoadWords s 4 64 l nl1 w
            ∧ AllArrive sp.toNat 10 (largestBound s sp.toNat 64 l) (vec w) u t)
          ∧ ∀ n : PReg, k = .p n → n ≠ 0 → Completes (.ldvs c1 v b st tag sp) s fun t => ∃ u w x, OnlyL1 s u
            ∧ LoadWords s 4 64 l nl1 w ∧ (∀ j, j < 64 → x.getLsbD j = decide (w j ≠ 0))
            ∧ AllArrive sp.toNat 10 (largestBound s sp.toNat 64 l) [.pAll n.toNat x] u t)
      ∧ (let a := indexedAddr s b (kindOf i)
         noClash a → (∀ j, j < 64 → a j % 4 = 0) → AllReach s sp.toNat false 4 64 a l nl1 → (kindOf i).isVec = true →
          k.isVec = true → Completes (.ldx c1 v b i sp) s fun t => ∃ u w, OnlyL1 s u ∧ LoadWords s 4 64 l nl1 w
            ∧ AllArrive sp.toNat 12 (largestBound s sp.toNat 64 l) (vec w) u t)
      ∧ (let a := tileAddr s b p
         tagged 1024 → (∀ j, j < 64 → a j % 16 = 0) →
          AllReach s sp.toNat false 16 1024 (fun q => (a (q / 16) + 16 * (q % 16)) % 2 ^ 64) l nl1 →
          Completes (.ldt c1 t b p tag cols sp) s fun y => ∃ u w, OnlyL1 s u ∧ LoadWords s 16 1024 l nl1 w
            ∧ AllArrive sp.toNat 42 (largestBound s sp.toNat 1024 l + 32)
                ((List.range 4096).map fun q => .t (elKey s.core (tileVec t cols (q / 64)) (q % 64)) (BitVec.ofNat 32 (w q))) u y)
      ∧ (sp ≠ 3 → k = .p 0 → exec (.ldv c1 v b off sp) s = .next s ∧ exec (.ldvs c1 v b st tag sp) s = .next s))
    ∧ (let a4 := (rdS s b + BitVec.ofNat 64 (4 * off.toNat)).toNat
       k.isVec = true → s.core.lanePoison = [] →
        (off.toNat ≤ 1023 → a4 + 4 ≤ 4096 → a4 % 4 = 0 →
          exec (.ldv c1 v b off 1) s = .next (putMany 4 (vec fun j => (readSlice s j a4).toNat) s))
        ∧ ((∀ j, j < 64 → stridedAddr s b st j + 4 ≤ 4096 ∧ stridedAddr s b st j % 4 = 0) →
          exec (.ldvs c1 v b st tag 1) s = .next (putMany 4 (vec fun j => (readSlice s j (stridedAddr s b st j)).toNat) s))
        ∧ ((kindOf i).isVec = true →
          (∀ j, j < 64 → indexedAddr s b (kindOf i) j + 4 ≤ 4096 ∧ indexedAddr s b (kindOf i) j % 4 = 0) →
          exec (.ldx c1 v b i 1) s =
            .next (putMany 4 (vec fun j => (readSlice s j (indexedAddr s b (kindOf i) j)).toNat) s)))
    ∧ ((∀ j, j < 64 → tileAddr s b p j + 4 ≤ 4096 ∧ tileAddr s b p j % 16 = 0) → s.core.lanePoison = [] →
        exec (.ldt c1 t b p tag cols 1) s = .next (putMany 36 ((List.range 4096).map fun q =>
          .t (elKey s.core (tileVec t cols (q / 64)) (q % 64)) (readSlice s (q % 64) (tileAddr s b p (q / 64)))) s))

/-- R120, R122, R369–R373. The stores of the C slots write the elements of the vector as read at issue, at the addresses the form computes,
and nothing else; the bytes of an STT show to its core's own loads from t + 32. Lanes of one store that write the same bytes:
any of them may prevail.
Choices of the model that it rests on: log 5, 28, 32, 112. -/
def Obligations.TransferStores : Prop :=
  ∀ (s : State) (c1 : CSlot) (v : BitVec 13) (t : BitVec 5) (b st p : SReg) (i : BitVec 13) (off : BitVec 13) (cols : Bool)
    (sp : BitVec 2) (l : Nat → Nat) (nl1 : Nat → Bool), s.memOk →
    let k := kindOf v
    let row := (rdS s b + BitVec.ofNat 64 (256 * off.toNat)).toNat
    let noClash := fun (a : Nat → Nat) => sp = 0 → ∀ x y, x < 64 → y < 64 → x / 32 = y / 32 →
      a x / 16 % 32 = a y / 16 % 32 → a x / 16 = a y / 16
    (sp ≠ 1 →
      (k.isVec = true →
        (row % 16 = 0 → AllReach s sp.toNat true 16 16 (fun j => (row + 16 * j) % 2 ^ 64) l nl1 →
          Completes (.stv c1 v b off sp) s fun t => OnlyMemory s t
            ∧ StoredParts s.mem t.mem 16 16 l fun j => (List.range 4).flatMap fun x => natToBytes 4 (elAt s k (4 * j + x)))
        ∧ (noClash (stridedAddr s b st) → (∀ j, j < 64 → stridedAddr s b st j % 4 = 0) →
          AllReach s sp.toNat true 4 64 (stridedAddr s b st) l nl1 →
          Completes (.stvs c1 v b st sp) s fun t => OnlyMemory s t
            ∧ StoredParts s.mem t.mem 4 64 l fun j => natToBytes 4 (elAt s k j))
        ∧ (noClash (indexedAddr s b (kindOf i)) → (∀ j, j < 64 → indexedAddr s b (kindOf i) j % 4 = 0) →
          (kindOf i).isVec = true → AllReach s sp.toNat true 4 64 (indexedAddr s b (kindOf i)) l nl1 →
          Completes (.stx c1 v b i sp) s fun t => OnlyMemory s t
            ∧ StoredParts s.mem t.mem 4 64 l fun j => natToBytes 4 (elAt s k j)))
      ∧ ((∀ j, j < 64 → tileAddr s b p j % 16 = 0) →
        AllReach s sp.toNat true 16 1024 (fun q => (tileAddr s b p (q / 16) + 16 * (q % 16)) % 2 ^ 64) l nl1 →
        Completes (.stt c1 t b p cols sp) s fun y => ∃ u, y = put 32 .nothing u ∧ OnlyMemory s u
          ∧ StoredParts s.mem u.mem 16 1024 l (fun q =>
            (List.range 4).flatMap fun x => natToBytes 4 (elAt s (tileVec t cols (q / 16)) (4 * (q % 16) + x)))
          ∧ (mwf [] s.slow = true → ∀ a, slowOf s (granule a).1 = none →
            let next := { y with core := { y.core with bold := [] } }
            (∀ n, n < 32 → readOld (later n next) a = s.mem.read a) ∧ readOld (later 32 next) a = y.mem.read a)))
    ∧ (let a4 := (rdS s b + BitVec.ofNat 64 (4 * off.toNat)).toNat
       let slices := fun (a : Nat → Nat) =>
         (List.range 64).map fun j => Effect.laneStore (j * 4096 + a j) (natToBytes 4 (elAt s k j))
       k.isVec = true → s.core.lanePoison = [] →
        (off.toNat ≤ 1023 → a4 + 4 ≤ 4096 → a4 % 4 = 0 →
          exec (.stv c1 v b off 1) s = .next (putMany 1 (slices fun _ => a4) s))
        ∧ ((∀ j, j < 64 → stridedAddr s b st j + 4 ≤ 4096 ∧ stridedAddr s b st j % 4 = 0) →
          exec (.stvs c1 v b st 1) s = .next (putMany 1 (slices (stridedAddr s b st)) s))
        ∧ ((kindOf i).isVec = true →
          (∀ j, j < 64 → indexedAddr s b (kindOf i) j + 4 ≤ 4096 ∧ indexedAddr s b (kindOf i) j % 4 = 0) →
          exec (.stx c1 v b i 1) s = .next (putMany 1 (slices (indexedAddr s b (kindOf i))) s)))
    ∧ ((∀ j, j < 64 → tileAddr s b p j + 4 ≤ 4096 ∧ tileAddr s b p j % 16 = 0) → s.core.lanePoison = [] →
        exec (.stt c1 t b p cols 1) s = .next (put 32 .nothing (putMany 1 ((List.range 4096).map fun q =>
          .laneSlow (q % 64 * 4096 + tileAddr s b p (q / 64)) (natToBytes 4 (elAt s (tileVec t cols (q / 64)) (q % 64)))
            (s.core.icnt + 32)) s)))

/-- R120, R122, R125, R143, R250, R369–R372. The faults of the C-slot transfers in the spaces 0, 1 and 2: two lanes of a pass that need
different sectors of one bank of the scratchpad raise SPAD_BANK with the first such offset; a frame whose tag is not the one a load
expects, SCHEDULE with the lowest offset; a byte past the end of the space, PROTECT; an address off its alignment, ALIGN, each with
the first such address; an operand that is no vector, OPERAND with its 13 bits. The lowest code prevails, the slot is 5 or 6, and
no access takes place.
Choices of the model that it rests on: log 29. -/
def Obligations.TransferFaults : Prop :=
  ∀ (s : State) (c1 : CSlot) (v ix : BitVec 13) (b st tag p : SReg) (off : BitVec 13) (t : BitVec 5) (cols : Bool) (sp : BitVec 2),
    let row := (rdS s b + BitVec.ofNat 64 (256 * off.toNat)).toNat
    let slot := if c1 then 6 else 5
    let size := spaceSize sp.toNat
    let strided := stridedAddr s b st
    let indexed := indexedAddr s b (kindOf ix)
    let tile := tileAddr s b p
    let both := fun code d => Traps (.ldv c1 v b off sp) s code slot d ∧ Traps (.stv c1 v b off sp) s code slot d
    -- the first lane of which `q` holds
    let first := fun (q : Nat → Prop) (n : Nat) => n < 64 ∧ q n ∧ ∀ m, m < n → ¬q m
    let clash := fun (a : Nat → Nat) (n : Nat) => sp = 0 ∧ ∃ m, m < n ∧ m / 32 = n / 32 ∧ a m / 16 % 32 = a n / 16 % 32 ∧ a m / 16 ≠ a n / 16
    let lanes := [(Instr.ldvs c1 v b st 0 sp, strided), (.stvs c1 v b st sp, strided), (.ldx c1 v b ix sp, indexed),
      (.stx c1 v b ix sp, indexed)]
    let tiles := [Instr.ldt c1 t b p 0 cols sp, .stt c1 t b p cols sp]
    let differs := fun (a : Nat → Nat) (len : Nat) => ∃ j k, j < 64 ∧ a j + len ≤ size ∧ a j ≤ k ∧ k < a j + len
      ∧ mget 0 s.frameTag (frameKey (spaceBase s sp.toNat + k)) ≠ (rdS s tag).setWidth 16
    let lowest := fun (i : Instr) (a : Nat → Nat) => ∃ j, j < 64 ∧ (∀ k, k < 64 → a j ≤ a k) ∧ Traps i s 0x07 slot (a j)
    (sp.toNat % 2 = 0 →
      ((kindOf v).isP = false →
        (row + 256 ≤ size → row % 16 ≠ 0 → both 0x0B row)
        ∧ (row < size → size < row + 256 → ∃ i, i < 16 ∧ size < row + 16 * i + 16 ∧ both 0x0A (row + 16 * i))
        ∧ (row + 256 ≤ size → row % 16 = 0 → (kindOf v).isVec = false → both 0x11 v.toNat))
      ∧ ((kindOf v).isVec = true → (kindOf ix).isVec = true → ∀ x ∈ lanes, ∀ n,
        (first (clash x.2) n → Traps x.1 s 0x05 slot (x.2 n))
        ∧ ((∀ m, m < 64 → ¬clash x.2 m) →
          (first (fun m => size < x.2 m + 4) n → Traps x.1 s 0x0A slot (x.2 n))
          ∧ ((∀ m, m < 64 → x.2 m + 4 ≤ size) → first (fun m => x.2 m % 4 ≠ 0) n → Traps x.1 s 0x0B slot (x.2 n))))
      ∧ ((∀ m, m < 64 → ¬clash strided m) → (∀ m, m < 64 → strided m + 4 ≤ size ∧ strided m % 4 = 0) → (kindOf v).isVec = false →
        Traps (.stvs c1 v b st sp) s 0x11 slot v.toNat ∧ ((kindOf v).isP = false → Traps (.ldvs c1 v b st 0 sp) s 0x11 slot v.toNat))
      ∧ ((∀ m, m < 64 → ¬clash strided m) → tag ≠ 0 → (kindOf v).isVec = true → differs strided 4 →
        lowest (.ldvs c1 v b st tag sp) strided)
      ∧ (tag ≠ 0 → differs tile 256 → lowest (.ldt c1 t b p tag cols sp) tile)
      ∧ (∀ i ∈ tiles,
        ((∃ j q, j < 64 ∧ q < 16 ∧ size < (tile j + 16 * q) % 2 ^ 64 + 16) →
          ∃ j q, j < 64 ∧ q < 16 ∧ size < (tile j + 16 * q) % 2 ^ 64 + 16 ∧ Traps i s 0x0A slot ((tile j + 16 * q) % 2 ^ 64))
        ∧ ((∀ j, j < 64 → tile j + 256 ≤ size) → ∀ n, first (fun m => tile m % 16 ≠ 0) n → Traps i s 0x0B slot (tile n))))
    ∧ (sp = 1 →
      (let a4 := (rdS s b + BitVec.ofNat 64 (4 * off.toNat)).toNat
       (kindOf v).isVec = true → off.toNat ≤ 1023 → (4096 < a4 + 4 → both 0x0A a4) ∧ (a4 + 4 ≤ 4096 → a4 % 4 ≠ 0 → both 0x0B a4))
      ∧ ((kindOf v).isVec = true → (kindOf ix).isVec = true → ∀ x ∈ lanes, ∀ n,
        (first (fun m => 4096 < x.2 m + 4) n → Traps x.1 s 0x0A slot (x.2 n))
        ∧ ((∀ m, m < 64 → x.2 m + 4 ≤ 4096) → first (fun m => x.2 m % 4 ≠ 0) n → Traps x.1 s 0x0B slot (x.2 n)))
      ∧ (∀ i ∈ tiles, ∀ n,
        (first (fun m => 4096 < tile m + 4) n → Traps i s 0x0A slot (tile n))
        ∧ ((∀ m, m < 64 → tile m + 4 ≤ 4096) → first (fun m => tile m % 16 ≠ 0) n → Traps i s 0x0B slot (tile n))))

/-- R114, R158–R160, R374, R382–R384. The commands and updates of the C slots. COPY and CFLUSH join the engine's buffer with their start cycle,
the words of their descriptor with the table's codes resolved, the key and the counter, and their token pends. TOKCLR makes a
token done-ok at t + 1. ARRIVE and EXPECT hand an update to the barrier's home, which applies it within the bound, never
before an earlier one of the same agent to the same barrier; an ARRIVE waits besides for the messages with payload to a region
bound to its barrier; a code that a descriptor takes from the format table and that COPY does not accept is an OPERAND.
Choices of the model that it rests on: log 37, 92, 126. -/
def Obligations.EngineCommands : Prop :=
  ∀ (s : State) (c1 : CSlot) (a l : SReg) (sp : BitVec 2),
    let slot : Nat := if c1 then 6 else 5
    (∀ (cd : BitVec 4) (time : SReg) (dt k1 k2 k3 : Tok),
      let i := Instr.copy c1 cd time dt k1 k2 k3
      let x := mget 0 s.core.cd (cd.toNat * 8 + 5)
      let twice := dt ≠ 0 ∧ dt ∈ [k1, k2, k3]
      let sf := sfmtOf s (x.extractLsb' 0 5)
      let df := fmtOf s (x.extractLsb' 5 5)
      let plain := fun f : Nat => f ≤ 17 ∧ (sf = df ∨ (f ≠ 15 ∧ f ≠ 17))
      let codes := (x.extractLsb' 0 5 = 30 → if x.getLsbD 10 then sf = 9 ∨ sf = 10 else plain sf)
        ∧ (x.extractLsb' 5 5 = 30 → if x.getLsbD 10 then 12 ≤ df ∧ df ≤ 14 else plain df)
        ∧ (x.extractLsb' 11 3 = 6 → rndOf s 6 ≤ 5)
      (rdTok s dt = .pending → ∃ d, Traps i s 0x07 slot d)
      ∧ (rdTok s dt ≠ .pending → twice ∨ ¬codes → ∃ d, Traps i s 0x11 slot d)
      ∧ (rdTok s dt ≠ .pending → ¬twice → codes → 32 ≤ s.core.bte.length → Traps i s 0x17 slot cd.toNat)
      ∧ (rdTok s dt ≠ .pending → ¬twice → codes → s.core.bte.length < 32 → ∃ c : Cmd,
          exec i s = .next (
            let s1 := advCctr (rndOf s (x.extractLsb' 11 3) == 5) (produceTok dt s)
            { s1 with core := { s1.core with seq := s.core.seq + 1, bte := s.core.bte ++ [c] } })
          ∧ c.isFlush = false ∧ c.seq = s.core.seq ∧ c.produce = dt ∧ c.consume = [k1, k2, k3].filter (fun t => decide (t ≠ 0))
          ∧ c.c = Nat.max (s.core.tstart.toNat + (rdS s time).toNat) (s.cyc + 2) ∧ c.slot.toNat = slot
          ∧ c.ckey = s.core.ckey ∧ c.cctr = s.core.cctr
          ∧ (∀ n, n < 8 → n ≠ 5 → c.words.getD n 0 = mget 0 s.core.cd (cd.toNat * 8 + n))
          ∧ (let w := c.words.getD 5 0
             (w.extractLsb' 0 5).toNat = sf ∧ (w.extractLsb' 5 5).toNat = df
             ∧ (w.extractLsb' 11 3).toNat = rndOf s (x.extractLsb' 11 3)
             ∧ ∀ n, n < 64 → n = 10 ∨ 14 ≤ n → w.getLsbD n = x.getLsbD n)))
    ∧ (∀ (inv : Bool) (dt : Tok),
      (rdTok s dt = .pending → ∃ d, Traps (.cflush c1 a l inv dt) s 0x07 slot d)
      ∧ (rdTok s dt ≠ .pending → 32 ≤ s.core.bte.length → ∃ d, Traps (.cflush c1 a l inv dt) s 0x17 slot d)
      ∧ (rdTok s dt ≠ .pending → s.core.bte.length < 32 → ∃ c : Cmd,
          exec (.cflush c1 a l inv dt) s = .next (
            let s1 := produceTok dt s
            { s1 with core := { s1.core with seq := s.core.seq + 1, bte := s.core.bte ++ [c] } })
          ∧ c.isFlush = true ∧ c.inv = inv ∧ c.seq = s.core.seq ∧ c.produce = dt ∧ c.consume = [] ∧ c.c = s.cyc + 2
          ∧ c.slot.toNat = slot ∧ c.words = [rdS s a, rdS s l]))
    ∧ (∀ t : Tok,
      (t = 0 → exec (.tokclr c1 t) s = .next s)
      ∧ (rdTok s t = .pending → Traps (.tokclr c1 t) s 0x07 slot t.toNat)
      ∧ (t ≠ 0 → rdTok s t ≠ .pending → Completes (.tokclr c1 t) s
          (Lands 1 (fun u => if rdTok u t = .pending then u else setTok t .ok u) s)))
    ∧ (∀ (h : Nat) (nl1 : Bool), sp ≠ 1 → (rdS s a).toNat % 16 = 0 → Reaches s sp.toNat true (rdS s a).toNat 16 h nl1 →
      Stored s h 16 → (sp = 3 → ∃ n, place h = .hbm n) →
      (boundLock s (globalOf s h) = true → (∃ d, Traps (.arrive c1 a sp) s 0x11 slot d)
        ∧ ∃ d, Traps (.expect c1 a sp l) s 0x11 slot d)
      ∧ (boundLock s (globalOf s h) = false →
        let posted := fun (kind : BitVec 2) (n : Word32) (t : State) => ∃ u : BarrierUpd,
          let mine := fun v : BarrierUpd => v.addr = h ∧ v.core = s.coreNo ∧ v.bte = false
          mine u ∧ u.kind = kind ∧ u.n = n ∧ u.at_ = some (s.core.pc, BitVec.ofNat 3 slot) ∧ u.sig = none ∧ u.since = s.cyc
          ∧ s.cyc < u.due ∧ (∀ v ∈ s.barq, mine v → v.due ≤ u.due)
          ∧ ((∀ v ∈ s.barq, ¬mine v) → u.due ≤ s.cyc + localBound s sp.toNat h)
          ∧ (kind = 2 → u.waits = []) ∧ (∀ k ∈ u.waits, outstanding s k = true)
          ∧ (kind = 0 → ∀ m ∈ s.fab.sigs, m.core = s.coreNo → outstanding s m.id = true →
              (∃ w ∈ m.pay, inBound s (globalOf s h) (m.dest * 2 ^ 44 + w.1, w.2.length) = true) → m.id ∈ u.waits)
          ∧ { t with free := s.free } = { s with barq := s.barq ++ [u] }
        Completes (.arrive c1 a sp) s (posted 0 1) ∧ Completes (.expect c1 a sp l) s (posted 2 ((rdS s l).setWidth 32))))
    ∧ (let ready := fun (i : Nat) (u : BarrierUpd) => s.barq[i]? = some u ∧ u.due ≤ s.cyc ∧ u.sig = none
         ∧ (∀ k ∈ u.waits, outstanding s k = false)
         ∧ ∀ (j : Nat) (v : BarrierUpd), j < i → s.barq[j]? = some v → v.addr = u.addr → v.core = u.core → v.bte ≠ u.bte
      (∃ i u, ready i u) → s.memOk → (∀ u ∈ s.barq, badAddr s u.addr 16 = none) →
      Completes .barrierUpdate s fun t => ∃ i u, ready i u ∧
        let x := readBarrier s u.addr
        let y := readBarrier t u.addr
        let arrv := if u.kind = 0 then x.extractLsb' 32 16 - 1 else x.extractLsb' 32 16
        let sect := if u.kind = 1 then x.extractLsb' 64 32 - u.n else if u.kind = 2 then x.extractLsb' 64 32 + u.n
          else x.extractLsb' 64 32
        let full := arrv = 0 ∧ sect = 0
        y.extractLsb' 0 32 = (if full then x.extractLsb' 0 32 + 1 else x.extractLsb' 0 32)
        ∧ y.extractLsb' 32 16 = (if full then x.extractLsb' 48 16 else arrv) ∧ y.extractLsb' 48 16 = x.extractLsb' 48 16
        ∧ y.extractLsb' 64 32 = (if full then x.extractLsb' 96 32 else sect) ∧ y.extractLsb' 96 32 = x.extractLsb' 96 32
        ∧ (∀ z, z < u.addr ∨ u.addr + 16 ≤ z → t.mem.read z = s.mem.read z)
        ∧ { t with
            mem := s.mem, l2 := s.l2, evq := s.evq, vers := s.vers, slow := s.slow, free := s.free, barq := s.barq
            relObjs := s.relObjs } = s
        ∧ (u.kind = 2 → t.relObjs = s.relObjs)
        ∧ (u.kind ≠ 2 → mwf false s.relObjs = true → mget false t.relObjs (globalOf s u.addr / 16 * 16) = true)
        ∧ t.barq = s.barq.erase u)

/-- R124, R160, R161, R252, R375, R377, R380, R381, R384. The engine's events. The first command of the buffer, by start cycle and then by
issue, whose cycle has come and whose tokens are done-ok starts, one a cycle: it leaves the buffer, and runs or completes at once,
and what else could have started takes the next cycle. One whose tokens fail it never starts: its token is done-error and TIMING
is reported. A single write of a running COPY that is due lands before anything else of its cycle: its bytes are written, its
sectors counted, and the frames tagged that it completes. A COPY that completes has nothing left to write: it updates its barrier
by the sectors it wrote (a bad barrier makes it done-error), writes its CRC back, and completes its token.
Choices of the model that it rests on: log 2, 17, 51, 61, 62. -/
def Obligations.EngineEvents : Prop :=
  ∀ (g : Nat) (s : State),
    let u := select g s
    u.core.canon →
    (∀ c, nextCmd false u = none → nextCmd true u = some (c, .start) →
      Completes (.copyStart g) s fun t =>
        (∀ y ∈ t.core.bte, y.seq ≠ c.seq) ∧ t.core.bteLast = u.cyc + 1 ∧ t.core.sreg = u.core.sreg ∧ t.core.pc = u.core.pc
        ∧ ((t.core.running = u.core.running ∧ ∃ v, v ≠ .pending ∧ t.core.dt = (setTok c.produce v u).core.dt)
          ∨ ∃ r, r.cmd = c ∧ t.core.running = u.core.running ++ [r] ∧ t.core.dt = u.core.dt))
    ∧ (∀ c k, nextCmd false u = some (c, .never k) →
      Completes (.copyStart g) s fun t => (c.produce ≠ 0 → rdTok t c.produce = .err)
        ∧ t.core.bte = u.core.bte.filter (fun y => decide (y.seq ≠ c.seq)) ∧ t.mem = u.mem ∧ t.core.running = u.core.running
        ∧ t.core.reports = u.core.reports ++ [⟨0x06, c.slot, false, true, BitVec.ofNat 56 k.toNat, false⟩])
    ∧ (∀ st c a, nextCmd st u = some (c, a) → c ∈ u.core.bte ∧ cmdAct u c = some a ∧ (a = .start ↔ st = true)
        ∧ ∀ y ∈ u.core.bte, ∀ b, cmdAct u y = some b → (b = .start ↔ st = true) → c.c < y.c ∨ (c.c = y.c ∧ c.seq ≤ y.seq))
    ∧ (∀ c ∈ u.core.bte, cmdAct u c = some .start ↔
        c.c ≤ u.cyc ∧ (∀ t ∈ c.consume, startTok u t = .ok) ∧ u.core.bteLast ≠ u.cyc + 1)
    ∧ (∀ c, nextCmd false u = none → nextCmd true u = some (c, .start) →
      Completes (.copyStart g) s fun t => ∀ y ∈ u.core.bte, y.seq ≠ c.seq → cmdAct u y = some .start →
        ∃ z ∈ t.core.bte, z = { y with c := u.cyc + 1 })
    ∧ (∀ r w, landDue u g = some (r, w) → (∀ x ∈ w.2, place x.1 ≠ .coded ∧ Writable u x.1 x.2.length) →
      let t := landWrite g r w u
      let left := r.writes.erase w
      r ∈ u.core.running ∧ w ∈ r.writes ∧ w.1 ≤ u.cyc
      ∧ t.mem = w.2.foldl (fun m x => m.writeBytes x.1 x.2) u.mem
      ∧ (mwf 0 u.frameTag = true → ∀ f, mget 0 t.frameTag f =
          if f ∈ r.frames ∧ hitsFrame f w.2 = true ∧ hitsFrame f (left.flatMap Prod.snd) = false then r.tag
          else mget 0 u.frameTag f)
      ∧ (∀ q ∈ t.core.running, q.cmd.seq ≠ r.cmd.seq → q ∈ u.core.running)
      ∧ ∃ q ∈ t.core.running, q.cmd = r.cmd ∧ q.writes = left ∧ q.wrote = r.wrote + sectorCount w.2 ∧ q.ok = r.ok)
    ∧ (∀ r w, (∀ x i rest, s.inputs = (x, i) :: rest → s.cyc < x) → hostDue s = none → writeDue s = some (g, r, w) →
      step s = .next (landWrite g r w s))
    ∧ (∀ r, doneCmd false u = some r →
      let crcOk : Prop := ∀ d v, r.crc = some (d, v) → (copyOf r.cmd.words).crcMode = 2 → v = (copyOf r.cmd.words).crcX
      let n := if r.remote = true ∧ ¬(r.ok = true ∧ crcOk) then 0 else r.wrote
      r.writes = [] ∧ r.finish ≤ u.cyc ∧ (r.remote = true → r.unsent = [] ∧ r.awaiting = 0)
      ∧ Completes (.copyComplete g) s fun t =>
        t.core.running = u.core.running.filter (fun y => decide (y.cmd.seq ≠ r.cmd.seq)) ∧ t.core.pc = u.core.pc
        ∧ (r.ok = false → r.cmd.produce ≠ 0 → rdTok t r.cmd.produce = .err)
        ∧ (∀ a, r.barrier = some a → n ≠ 0 → badAddr u a 16 ≠ none → r.cmd.produce ≠ 0 → rdTok t r.cmd.produce = .err)
        ∧ ((∀ a, r.barrier = some a → n ≠ 0 → badAddr u a 16 = none) →
          t.mem = u.mem
          ∧ (r.ok = true →
            (∀ d v, r.crc = some (d, v) → d ≠ 0 → rdS t d = v.setWidth 64)
            ∧ (r.cmd.produce ≠ 0 → (rdTok t r.cmd.produce = .ok ↔ crcOk) ∧ (rdTok t r.cmd.produce = .err ↔ ¬crcOk)))
          ∧ (r.barrier = none ∨ n = 0 → t.barq = u.barq)
          ∧ (∀ a, r.barrier = some a → n ≠ 0 → ∃ x : BarrierUpd, t.barq = u.barq ++ [x] ∧ x.addr = a ∧ x.kind = 1
              ∧ x.n = BitVec.ofNat 32 n ∧ x.core = g ∧ x.bte = true ∧ u.cyc ≤ x.due ∧ x.sig = none ∧ x.waits = [])))
    ∧ (∀ r, doneCmd true u = some r →
      Completes (.cflushComplete g) s fun t =>
        t.core.running = u.core.running.filter (fun y => decide (y.cmd.seq ≠ r.cmd.seq)) ∧ t.core.pc = u.core.pc
        ∧ (r.ok = false → r.cmd.produce ≠ 0 → rdTok t r.cmd.produce = .err)
        ∧ (r.blocks = [] → (r.ok = true → r.cmd.produce ≠ 0 → rdTok t r.cmd.produce = .ok) ∧ t.mem = u.mem
          ∧ (mwf L2Set.empty u.l2 = true → (∀ p ∈ u.l2, mwf none p.2.ways = true) → r.cmd.inv = false → ∀ n ∈ r.lines, ∀ w l,
              (mget L2Set.empty t.l2 (l2Key (ownerDie (n * 64)) n)).find n = some (w, l) → l.dirty = 0)
          ∧ (r.cmd.inv = true → ∀ n ∈ r.lines, ∀ q, q / 4 = globalOf u (n * 64) / 64 → mget none t.core.l1 q = none)))

/-! ### Protection (R136, R139) -/

/-- R136, R139, R250. A global address of 2^56 or more raises XLATE, and an access that its installed page does not permit, or whose page
lies in this module's MMIO range, PROTECT: DETAIL is the address, and no access takes place. Both prevail over ALIGN.
Choices of the model that it rests on: log 33. -/
def Obligations.GlobalAccessFaults : Prop :=
  ∀ (s : State) (g : Guard) (d b : SReg) (m : MemRef) (op : BitVec 4) (off : BitVec 12) (off8 : BitVec 8),
    m.space = 3 → off8.toInt = off.toInt → guardOn s g = true →
    let n : Nat := 2 ^ (m.width.toNat % 4)
    let va := (rdS s m.a + BitVec.ofInt 64 (off.toInt * (n : Int))).toNat
    (2 ^ 56 ≤ va →
      (d ≠ 0 → Traps (.ld g d m off) s 0x09 1 va) ∧ Traps (.st g b m off) s 0x09 1 va ∧ Traps (.cas g d b m off) s 0x09 1 va
      ∧ Traps (.amo g d b m op off8) s 0x09 1 va)
    ∧ (∀ e, va < 2 ^ 56 → (s.xlat.inval.any fun p => p.1 == s.coreNo / 48) = false →
      tuFind s .core (s.coreNo / 48) va = some e →
      (d ≠ 0 → tuAllows s e false = false → Traps (.ld g d m off) s 0x0A 1 va)
      ∧ (tuAllows s e true = false → Traps (.st g b m off) s 0x0A 1 va ∧ Traps (.cas g d b m off) s 0x0A 1 va
        ∧ Traps (.amo g d b m op off8) s 0x0A 1 va)
      ∧ (∀ l, localPart s e.pa = some l → place l = .mmio → ∀ w, tuAllows s e w = false)
      ∧ (e.rd = false → tuAllows s e false = false) ∧ (e.wr = false → tuAllows s e true = false))

/-! ### N slot (R385–R389, R286) -/

/-- R44, R46, R385–R387. SEND gives the vector's bytes, as read at issue, to the next flit of the first slot of its index that begins
16 cycles later or more, in the timetable that is in force in that slot; the receives read the next flit of the latest visible slot of their index. Neither slot, nor flits
left, is SCHEDULE of slot 7. A flit that did not arrive well is an error that ends the task; no register takes it.
Choices of the model that it rests on: log 66, 67. -/
def Obligations.PortOperations : Prop :=
  ∀ (s : State) (port : BitVec 5) (v : BitVec 13) (x : BitVec 15) (t : LinkTable), s.fab.table = some t →
    s.maps.port.getLsbD port.toNat = true → portDie port.toNat = s.coreNo / 48 →
    let k := kindOf v
    let used := fun (n : Nat) (recv : Bool) => mget 0 s.core.cursor (cursorKey port.toNat n recv)
    let bumped := fun (n : Nat) (recv : Bool) (u : State) => { u with core := { u.core with
      cursor := mset 0 u.core.cursor (cursorKey port.toNat n recv) (used n recv + 1) } }
    let uses := fun (q : LinkTable × Option Nat) (n : Nat) => q.1.slotA ≤ n ∧ s.cyc + 16 ≤ 88 * n ∧ x.toNat < q.1.period
      ∧ (n - q.1.slotA) % q.1.period = x.toNat ∧ ∀ e, q.2 = some e → n < e
    let seen := fun n => x.toNat < t.period ∧ t.slotA ≤ n ∧ 88 * (n + 1) + 24 ≤ s.cyc ∧ (n - t.slotA) % t.period = x.toNat
    (∀ before q after n, armedTables s = before ++ q :: after → (∀ r ∈ before, ∀ m, ¬uses r m) →
      uses q n → (∀ m, uses q m → n ≤ m) →
      (∀ e, sendEntryOf q.1 port.toNat x.toNat s.coreNo = some e →
        (used n false < ltFlits e → nSrcBad k = false →
          exec (.send port v x) s = .next (bumped n false { s with fab := { s.fab with
            sends := s.fab.sends ++ [⟨port.toNat, n, used n false, q.1.slotA,
              (List.range 64).flatMap fun l => natToBytes 4 (srcVal s 4 k l)⟩] } }))
        ∧ (used n false < ltFlits e → nSrcBad k = true → Traps (.send port v x) s 0x11 7 v.toNat)
        ∧ (ltFlits e ≤ used n false → ∃ d, Traps (.send port v x) s 0x07 7 d))
      ∧ (sendEntryOf q.1 port.toNat x.toNat s.coreNo = none → ∃ d, Traps (.send port v x) s 0x07 7 d))
    ∧ ((∀ q ∈ armedTables s, ∀ n, ¬uses q n) → ∃ d, Traps (.send port v x) s 0x07 7 d)
    ∧ (∀ n r fl, seen n → (∀ m, seen m → m ≤ n) →
      (s.fab.rx.find? fun r => decide (r.port = port.toNat) && decide (r.slot = n)) = some r →
      (r.flits.find? fun f => decide (f.idx = used n true)) = some fl →
      let y := fun l => bytesToNat ((fl.data.drop (4 * l)).take 4)
      (k.isVec = true → fl.status = .ok → LanesOk s →
        Completes (.recv port v x) s (LaneWrites 6 false k (fun _ => true) (fun l => (y l, 0)) (bumped n true s))
        ∧ Completes (.recvadd port v x) s
          (LaneWrites 8 false k (fun _ => true) (fun l => fadd32 (elAt s k l) (y l)) (bumped n true s))
        ∧ Completes (.recvsq port v x) s
          (LaneWrites 8 false k (fun _ => true) (fun l => fma32 (y l) (y l) (elAt s k l)) (bumped n true s)))
      ∧ (k.isVec = true → fl.status ≠ .ok → ∀ i ∈ [Instr.recv port v x, .recvadd port v x, .recvsq port v x],
        Completes i s fun u =>
          (s.core.memerr = none → ∃ d, u.core.memerr = some (0x18, d, s.core.pc, 7))
          ∧ { u with free := s.free, core := { u.core with memerr := s.core.memerr } } = bumped n true s)
      ∧ (k.isVec = false → ∀ i ∈ [Instr.recv port v x, .recvadd port v x, .recvsq port v x], Traps i s 0x11 7 v.toNat))
    ∧ ((∀ n, ¬seen n) → ∀ i ∈ [Instr.recv port v x, .recvadd port v x, .recvsq port v x], ∃ d, Traps i s 0x07 7 d)

/-- R48, R68, R160, R286, R388, R389. PUTSIG hands a message with its payload, its signal and the channel over to be sent, an
arrival at this module standing among its core's updates from then on; a channel that is not granted is PRIV. NCOLL hands the descriptor of a collective to its die's engine, and its token pends. NWAIT holds
issue until the next slot of its index begins. Without a timetable, or with the engine full, SCHEDULE.
Choices of the model that it rests on: log 68, 73, 126. -/
def Obligations.SignalsCollectivesWaits : Prop :=
  ∀ (s : State),
    (∀ (chan : BitVec 3) (v : BitVec 13) (q : SReg) (ga : Nat → Nat) (nl : Nat → Bool) (sg : Nat),
      let o := (rdS s q).toNat
      let c := chan.toNat
      let k := kindOf v
      let d := sigDescOf (bytesToNat (readHome s (spadBase s.coreNo + o) 32))
      let cnt := d.plen / 16
      let m := sg / 2 ^ 44
      let here := m = s.fab.id.toNat
      let hit := fun (va g : Nat) (b : Bool) => va < 2 ^ 56 ∧ ∃ e, tuFind s .core (s.coreNo / 48) va = some e ∧ tuAllows s e true = true
        ∧ g = e.pa + (va - e.va) ∧ b = e.nl1
      o % 16 = 0 → o + 32 ≤ 0x200000 → badAddr s (spadBase s.coreNo + o) 32 = none → nSrcBad k = false →
      d.plen ≤ 256 → d.plen % 16 = 0 → d.res = false → (d.plen ≠ 0 → d.paddr % 16 = 0) →
      d.saddr % (if d.isFlag then 8 else 16) = 0 → (s.xlat.inval.any fun p => p.1 == s.coreNo / 48) = false →
      (∀ i, i < cnt → hit ((d.paddr + 16 * i) % 2 ^ 64) (ga i) (nl i) ∧ ga i / 2 ^ 44 = m
        ∧ (here → textRefused s (ga i % 2 ^ 44) 16 = none)) →
      (∃ b, hit d.saddr sg b) → (∃ n, place (sg % 2 ^ 44) = .hbm n) →
      (here → (if d.isFlag then boundBarrier s sg else boundLock s sg) = false) → (¬here → (sigTable s c m).isSome = true) →
      (s.fab.sigs.filter fun x => decide (x.chan = c)).length < 4 →
        (granted s c = false → Traps (.putsig chan v q) s 0x12 7 c)
        ∧ (granted s c = true → ∃ msg : SigMsg, Completes (.putsig chan v q) s fun t =>
            { t with free := s.free, barq := s.barq } = { s with fab := { s.fab with
                nextId := s.fab.nextId + 1, sigs := s.fab.sigs ++ [msg] } }
            ∧ (here ∧ d.isFlag = false → ∃ u : BarrierUpd, t.barq = s.barq ++ [u] ∧ u.sig = some msg.id ∧ u.core = s.coreNo
                ∧ u.bte = false ∧ u.addr = sg % 2 ^ 44 ∧ u.kind = 0 ∧ u.n = 1 ∧ u.waits = msg.waits ∧ u.at_ = none)
            ∧ (¬here ∨ d.isFlag = true → t.barq = s.barq)
            ∧ (∀ k ∈ msg.waits, outstanding s k = true) ∧ msg.id = s.fab.nextId
            ∧ msg.chan = c ∧ msg.core = s.coreNo ∧ msg.dest = m ∧ msg.sigAddr = sg % 2 ^ 44 ∧ msg.flag = (if d.isFlag then some d.flag else none)
            ∧ msg.pay = (List.range cnt).map (fun i => (ga i % 2 ^ 44,
                (List.range 4).flatMap fun j => natToBytes 4 (srcVal s 4 k (4 * i + j))))
            ∧ msg.earliest = s.cyc + 16 ∧ msg.sent = false ∧ (msg.local_ = true ↔ here)
            ∧ (here → ∀ x ∈ msg.pieces, s.cyc < x.1 ∧ x.1 ≤ msg.sigAt)))
    ∧ (∀ (q : SReg) (dt : Tok),
      let o := (rdS s q).toNat
      let full := 4 ≤ (s.colls.filter fun c => decide (c.die = s.coreNo / 48)).length ∨ rdTok s dt = .pending
      (full → ∃ d, Traps (.ncoll q dt) s 0x07 7 d)
      ∧ (¬full → 0x200000 < o + 64 → Traps (.ncoll q dt) s 0x0A 7 o)
      ∧ (¬full → o + 64 ≤ 0x200000 → o % 16 ≠ 0 → Traps (.ncoll q dt) s 0x0B 7 o)
      ∧ (¬full → o + 64 ≤ 0x200000 → o % 16 = 0 → badAddr s (spadBase s.coreNo + o) 64 = none →
        ∃ c : Coll, exec (.ncoll q dt) s = .next (produceTok dt { s with
            colls := s.colls ++ [c], fab := { s.fab with nextId := s.fab.nextId + 1 } })
          ∧ c.die = s.coreNo / 48 ∧ c.core = s.coreNo ∧ c.produce = dt ∧ c.earliest = s.cyc + 64 ∧ c.start = none
          ∧ c.words = (List.range 8).map fun i =>
              BitVec.ofNat 64 (bytesToNat (readHome s (spadBase s.coreNo + o + 8 * i) 8))))
    ∧ (∀ (x : BitVec 15),
      (s.fab.table = none → ∃ d, Traps (.nwait x) s 0x07 7 d)
      ∧ ∀ t, s.fab.table = some t → t.slotA ≤ s.cyc / 88 →
        (t.period ≤ x.toNat → ∃ d, Traps (.nwait x) s 0x07 7 d)
        ∧ ∀ n, s.cyc < 88 * n → (n - t.slotA) % t.period = x.toNat → x.toNat < t.period →
          (∀ m, s.cyc < 88 * m → (m - t.slotA) % t.period = x.toNat → n ≤ m) →
          exec (.nwait x) s = .next (put 1 (.sys 0x014 (BitVec.ofNat 64 (88 * n - s.cyc - 1)))
            { s with core := { s.core with
                holding := decide (0 < 88 * n - s.cyc - 1), holdPos := textAfter s, nwait := some n } }))

/-! ### B slot (R393–R412) -/

/-- R95, R98, R112, R117, R393–R397, R399. The branch-class operations: whatever the condition, a delay bundle follows, and then the target when
the branch is taken; CALL pushes the position after that delay bundle, RET pops the last one pushed, and what the 32 entries cannot
hold lies in the spill area, or is an RSTACK trap; LOOP and LOOPR change
their counters at t + 2 and are taken by the new values; BSWAP branches into the idle half and swaps as its target issues, but
not in a drain, where the target lies outside the active half.
Choices of the model that it rests on: log 36, 115. -/
def Obligations.Branches : Prop :=
  ∀ (s : State) (g : Guard) (a : SReg) (p : BitVec 15) (d : BitVec 3),
    let off := guardOn s g = false
    let on := guardOn s g = true
    let goes := fun (w : DelayOf) (t : Option Redir) (u : State) =>
      { u with core := { u.core with nextDelay := w, nextRedir := t } }
    (off → ∀ i ∈ [Instr.br g p, .brc g a, .call g p, .ret g, .bswap g p], exec i s = .next (goes .branch none s))
    ∧ (on → exec (.br g p) s = .next (goes .branch (some ⟨p, .plain⟩) s)
      ∧ exec (.brc g a) s = .next (goes .branch (some ⟨(rdS s a).setWidth 15, .plain⟩) s))
    ∧ (on → s.core.rs.length < 32 →
      let here := match s.core.redir with
        | some r => r.target.toNat
        | none => s.core.pc.toNat + (if s.core.inQuote then 25 else 1)
      let index := if s.core.redir.any (fun r => r.kind == .swap) then swapIndexAt s here else indexAt s here
      let after := BitVec.ofNat 15 (here + if index = 0xFFFF then 25 else 1)
      exec (.call g p) s = .next (goes .branch (some ⟨p, .plain⟩)
        { s with core := { s.core with rs := after :: s.core.rs, rsdepth := s.core.rsdepth + 1 } }))
    ∧ (let n := s.core.rsdepth.toNat
       let spot := fun j : Nat => rsBase s.core + 8 * j
       (on → s.core.rs.length = 32 → rsUsable s.core = false ∨ rsLimit s.core < spot (n - 32) + 8 →
          Traps (.call g p) s 0x0F 0 n)
       ∧ (on → n = 0 ∨ (s.core.rs.length < n ∧ rsUsable s.core = false) → Traps (.ret g) s 0x0F 0 n)
       ∧ (on → s.core.rs.length = 32 → rsUsable s.core = true → spot (n - 32) + 8 ≤ rsLimit s.core → s.memOk →
          Completes (.call g p) s fun t =>
            StoredBytes s.mem t.mem (spadBase s.coreNo + spot (n - 32)) (natToBytes 8 (s.core.rs.getLastD 0).toNat)
            ∧ t.core.rs.length = 32 ∧ t.core.rs.tail = s.core.rs.dropLast ∧ t.core.rsdepth = s.core.rsdepth + 1
            ∧ t.core.nextDelay = .branch ∧ t.core.nextRedir = some ⟨p, .plain⟩ ∧ t.core.sreg = s.core.sreg ∧ t.core.pc = s.core.pc)
       ∧ (on → rsUsable s.core = true → s.core.rs.length < n →
          let last := spadBase s.coreNo + spot (n - s.core.rs.length - 1)
          let old := BitVec.ofNat 15 (bytesToNat (s.mem.readBytes last 8))
          badAddr s last 8 = none →
            exec (.ret g) s = .next (match s.core.rs with
              | [] => goes .branch (some ⟨old, .plain⟩) { s with core := { s.core with rsdepth := s.core.rsdepth - 1 } }
              | x :: xs => goes .branch (some ⟨x, .plain⟩)
                { s with core := { s.core with rs := xs ++ [old], rsdepth := s.core.rsdepth - 1 } })))
    ∧ (on → ∀ x xs, s.core.rs = x :: xs → s.core.rsdepth.toNat = xs.length + 1 →
      exec (.ret g) s = .next (goes .branch (some ⟨x, .plain⟩)
        { s with core := { s.core with rs := xs, rsdepth := s.core.rsdepth - 1 } }))
    ∧ (s.core.delay = .loop → Traps (.loop p) s 0x01 0 0x05 ∧ Traps (.loopr p d) s 0x01 0 0x06)
    ∧ (s.core.delay ≠ .loop →
      (s.core.olc = 0 → exec (.loop p) s = .next (goes .loop none s))
      ∧ (s.core.olc = 1 → Completes (.loop p) s
          (Lands 2 (fun u => { u with core := { u.core with olc := 0 } }) (goes .loop none s)))
      ∧ (1 < s.core.olc.toNat → Completes (.loop p) s
          (Lands 2 (fun u => { u with core := { u.core with olc := s.core.olc - 1 } }) (goes .loop (some ⟨p, .plain⟩) s)))
      ∧ (mwf 0 s.core.preg = true → Completes (.loopr p d) s fun t =>
          let kix := s.core.kix + 1
          let dest := if kix.toNat < s.core.trip.toNat + d.toNat then some (Redir.mk p .plain) else none
          (∀ n, n < 2 → noFlight (later n t) = noFlight (later n (goes .loop dest s)))
          ∧ let u := later 2 (goes .loop dest s)
            let w := later 2 t
            w.core.kix = kix ∧ w.core.rot = s.core.rot - 1
            ∧ (∀ j l, j < 8 → l < 64 → (mget 0 w.core.preg (8 + j)).getLsbD l =
                decide (j ≤ kix.toNat ∧ kix.toNat - j < s.core.trip.toNat))
            ∧ { w with core := { w.core with kix := u.core.kix, rot := u.core.rot, preg := u.core.preg } } = u))
    ∧ (on →
      (inHalf s.core p.toNat = true → Traps (.bswap g p) s 0x01 0 0x07)
      ∧ (inHalf s.core p.toNat = false → preloadHolds s.core (decide (16384 ≤ p.toNat)) = true →
          Traps (.bswap g p) s 0x03 0 p.toNat)
      ∧ (inHalf s.core p.toNat = false → preloadHolds s.core (decide (16384 ≤ p.toNat)) = false →
          exec (.bswap g p) s = .next (goes .branch (some ⟨p, if s.core.phase = .drain then .plain else .swap⟩)
            { s with free := s.free + 2 ^ 17, core := { s.core with swapDraw := s.free } })))
    ∧ (∀ n, s.core.redir = none → s.core.nextRedir = none → n < 32768 →
        (afterBundle n s).core.pc = BitVec.ofNat 15 n ∧ (afterBundle n s).core.redir = none)
    ∧ (∀ n r, s.core.redir = some r →
        (afterBundle n s).core.pc = r.target ∧ ((afterBundle n s).core.swapping = true ↔ r.kind = .swap)
        ∧ (afterBundle n s).core.redir = s.core.nextRedir)

/-- R103, R128, R152–R156, R398, R401–R406, R410, R411. A wait freezes the core on its condition, HOLD puts empty bundles into
HOLDC at t + 1, IFENCE marks what was written into the idle half, ACQ and a fence of cluster scope or above drop what L1
holds of the object or all of it, and an ACQ of a released object leaves in L1 only what the homes hold; FENCE.cp lets the engines
see every store; a REL marks its object, and beside that REL and FENCE.core change nothing where no update and no message of the
core is on its way in this module, every store being visible at once (log 5); a fence makes the payload of the core's earlier
messages visible. With a false guard nothing happens.
Choices of the model that it rests on: log 5, 30, 126. That the sum TSTART + S[a] + n of a WAITC does not wrap is the model's choice
(log 37). -/
def Obligations.WaitsAndFences : Prop :=
  ∀ (s : State) (g : Guard) (a b : SReg) (t : Tok) (n : BitVec 14) (scope : BitVec 3) (sp : BitVec 2) (l : Nat) (nl1 : Bool),
    let waits := fun (k : WaitKind) (i : Instr) (u : State) =>
      { u with core := { u.core with wait := some ⟨k, BitVec.ofNat 40 (encode i)⟩ } }
    let calm := (∀ u ∈ s.barq, u.core = s.coreNo → u.bte = true) ∧ ∀ m ∈ s.fab.sigs, m.core = s.coreNo → m.local_ = false
    (guardOn s g = false →
      ∀ i ∈ [Instr.waitb g a b sp, .waitt g t, .waitc g a n, .hold g a n, .ifence g, .acq g a sp, .rel g a sp, .fence g scope],
        exec i s = .next s)
    ∧ (guardOn s g = true →
      exec (.waitt g t) s = .next (waits (.token t.toNat) (.waitt g t) s)
      ∧ exec (.waitc g a n) s = .next (waits (.cycle (s.core.tstart.toNat + (rdS s a).toNat + n.toNat)) (.waitc g a n) s)
      ∧ ((rdS s a).toNat + n.toNat < 2 ^ 32 → exec (.hold g a n) s =
          .next (put 1 (.sys 0x014 (BitVec.ofNat 64 ((rdS s a).toNat + n.toNat)))
            { s with core := { s.core with
                holding := decide (0 < (rdS s a).toNat + n.toNat), holdPos := textAfter s, nwait := none } }))
      ∧ (2 ^ 32 ≤ (rdS s a).toNat + n.toNat → ∃ d, Traps (.hold g a n) s 0x11 0 d)
      ∧ (sp ≠ 1 → (rdS s a).toNat % 16 = 0 → Reaches s sp.toNat false (rdS s a).toNat 16 l nl1 →
        (Stored s l 16 → (sp = 3 → ∃ k, place l = .hbm k) →
          (boundLock s (globalOf s l) = true → ∃ d, Traps (.waitb g a b sp) s 0x11 0 d)
          ∧ (boundLock s (globalOf s l) = false → Completes (.waitb g a b sp) s fun y =>
              ∃ at_ : Option Nat,
                { y with free := s.free } = waits (.barrier l ((rdS s b).setWidth 32)
                  (if sp = 0 then 0 else localBound s sp.toNat l) at_) (.waitb g a b sp) s
                ∧ (genComplete s l ((rdS s b).setWidth 32) = false → at_ = none)
                ∧ (genComplete s l ((rdS s b).setWidth 32) = true → ∃ x, at_ = some x ∧ s.cyc < x
                    ∧ (sp = 0 → x = s.cyc + 1) ∧ (sp ≠ 0 → x ≤ s.cyc + localBound s sp.toNat l))))
        ∧ (let o := globalOf s l
           let bound := fun (q : Nat) => (bindingsOf s o).any (fun x => decide (x.base.toNat < q / 4 * 64 + 64)
             && decide (q / 4 * 64 < x.base.toNat + x.size.toNat))
           (calm → Completes (.rel g a sp) s fun y => { y with vers := s.vers, relObjs := s.relObjs } = s
             ∧ (mwf false s.relObjs = true → ∀ x, mget false y.relObjs x = (mget false s.relObjs x || decide (x = o / 16 * 16)))
             ∧ ∀ k, ∀ v ∈ mget [] y.vers k, v.core = s.coreNo →
                 inBound s o (globalOf s (16 * k), (granule (16 * k)).2) = true → v.far = false)
           ∧ (mget false s.relObjs (o / 16 * 16) = false → Completes (.acq g a sp) s fun y =>
               { y with core := { y.core with l1 := s.core.l1 } } = s
               ∧ (mwf none s.core.l1 = true → ∀ q, mget none y.core.l1 q = if bound q then none else mget none s.core.l1 q))
           ∧ (mget false s.relObjs (o / 16 * 16) = true → Completes (.acq g a sp) s fun y =>
               { y with vers := s.vers, core := { y.core with l1 := s.core.l1 } } = s
               ∧ (mwf none s.core.l1 = true → ∀ q b, mget none y.core.l1 q = some b → bound q = false
                   ∧ ∀ x, localPart s (16 * q) = some x → place x ≠ .coded →
                       b = BitVec.ofNat 128 (bytesToNat (s.mem.readBytes x 16)))
               ∧ ∀ k, ∀ v ∈ mget [] y.vers k, v.core = s.coreNo → v.far = false → v.bte = false ∧ v.mu = false)))
      ∧ (calm → exec (.fence g 0) s = .next s)
      ∧ (∀ k : BitVec 3, k ≠ 0 → k ≠ 5 → calm → Completes (.fence g k) s fun y =>
          { y with vers := s.vers } = { s with core := { s.core with l1 := [] } }
          ∧ ∀ k, ∀ v ∈ mget [] y.vers k, v.core = s.coreNo → v.far = false)
      ∧ (∀ k : BitVec 3, k ≠ 5 → (s.fab.sigs.map SigMsg.id).Nodup → Completes (.fence g k) s fun y =>
          ∀ m ∈ y.fab.sigs, m.core = s.coreNo → m.local_ = true → m.earliest < s.cyc + 16 → m.pieces = [])
      ∧ Completes (.fence g 5) s (fun y =>
          { y with vers := s.vers, core := { y.core with fenceCp := s.core.fenceCp } } = s
          ∧ ∀ z mu k cur, z.vers = y.vers → z.core.fenceCp = y.core.fenceCp → z.coreNo = s.coreNo → s.cyc < z.cyc →
              (∀ v ∈ mget [] y.vers (k / 16), v.core = s.coreNo → v.cyc < s.cyc) → engPick mu k cur z = (cur, z))
      ∧ Completes (.ifence g) s fun y =>
          { y with core := { y.core with unfetched := s.core.unfetched } } = s
          ∧ (mwf [] s.core.unfetched = true → ∀ x, mget [] y.core.unfetched x =
              if activeIs s.core (textSpot (x - textBase s.coreNo)).1 then mget [] s.core.unfetched x else []))

/-- R86, R245, R246, R249, R255–R258, R407–R409. What ends, traps or saves a task. DONE ends it, in handler mode by fault; YIELD,
only in a drain and with nothing outstanding, suspends it or ends it; TRAP and EBREAK raise TRAPI and BREAK with their
immediate; SAVEX writes the record of R256, which its core's loads see within 8 cycles; RESTX branches to its RPC and restores
the rest at t + 2.
Choices of the model that it rests on: log 35, 36, 87, 116. -/
def Obligations.TaskControl : Prop :=
  ∀ (s : State) (g : Guard) (a : SReg) (p : BitVec 15) (e : BitVec 14),
    let on := guardOn s g = true
    let ends := fun (k : EndKind) (t : State) => t.core.phase = .ended ∧ t.core.ending = some k ∧ t.core.endCyc = s.cyc
      ∧ t.core.sreg = s.core.sreg ∧ t.core.greg = s.core.greg ∧ t.core.tile = s.core.tile ∧ t.mem = s.mem
      ∧ t.core.tcause = s.core.tcause ∧ t.core.tepc = s.core.tepc
    (guardOn s g = false → exec (.done g) s = .next s ∧ exec (.savex g a) s = .next s
      ∧ (s.core.delay = .none → exec (.trap g e) s = .next s ∧ exec (.ebreak g e) s = .next s)
      ∧ (s.core.phase = .drain → exec (.yield g p) s = .next s)
      ∧ exec (.restx g a) s = .next { s with core := { s.core with nextDelay := .branch, nextRedir := none } })
    ∧ (on → Completes (.done g) s (ends (if s.core.handler then .fault s.core.tcause else .done)))
    ∧ (s.core.delay ≠ .none → Traps (.trap g e) s 0x01 0 0x0F ∧ Traps (.ebreak g e) s 0x01 0 0x12)
    ∧ (s.core.delay = .none → on →
      Traps (.ebreak g e) s 0x14 0 e.toNat
      ∧ (s.core.handler = false → Traps (.trap g e) s 0x13 0 e.toNat)
      ∧ (s.core.handler = true → Completes (.trap g e) s (ends (.fault s.core.tcause))))
    ∧ (s.core.phase ≠ .drain → Traps (.yield g p) s 0x01 0 0x0E)
    ∧ (s.core.phase = .drain → on →
      (notQuiet s = true → ∃ d, Traps (.yield g p) s 0x07 0 d)
      ∧ (notQuiet s = false → inHalf s.core p.toNat = false → ∃ d, Traps (.yield g p) s 0x11 0 d)
      ∧ (notQuiet s = false → inHalf s.core p.toNat = true → ∀ t0, s.core.task = some t0 →
        (s.core.drainWhy = .overrun → Completes (.yield g p) s (ends .overrun))
        ∧ (s.core.drainWhy = .thermal → Completes (.yield g p) s (ends .thermal))
        ∧ (s.core.drainWhy = .pool → s.core.susp ≠ none → Completes (.yield g p) s (ends (.kill 0x20)))
        ∧ (s.core.drainWhy = .late ∨ (s.core.drainWhy = .pool ∧ s.core.susp = none) → Completes (.yield g p) s fun t =>
            t.core.phase = .idle ∧ t.core.task = none ∧ t.core.bte = [] ∧ t.core.sreg = s.core.sreg ∧ t.mem = s.mem
            ∧ t.core.susp = some ⟨{ t0 with budget := t0.budget.map fun d => d - s.cyc }, p, none, false, []⟩)))
    ∧ (let o := (rdS s a).toNat
       let l := spadBase s.coreNo + o
       on →
        (0x200000 < o + 96 → Traps (.savex g a) s 0x0A 0 o ∧ Traps (.restx g a) s 0x0A 0 o)
        ∧ (o + 96 ≤ 0x200000 → o % 16 ≠ 0 → Traps (.savex g a) s 0x0B 0 o ∧ Traps (.restx g a) s 0x0B 0 o)
        ∧ (o + 96 ≤ 0x200000 → o % 16 = 0 → badAddr s l 96 = none →
          (s.core.rs = [] → rsBase s.core + 8 * s.core.rsdepth.toNat ≤ rsLimit s.core → s.memOk → Completes (.savex g a) s fun t =>
            ∃ u r, t = put 8 .nothing u ∧ OnlyMemory s u ∧ StoredBytes s.mem u.mem l (natToBytes 96 r)
              ∧ (mwf [] s.slow = true → ∀ x, slowOf s (granule x).1 = none →
                  readOld (later 8 { t with core := { t.core with bold := [] } }) x = t.mem.read x)
              ∧ natBits r 31 0 = s.core.trip.toNat ∧ natBits r 63 32 = s.core.kix.toNat ∧ natBits r 95 64 = s.core.olc.toNat
              ∧ natBits r 101 96 = s.core.rot.toNat ∧ natBits r 111 102 = 0 ∧ natBits r 143 112 = s.core.holdc.toNat
              ∧ natBits r 155 144 = s.core.pausec.toNat ∧ natBits r 156 156 = s.core.waitr.toNat ∧ natBits r 159 157 = 0
              ∧ natBits r 174 160 = s.core.tepc.toNat ∧ natBits r 175 175 = 0 ∧ natBits r 183 176 = s.core.tcause.toNat
              ∧ natBits r 201 184 = s.core.rsd0.toNat ∧ natBits r 241 202 = s.core.waitop.toNat ∧ natBits r 255 242 = 0
              ∧ ∀ j, j < 8 → natBits r (256 + 64 * j + 63) (256 + 64 * j) = (mget 0 s.core.preg (8 + j)).toNat)
          ∧ (let r := bytesToNat (readHome s l 96)
             (recordBad s.core r = true → ∃ d, Traps (.restx g a) s 0x11 0 d)
             ∧ (recordBad s.core r = false → mwf 0 s.core.preg = true → Completes (.restx g a) s fun t =>
                let w := if natBits r 156 156 = 1 then some (BitVec.ofNat 40 (natBits r 241 202)) else none
                t.core.nextDelay = .branch ∧ t.core.nextRedir = some ⟨BitVec.ofNat 15 (natBits r 174 160), .restx w⟩
                ∧ t.core.pc = s.core.pc
                ∧ let y := (later 2 t).core
                  y.trip.toNat = natBits r 31 0 ∧ y.kix.toNat = natBits r 63 32 ∧ y.olc.toNat = natBits r 95 64
                  ∧ y.rot.toNat = natBits r 101 96 ∧ y.holdc.toNat = natBits r 143 112
                  ∧ y.pausec.toNat = natBits r 155 144 ∧ y.rsdepth.toNat = natBits r 201 184 ∧ y.rs = []
                  ∧ (∀ j, j < 8 → (mget 0 y.preg (8 + j)).toNat = natBits r (256 + 64 * j + 63) (256 + 64 * j))
                  ∧ y.sreg = (later 2 s).core.sreg ∧ (later 2 t).mem = (later 2 s).mem))))

/-! ### Traps and the events of one core (R245–R258) -/

/-- R86, R93, R123, R245–R250. A bundle with a cause has no effect: nothing of the module and of its core changes but the two records
of the bundle that issued (its issue count and what it must not see of itself), a drain request of its cycle lapses, and the trap is
on its way into the handler, for the larger of the next cycle and the latest landing; in handler mode or in a drain the task ends by
fault instead, and its commands that have not started are discarded. Entering the
handler writes TCAUSE, TEPC and TINFO and continues at TVEC. TINFO's fields are those of R247. -/
def Obligations.TrapTaken : Prop :=
  (∀ (s : State) (w n : Nat) (t : TrapRec), bundleCause (startBundle s) (slotsOf w) = some t →
    let pos := s.core.pastEnd.getD s.core.pc
    let b := (startBundle s).core
    let clean := isClean b s.core.icnt && !t.async
    ∃ u, issueBundle w n s = .next u ∧ { u with core := s.core, free := s.free } = s
      ∧ (s.core.handler = false → s.core.phase ≠ .drain →
          u.core = { b with
            wait := none, raised := none, icnt := s.core.icnt + 1, turn := s.cyc + 1
            drainReq := s.core.drainReq.filter fun q => decide (q.last ≠ s.cyc)
            entering := some ⟨t, pos, clean, Nat.max (s.core.icnt + 1) (latestLanding s.core)⟩ })
      ∧ (s.core.handler = true ∨ s.core.phase = .drain →
          { u.core with dt := s.core.dt } = { b with
            phase := .ended, ending := some (.fault t.code), endCyc := s.cyc, wait := none, entering := none, raised := none
            reports := [], drainReq := none, memerr := none, bte := [], icnt := s.core.icnt + 1, turn := s.cyc + 1
            tcause := t.code, tepc := pos, tinfo := tinfoOf t clean }
          ∧ (mwf .ok s.core.dt = true → ∀ k : Tok, rdTok u k =
              if k ≠ 0 ∧ ∃ x ∈ s.core.bte, x.produce = k then .err else rdTok s k)))
  ∧ (∀ (g : Nat) (s : State) (e : TrapEntry), (select g s).core.entering = some e → e.due ≤ (select g s).core.icnt →
    Completes (.trapEntry g) s fun t =>
      let u := select g s
      t.core.handler = true ∧ t.core.entering = none ∧ t.core.tcause = e.cause.code ∧ t.core.tepc = e.tepc
      ∧ t.core.pc = u.core.tvec ∧ t.core.redir = none ∧ t.core.delay = .none ∧ t.core.phase = u.core.phase
      ∧ t.core.tinfo = tinfoOf e.cause e.clean
      ∧ t.core.sreg = u.core.sreg ∧ t.core.greg = u.core.greg ∧ t.core.preg = u.core.preg ∧ t.core.tile = u.core.tile
      ∧ t.core.rs = u.core.rs ∧ t.core.rsdepth = u.core.rsdepth ∧ t.core.holdc = u.core.holdc
      ∧ t.core.pausec = u.core.pausec ∧ t.mem = u.mem)
  ∧ (∀ (t : TrapRec) (clean : Bool),
      let x := tinfoOf t clean
      x.extractLsb' 0 56 = t.detail ∧ x.extractLsb' 56 3 = (if t.whole then 0 else t.slot) ∧ x.getLsbD 59 = t.whole
      ∧ x.getLsbD 60 = t.async ∧ x.extractLsb' 61 2 = 0 ∧ x.getLsbD 63 = clean)

/-- R99, R103, R153, R246, R251, R252, R254, R255, R401–R405. The other events of a core: results land; a wait whose condition holds
is released, one on a barrier with an acquire; an uncorrectable error ends the task; a pending report is made at the bundle that
would issue; a drain request is served at a boundary that the drain table covers, and one that finds none for 65,536 cycles, or a stub that has not finished
by D + 4,095, ends the task.
Choices of the model that it rests on: log 2, 42, 45; that an event which is not due answers the fault notEnabled is the model's choice
(log 3), and so is what WAITR and WAITOP hold where a wait of RESTX had not been issued again (log 38). -/
def Obligations.CoreEvents : Prop :=
  ∀ (g : Nat) (s : State),
    let u := select g s
    let c := u.core
    let kept := fun (t : State) => t.mem = u.mem ∧ t.core.sreg = c.sreg ∧ t.core.greg = c.greg ∧ t.core.preg = c.preg
      ∧ t.core.tile = c.tile ∧ t.core.macc = c.macc ∧ t.core.mp = c.mp ∧ t.core.cd = c.cd ∧ t.core.lane = c.lane
    (dueNow c ≠ [] → (∀ p ∈ dueNow c, ∀ n, p.eff ≠ .mstop n) → exec (.resultLand g) s = .next (landAll u))
    ∧ (dueNow c = [] → ∃ e, exec (.resultLand g) s = .fault (.notEnabled e))
    ∧ (∀ w, c.wait = some w →
      ((∃ n, w.kind = .token n ∧ rdTok u (BitVec.ofNat 6 n) ≠ .pending) ∨ (∃ k, w.kind = .cycle k ∧ k ≤ u.cyc)
        → exec (.waitRelease g) s = .next { u with core := { c with wait := none } })
      ∧ (∀ i a, w.kind = .remoteBarrier i a true →
        exec (.waitRelease g) s = .next (acquire a { u with core := { c with wait := none } }))
      ∧ (∀ l n b k, w.kind = .barrier l n b (some k) → k ≤ u.cyc →
        exec (.waitRelease g) s = .next (acquire (globalOf u l) { u with core := { c with wait := none } }))
      ∧ (waitOver u = false → c.phase = .run → c.handler = false → c.reports ≠ [] → c.entering = none →
        exec (.waitRelease g) s = .next { u with core := { c with wait := none } })
      ∧ (waitOver u = false → c.reports = [] → ∃ e, exec (.waitRelease g) s = .fault (.notEnabled e)))
    ∧ (∀ code addr pos slot, c.memerr = some (code, addr, pos, slot) →
      (c.phase = .run ∨ c.phase = .drain → Completes (.memerr g) s fun t => kept t
        ∧ t.core.phase = .ended ∧ t.core.ending = some (.fault code) ∧ t.core.tcause = code ∧ t.core.tepc = pos
        ∧ t.core.tinfo.extractLsb' 0 56 = BitVec.ofNat 56 addr ∧ t.core.tinfo.extractLsb' 56 3 = slot
        ∧ t.core.tinfo.extractLsb' 59 5 = 2)
      ∧ (c.phase = .idle ∨ c.phase = .ended → exec (.memerr g) s = .next { u with core := { c with memerr := none } }))
    ∧ (∀ r rest, c.reports = r :: rest → c.phase = .run → c.handler = false → c.entering = none → c.wait = none →
      Completes (.timingReport g) s fun t => kept t ∧ t.core.reports = [] ∧ t.core.icnt = c.icnt + 1 ∧ t.core.pc = c.pc
        ∧ t.core.drainReq = c.drainReq.filter (fun q => decide (q.last ≠ u.cyc))
        ∧ ∃ e, t.core.entering = some e ∧ e.cause = r
          ∧ (c.holding = false ∨ holdLeft u = 0 → e.tepc = c.pastEnd.getD c.pc)
          ∧ (∀ p, c.holding = true → holdLeft u ≠ 0 → c.holdPos = some p → e.tepc = p)
          ∧ e.due = Nat.max (c.icnt + 1) (latestLanding c) ∧ (r.async = true → e.clean = false))
    ∧ (∀ r stub, c.drainReq = some r → drainStub u = some stub →
      Completes (.drainDiversion g) s fun t => kept t
        ∧ t.core.phase = .drain ∧ t.core.drainReq = none ∧ t.core.drainWhy = r.why ∧ t.core.drainAt = u.cyc
        ∧ t.core.tcause = r.cause ∧ t.core.tepc = c.pc ∧ t.core.pc = stub ∧ t.core.wait = none
        ∧ (∀ w, c.wait = some w → t.core.waitr = true ∧ t.core.waitop = w.image)
        ∧ (c.wait = none → t.core.waitr = false ∧ t.core.waitop = 0)
        ∧ t.core.holdc = c.holdc ∧ t.core.pausec = c.pausec)
    ∧ (∀ r, c.drainReq = some r → c.phase = .run → r.since + 65536 < u.cyc →
      Completes (.drainDeferralKill g) s fun t => kept t ∧ t.core.phase = .ended
        ∧ t.core.ending = some (.kill r.cause) ∧ ∀ x ∈ c.bte, x.produce ≠ 0 → rdTok t x.produce = .err)
    ∧ (c.phase = .drain → c.drainAt + 4095 < u.cyc →
      Completes (.stubTimeoutKill g) s fun t => kept t ∧ t.core.phase = .ended
        ∧ (c.drainWhy = .overrun → t.core.ending = some (.kill 0x21))
        ∧ (c.drainWhy ≠ .overrun → t.core.ending = some (.kill 0x20)))

/-! ### Tasks, timetables and the pool (R54–R93, R115, R427) -/

/-- R62, R75–R87, R90, R115, R427. What the scheduler does with a core: the code and scratchpad loads with the bounds of R74, the
start of a task in the start state of R115, with what acquiring everything means for L1 and the engines (R165), its rerun, the
reload and resumption of a suspended one, the late policies, the drains it requests, what a load that failed leads to, and the
retirement of a task that has ended.
Choices of the model that it rests on: log 7, 8, 41, 43, 44, 93, 117, 122. -/
def Obligations.TaskEvents : Prop :=
  ∀ (g : Nat) (s : State), mwf Core.idle s.others = true → s.memOk →
    let c := coreAt s g
    let drains := fun (cause : BitVec 8) (why : DrainWhy) (t : State) =>
      t = modCore g (fun c => { c with drainReq := some ⟨cause, why, s.cyc, s.cyc⟩ }) s
    let unpreload := fun (h : Bool) (qs : List Incoming) =>
      qs.map fun y => if y.spad.isNone && (pdHalf y.l.pd == h) then { y with code := none } else y
    let starts := fun (l : Launch) (rerun : Bool) (first : Nat) (budget : Option Nat) (inits : List (Nat × Nat)) (pc : Nat)
        (t : State) =>
      let x := coreAt t g
      x.phase = .run ∧ x.pc.toNat = pc % 2 ^ 15 ∧ x.half = pdHalf l.pd ∧ x.tstart = BitVec.ofNat 64 s.cyc
      ∧ x.taskId = l.taskId ∧ x.handler = false ∧ x.wait = none ∧ x.drainReq = none ∧ x.pend = [] ∧ x.rs = []
      ∧ x.task = some ⟨l, rerun, first, budget.map fun b => s.cyc + b⟩
      ∧ (∀ n, mget 0 x.sreg n = if n = 1 then l.args else if n = 2 then BitVec.ofNat 64 (coreId g)
          else if n = 3 ∧ l.imgSize ≠ 0 then 0x1C0000 else 0)
      ∧ x.greg = [] ∧ x.tile = [] ∧ x.macc = [] ∧ x.dt = [] ∧ x.mp = [] ∧ x.cd = [] ∧ x.bte = [] ∧ x.rtns = []
      ∧ x.lane = c.lane ∧ x.cursor = c.cursor
      ∧ (mwf none c.l1 = true → ∀ n, mget none x.l1 n = (mget none c.l1 n).bind fun _ =>
          ((localPart s (16 * n)).bind fun a => peek1 s a 16).map fun b => BitVec.ofNat 128 (bytesToNat b))
      ∧ (∀ y ∈ t.vers, ∀ v ∈ y.2, v.core ≠ g) ∧ (∀ y ∈ t.slow, ∀ v ∈ y.2, v.core ≠ g)
      ∧ (inits = [] → x.preg = [] ∧ x.sflg = 0 ∧ x.trip = 0 ∧ x.kix = 0 ∧ x.olc = 0 ∧ x.rot = 0 ∧ x.temp = 0
        ∧ x.tinv = 0x7F800000 ∧ x.ckey = 0 ∧ x.cctr = 0 ∧ x.lsc = 0 ∧ x.ft = [] ∧ x.hot = [] ∧ x.rslim = 0
        ∧ x.tvec.toNat = pdTveci l.pd ∧ x.draintab.toNat = pdDtabOff l.pd)
    (∀ i q text lex, preloadIdx c = some i → c.queue[i]? = some q → s.wchange = [] →
      0 < pdTextLen q.l.pd → pdTextLen q.l.pd ≤ 16384 → pdLexCnt q.l.pd ≤ 2048 →
      peekGa s (pdText q.l.pd) (2 * pdTextLen q.l.pd) = some text →
      (if pdLexCnt q.l.pd = 0 then lex = [] else peekGa s (pdLex q.l.pd) (48 * pdLexCnt q.l.pd) = some lex) →
      Completes (.codePreload g) s fun t =>
        (coreAt t g).queue = c.queue.set i { q with code := some (s.cyc + clb q.l), failed := false }
        ∧ (coreAt t g).phase = c.phase ∧ (coreAt t g).sreg = c.sreg
        ∧ (∀ j, j < 2 * pdTextLen q.l.pd →
            t.mem.read (textBase g + (if pdHalf q.l.pd then 32768 else 0) + j) = text.getD j 0)
        ∧ (∀ j, j < 48 * pdLexCnt q.l.pd →
            t.mem.read (textBase g + 0x10000 + (if pdHalf q.l.pd then 48 * 2048 else 0) + j) = lex.getD j 0))
    ∧ (∀ i q, preloadIdx c = some i → c.queue[i]? = some q → s.wchange = [] → rangesOk s (codeRanges q.l) = false →
      Completes (.codePreload g) s fun t => (coreAt t g).queue = c.queue.set i { q with code := some (s.cyc + clb q.l), failed := true }
        ∧ t.mem = s.mem)
    ∧ (∀ i q, nextQueued c = some (i, q) → spadLoadDue s c = true →
      (depState c q.l = some false → ∃ t, exec (.scratchpadLoad g) s = .next t ∧ (coreAt t g).queue = c.queue.eraseIdx i)
      ∧ (depState c q.l = some true → q.l.pre = true → s.wchange = [] → Completes (.scratchpadLoad g) s fun t =>
          let ok := rangesOk s (dataRanges q.l)
          (coreAt t g).queue = c.queue.set i { q with
            spad := some (s.cyc + slb q.l), failed := !ok, inits := if ok then initList s q.l else [] })
      ∧ (depState c q.l = some true → q.l.pre = false → s.wchange = [] → Completes (.scratchpadLoad g) s fun t => ∃ r,
          (coreAt t g).queue = (unpreload (pdHalf q.l.pd) c.queue).set i { q with
            code := some (s.cyc + ldb q.l), spad := some (s.cyc + ldb q.l)
            failed := !rangesOk s (codeRanges q.l ++ dataRanges q.l), inits := r }))
    ∧ (∀ i q, nextQueued c = some (i, q) → startDue false s c = true → Completes (.taskStart g) s fun t =>
        starts q.l false s.cyc (if q.l.budget = 0 then none else some q.l.budget.toNat) q.inits (pdEntry q.l.pd) t
        ∧ (coreAt t g).queue = c.queue.eraseIdx i ∧ t.mem = s.mem)
    ∧ (∀ i q, nextQueued c = some (i, q) → startDue true s c = true → Completes (.taskRerun g) s fun t =>
        starts q.l true s.cyc (if q.l.budget = 0 then none else some q.l.budget.toNat) q.inits (pdEntry q.l.pd) t
        ∧ (coreAt t g).queue = c.queue.eraseIdx i ∧ t.mem = s.mem)
    ∧ (∀ x, c.susp = some x → x.reload = none → resumeDue s c = true → s.wchange = [] → Completes (.taskResume g) s fun t =>
        (∃ r, (coreAt t g).susp = some { x with reload := some (s.cyc + ldb x.task.l)
                                                failed := !rangesOk s (codeRanges x.task.l ++ dataRanges x.task.l), inits := r })
        ∧ (coreAt t g).phase = .idle ∧ (coreAt t g).queue = unpreload (pdHalf x.task.l.pd) (c.queue.map fun y =>
            { y with spad := none, inits := [], failed := y.failed && y.spad.isNone }))
    ∧ (∀ x k, c.susp = some x → x.reload = some k → k ≤ s.cyc → x.failed = false → s.boot.tstop = false → c.phase = .idle →
      Completes (.taskResume g) s fun t =>
        starts x.task.l x.task.isRerun x.task.firstStart x.task.budget x.inits x.stub.toNat t ∧ (coreAt t g).susp = none
        ∧ (coreAt t g).queue = c.queue ∧ t.mem = s.mem)
    ∧ (∀ i q, lateIdx s c = some i → c.queue[i]? = some q →
      let skips := q.l.latep = 1 ∧ afterRerun c q.l = false
      let asks := q.l.latep = 2 ∧ mayPreempt c q.l = true ∧ afterRerun c q.l = false
      (skips → ∃ t, exec (.latePolicy g) s = .next t ∧ (coreAt t g).queue = c.queue.eraseIdx i)
      ∧ (¬skips → Completes (.latePolicy g) s fun t =>
          (coreAt t g).queue = c.queue.set i { q with late := true, asked := decide asks }
          ∧ (¬asks → (coreAt t g).drainReq = c.drainReq)
          ∧ (asks → c.drainReq = none → (coreAt t g).drainReq = some ⟨0x20, .late, s.cyc, s.cyc⟩)))
    ∧ (preemptDue s c = true → Completes (.poolPreempt g) s (drains 0x20 .pool))
    ∧ (overrunDue s c = true →
      (c.phase = .run → c.drainReq = none → Completes (.overrun g) s (drains 0x21 .overrun))
      ∧ (∀ r, c.phase = .run → c.drainReq = some r →
          Completes (.overrun g) s fun t => (coreAt t g).drainReq = some ⟨0x21, .overrun, r.since, s.cyc⟩)
      ∧ (c.phase = .drain → Completes (.overrun g) s fun t => (coreAt t g).drainWhy = .overrun ∧ (coreAt t g).phase = .drain))
    ∧ (∀ q, (c.queue.find? fun q => q.failed) = some q → Completes (.loadFailure g) s fun t =>
        (∀ y ∈ (coreAt t g).queue, y ≠ q) ∧ (coreAt t g).phase = c.phase)
    ∧ (∀ x, (c.queue.find? fun q => q.failed) = none → c.susp = some x → x.failed = true →
      Completes (.loadFailure g) s fun t => (coreAt t g).susp = none ∧ (coreAt t g).phase = c.phase)
    ∧ (∀ t0 k, c.task = some t0 → c.ending = some k → retireDue s g c = true →
      let again := t0.l.rerun = true ∧ t0.isRerun = false ∧ k ≠ .done ∧ k ≠ .thermal ∧ t0.l.pool = none ∧ s.boot.tstop = false
      Completes (.taskRetire g) s fun t =>
        (coreAt t g).phase = .idle ∧ (coreAt t g).task = none ∧ (coreAt t g).ending = none
        ∧ (¬again → (coreAt t g).queue = c.queue ∧ (t0.l.pool = none →
            (t0.l.entry, t0.l.pass, decide (k = .done)) ∈ (coreAt t g).ends))
        ∧ (again → ∃ q qs, (coreAt t g).queue = q :: qs ∧ qs.length = c.queue.length ∧ q.l = t0.l ∧ q.isRerun = true
            ∧ q.code = some (s.cyc + ldb t0.l) ∧ q.spad = some (s.cyc + ldb t0.l)
            ∧ ∀ x, k = .fault x → q.firstEnd = (x, c.tepc)))

/-- R54–R60, R66, R71, R73, R88, R89, R92. Timetables, the pool and the registers written from outside: TT_ARM starts a timetable or
sets ERR; TT_STOP ends the reading and the entries from its tick on; the walker reads an entry at max(E − 2^20, A_w) and queues
its tasks; a CLASS 2 entry posts; a pool task is taken by the core that R88 and R89 name; POOL_GO and POOL_CANCEL; the log's
configuration resets its indices; a register reads back what was written, cut to its fields. What the host writes needs that
bring-up has released it.
Choices of the model that it rests on: log 40, 47, 81, 95, 96, 118. -/
def Obligations.SchedulerRegisters : Prop :=
  ∀ (s : State), mwf Timetable.idle s.tt = true → mwf 0 s.pool.entries = true → mwf Core.idle s.others = true →
    (∀ d (tick : Word64), d < 9 → s.boot.tstop = false → released s = true →
      let t := ttOf s d
      let ok := t.run = false ∧ 1 ≤ t.count.toNat ∧ t.base.toNat % 64 = 0 ∧ t.cbase.toNat % 32 = 0 ∧ s.cyc + 1048576 ≤ tick.toNat
      Completes (.ttArm d tick) s fun u =>
        (∀ k, k ≠ d → ttOf u k = ttOf s k)
        ∧ (¬ok → ttOf u d = { t with err := true } ∧ { u with tt := s.tt } = s)
        ∧ (ok → ttOf u d = { t with run := true, rep := 0, next := 0, t := tick.toNat, armed := s.cyc, rdEntry := 0
                                    rdPass := 0, lastTick := none, reading := true, stop := none, sel := [] }
          ∧ { u with tt := s.tt, core := s.core, others := s.others } = s
          ∧ ∀ g, coreAt u g = { coreAt s g with ends := if g / 48 = d then [] else (coreAt s g).ends }))
    ∧ (∀ d (v : Word64), d < 9 → released s = true →
      (v.getLsbD 0 = false ∨ (ttOf s d).run = false → exec (.ttStop d v) s = .next s)
      ∧ (v.getLsbD 0 = true → (ttOf s d).run = true → Completes (.ttStop d v) s fun u =>
          (ttOf u d).reading = false ∧ (ttOf u d).stop = some ((ttOf s d).stop.getD s.cyc)
          ∧ (s.boot.tstop = false → match s.runs.find? fun r => decide (r.die = d) && decide (s.cyc ≤ r.tick) with
              | some r => (ttOf u d).next = BitVec.ofNat 16 r.entry
              | none => ((ttOf s d).stop = none → (ttOf s d).reading = true → (ttOf u d).next = BitVec.ofNat 16 (ttOf s d).rdEntry)
                  ∧ ((ttOf s d).stop ≠ none → (ttOf u d).next = (ttOf s d).next))
          ∧ u.runs = s.runs.filter (fun r => !(decide (r.die = d) && decide (s.cyc ≤ r.tick)))
          ∧ ((ttOf u d).run = false ↔ ∀ r ∈ u.runs, r.die ≠ d) ∧ u.mem = s.mem ∧ u.pool = s.pool))
    ∧ (∀ d x b, d < 9 → (ttOf s d).run = true → (ttOf s d).reading = true → s.wchange = [] →
      let t := ttOf s d
      let e := BitVec.ofNat 512 x
      let off := natBits x 63 0
      let tick := t.t + t.rdPass * t.period.toNat + off
      let g := d * 48 + entCluster e * 8 + b
      let bad := (∃ p, t.lastTick = some p ∧ off < p) ∨ (t.period ≠ 0 ∧ t.period.toNat ≤ off)
      x < 2 ^ 512 → readGa s (t.base.toNat + 64 * t.rdEntry) 64 = some x →
      Nat.max (tick - 1048576) t.armed ≤ s.cyc → (∀ r ∈ s.runs, isRun d t.rdEntry t.rdPass r = false) →
      (bad → Completes (.ttEntryRead d) s fun u => (ttOf u d).order = true ∧ (ttOf u d).reading = false)
      ∧ (¬bad → b < 8 → entCmask e = 2 ^ b → entClass e ≠ 2 → entryOk d e = true → s.maps.core.getLsbD g = true →
        readGa s (natBits x 191 128) 64 ≠ none → descriptorOk s (launchOf s d t.rdEntry t.rdPass tick b none e) = true →
        Completes (.ttEntryRead d) s fun u => ∃ l, (coreAt u g).queue = (coreAt s g).queue ++ [⟨l, none, none, false, false, false, [], false, (0, 0)⟩]
          ∧ l.die = d ∧ l.entry = t.rdEntry ∧ l.pass = t.rdPass ∧ l.bit = b ∧ l.tick = tick ∧ l.pool = none
          ∧ l.prev = (mget none t.sel g).filter (fun x => decide (t.rdPass ≤ x.2 + 1))
          ∧ l.cls.toNat = natBits x 81 80 ∧ l.budget.toNat = natBits x 127 96 ∧ l.args.toNat = natBits x 255 192
          ∧ l.imgAddr.toNat = natBits x 319 256 ∧ l.imgSize.toNat = natBits x 338 320 ∧ l.taskId.toNat = natBits x 383 352
          ∧ u.mem = s.mem))
    ∧ (∀ d r b i, postDue s d = some r → (s.runs.filter (isRun r.die r.entry r.pass)).length = 1 → b < 8 →
      entCmask r.ent = 2 ^ b → r.open_ ≠ 0 →
      s.maps.core.getLsbD (d * 48 + entCluster r.ent * 8 + b) = true → freePool s = some i →
      Completes (.backgroundPost d) s fun u =>
        poolV (poolAt u i) = true ∧ poolTaken (poolAt u i) = false
        ∧ natBits (poolAt u i).toNat 63 0 = r.tick % 2 ^ 64 ∧ natBits (poolAt u i).toNat 360 352 = 0x1FF
        ∧ natBits (poolAt u i).toNat 127 64 = natBits r.ent.toNat 191 128
        ∧ natBits (poolAt u i).toNat 351 320 = natBits r.ent.toNat 383 352 ∧ ∀ j, j ≠ i → poolAt u j = poolAt s j)
    ∧ (∀ i g, takeDue s = true → s.wchange = [] → firstPool s = some i → poolCore s i = some g →
      let l := poolLaunch s i g
      readGa s l.pdAddr.toNat 64 ≠ none → imageFieldsOk l.pdAddr.toNat l.imgAddr.toNat l.imgSize.toNat = true →
      descriptorOk s l = true → Completes .poolTake s fun u =>
        poolTaken (poolAt u i) = true ∧ (∀ j, j ≠ i → poolAt u j = poolAt s j) ∧ u.pool.ptr = (g / 8 + 1) % 54
        ∧ u.pool.lastTake = s.cyc
        ∧ ∃ r, (coreAt u g).queue = ⟨l, some (s.cyc + ldb l), some (s.cyc + ldb l), false, false, false, r, false, (0, 0)⟩
            :: (coreAt s g).queue)
    ∧ (released s = true → ∀ v : Word64,
      (v.getLsbD 0 = false ∨ poolDone s = false → exec (.poolPost v) s = .next s)
      ∧ (v.getLsbD 0 = true → poolDone s = true → freePool s = none → Completes (.poolPost v) s fun u =>
          u.pool.index = 0xFFFF ∧ u.pool.ok = false ∧ u.pool.entries = s.pool.entries
          ∧ { u with pool := s.pool, free := s.free } = s)
      ∧ (∀ i, v.getLsbD 0 = true → poolDone s = true → freePool s = some i → Completes (.poolPost v) s fun u =>
          u.pool.index.toNat = i ∧ u.pool.ok = true ∧ { u with pool := s.pool, free := s.free } = s
          ∧ (∀ j, j ≠ i → poolAt u j = poolAt s j) ∧ natBits (poolAt u i).toNat 360 352 = 0x1FF
          ∧ ∀ k, k < 512 → (poolAt u i).getLsbD k = if k = 361 then true else if k = 362 then false
              else if 352 ≤ k ∧ k ≤ 360 then true else if (275 ≤ k ∧ k ≤ 287) ∨ (364 ≤ k ∧ k ≤ 447) then false
              else s.pool.img.getLsbD k)
      ∧ (let i := v.toNat % 256
         let e := poolAt s i
         (poolDone s = false → exec (.poolCancel v) s = .next s)
         ∧ (poolDone s = true → poolV e = false ∨ poolTaken e = true → Completes (.poolCancel v) s fun u =>
            u.pool.index = 0xFFFF ∧ u.pool.ok = false ∧ u.pool.entries = s.pool.entries
            ∧ { u with pool := s.pool, free := s.free } = s)
         ∧ (poolDone s = true → poolV e = true → poolTaken e = false → Completes (.poolCancel v) s fun u =>
            poolV (poolAt u i) = false ∧ u.pool.index.toNat = i ∧ u.pool.ok = true
            ∧ ∀ j, j ≠ i → poolAt u j = poolAt s j))
      ∧ exec (.faultLogConfig false v) s = .next { s with flog := { s.flog with base := v, head := 0, tail := 0 } }
      ∧ exec (.faultLogConfig true v) s = .next { s with flog := { s.flog with size := v.setWidth 17, head := 0, tail := 0 } })
    ∧ (∀ (o : Nat) (v : Word64), released s = true → o < 0x100000000 → o % 8 = 0 → ownStep o v = false →
      mwf Binding.none s.bind = true → mwf Region.none s.region = true → mwf ⟨0, 0, 0, 0⟩ s.cctrs = true →
      mwf 0 s.sigcap = true → Completes (.registerWrite (0xFF00000000 + o) v) s fun u =>
        (∀ w, (o, w) ∈ [(0x0200, 64), (0x0208, 1), (0x0418, 17), (0x0420, 32), (0x0428, 1), (0x0508, 64), (0x20010, 32),
            (0x20020, 64), (0x20028, 16), (0x20030, 16), (0x30000, 64), (0x30008, 1), (0x30020, 32), (0x32000, 56),
            (0x32008, 40), (0x32010, 56), (0x32018, 5), (0x34000, 44), (0x34008, 40), (0x34010, 44), (0x38000, 64),
            (0x38008, 64), (0x38010, 64), (0x38018, 64)] → readRegister o u = (v.setWidth w).setWidth 64)
        ∧ ((ttOf s 0).run = false → ∀ w, (o, w) ∈ [(0x1000, 64), (0x1008, 16), (0x1010, 64), (0x1018, 32), (0x1030, 64)] →
            readRegister o u = (v.setWidth w).setWidth 64)
        ∧ (o ∈ [0x0100, 0x0140, 0x0148, 0x0150, 0x0410, 0x0550, 0x20000, 0x20008, 0x30018] → u = s)
        ∧ u.core = s.core ∧ u.others = s.others ∧ u.mem = s.mem ∧ u.cyc = s.cyc)

/-! ### Bring-up, protection, clock (R20–R38) -/

/-- R20–R28, R34–R38, R65. MODULE_RESET leaves every register at its reset value and keeps what R27 names; the stages of the
start, each with its ways to fail and its REASON; the images it verifies and measures; the requests to Ronilor; thermal and power
protection; the module clock's loss of lock and return.
Choices of the model that it rests on: log 4, 13, 14, 76, 77, 78, 79, 80, 94, 96, 97, 98, 99. -/
def Obligations.BringUpAndProtection : Prop :=
  ∀ (s : State),
    let fails := fun (i : Instr) (n : BitVec 4) => Completes i s fun t => t.boot.failed = true ∧ t.boot.reason = n
      ∧ t.boot.fails = (if s.boot.fails = 3 then 3 else s.boot.fails + 1) ∧ t.boot.stage = s.boot.stage ∧ t.core = s.core
      ∧ t.mem = s.mem
    let at_ := fun (n : BitVec 4) => s.boot.stage = n ∧ s.boot.failed = false
    (s.boot.tstop = false ∨ s.boot.overheat = false → Completes .moduleReset s fun t =>
      t.core = Core.idle ∧ t.others = [] ∧ t.mem = [] ∧ t.tt = [] ∧ t.pool.entries = [] ∧ t.xlat.xen = false ∧ t.xlat.tu = []
      ∧ t.fab.lock = false ∧ t.fab.table = none ∧ t.boot.stage = 1 ∧ t.boot.failed = false ∧ t.boot.tstop = false
      ∧ t.boot.minimal = s.boot.minimal ∧ t.boot.reason = s.boot.reason ∧ t.boot.fails = s.boot.fails
      ∧ t.boot.fenced = s.boot.fenced ∧ t.boot.afail = s.boot.afail ∧ t.boot.fence = s.boot.fence
      ∧ t.boot.degraded = false ∧ t.boot.slot = false ∧ t.boot.log = []
      ∧ (t.maps.core = s.maps.fuseCore ∧ t.maps.stack = s.maps.fuseStack ∧ t.maps.csp = s.maps.fuseCsp
        ∧ t.maps.slice = s.maps.fuseSlice ∧ t.maps.port = 0 ∧ t.maps.cxl = 0)
      ∧ (t.flog = ⟨0, 0, 0, 0, 0, false⟩ ∧ t.sigcap = [] ∧ t.finj.word0 = 0 ∧ t.finj.word1 = 0 ∧ t.bind = [] ∧ t.region = []
        ∧ t.wmode = [] ∧ t.cctrs = [] ∧ t.pool.img = 0 ∧ t.pool.index = 0xFFFF ∧ t.pool.ok = false
        ∧ t.xlat.xroot = 0 ∧ t.xlat.xmiss = 0 ∧ t.xlat.inval = [] ∧ t.l2 = [] ∧ t.coded = [] ∧ t.frameTag = [])
      ∧ (∀ o, 0x0200 ≤ o → readRegister o t = if o = 0x0550 then 0x1FFFF else 0)
      ∧ { t with free := 0, inputs := [], hostq := [], hostRead := [], outbox := [], irqs := [], boot := Boot.reset
                 maps := Maps.reset } = State.reset)
    ∧ (s.boot.tstop = true → s.boot.overheat = true → ∃ e, exec .moduleReset s = .fault (.notEnabled e))
    ∧ (∀ (a b : Image) (key : List Byte), at_ 1 →
      if imageOk key a = true then Completes (.ronilorStart a b key) s fun t => t.boot.stage = 2 ∧ t.boot.slot = false
          ∧ t.boot.minimal = decide (s.boot.fails = 3) ∧ t.boot.log = s.boot.log ++ [Config.shake256 a.bytes]
      else if imageOk key b = true then Completes (.ronilorStart a b key) s fun t => t.boot.stage = 2
          ∧ t.boot.slot = true ∧ t.boot.afail = true ∧ t.boot.minimal = decide (s.boot.fails = 3)
          ∧ t.boot.log = s.boot.log ++ [Config.shake256 a.bytes, Config.shake256 b.bytes]
      else fails (.ronilorStart a b key) 1)
    ∧ (∀ a b c us, at_ 2 →
      (a = false → fails (.linkTraining a b c us) 3) ∧ (a = true → b = false → fails (.linkTraining a b c us) 4)
      ∧ (a = true → b = true → c = false → fails (.linkTraining a b c us) 5)
      ∧ (a = true → b = true → c = true → Completes (.linkTraining a b c us) s fun t => t.boot.stage = 3
          ∧ ∀ u ∈ us, stage2Unit u.unit = true → u.retryOk = false → u.unit ∈ t.boot.fence))
    ∧ (∀ us, at_ 3 → Completes (.hbmTraining us) s fun t => t.boot.stage = 4
        ∧ ∀ u ∈ us, stackUnit u.unit = true → u.retryOk = false → u.unit ∈ t.boot.fence)
    ∧ (∀ (x y z : Image) (key : List Byte), at_ 4 →
      if imageOk key x = true ∧ imageOk key y = true ∧ imageOk key z = true then Completes (.firmwareLoad ⟨x, y, z⟩ key) s fun t => t.boot.stage = 5
          ∧ t.boot.log = s.boot.log ++ [Config.shake256 x.bytes, Config.shake256 y.bytes, Config.shake256 z.bytes]
      else fails (.firmwareLoad ⟨x, y, z⟩ key) 2)
    ∧ (∀ (x : Image) (key : List Byte), imageOk key x = true ↔ Config.shake256 key = Config.keyDigest
        ∧ Config.mlDsaVerify key (Config.shake256 x.bytes) x.sig = true)
    ∧ (∀ id d dom el tm, 2 ≤ s.boot.stage.toNat → s.boot.stage.toNat < 5 → d.toNat ≤ 12 → id.toNat < 2 ^ d.toNat →
      Completes (.setModuleId id d ⟨dom, el⟩ tm) s fun t => t.fab.id = id ∧ t.fab.d = d ∧ t.boot.hostTime = tm
        ∧ t.boot.domain = dom ∧ t.boot.eligible = el)
    ∧ (∀ el par us cxl, at_ 5 →
      (aloneClock s = true ∨ (el = true ∧ s.boot.eligible = true) → Completes (.ptpLock el par us cxl) s fun t =>
        t.boot.stage = 6 ∧ t.fab.lock = true ∧ t.fab.gm = true ∧ t.fab.parent = none
        ∧ t.cyc = (s.boot.hostTime.map BitVec.toNat).getD 0)
      ∧ (∀ p x, aloneClock s = false → (el = false ∨ s.boot.eligible = false) → par = some (p, x) →
        Completes (.ptpLock el par us cxl) s fun t => t.boot.stage = 6 ∧ t.fab.lock = true ∧ t.fab.gm = false
          ∧ t.fab.parent = some p ∧ t.cyc = x.toNat)
      ∧ (aloneClock s = false → fails .ptpLockTimeout 8))
    ∧ (s.boot.stage ≠ 15 → s.boot.failed = false → fails .bringUpWatchdog 7)
    ∧ (at_ 6 → Completes .mapPublish s fun t => t.boot.stage = 15 ∧ t.maps = publishedMaps s
        ∧ t.boot.fails = if s.boot.minimal = true then s.boot.fails else 0)
    ∧ (∀ n, 2 ≤ s.boot.stage.toNat → Completes (.attestationRequest n) s fun t => ∃ f, t.boot.reports = s.boot.reports ++ [f]
        ∧ f.1.take 3 = [Config.serial, s.boot.id.toNat, n.toNat] ∧ f.2 = Config.signature f.1)
    ∧ (2 ≤ s.boot.stage.toNat →
        exec .fenceListClear s = .next { s with boot := { s.boot with fence := [], fenced := false } })
    ∧ (released s = true → ∀ v, (v.extractLsb' 8 2 = 0 → exec (.bootstatFailsWrite v) s = .next s)
        ∧ (v.extractLsb' 8 2 ≠ 0 → exec (.bootstatFailsWrite v) s = .next { s with boot := { s.boot with fails := 0 } }))
    ∧ (∀ d, d < 9 → exec (.thermalWarning d) s = .next { s with irqs := s.irqs ++ [BitVec.ofNat 64 (d + 2 * 16)] })
    ∧ (∀ i ∈ [Instr.thermalStop, .powerOverloadStop],
      (at_ 2 → Completes i s fun t => t.boot.tstop = true ∧ t.boot.failed = true ∧ t.boot.reason = 6)
      ∧ (¬at_ 2 → Completes i s fun t => t.boot.tstop = true ∧ (s.core.phase = .run → t.core.drainReq.isSome = true)))
    ∧ (∀ (down : Bool) (p : Nat), s.fab.lock = true → s.fab.parent = some p →
      (down = true ∨ (released s = true ∧ s.maps.port.getLsbD p = false) ∨ 16 ≤ s.fab.badOffs → Completes (.lossOfLock down) s fun t =>
        t.fab.lock = false ∧ t.fab.hold = true ∧ t.fab.offs = s.fab.offs ∧ t.cyc = s.cyc ∧ t.core = s.core ∧ t.mem = s.mem
        ∧ ∃ w, t.irqs = s.irqs ++ [w])
      ∧ (down = false → s.maps.port.getLsbD p = true ∨ released s = false → s.fab.badOffs < 16 →
        ∃ e, exec (.lossOfLock down) s = .fault (.notEnabled e)))
    ∧ (∀ p, s.fab.hold = true → s.fab.backIn = true → s.fab.parent = some p → exec (.leaveHoldover p) s = .next { s with fab := { s.fab with
        lock := true, hold := false, badOffs := 0, backIn := false } })

/-! ### The fabric and collectives (R39–R53, R69, R387–R392, R425) -/

/-- R35, R37, R39–R53, R69, R286, R425. What a port's events do: a header's offset and skew; a flit's status, the counters and what
an ok one writes; what a slot sends; a remote request answered, a response landed, and neither taken from a flit that is not ok;
link timetables armed, started, stopped, ended; groups; the injection register; a signal applied.
Choices of the model that it rests on: log 53, 69, 70, 71, 74, 75, 96, 100, 101, 106, 107, 126. -/
def Obligations.FabricEvents : Prop :=
  ∀ (s : State), mwf 0 s.fab.ctr = true → mwf 0 s.fab.groupGen = true → mwf false s.fab.groupActive = true → s.memOk →
    let sat := fun (v : Word32) => if v = BitVec.allOnes 32 then v else v + 1
    (∀ p n (sk : Int) ptp (o : BitVec 8) st late, p < 32 → s.maps.port.getLsbD p = true →
      let mine := s.fab.parent = some p ∧ ptp.domain = s.boot.domain
      Completes (.slotHeaderReceive p n sk ⟨ptp, o⟩ st late) s fun t =>
        t.fab.offs = (if mine then o else s.fab.offs) ∧ t.core.sreg = s.core.sreg ∧ t.cyc = s.cyc
        ∧ t.fab.badOffs = (if mine then (if o.toInt < -2 ∨ 2 < o.toInt then s.fab.badOffs + 1 else 0) else s.fab.badOffs)
        ∧ (mine → s.fab.hold = true → -1 ≤ o.toInt → o.toInt ≤ 1 → t.fab.backIn = true)
        ∧ mget 0 t.fab.ctr (8 * p + 4) =
            (if sk < -3 ∨ 3 < sk then sat (mget 0 s.fab.ctr (8 * p + 4)) else mget 0 s.fab.ctr (8 * p + 4))
        ∧ (sk < -3 ∨ 3 < sk → n * 32 + p ∈ t.fab.skewed))
    ∧ (∀ f : Flit, f.port < 32 → s.maps.port.getLsbD f.port = true → isServ f = false →
      88 * f.slot ≤ s.cyc + 3 → s.cyc ≤ 88 * (f.slot + 1) + 24 →
      let st := arrivalStatus s f
      let here := f.dst = s.fab.id.toNat
      (here → s.fab.seenSlot ≤ f.slot) → (¬here → s.cyc ≤ 88 * (f.slot + 1)) →
      Completes (.flitReceive f) s fun t =>
        t.fab.rxStat = s.fab.rxStat ++ [(f.port, f.slot, f.idx, st)] ∧ t.core.sreg = s.core.sreg
        ∧ (st = .unc → f.replay = false → mget 0 t.fab.ctr (8 * f.port + 1) = sat (mget 0 s.fab.ctr (8 * f.port + 1)) ∧ t.mem = s.mem)
        ∧ (st = .stale → t.fab.gstale = sat s.fab.gstale ∧ t.mem = s.mem)
        ∧ (here → t.fab.seenSlot = f.slot)
        ∧ (¬here → (t.mem = s.mem ∨ st = .unc)
            ∧ (st ≠ .stale → { f with marked := decide (st = .unc), bad := false } ∈ t.fab.held))
        ∧ (∀ a bs tags, st = .ok → here → f.body = .copy [(a, bs)] tags → 0 < bs.length → a % 16 + bs.length ≤ 16 →
            Writable s a bs.length → StoredBytes s.mem t.mem a bs)
        ∧ (∀ data, here → f.body = .send data → f.replay = false → (∀ r ∈ s.fab.rx, r.port ≠ f.port) →
            ∃ r ∈ t.fab.rx, r.port = f.port ∧ r.slot = f.slot ∧ ⟨f.idx, f.src, f.sport, f.orig, f.oidx, st, data⟩ ∈ r.flits))
    ∧ (slotDue s = true → Completes .slotSend s fun t =>
        let n := s.cyc / 88
        t.fab.sentThrough = n + 1 ∧ t.core.sreg = s.core.sreg ∧ t.mem = s.mem ∧ (∀ x ∈ s.outbox, x ∈ t.outbox)
        ∧ (∀ p, p < 32 → s.maps.port.getLsbD p = true → ∃ mgmt st late,
            Outgoing.header p n ⟨s.boot.domain, 88 * n⟩ mgmt st late ∈ t.outbox)
        ∧ ∀ tab e i, s.fab.table = some tab → tab.slotA ≤ n → e ∈ tab.live → ltSlot e = ltIndex tab n → ltKind e = kSend →
            (∀ x ∈ tab.live, ltSlot x = ltSlot e → ltPort x = ltPort e → x = e) → s.maps.port.getLsbD (ltPort e) = true →
            i < ltFlits e → ∃ f, Outgoing.flit f ∈ t.outbox ∧ f.port = ltPort e ∧ f.slot = n ∧ f.idx = i
              ∧ f.body = .send (((s.fab.sends.find? fun q => decide (q.port = ltPort e) && decide (q.slot = n)
                  && decide (q.idx = i)).map SendFlit.data).getD (List.replicate 256 0)))
    ∧ (∀ (f : Flit) id addr op tab, f.port < 32 → s.maps.port.getLsbD f.port = true →
      88 * f.slot ≤ s.cyc + 3 → s.cyc ≤ 88 * (f.slot + 1) + 24 → servTab s f.slot = some tab →
      (localPart s addr ≠ none → s.fab.seenSlot ≤ f.slot) → (localPart s addr = none → s.cyc ≤ 88 * (f.slot + 1)) →
      let answer := fun (ok : Bool) (data : List Byte) (t : State) =>
        t.fab.respq = s.fab.respq ++ [⟨f.port, f.src, .response id ok data, tab⟩]
      (arrivalStatus s f ≠ .ok → Completes (.remoteRequest f id addr op) s fun t => t.fab.respq = s.fab.respq ∧ t.fab.reqq = s.fab.reqq)
      ∧ (∀ a n, arrivalStatus s f = .ok → localPart s addr = some a → op = .load n → 0 < n → a % 16 + n ≤ 16 → Stored s a n →
        Completes (.remoteRequest f id addr op) s fun t => answer true (s.mem.readBytes a n) t ∧ t.mem = s.mem
          ∧ t.fab.seenSlot = f.slot)
      ∧ (∀ a bs, arrivalStatus s f = .ok → localPart s addr = some a → op = .store bs → 0 < bs.length →
        a % 16 + bs.length ≤ 16 → Writable s a bs.length → Completes (.remoteRequest f id addr op) s fun t =>
          StoredBytes s.mem t.mem a bs ∧ answer true [] t)
      ∧ (arrivalStatus s f = .ok → localPart s addr = none → f.port < 24 → remotePath s (addr / 2 ^ 44) = none →
        Completes (.remoteRequest f id addr op) s fun t => answer false [] t ∧ t.mem = s.mem ∧ t.fab.reqq = s.fab.reqq)
      ∧ (∀ h, arrivalStatus s f = .ok → localPart s addr = none → passHop s f.port (addr / 2 ^ 44) = some h →
        queued s (servPort s h) < 64 → Completes (.remoteRequest f id addr op) s fun t => ∃ m,
          t.fab.reqq = s.fab.reqq ++ [⟨servPort s h, addr / 2 ^ 44, .request m addr op, tab⟩]
          ∧ (m, f.port, f.src, id) ∈ t.fab.transit ∧ t.fab.respq = s.fab.respq ∧ t.mem = s.mem))
    ∧ (∀ (f : Flit) id answer a, f.port < 32 → s.maps.port.getLsbD f.port = true →
      88 * f.slot ≤ s.cyc + 3 → s.cyc ≤ 88 * (f.slot + 1) + 24 → s.fab.seenSlot ≤ f.slot →
      (s.fab.transit.find? fun t => decide (t.1 = id)) = none → (s.fab.accs.find? fun a => decide (a.id = id)) = some a →
      let u := select a.core s
      (arrivalStatus s f ≠ .ok → Completes (.remoteResponse f id answer) s fun t => t.fab.accs = s.fab.accs ∧ t.core.pend = s.core.pend)
      ∧ (∀ data n w, arrivalStatus s f = .ok → answer = some data → a.dst = .s n w → Completes (.remoteResponse f id answer) s fun t =>
          t.core = { u.core with
            pend := u.core.pend ++ [⟨u.core.icnt + 1, u.core.icnt + 1, .s n (extendLoad w (bytesToNat data))⟩] }
          ∧ t.coreNo = a.core ∧ t.mem = s.mem ∧ ∀ x ∈ t.fab.accs, x.id ≠ id)
      ∧ (arrivalStatus s f = .ok → answer = none → Completes (.remoteResponse f id answer) s fun t => t.coreNo = a.core
          ∧ (∀ x ∈ t.fab.accs, x.id ≠ id)
          ∧ (a.dst = .drop → t.core.memerr = u.core.memerr)
          ∧ (isAwaited u.core a.id a.dst = true → u.core.memerr = none →
              t.core.memerr = some (0x18, a.addr, a.pos, a.slot))))
    ∧ (released s = true → ∀ a : Word64,
      (∀ t, ltCheck a.toNat s = some t → exec (.ltarm a) s = .next { s with fab := { s.fab with
          pending := (s.fab.pending.filter fun q => decide (q.slotA < a.toNat)) ++ [t] } })
      ∧ (ltCheck a.toNat s = none → exec (.ltarm a) s = .next { s with fab := { s.fab with err := true } })
      ∧ (a.getLsbD 0 = true → s.fab.table ≠ none → exec (.ltstop a) s =
          .next { s with fab := { s.fab with stopAt := some (s.cyc / 88 + 1) } })
      ∧ (a.getLsbD 0 = false ∨ s.fab.table = none → exec (.ltstop a) s = .next s))
    ∧ (∀ t, startingTable s = some t → Completes .linkTimetableStart s fun u =>
        u.fab.table = some t ∧ u.fab.stopAt = none ∧ u.mem = s.mem
        ∧ (s.fab.table = none → u.core = s.core ∧ u.fab.sends = s.fab.sends))
    ∧ (tableStops s = true → Completes .linkTimetableEnd s fun u =>
        u.fab.table = none ∧ u.fab.stopAt = none ∧ u.fab.reqq = [] ∧ u.fab.respq = [] ∧ u.fab.held = [] ∧ u.mem = s.mem
        ∧ (∀ t, s.fab.table = some t → u.fab.sends = s.fab.sends.filter fun q => !decide (q.tab = t.slotA))
        ∧ ∀ n, s.core.nwait = some n → s.cyc ≤ 88 * n → u.core.nwait = none ∧ u.core.holdc = 0 ∧ u.core.holding = false
          ∧ ∃ d, u.core.reports = s.core.reports ++ [⟨0x07, 7, false, true, d, false⟩])
    ∧ (∀ (g : BitVec 10) (v : Byte), released s = true → Completes (.groupActivate g v) s fun t =>
        mget false t.fab.groupActive g.toNat = v.getLsbD 7
        ∧ mget 0 t.fab.groupGen g.toNat = (if v.getLsbD 7 = true ∧ mget false s.fab.groupActive g.toNat = false then
            mget 0 s.fab.groupGen g.toNat + 1 else mget 0 s.fab.groupGen g.toNat)
        ∧ ∀ k, k ≠ g.toNat → mget 0 t.fab.groupGen k = mget 0 s.fab.groupGen k)
    ∧ (∀ v : Word64, released s = true →
      (Completes (.finjWrite true v) s fun t => t.finj.word1 = v ∧ (s.cyc ≤ 88 * v.toNat → t.finj.word0 = s.finj.word0))
      ∧ Completes (.finjWrite false v) s fun t => t.finj.word1 = s.finj.word1
        ∧ (v.getLsbD 31 = false ∨ s.cyc ≤ 88 * s.finj.word1.toNat → t.finj.word0 = v &&& 0x801FFFFF)
        ∧ (v.getLsbD 31 = true → 88 * s.finj.word1.toNat < s.cyc →
            t.finj.word0.getLsbD 31 = false ∧ t.finj.word0.getLsbD 32 = true))
    ∧ (∀ r a, sigAct s = some (.far r a none) → Completes .signalApply s fun t =>
        t.mem = s.mem ∧ r ∉ t.fab.rsigs ∧ ∃ u : BarrierUpd, t.barq = s.barq ++ [u] ∧ s.cyc ≤ u.due ∧ u.addr = a ∧ u.kind = 0
          ∧ u.n = 1 ∧ u.core = farAgent r.src ∧ u.bte = false ∧ u.sig = none ∧ u.waits = [])
    ∧ (∀ m, sigAct s = some (.own m) → m.pieces = [] ∧ m.sigAt ≤ s.cyc ∧ (∀ k ∈ m.waits, outstanding s k = false)
        ∧ ∀ v, m.flag = some v → m.sigAddr % 8 = 0 → Writable s m.sigAddr 8 → Completes .signalApply s fun t =>
            StoredBytes s.mem t.mem m.sigAddr (natToBytes 8 v.toNat) ∧ m ∉ t.fab.sigs)
    ∧ (∀ m x, sigAct s = some (.piece m x) → x ∈ m.pieces ∧ x.1 ≤ s.cyc
        ∧ ((∀ w ∈ x.2, place w.1 ≠ .coded ∧ Writable s w.1 w.2.length) → Completes .signalApply s fun t =>
            t.mem = x.2.foldl (fun y w => y.writeBytes w.1 w.2) s.mem))
    ∧ (∀ r a v, sigAct s = some (.far r a (some v)) → a % 8 = 0 → Writable s a 8 →
        Completes .signalApply s fun t => StoredBytes s.mem t.mem a (natToBytes 8 v.toNat) ∧ r ∉ t.fab.rsigs)

/-- R389–R392. A collective whose fields break a rule, or whose timetable has ended, is dropped and its token done-error; one
that begins reads its source, which is its contribution, and knows where its result goes; one whose contributions are all there
writes its result there and its token is done-ok. The result of an all-gather is the contributions in rank order, that of a broadcast
the root's, that of a reduction each element's reduction, of a reduce-scatter the share of the rank, with NORM the sum over all
shares; a BX replaces the elements whose index bit differs from its own bit of the module id; the reduction of an integer element
is the wrapping sum, the minimum or the maximum over the fixed tree.
Choices of the model that it rests on: log 73. -/
def Obligations.CollectiveEvents : Prop :=
  ∀ (s : State) (die : Nat),
    (∀ c, startColl s die = some c →
      let d := collDescOf c.words
      (d.bad s = true → Completes (.collectiveStart die) s fun t =>
        (c.produce ≠ 0 → rdTok t c.produce = .err) ∧ t.mem = s.mem ∧ (∀ q ∈ t.colls, q.id ≠ c.id) ∧ t.coreNo = c.core)
      ∧ (d.bad s = false → Completes (.collectiveStart die) s fun t => t.coreNo = c.core
        ∧ ((∀ q ∈ t.colls, q.id ≠ c.id) ∨ ∀ q ∈ t.colls, q.id = c.id → q.start = some s.cyc))
      ∧ (∀ l k : Nat → Nat,
        let u := select c.core s
        let hit := fun (wr : Bool) (va x : Nat) => va < 2 ^ 56 ∧ ∃ e, tuFind u .core die va = some e ∧ tuAllows u e wr = true
          ∧ localPart u (e.pa + (va - e.va)) = some x
        let src := if d.kind ≠ 5 ∨ d.rank s = d.root then pieces128 d.src d.inBytes else []
        let dst := pieces128 d.dst d.outBytes
        d.bad s = false → d.kind ≠ 3 → (s.xlat.inval.any fun p => p.1 == die) = false → s.vers = [] →
        (∀ p ∈ src, hit false p.1 (l p.1) ∧ place (l p.1) ≠ .coded ∧ badAddr s (l p.1) p.2 = none) →
        (∀ p ∈ dst, hit true p.1 (k p.1)) →
          Completes (.collectiveStart die) s fun t => t.mem = s.mem ∧ ∃ q ∈ t.colls, q.id = c.id ∧ q.start = some s.cyc
            ∧ q.data = (src.flatMap fun p => s.mem.readBytes (l p.1) p.2) ∧ q.dst = dst.map fun p => (k p.1, p.2)))
    ∧ (∀ ok xs c, cutColl s die = some c → Completes (.collectiveComplete die ok xs) s fun t =>
        (c.produce ≠ 0 → rdTok t c.produce = .err) ∧ t.mem = s.mem ∧ ∀ q ∈ t.colls, q.id ≠ c.id)
    ∧ (∀ xs c, cutColl s die = none → sentColl s die = some c →
      let d := collDescOf c.words
      let r := d.rank s
      let all := if d.kind = 5 ∧ r ≠ d.root then xs else xs.set r c.data
      let w := fmtWidth d.fmt
      let total := d.count * 8 / w
      let share := d.count / d.parts * 8 / w
      let elems := fun (lo n : Nat) => (List.range n).flatMap fun i =>
        natToBytes (w / 8) (collElem d.fmt d.op d.dims.length (all.map fun x => elemOf w (lo + i) x))
      let writes := fun (bs : List Byte) => Completes (.collectiveComplete die true xs) s fun t =>
        t.mem = (placeBytes c.dst bs).foldl (fun m w => m.writeBytes w.1 w.2) s.mem ∧ (∀ q ∈ t.colls, q.id ≠ c.id)
        ∧ t.coreNo = c.core ∧ (c.produce ≠ 0 → rdTok t c.produce = .ok)
      contribOk d all = true → c.ok = true → s.memOk → mwf .ok (select c.core s).core.dt = true →
      (∀ p ∈ c.dst, p.1 % 16 = 0 ∧ p.2 % 16 = 0 ∧ p.1 % 128 + p.2 ≤ 128 ∧ place p.1 ≠ .coded
        ∧ Writable (select c.core s) p.1 p.2) →
      (c.norm = none →
        (d.kind = 0 → writes (elems 0 total)) ∧ (d.kind = 1 → writes (elems (r * share) share))
        ∧ (d.kind = 2 → writes all.flatten) ∧ (d.kind = 5 → writes (all.getD d.root []))
        ∧ (∀ a k, d.kind = 4 → w = 32 ∨ w = 64 → c.dst = [(a, d.count)] → d.dims = [k] →
            Completes (.collectiveComplete die true xs) s fun t => (c.produce ≠ 0 → rdTok t c.produce = .ok)
              ∧ ∀ i, i < d.count → t.mem.read (a + i) =
                  if (i / (w / 8)).testBit d.bxl = s.fab.id.toNat.testBit k then s.mem.read (a + i)
                  else (all.getD (1 - r) []).getD ((i / (w / 8) ^^^ 2 ^ d.bxl) * (w / 8) + i % (w / 8)) 0))
      ∧ (∀ a, d.kind = 3 → c.norm = some a → a % 8 = 0 → place a ≠ .coded → Writable (select c.core s) a 8 →
          (∀ p ∈ c.dst, a + 8 ≤ p.1 ∨ p.1 + p.2 ≤ a) → Completes (.collectiveComplete die true xs) s fun t =>
            (c.produce ≠ 0 → rdTok t c.produce = .ok)
            ∧ t.mem.readBytes a 8 = natToBytes 8 (collElem 11 0 d.dims.length ((List.range d.parts).map fun q =>
                sumSquares d.fmt (collReduce d all (q * share) share)))))
    ∧ (∀ (op n : Nat) (xs ys : List Nat), xs.length = 2 ^ n → ys.length = 2 ^ n →
      let a := collElem 4 op n xs
      let b := collElem 4 op n ys
      1 ≤ n → op ≤ 2 → collElem 4 op (n + 1) (xs ++ ys) =
        if op = 0 then wrapInt 32 (intOf 4 a + intOf 4 b)
        else if op = 1 then (if intOf 4 a < intOf 4 b then a else b)
        else (if intOf 4 a < intOf 4 b then b else a))

/-! ### Translation, slices and coded regions (R130, R131, R139–R141, R193–R213) -/

/-- R130, R131, R139–R141, R194, R204–R208. The memory-side events: an invalidation and its completion, a walk and its completion, a
change of a slice's mode, evictions, the flush of a region, an access to the coded view from outside, the write-back of a block.
Choices of the model that it rests on: log 10, 11, 63, 82, 96, 124. -/
def Obligations.MemoryEvents : Prop :=
  ∀ (s : State) (g : Nat), mwf 0 s.wmode = true → mwf Region.none s.region = true → s.memOk →
    (released s = true → ∀ v : Word64,
      (v.getLsbD 0 = false → exec (.xinv v) s = .next s)
      ∧ (v.getLsbD 0 = true → Completes (.xinv v) s fun t => ∃ e : Nat → Nat,
          (∀ d, d < 9 → s.cyc ≤ e d ∧ e d ≤ s.cyc + 64)
          ∧ { t with free := s.free } = { s with xlat := { s.xlat with inval := (List.range 9).map fun d => (d, e d) } }))
    ∧ ((s.xlat.inval.any fun p => p.1 == g) = true → exec (.invalidationComplete g) s = .next { s with xlat := { s.xlat with
        tu := s.xlat.tu.filter fun e => !decide (e.die = g), inval := s.xlat.inval.filter fun p => !(p.1 == g) } })
    ∧ (let u := select g s
       ∀ w,
        (walkNow u.core = none → walkNext u.core = some w → Completes (.translationMiss g) s fun t => ∃ k, s.cyc ≤ k ∧ k ≤ s.cyc + 2000
          ∧ t.core.walks = u.core.walks.map (fun x => if x = w then { w with ends := some k } else x)
          ∧ t.xlat.tu = u.xlat.tu ∧ t.mem = s.mem
          ∧ t.xlat.xmiss = if s.xlat.xmiss = BitVec.allOnes 32 then s.xlat.xmiss else s.xlat.xmiss + 1)
        ∧ (∀ e x y, walkNow u.core = some w → w.ends = some e → e ≤ s.cyc → w.bad = none → w.entry = some x →
          (∀ big, walkOut u x.die w.va big = .ok y) → u.core.raised = none →
          exec (.walkComplete g) s = .next { u with
            free := u.free + 1, core := { u.core with walks := u.core.walks.erase w }
            xlat := { u.xlat with tu := u.xlat.tu ++ [y] } })
        ∧ (∀ e t0, u.core.walks = [w] → w.ends = some e → e ≤ s.cyc → w.bad = none → w.entry = none →
          u.core.raised = some t0 → u.core.handler = false → u.core.phase = .run →
          Completes (.walkComplete g) s fun t => t.core.walks = [] ∧ t.core.raised = none ∧ t.mem = s.mem
            ∧ t.core.drainReq = u.core.drainReq.filter (fun q => decide (q.last ≠ s.cyc))
            ∧ t.core.sreg = u.core.sreg ∧ ∃ y, t.core.entering = some y ∧ y.cause = t0 ∧ y.tepc = trapPos u.core
              ∧ y.due = Nat.max (u.core.icnt - 1 + 1) (latestLanding u.core)))
    ∧ (released s = true → g < 54 → ∀ v : Word64,
      (v.setWidth 2 = mget 0 s.wmode g → exec (.slcfgWrite g v) s = .next { s with
          wchange := s.wchange.filter fun w => !decide (w.1 = g) })
      ∧ (v.setWidth 2 ≠ mget 0 s.wmode g → Completes (.slcfgWrite g v) s fun t => ∃ k, s.cyc < k ∧ k ≤ s.cyc + 70000
          ∧ t.wchange = (s.wchange.filter fun w => !decide (w.1 = g)) ++ [(g, v.setWidth 2, k)]
          ∧ t.wmode = s.wmode ∧ t.core.sreg = s.core.sreg ∧ ((∀ b ∈ s.coded, b.dirty = 0) → t.mem = s.mem)))
    ∧ (∀ m, wmodeDue s g = some m → Completes (.wmodeChangeComplete g) s fun t =>
        mget 0 t.wmode g = m ∧ (∀ k, k ≠ g → mget 0 t.wmode k = mget 0 s.wmode k)
        ∧ t.wchange = (s.wchange.filter fun w => !decide (w.1 = g))
        ∧ ((∀ b ∈ s.coded, b.dirty = 0) →
            (∀ a, a < 0xF000000000 + g * 0x1000000 ∨ 0xF000000000 + (g + 1) * 0x1000000 ≤ a → t.mem.read a = s.mem.read a)
            ∧ (mget 0 s.wmode g ≠ 2 → t.mem = s.mem)
            ∧ (mget 0 s.wmode g = 2 → ∀ a, 0xF000000000 + g * 0x1000000 ≤ a → a < 0xF000000000 + (g + 1) * 0x1000000 →
                t.mem.read a = 0)))
    ∧ (∀ m rest, s.evq = (g, m) :: rest → place (g * 64) ≠ .coded →
        exec (.l2Eviction g) s = .next { s with evq := rest })
    ∧ (released s = true → g < 64 → (∀ b ∈ s.coded, b.entry ≠ g) → ∀ v : Word64, v.getLsbD 6 = true →
      Completes (.regionFlush ⟨g, v⟩) s fun t =>
        (∃ k, (regionOf t g).fbusy = some k ∧ s.cyc < k) ∧ t.mem = s.mem ∧ t.coded = s.coded
        ∧ { regionOf t g with fbusy := none } = { regionOf s g with bc := v.setWidth 4, v := v.getLsbD 4, fbusy := none })
    ∧ (flushDue s g = true → (∀ b ∈ s.coded, b.entry ≠ g) → Completes (.regionFlushComplete g) s fun t =>
        (regionOf t g).fbusy = none ∧ t.mem = s.mem ∧ t.coded = s.coded)
    ∧ (∀ a i k bs, place a = .coded → a % 128 = 0 → bs.length = 128 → blockAt s a = some (i, k) → (regionOf s i).fbusy = none →
      Completes (.codedAccess a 128 (some bs)) s fun t =>
        findBlock t i k = some ⟨i, k, valsOf bs, 0xFF⟩ ∧ t.mem = s.mem
        ∧ ∀ j m, (j, m) ≠ (i, k) → findBlock t j m = findBlock s j m)
    ∧ (∀ a n i k, place a = .coded → 0 < n → a % 128 + n ≤ 128 → blockAt s a = some (i, k) → (regionOf s i).fbusy = none →
      (∀ b, findBlock s i k = some b → Completes (.codedAccess a n none) s fun t =>
        t.coded = s.coded ∧ t.mem = s.mem ∧ t.core = s.core)
      ∧ (∀ vs, findBlock s i k = none → badAddr s (backAddr s i k) (regionOf s i).blockBytes = none →
        decodeBlock (budgetBits (regionOf s i).bc.toNat) (s.mem.readBytes (backAddr s i k) (regionOf s i).blockBytes) = some vs →
        Completes (.codedAccess a n none) s fun t => findBlock t i k = some ⟨i, k, vs, 0⟩ ∧ t.mem = s.mem ∧ t.core = s.core))
    ∧ (∀ n m rest j b, s.evq = (n, m) :: rest → place (n * 64) = .coded → blockOfLine s n = some (j, b) →
      (b.dirty = 0 → Completes (.codedWriteback j false) s fun t => t.evq = rest ∧ t.mem = s.mem ∧ t.core = s.core
        ∧ t.coded = s.coded.filter fun x => !(decide (x.entry = b.entry) && decide (x.k = b.k)))
      ∧ (b.dirty ≠ 0 → badAddr s (backAddr s b.entry b.k) (regionOf s b.entry).blockBytes = none →
        b.vals.length = 16 → (regionOf s b.entry).bc.toNat ≤ 9 →
        Completes (.codedWriteback j false) s fun t =>
          StoredBytes s.mem t.mem (backAddr s b.entry b.k) (encodeBlock (budgetBits (regionOf s b.entry).bc.toNat) b.vals).1
          ∧ findBlock t b.entry b.k = none ∧ t.evq = rest ∧ t.core = s.core))

/-- R199–R203. The block codec: at 64 bits a block reads back exactly; a block that holds a value that is not finite gives back each
value's class; at every budget a block takes 2B bytes, and one whose 12 low bits hold EMAX 2047 with the flag clear is
malformed.
R200, R201. The lifting transform is undone by its inverse: every one of the 16 integers comes back. -/
def Obligations.BlockCodec : Prop :=
  ((∀ vals : List Word64, vals.length = 16 → decodeBlock 64 (encodeBlock 64 vals).1 = some vals)
   ∧ (∀ (bc : Nat) (vals : List Word64), bc ≤ 8 → vals.length = 16 → vals.all isFinite64 = false →
       decodeBlock (budgetBits bc) (encodeBlock (budgetBits bc) vals).1 = some (vals.map fun v =>
         match F64.decode v.toNat with
         | .inf n => if n then 0xFFF0000000000000 else 0x7FF0000000000000
         | .nan _ => 0x7FF8000000000000
         | .fin _ _ _ => 0))
   ∧ (∀ (bc : Nat) (vals : List Word64), bc ≤ 9 → vals.length = 16 →
       (encodeBlock (budgetBits bc) vals).1.length = 2 * budgetBits bc)
   ∧ (∀ (b : Nat) (bs : List Byte), b ≠ 64 → bytesToNat bs % 4096 = 2047 → decodeBlock b bs = none))
  ∧ (∀ xs : List Int, xs.length = 16 → uncoeffs (coeffs xs) = xs)

/-! ### No-ops, the pause and the quote (R94, R95, R283–R287) -/

/-- R94, R95. The slots' no-ops change nothing. PAUSE n issues n more empty bundles, as the delay bundle of a taken branch
none; the quote's empty bundle is followed by its literal. -/
def Obligations.EmptyBundles : Prop :=
  ∀ (s : State) (n : BitVec 12),
    (∀ i ∈ [Instr.mnop, .cnop, .nnop, .bnop], exec i s = .next s)
    ∧ Completes .quote s (fun t => t.core.inQuote = true ∧ t.core.icnt = s.core.icnt + 1 ∧ t.core.turn = s.cyc + 1
        ∧ { t with core := { t.core with inQuote := s.core.inQuote, icnt := s.core.icnt, turn := s.core.turn } } = s)
    ∧ Completes (.pause n) s (fun t => t.core.icnt = s.core.icnt + 1 ∧ t.core.turn = s.cyc + 1 ∧ t.mem = s.mem
        ∧ t.core.sreg = s.core.sreg ∧ t.core.pend = s.core.pend
        ∧ (s.core.redir = none → n ≠ 0 → t.core.pausec = n ∧ t.core.pausing = true ∧ t.core.pc = s.core.pc)
        ∧ (s.core.redir = none → n = 0 → s.core.pc.toNat + 1 < 32768 → t.core.pausec = 0 ∧ t.core.pc = s.core.pc + 1)
        ∧ ∀ r, s.core.redir = some r → t.core.pausec = 0 ∧ t.core.pc = r.target)

/-! ### The step, the encoding, the whole machine -/

/-- R94–R98, R245. A step at a fetch runs what stands there: an index that is a pause or the quote is executed; a lexeme of the
active bank, or a quote's literal, issues as a bundle, and the position after it is that of the next index. A bundle of one operation
without a cause executes it, counts its fixed landing, and ends the cycle.
Choices of the model that it rests on: log 2, 9. -/
def Obligations.StepRunsDecoded : Prop :=
  (∀ s : State, s.atFetch →
    let p := s.core.pc.toNat
    (s.core.inQuote = false →
      (∀ i, decodeIndex (indexAt s p) = .instr i → step s = exec i s)
      ∧ (∀ n, decodeIndex (indexAt s p) = .lexeme n → (2048 ≤ n ↔ s.core.half = true) →
          step s = issueBundle (lexemeWord s n) (p + 1) s)
      ∧ (decodeIndex (indexAt s p) = .illegal → ∃ t, step s = .next t ∧ t.core.sreg = s.core.sreg ∧ t.core.pc = s.core.pc ∧ t.core.icnt = s.core.icnt + 1
          ∧ (s.core.handler = false → s.core.phase = .run → ∃ e, t.core.entering = some e ∧ e.tepc = s.core.pc
              ∧ e.cause = ⟨0x02, 0, true, false, BitVec.ofNat 56 (indexAt s p), false⟩)))
    ∧ (s.core.inQuote = true → p % 16384 + 25 ≤ 16384 → step s = issueBundle (literalWord s p) (p + 25) s))
  ∧ (∀ (s : State) (w k n : Nat) (i : Instr) (t : State),
    let b := startBundle s
    slotsOf w = [⟨k, slotWord w k, some i⟩] → exec i b = .next t → t.core.raised = none → bundleCause b (slotsOf w) = none →
      issueBundle w n s = .next (cycleDone (afterBundle n (settleEnd
        (match fixedLanding b i with
          | some (l, _) => if guardHolds b k (slotWord w k) then put l .nothing t else t
          | none => t)))))

/-- R94, R95, R278, R282–R287. Words written out from the encoding tables decode to the instructions they stand for. -/
def Obligations.DecodeWords : Prop :=
  -- S: op [47:40], guard negate [39], G [38:35], d [34:29], a [28:23], b [22:17], rest [16:0]
  decodeSlot 1 0b000000010000000001100000100001000000000000000000 = some (.add ⟨false, 0⟩ 3 1 2)
  ∧ decodeSlot 1 0b001000001001000010100011000000011111111111111111 = some (.addi ⟨true, 2⟩ 5 6 0x1FFFF)
  -- V: op [63:54], nf, guard negate, P [51:48], d [47:35], a [34:22], b [21:9], rnd [8:6], sat, fmt [4:0]
  ∧ decodeSlot 2 0b0000000001000000000000100000001000000000000000000000110001001010 =
      some (.vadd ⟨false, false, false, 0, 0x0040, 0x0800, 0x0006, 2, 10⟩)
  -- M: op [47:42], routine [41:34], produce token, three consumed, flags [9:0]
  ∧ decodeSlot 4 0b000001000010010000110000000000000000000000000000 = some (.accclr ⟨3, 0, 0, 0, 0, false, 0⟩)
  -- C: op [39:34], vector [33:21], base S [20:15], offset [14:2], space [1:0]
  ∧ decodeSlot 6 0b0000010000000000101001000000000000001111 = some (.ldv true 5 8 3 3)
  -- N: op [39:34], port [33:28], vector [27:15], slot index [14:0]
  ∧ decodeSlot 7 0b0000010000110000000000111000000000000111 = some (.send 3 7 7)
  -- B: op [39:34], guard negate [33], G [32:29], target [28:14]
  ∧ decodeSlot 0 0b0000010001100000000000101000000000000000 = some (.br ⟨false, 3⟩ 10)
  ∧ decodeSlot 0 0b1111110000000000000000000000000000000000 = none
  ∧ decodeIndex 0xE005 = .instr (.pause 5) ∧ decodeIndex 0xFFFF = .instr .quote ∧ decodeIndex 0x0123 = .lexeme 0x123
  ∧ decodeIndex 0x1000 = .illegal

/-- R94, R95, R278, R282–R287. Every well-formed operation of a slot is what its word decodes to, alone and placed in a bundle, whose
other slots are then empty; a pause and the quote are what their indices decode to. -/
def Obligations.DecodeEncode : Prop :=
  (∀ (i : Instr) (k : Nat), slotOf i = some k → i.wf = true →
    decodeSlot k (encode i) = some i
    ∧ slotWord (slotPlace k (encode i)) k = encode i
    ∧ ∀ j, j < 8 → j ≠ k → slotWord (slotPlace k (encode i)) j = 0)
  ∧ (∀ n : BitVec 12, decodeIndex (encode (.pause n)) = .instr (.pause n)) ∧ decodeIndex (encode .quote) = .instr .quote

/-- R21, R27, R54, R69, R71, R109, R141. The module right after reset: bring-up stage 1, the start not failed, no lock, nothing
armed, no task, the registers at their reset values; all of it canonical data.
Choices of the model that it rests on: log 12, 13, 14, 15. -/
def Obligations.ResetState : Prop :=
  let s := State.reset
  s.boot.stage = 1 ∧ s.boot.slot = false ∧ s.boot.degraded = false ∧ s.boot.tstop = false ∧ s.fab.lock = false
  ∧ s.core.phase = .idle ∧ s.core.tinv = 0x7F800000 ∧ s.core.temp = 0 ∧ s.core.sflg = 0 ∧ s.core.trip = 0 ∧ s.core.tcause = 0
  ∧ (∀ n : SReg, rdS s n = 0) ∧ (∀ n : GReg, rdG s n = decide (n = 0)) ∧ (∀ n : Tok, rdTok s n = .ok)
  ∧ s.xlat.xen = false ∧ s.fab.table = none ∧ s.finj.word0 = 0
  ∧ s.pool.index = 0xFFFF ∧ poolDone s = true ∧ s.pool.ok = false ∧ (∀ i, i < 256 → poolV (poolAt s i) = false)
  ∧ (∀ d, d < 9 → (ttOf s d).run = false) ∧ s.canon

/-- Every step keeps the whole state in canonical form: equal contents stay equal data.
Choices of the model that it rests on: log 4. -/
def Obligations.StepKeepsCanonical : Prop := ∀ s t : State, s.canon → step s = .next t → t.canon

/-- Every step keeps memory in canonical form, whatever the rest of the state.
Choices of the model that it rests on: log 4. -/
def Obligations.StepKeepsMemory : Prop := ∀ s t : State, s.memOk → step s = .next t → t.memOk

/-- R36. CYC is set in stage 5 and by a module reset only: any other step leaves it or adds one, and it adds one exactly when
nothing is left to do in the cycle.
Choices of the model that it rests on: log 2, 13. -/
def Obligations.CycNeverStepsBack : Prop :=
  ∀ s t : State, s.boot.stage ≠ 5 → (∀ x rest, s.inputs = (x, .moduleReset) :: rest → s.cyc < x) → step s = .next t →
    let idle := hostDue s = none ∧ writeDue s = none ∧ heldDue s = none ∧ dueEvent s = none ∧ turnOf s = none
      ∧ lastEvent s = none
    (t.cyc = s.cyc ∨ (t.cyc = s.cyc + 1 ∧ idle))
    ∧ ((∀ x i rest, s.inputs = (x, i) :: rest → s.cyc < x) → idle →
        t.cyc = if s.fab.lock = true ∨ s.fab.hold = true then s.cyc + 1 else s.cyc)
end

