-- ==== Sys2Proof/Laws/Landing.lean ====
section
/-! SUPPORT. What results in flight do when they land (R99–R101): one lemma for each shared operation that puts results in
flight, cited instead of unfolding `landAll`. -/

namespace Sys2Proof.Machine

/-- `s` with other results in flight. -/
def setPend (ps : List Pend) (s : State) : State := { s with core := { s.core with pend := ps } }

@[simp] theorem noFlight_setPend (ps : List Pend) (s : State) : noFlight (setPend ps s) = noFlight s := rfl
@[simp] theorem setPend_setPend (ps qs : List Pend) (s : State) : setPend ps (setPend qs s) = setPend ps s := rfl
@[simp] theorem setPend_self (s : State) : setPend s.core.pend s = s := rfl
@[simp] theorem setPend_pend (ps : List Pend) (s : State) : (setPend ps s).core.pend = ps := rfl

/-- A core with other results in flight. -/
def Core.setPend (ps : List Pend) (c : Core) : Core := { c with pend := ps }

theorem applySys_setPend (n : Nat) (v : Word64) (ps : List Pend) (c : Core) :
    applySys n v (c.setPend ps) = (applySys n v c).setPend ps := by
  simp only [applySys, apply_ite (Core.setPend ps)]
  rfl

theorem applyEffect_setPend (e : Effect) (ps : List Pend) (s : State) :
    applyEffect e (setPend ps s) = setPend ps (applyEffect e s) := by
  cases e
  case sys n v => exact congrArg (fun c => ({ s with core := c } : State)) (applySys_setPend n v ps s.core)
  all_goals rfl

theorem applyFlag_setPend (e : Effect) (ps : List Pend) (s : State) :
    applyFlag e (setPend ps s) = setPend ps (applyFlag e s) := by
  cases e <;> rfl

/-- The effects of some results, then their flags. -/
def landEffects (es : List Effect) (s : State) : State :=
  es.foldl (fun s e => applyFlag e s) (es.foldl (fun s e => applyEffect e s) s)

theorem foldl_applyEffect_setPend (es : List Effect) (ps : List Pend) (s : State) :
    es.foldl (fun s e => applyEffect e s) (setPend ps s) = setPend ps (es.foldl (fun s e => applyEffect e s) s) := by
  induction es generalizing s with
  | nil => rfl
  | cons e es ih => simp only [List.foldl_cons, applyEffect_setPend, ih]

theorem foldl_applyFlag_setPend (es : List Effect) (ps : List Pend) (s : State) :
    es.foldl (fun s e => applyFlag e s) (setPend ps s) = setPend ps (es.foldl (fun s e => applyFlag e s) s) := by
  induction es generalizing s with
  | nil => rfl
  | cons e es ih => simp only [List.foldl_cons, applyFlag_setPend, ih]

theorem landEffects_setPend (es : List Effect) (ps : List Pend) (s : State) :
    landEffects es (setPend ps s) = setPend ps (landEffects es s) := by
  simp only [landEffects, foldl_applyEffect_setPend, foldl_applyFlag_setPend]

/-- `s` with its issue count `n` higher. -/
def passCycles (n : Nat) (s : State) : State := { s with core := { s.core with icnt := s.core.icnt + n } }

/-- The results in flight that have landed `n` issue cycles later, in issue order. -/
def dueBy (n : Nat) (s : State) : List Effect :=
  (s.core.pend.filter fun p => decide (p.due ≤ s.core.icnt + n)).map Pend.eff

/-- Those still in flight then. -/
def openAt (n : Nat) (s : State) : List Pend := s.core.pend.filter fun p => !decide (p.due ≤ s.core.icnt + n)

/-- What `later` is: the effects due land, the others stay in flight. -/
theorem later_eq (n : Nat) (s : State) : later n s = setPend (openAt n s) (landEffects (dueBy n s) (passCycles n s)) := by
  rw [← landEffects_setPend]
  rfl

/-- Results put in flight together, landing in one cycle, add to what is in flight. -/
theorem putMany_pend (lat : Nat) (es : List Effect) (s : State) :
    putMany lat es s = setPend (s.core.pend ++ es.map fun e => ⟨s.core.icnt + lat, s.core.icnt + lat, e⟩) s := rfl

theorem put_eq_putMany (lat : Nat) (e : Effect) (s : State) : put lat e s = putMany lat [e] s := rfl

theorem dueBy_putMany_before {n lat : Nat} (h : n < lat) (es : List Effect) (s : State) :
    dueBy n (putMany lat es s) = dueBy n s := by
  show (((s.core.pend ++ _).filter fun p => decide (p.due ≤ s.core.icnt + n)).map Pend.eff) = _
  rw [List.filter_append, List.map_append]
  have h0 : (es.map fun e => (⟨s.core.icnt + lat, s.core.icnt + lat, e⟩ : Pend)).filter
      (fun p => decide (p.due ≤ s.core.icnt + n)) = [] := by
    simp [List.filter_eq_nil_iff, h]
  rw [h0]
  exact List.append_nil _

theorem dueBy_putMany_at (lat : Nat) (es : List Effect) (s : State) :
    dueBy lat (putMany lat es s) = dueBy lat s ++ es := by
  show (((s.core.pend ++ _).filter fun p => decide (p.due ≤ s.core.icnt + lat)).map Pend.eff) = _
  rw [List.filter_append, List.map_append]
  congr 1
  rw [List.filter_eq_self.2 (by simp)]
  simp [Function.comp_def]

theorem openAt_putMany (lat : Nat) (es : List Effect) (s : State) : openAt lat (putMany lat es s) = openAt lat s := by
  show ((s.core.pend ++ _).filter fun p => !decide (p.due ≤ s.core.icnt + lat)) = _
  rw [List.filter_append]
  have h0 : (es.map fun e => (⟨s.core.icnt + lat, s.core.icnt + lat, e⟩ : Pend)).filter
      (fun p => !decide (p.due ≤ s.core.icnt + lat)) = [] := by
    simp [List.filter_eq_nil_iff]
  rw [h0]
  exact List.append_nil _

theorem passCycles_setPend (n : Nat) (ps : List Pend) (s : State) :
    passCycles n (setPend ps s) = setPend ps (passCycles n s) := rfl

/-- Before it lands, a result changes nothing that has landed. -/
theorem putMany_before {n lat : Nat} (h : n < lat) (es : List Effect) (s : State) :
    noFlight (later n (putMany lat es s)) = noFlight (later n s) := by
  rw [later_eq, later_eq, noFlight_setPend, noFlight_setPend, dueBy_putMany_before h, putMany_pend,
    passCycles_setPend, landEffects_setPend, noFlight_setPend]

/-- In the cycle they land in, results put in flight follow what was in flight before. -/
theorem putMany_at (lat : Nat) (es : List Effect) (s : State) :
    later lat (putMany lat es s) = setPend (openAt lat s) (landEffects (dueBy lat s ++ es) (passCycles lat s)) := by
  rw [later_eq, dueBy_putMany_at, openAt_putMany, putMany_pend, passCycles_setPend, landEffects_setPend,
    setPend_setPend]

/-- An effect that touches neither SFLG nor the lane flags: it commutes with flags that land. -/
def FlagFree (e : Effect) : Prop := ∀ f s, applyEffect e (applyFlag f s) = applyFlag f (applyEffect e s)

theorem flagFree_foldl {es : List Effect} (h : ∀ e ∈ es, FlagFree e) (f : Effect) (s : State) :
    es.foldl (fun s e => applyEffect e s) (applyFlag f s) = applyFlag f (es.foldl (fun s e => applyEffect e s) s) := by
  induction es generalizing s with
  | nil => rfl
  | cons e es ih =>
    simp only [List.foldl_cons]
    rw [h e (by simp) f s, ih fun x hx => h x (by simp [hx])]

theorem flagFree_flags {es : List Effect} (h : ∀ e ∈ es, FlagFree e) (fs : List Effect) (s : State) :
    es.foldl (fun s e => applyEffect e s) (fs.foldl (fun s e => applyFlag e s) s)
      = fs.foldl (fun s e => applyFlag e s) (es.foldl (fun s e => applyEffect e s) s) := by
  induction fs generalizing s with
  | nil => rfl
  | cons f fs ih => simp only [List.foldl_cons]; rw [ih, flagFree_foldl h]

/-- Effects that commute with flags land after everything that was in flight. -/
theorem landEffects_append {es : List Effect} (h : ∀ e ∈ es, FlagFree e) (ds : List Effect) (s : State) :
    landEffects (ds ++ es) s = landEffects es (landEffects ds s) := by
  simp only [landEffects, List.foldl_append]
  rw [flagFree_flags h]

/-- Several results of one latency: they land together, in their order. -/
theorem putMany_lands {es : List Effect} (h : ∀ e ∈ es, FlagFree e) (lat : Nat) (s : State) :
    Lands lat (landEffects es) s (putMany lat es s) := by
  refine ⟨fun n hn => putMany_before hn es s, ?_⟩
  rw [putMany_at, later_eq, landEffects_append h, ← landEffects_setPend]

theorem flagFree_s (n : Nat) (v : Word64) : FlagFree (.s n v) := fun f s => by cases f <;> rfl
theorem flagFree_g (n : Nat) (v : Bool) : FlagFree (.g n v) := fun f s => by cases f <;> rfl
theorem flagFree_t (k : Nat) (v : Word32) : FlagFree (.t k v) := fun f s => by cases f <;> rfl
theorem flagFree_p (n l : Nat) (v : Bool) : FlagFree (.p n l v) := fun f s => by cases f <;> rfl
theorem flagFree_pAll (n : Nat) (v : BitVec 64) : FlagFree (.pAll n v) := fun f s => by cases f <;> rfl
theorem flagFree_q (n l : Nat) (v : Word32) (x : Byte) : FlagFree (.q n l v x) := fun f s => by cases f <;> rfl
theorem flagFree_mp (n : Nat) (v : Word64) : FlagFree (.mp n v) := fun f s => by cases f <;> rfl
theorem flagFree_cd (n : Nat) (v : Word64) : FlagFree (.cd n v) := fun f s => by cases f <;> rfl
theorem flagFree_sflg (x : Flags) : FlagFree (.sflg x) := fun f s => by cases f <;> rfl
theorem flagFree_lflg (l : Nat) (x : Flags) : FlagFree (.lflg l x) := fun f s => by cases f <;> rfl
theorem flagFree_nothing : FlagFree .nothing := fun f s => by cases f <;> rfl

theorem put_lands {e : Effect} (h : FlagFree e) (lat : Nat) (s : State) :
    Lands lat (landEffects [e]) s (put lat e s) := by
  rw [put_eq_putMany]
  exact putMany_lands (by simpa using h) lat s

theorem applySys_sflg {n : Nat} (hn : n ≠ 0x004) (v : Word64) (f : Flags) (c : Core) :
    applySys n v { c with sflg := f } = { applySys n v c with sflg := f } := by
  have : ∀ c : Core, ({ c with sflg := f } : Core) = (fun c : Core => { c with sflg := f }) c := fun _ => rfl
  simp only [applySys, if_neg hn]
  rw [this, this]
  simp only [apply_ite (fun c : Core => ({ c with sflg := f } : Core))]
  rfl

theorem applySys_keeps_sflg {n : Nat} (hn : n ≠ 0x004) (v : Word64) (c : Core) :
    (applySys n v c).sflg = c.sflg := by
  simp only [applySys, if_neg hn, apply_ite Core.sflg]
  simp [stages]

theorem applySys_lflag (n : Nat) (v : Word64) (m : SMap Flags) (c : Core) :
    applySys n v { c with lflag := m } = { applySys n v c with lflag := m } := by
  have : ∀ c : Core, ({ c with lflag := m } : Core) = (fun c : Core => { c with lflag := m }) c := fun _ => rfl
  simp only [applySys]
  rw [this, this]
  simp only [apply_ite (fun c : Core => ({ c with lflag := m } : Core))]
  rfl

theorem applySys_keeps_lflag (n : Nat) (v : Word64) (c : Core) : (applySys n v c).lflag = c.lflag := by
  simp only [applySys, apply_ite Core.lflag]
  simp [stages]

/-- A system register but SFLG takes its value whatever flags land. -/
theorem flagFree_sys {n : Nat} (hn : n ≠ 0x004) (v : Word64) : FlagFree (.sys n v) := fun f s => by
  cases f
  case sflg x =>
    show ({ s with core := applySys n v { s.core with sflg := s.core.sflg ||| x } } : State)
      = { s with core := { applySys n v s.core with sflg := (applySys n v s.core).sflg ||| x } }
    rw [applySys_sflg hn, applySys_keeps_sflg hn]
  case lflg l x =>
    show ({ s with core := applySys n v { s.core with lflag := mset 0 s.core.lflag l (mget 0 s.core.lflag l ||| x) } } : State)
      = { s with core := { applySys n v s.core with
            lflag := mset 0 (applySys n v s.core).lflag l (mget 0 (applySys n v s.core).lflag l ||| x) } }
    rw [applySys_lflag, applySys_keeps_lflag]
  all_goals rfl

/-- R290. A scalar result. -/
theorem putS_lands (lat : Nat) (d : SReg) (v : Word64) (s : State) :
    Lands lat (writeS d (physS s.core d) v) s (putS lat d v s) := by
  by_cases h : d = 0
  · exact ⟨fun n _ => by simp [putS, h], by simp [putS, writeS, h]⟩
  · have := putMany_lands (es := [.s (physS s.core d) v]) (by simpa using flagFree_s _ _) lat s
    have hw : landEffects [.s (physS s.core d) v] = writeS d (physS s.core d) v := by
      funext x; rw [writeS, if_neg h]; rfl
    rw [hw] at this
    rwa [putS, if_neg h, put_eq_putMany]

/-- R290. A uniform predicate. -/
theorem putG_lands (lat : Nat) (d : GReg) (v : Bool) (s : State) : Lands lat (writeG d v) s (putG lat d v s) := by
  by_cases h : d = 0
  · exact ⟨fun n _ => by simp [putG, h], by simp [putG, writeG, h]⟩
  · have := putMany_lands (es := [.g d.toNat v]) (by simpa using flagFree_g _ _) lat s
    have hw : landEffects [.g d.toNat v] = writeG d v := by
      funext x; rw [writeG, if_neg h]; rfl
    rw [hw] at this
    rwa [putG, if_neg h, put_eq_putMany]

end Sys2Proof.Machine
end

