-- ==== Sys2Proof/Laws/PerInstr.lean ====
section
/-! SUPPORT. Decoding gives back what encoding wrote: one lemma for each constructor, over the field extraction of each slot's
word form (R278, R282–R287). -/

namespace Sys2Proof.Laws.Encoding

open Sys2Proof

/-- A well-formed slot operation is what its word decodes to in its slot. -/
def Statement (i : Instr) : Prop := ∀ k, slotOf i = some k → i.wf = true → decodeSlot k (encode i) = some i

theorem fld_eq {n lo w : Nat} {x : BitVec n} (h : w / 2 ^ lo % 2 ^ n = x.toNat) : fld n lo w = x :=
  BitVec.eq_of_toNat_eq (by rw [fld, BitVec.toNat_ofNat, h])

theorem bit_eq {k w : Nat} {b : Bool} (h : w / 2 ^ k % 2 = b.toNat) : bit k w = b := by
  cases b <;> simp_all [bit]

theorem toNat_le_one (b : Bool) : b.toNat ≤ 1 := by cases b <;> decide

theorem of_raw {k : Nat} {i : Instr} (h0 : encode i ≠ 0) (hr : rawSlot k (encode i) = some i) (hw : i.wf = true) :
    decodeSlot k (encode i) = some i := by
  rw [decodeSlot, if_neg h0, hr, checked, if_pos ⟨rfl, hw⟩]

theorem guard_eq {g : Guard} {n p w : Nat} (h1 : w / 2 ^ n % 2 = g.neg.toNat) (h2 : w / 2 ^ p % 2 ^ 4 = g.g.toNat) :
    (⟨bit n w, fld 4 p w⟩ : Guard) = g := by
  rw [bit_eq h1, fld_eq h2]

/-- R282. The common fields of an S word. -/

theorem rawS_encS {op d a b rest : Nat} (g : Guard) (hd : d < 64) (ha : a < 64) (hb : b < 64)
    (hr : rest < 2 ^ 17) :
    rawS (encS op g d a b rest)
      = rawSOp op g (BitVec.ofNat 6 d) (BitVec.ofNat 6 a) (BitVec.ofNat 6 b) (BitVec.ofNat 4 d) (encS op g d a b rest) := by
  have h1 := toNat_le_one g.neg
  have h2 := g.g.isLt
  have e1 : encS op g d a b rest / 2 ^ 40 = op := by unfold encS; omega
  have e2 : (⟨bit 39 (encS op g d a b rest), fld 4 35 (encS op g d a b rest)⟩ : Guard) = g :=
    guard_eq (by unfold encS; omega) (by unfold encS; omega)
  have e3 : fld 6 29 (encS op g d a b rest) = BitVec.ofNat 6 d :=
    fld_eq (by rw [BitVec.toNat_ofNat]; unfold encS; omega)
  have e4 : fld 6 23 (encS op g d a b rest) = BitVec.ofNat 6 a :=
    fld_eq (by rw [BitVec.toNat_ofNat]; unfold encS; omega)
  have e5 : fld 6 17 (encS op g d a b rest) = BitVec.ofNat 6 b :=
    fld_eq (by rw [BitVec.toNat_ofNat]; unfold encS; omega)
  have e6 : fld 4 29 (encS op g d a b rest) = BitVec.ofNat 4 d :=
    fld_eq (by rw [BitVec.toNat_ofNat]; unfold encS; omega)
  rw [rawS, e1, e2, e3, e4, e5, e6]

theorem encS_mod (op : Nat) (g : Guard) (d a b : Nat) {rest : Nat} (hr : rest < 2 ^ 17) :
    encS op g d a b rest % 2 ^ 17 = rest := by
  unfold encS; omega

theorem encS_ne {op : Nat} (ho : 0 < op) (g : Guard) (d a b rest : Nat) : encS op g d a b rest ≠ 0 := by
  unfold encS; omega

/-- A field below bit 17 of an S word. -/

theorem fld_encS {n lo op d a b rest : Nat} {g : Guard} {x : BitVec n} (hr : rest < 2 ^ 17) (hl : lo + n ≤ 17)
    (h : rest / 2 ^ lo % 2 ^ n = x.toNat) : fld n lo (encS op g d a b rest) = x := by
  refine fld_eq ?_
  rw [← h]
  have : encS op g d a b rest / 2 ^ lo % 2 ^ n = encS op g d a b rest % 2 ^ 17 / 2 ^ lo % 2 ^ n := by
    rw [show (2 : Nat) ^ 17 = 2 ^ lo * 2 ^ (17 - lo) by rw [← Nat.pow_add]; congr 1; omega, Nat.mod_mul_right_div_self,
      Nat.mod_mod_of_dvd _ (Nat.pow_dvd_pow 2 (by omega))]
  rw [this, encS_mod op g d a b hr]

/-- R283. The fields of a V word. -/

theorem vop_encV {op : Nat} (v : VOp) : vop v.slot1 (encV op v) = v := by
  have h1 := toNat_le_one v.nf
  have h2 := toNat_le_one v.neg
  have h3 := v.p.isLt
  have h4 := v.d.isLt
  have h5 := v.a.isLt
  have h6 := v.b.isLt
  have h7 := v.sub.isLt
  have h8 := v.fmt.isLt
  have e1 : bit 53 (encV op v) = v.nf := bit_eq (by unfold encV; omega)
  have e2 : bit 52 (encV op v) = v.neg := bit_eq (by unfold encV; omega)
  have e3 : fld 4 48 (encV op v) = v.p := fld_eq (by unfold encV; omega)
  have e4 : fld 13 35 (encV op v) = v.d := fld_eq (by unfold encV; omega)
  have e5 : fld 13 22 (encV op v) = v.a := fld_eq (by unfold encV; omega)
  have e6 : fld 13 9 (encV op v) = v.b := fld_eq (by unfold encV; omega)
  have e7 : fld 4 5 (encV op v) = v.sub := fld_eq (by unfold encV; omega)
  have e8 : fld 5 0 (encV op v) = v.fmt := fld_eq (by unfold encV; omega)
  rw [vop, e1, e2, e3, e4, e5, e6, e7, e8]

theorem encV_op {op : Nat} (v : VOp) : encV op v / 2 ^ 54 = op := by
  have h1 := toNat_le_one v.nf
  have h2 := toNat_le_one v.neg
  have h3 := v.p.isLt
  have h4 := v.d.isLt
  have h5 := v.a.isLt
  have h6 := v.b.isLt
  have h7 := v.sub.isLt
  have h8 := v.fmt.isLt
  unfold encV; omega

/-- R283. A V-slot operation. -/

theorem of_v {i : Instr} {v : VOp} {op : Nat} (he : encode i = encV op v) (ho : 0 < op)
    
    (hi : rawV v.slot1 (encV op v) = some i) (hs : slotOf i = some (2 + v.slot1.toNat)) : Statement i := by
  intro k h hw
  have hk : k = 2 + v.slot1.toNat := by rw [hs] at h; exact (Option.some.inj h).symm
  refine of_raw (by rw [he]; have := encV_op (op := op) v; intro h0; rw [h0] at this; omega) ?_ hw
  rw [hk, he]
  cases hsl : v.slot1 <;> (rw [hsl] at hi; simpa [rawSlot] using hi)

/-- R284. The fields of an MCALL word. -/

theorem mop_encM {r : Nat} (hr : r < 256) (m : MOp) :
    mop (encM r m) = m ∧ encM r m / 2 ^ 42 = 1 ∧ encM r m / 2 ^ 34 % 256 = r ∧ bit 5 (encM r m) = m.spec.getLsbD 0 := by
  have h1 := m.produce.isLt
  have h2 := m.c1.isLt
  have h3 := m.c2.isLt
  have h4 := m.c3.isLt
  have h5 := m.spec.isLt
  have h6 := toNat_le_one m.comp
  have h7 := m.elastic.isLt
  have e1 : fld 6 28 (encM r m) = m.produce := fld_eq (by unfold encM; omega)
  have e2 : fld 6 22 (encM r m) = m.c1 := fld_eq (by unfold encM; omega)
  have e3 : fld 6 16 (encM r m) = m.c2 := fld_eq (by unfold encM; omega)
  have e4 : fld 6 10 (encM r m) = m.c3 := fld_eq (by unfold encM; omega)
  have e5 : fld 5 5 (encM r m) = m.spec := fld_eq (by unfold encM; omega)
  have e6 : bit 4 (encM r m) = m.comp := bit_eq (by unfold encM; omega)
  have e7 : fld 4 0 (encM r m) = m.elastic := fld_eq (by unfold encM; omega)
  refine ⟨by rw [mop, e1, e2, e3, e4, e5, e6, e7], by unfold encM; omega, by unfold encM; omega, ?_⟩
  refine bit_eq ?_
  have : (m.spec.getLsbD 0).toNat = m.spec.toNat % 2 := by
    rw [BitVec.getLsbD, Nat.testBit_zero]
    rcases Nat.mod_two_eq_zero_or_one m.spec.toNat with h | h <;> simp [h]
  rw [this]; unfold encM; omega

/-- R287. The common fields of a B word. -/

theorem rawB_encB {op x imm : Nat} (g : Guard) (hx : x < 2 ^ 15) (hi : imm < 2 ^ 14) :
    rawB (encB op g x imm) = rawBOp op g (encB op g x imm) := by
  have h1 := toNat_le_one g.neg
  have h2 := g.g.isLt
  have e1 : encB op g x imm / 2 ^ 34 = op := by unfold encB; omega
  have e2 : (⟨bit 33 (encB op g x imm), fld 4 29 (encB op g x imm)⟩ : Guard) = g :=
    guard_eq (by unfold encB; omega) (by unfold encB; omega)
  rw [rawB, e1, e2]

theorem encB_ne {op : Nat} (ho : 0 < op) (g : Guard) (x imm : Nat) : encB op g x imm ≠ 0 := by
  unfold encB; omega

theorem rawSlot_one (w : Nat) : rawSlot 1 w = rawS w := rfl

theorem rawSlot_four (w : Nat) : rawSlot 4 w = rawM w := rfl

theorem rawSOp_lui (g : Guard) (d a b : SReg) (dg : GReg) (w : Nat) :
    rawSOp 0x27 g d a b dg w = some (.lui g d (fld 29 0 w)) := rfl

theorem rawM_call {w : Nat} (h : w / 2 ^ 42 = 1) : rawM w = rawCall w := by
  unfold rawM
  rw [h]
  rfl

theorem ofNat_self {n : Nat} (x : BitVec n) : BitVec.ofNat n x.toNat = x := by simp

/-- R282. An S-slot operation. -/

theorem of_s {i : Instr} {g : Guard} {op d a b rest : Nat} (he : encode i = encS op g d a b rest) (ho : 0 < op)
    (hs : slotOf i = some 1) (hd : d < 64) (ha : a < 64) (hb : b < 64) (hr : rest < 2 ^ 17)
    (hi : i.wf = true → rawSOp op g (BitVec.ofNat 6 d) (BitVec.ofNat 6 a) (BitVec.ofNat 6 b) (BitVec.ofNat 4 d)
      (encS op g d a b rest) = some i) : Statement i := by
  intro k h hw
  rw [hs] at h
  obtain rfl := Option.some.inj h
  refine of_raw (by rw [he]; exact encS_ne ho _ _ _ _ _) ?_ hw
  have h1 : rawSlot 1 (encode i) = rawS (encode i) := rfl
  rw [h1, he, rawS_encS g hd ha hb hr, hi hw]

/-- R284. An MCALL. -/

theorem of_call {i : Instr} {m : MOp} {r : Nat} (he : encode i = encM r m) (hs : slotOf i = some 4) (hr : r < 256)
    (hi : i.wf = true → rawCall (encM r m) = some i) : Statement i := by
  intro k h hw
  rw [hs] at h
  obtain rfl := Option.some.inj h
  obtain ⟨-, h2, -, -⟩ := mop_encM hr m
  refine of_raw (by rw [he]; intro h0; rw [h0] at h2; omega) ?_ hw
  rw [rawSlot_four, he, rawM_call h2]
  exact hi hw

/-- R287. A B-slot operation. -/

theorem of_b {i : Instr} {g : Guard} {op x imm : Nat} (he : encode i = encB op g x imm) (ho : 0 < op)
    (hs : slotOf i = some 0) (hx : x < 2 ^ 15) (hm : imm < 2 ^ 14)
    (hi : rawBOp op g (encB op g x imm) = some i) : Statement i := by
  intro k h hw
  rw [hs] at h
  obtain rfl := Option.some.inj h
  refine of_raw (by rw [he]; exact encB_ne ho _ _ _) ?_ hw
  have h1 : rawSlot 0 (encode i) = rawB (encode i) := rfl
  rw [h1, he, rawB_encB g hx hm, hi]

/-- An operation of another slot. -/

theorem of_slot {i : Instr} {n w : Nat} (he : encode i = w) (hs : slotOf i = some n) (h0 : w ≠ 0)
    (hi : rawSlot n w = some i) : Statement i := by
  intro k h hw
  rw [hs] at h
  obtain rfl := Option.some.inj h
  exact of_raw (by rw [he]; exact h0) (by rw [he]; exact hi) hw

/-- R285. A C-slot operation. -/

theorem of_c {i : Instr} {c1 : Bool} {w : Nat} (he : encode i = w) (hs : slotOf i = some (5 + c1.toNat)) (h0 : w ≠ 0)
    (hi : rawC c1 w = some i) : Statement i := by
  refine of_slot he hs h0 ?_
  cases c1 <;> exact hi

/-- R310. The MTS forms with a side effect of their own have words of their own. -/

theorem rawMts_plain {g : Guard} {a : SReg} {sr : BitVec 12} (h : (Instr.mts g a sr).wf = true) :
    rawMts g a sr = .mts g a sr := by
  simp only [Instr.wf, sysPlain, Bool.or_eq_true, Bool.and_eq_true, beq_iff_eq, decide_eq_true_eq] at h
  unfold rawMts
  simp only
  repeat rw [if_neg (by omega)]

theorem rawMts_hot (g : Guard) (a : SReg) (n : BitVec 3) :
    rawMts g a (BitVec.ofNat 12 (0x050 + n.toNat)) = .mtsHot g a n := by
  have h := n.isLt
  have e : (BitVec.ofNat 12 (0x050 + n.toNat)).toNat = 0x050 + n.toNat := by rw [BitVec.toNat_ofNat]; omega
  unfold rawMts
  simp only [e]
  repeat rw [if_neg (by omega)]
  rw [if_pos (by omega)]
  congr 1
  exact BitVec.eq_of_toNat_eq (by rw [BitVec.toNat_ofNat]; omega)

/-- R366. A user routine's call or load. -/

theorem rawCall_user {r w : Nat} (h : w / 2 ^ 34 % 256 = r) (hr : 64 ≤ r) :
    rawCall w = if bit 5 w then some (.userRoutineLoad (BitVec.ofNat 8 r) (mop w))
      else some (.userRoutineCall (BitVec.ofNat 8 r) (mop w)) := by
  unfold rawCall
  rw [h]
  split
  any_goals omega
  rw [if_neg (by omega)]

theorem ronilorStart (x0 : Image) (x1 : Image) (x2 : List Byte) : Statement (.ronilorStart x0 x1 x2) := fun _ h _ => nomatch h

theorem linkTraining (x0 : Bool) (x1 : Bool) (x2 : Bool) (x3 : List UnitRetry) : Statement (.linkTraining x0 x1 x2 x3) := fun _ h _ => nomatch h

theorem hbmTraining (x0 : List UnitRetry) : Statement (.hbmTraining x0) := fun _ h _ => nomatch h

theorem firmwareLoad (x0 : Firmware) (x1 : List Byte) : Statement (.firmwareLoad x0 x1) := fun _ h _ => nomatch h

theorem ptpLock (x0 : Bool) (x1 : Option (Nat × Word64)) (x2 : List UnitRetry) (x3 : List Nat) : Statement (.ptpLock x0 x1 x2 x3) := fun _ h _ => nomatch h

theorem attestationRequest (x0 : BitVec 256) : Statement (.attestationRequest x0) := fun _ h _ => nomatch h

theorem setModuleId (x0 : BitVec 12) (x1 : BitVec 4) (x2 : PtpSettings) (x3 : Option Word64) : Statement (.setModuleId x0 x1 x2 x3) := fun _ h _ => nomatch h

theorem bootstatFailsWrite (x0 : Word32) : Statement (.bootstatFailsWrite x0) := fun _ h _ => nomatch h

theorem thermalWarning (x0 : Nat) : Statement (.thermalWarning x0) := fun _ h _ => nomatch h

theorem lossOfLock (x0 : Bool) : Statement (.lossOfLock x0) := fun _ h _ => nomatch h

theorem leaveHoldover (x0 : Nat) : Statement (.leaveHoldover x0) := fun _ h _ => nomatch h

theorem slotHeaderReceive (x0 : Nat) (x1 : Nat) (x2 : Int) (x3 : PtpReading) (x4 : List FlitStatus) (x5 : List (Nat × Nat × FlitStatus)) : Statement (.slotHeaderReceive x0 x1 x2 x3 x4 x5) := fun _ h _ => nomatch h

theorem flitReceive (x0 : Flit) : Statement (.flitReceive x0) := fun _ h _ => nomatch h

theorem remoteRequest (x0 : Flit) (x1 : Nat) (x2 : Nat) (x3 : RemoteOp) : Statement (.remoteRequest x0 x1 x2 x3) := fun _ h _ => nomatch h

theorem remoteResponse (x0 : Flit) (x1 : Nat) (x2 : Option (List Byte)) : Statement (.remoteResponse x0 x1 x2) := fun _ h _ => nomatch h

theorem ltarm (x0 : Word64) : Statement (.ltarm x0) := fun _ h _ => nomatch h

theorem ltstop (x0 : Word64) : Statement (.ltstop x0) := fun _ h _ => nomatch h

theorem groupActivate (x0 : BitVec 10) (x1 : Byte) : Statement (.groupActivate x0 x1) := fun _ h _ => nomatch h

theorem finjWrite (x0 : Bool) (x1 : Word64) : Statement (.finjWrite x0 x1) := fun _ h _ => nomatch h

theorem ttArm (x0 : Nat) (x1 : Word64) : Statement (.ttArm x0 x1) := fun _ h _ => nomatch h

theorem ttStop (x0 : Nat) (x1 : Word64) : Statement (.ttStop x0 x1) := fun _ h _ => nomatch h

theorem ttEntryRead (x0 : Nat) : Statement (.ttEntryRead x0) := fun _ h _ => nomatch h

theorem codePreload (x0 : Nat) : Statement (.codePreload x0) := fun _ h _ => nomatch h

theorem scratchpadLoad (x0 : Nat) : Statement (.scratchpadLoad x0) := fun _ h _ => nomatch h

theorem taskStart (x0 : Nat) : Statement (.taskStart x0) := fun _ h _ => nomatch h

theorem loadFailure (x0 : Nat) : Statement (.loadFailure x0) := fun _ h _ => nomatch h

theorem latePolicy (x0 : Nat) : Statement (.latePolicy x0) := fun _ h _ => nomatch h

theorem poolPreempt (x0 : Nat) : Statement (.poolPreempt x0) := fun _ h _ => nomatch h

theorem taskResume (x0 : Nat) : Statement (.taskResume x0) := fun _ h _ => nomatch h

theorem taskRerun (x0 : Nat) : Statement (.taskRerun x0) := fun _ h _ => nomatch h

theorem overrun (x0 : Nat) : Statement (.overrun x0) := fun _ h _ => nomatch h

theorem taskRetire (x0 : Nat) : Statement (.taskRetire x0) := fun _ h _ => nomatch h

theorem faultLogConfig (x0 : Bool) (x1 : Word64) : Statement (.faultLogConfig x0 x1) := fun _ h _ => nomatch h

theorem poolPost (x0 : Word64) : Statement (.poolPost x0) := fun _ h _ => nomatch h

theorem poolCancel (x0 : Word64) : Statement (.poolCancel x0) := fun _ h _ => nomatch h

theorem backgroundPost (x0 : Nat) : Statement (.backgroundPost x0) := fun _ h _ => nomatch h

theorem registerWrite (x0 : Nat) (x1 : Word64) : Statement (.registerWrite x0 x1) := fun _ h _ => nomatch h

theorem xinv (x0 : Word64) : Statement (.xinv x0) := fun _ h _ => nomatch h

theorem translationMiss (x0 : Nat) : Statement (.translationMiss x0) := fun _ h _ => nomatch h

theorem walkComplete (x0 : Nat) : Statement (.walkComplete x0) := fun _ h _ => nomatch h

theorem slcfgWrite (x0 : Nat) (x1 : Word64) : Statement (.slcfgWrite x0 x1) := fun _ h _ => nomatch h

theorem wmodeChangeComplete (x0 : Nat) : Statement (.wmodeChangeComplete x0) := fun _ h _ => nomatch h

theorem l2Eviction (x0 : Nat) : Statement (.l2Eviction x0) := fun _ h _ => nomatch h

theorem regionFlush (x0 : RegionWrite) : Statement (.regionFlush x0) := fun _ h _ => nomatch h

theorem regionFlushComplete (x0 : Nat) : Statement (.regionFlushComplete x0) := fun _ h _ => nomatch h

theorem codedAccess (x0 : Nat) (x1 : Nat) (x2 : Option (List Byte)) : Statement (.codedAccess x0 x1 x2) := fun _ h _ => nomatch h

theorem codedWriteback (x0 : Nat) (x1 : Bool) : Statement (.codedWriteback x0 x1) := fun _ h _ => nomatch h

theorem memerr (x0 : Nat) : Statement (.memerr x0) := fun _ h _ => nomatch h

theorem resultLand (x0 : Nat) : Statement (.resultLand x0) := fun _ h _ => nomatch h

theorem waitRelease (x0 : Nat) : Statement (.waitRelease x0) := fun _ h _ => nomatch h

theorem trapEntry (x0 : Nat) : Statement (.trapEntry x0) := fun _ h _ => nomatch h

theorem timingReport (x0 : Nat) : Statement (.timingReport x0) := fun _ h _ => nomatch h

theorem drainDiversion (x0 : Nat) : Statement (.drainDiversion x0) := fun _ h _ => nomatch h

theorem drainDeferralKill (x0 : Nat) : Statement (.drainDeferralKill x0) := fun _ h _ => nomatch h

theorem stubTimeoutKill (x0 : Nat) : Statement (.stubTimeoutKill x0) := fun _ h _ => nomatch h

theorem copyStart (x0 : Nat) : Statement (.copyStart x0) := fun _ h _ => nomatch h

theorem copyComplete (x0 : Nat) : Statement (.copyComplete x0) := fun _ h _ => nomatch h

theorem cflushComplete (x0 : Nat) : Statement (.cflushComplete x0) := fun _ h _ => nomatch h

theorem routineStart (x0 : Nat) : Statement (.routineStart x0) := fun _ h _ => nomatch h

theorem routineComplete (x0 : Nat) : Statement (.routineComplete x0) := fun _ h _ => nomatch h

theorem rescaleComplete (x0 : Nat) : Statement (.rescaleComplete x0) := fun _ h _ => nomatch h

theorem collectiveStart (x0 : Nat) : Statement (.collectiveStart x0) := fun _ h _ => nomatch h

theorem collectiveComplete (x0 : Nat) (x1 : Bool) (x2 : List (List Byte)) : Statement (.collectiveComplete x0 x1 x2) := fun _ h _ => nomatch h

theorem pause (x0 : BitVec 12) : Statement (.pause x0) := fun _ h _ => nomatch h

theorem add (x0 : Guard) (x1 : SReg) (x2 : SReg) (x3 : SReg) : Statement (.add x0 x1 x2 x3) := by
  have b0 := x1.isLt
  have b1 := x2.isLt
  have b2 := x3.isLt
  have c1 := toNat_le_one x0.neg
  have c2 := x0.g.isLt
  refine of_s (i := .add x0 x1 x2 x3) rfl (by decide) rfl (by omega) (by omega) (by omega) (by omega) fun hw => ?_
  simp only [ofNat_self]
  rfl

theorem sub (x0 : Guard) (x1 : SReg) (x2 : SReg) (x3 : SReg) : Statement (.sub x0 x1 x2 x3) := by
  have b0 := x1.isLt
  have b1 := x2.isLt
  have b2 := x3.isLt
  have c1 := toNat_le_one x0.neg
  have c2 := x0.g.isLt
  refine of_s (i := .sub x0 x1 x2 x3) rfl (by decide) rfl (by omega) (by omega) (by omega) (by omega) fun hw => ?_
  simp only [ofNat_self]
  rfl

theorem mul (x0 : Guard) (x1 : SReg) (x2 : SReg) (x3 : SReg) : Statement (.mul x0 x1 x2 x3) := by
  have b0 := x1.isLt
  have b1 := x2.isLt
  have b2 := x3.isLt
  have c1 := toNat_le_one x0.neg
  have c2 := x0.g.isLt
  refine of_s (i := .mul x0 x1 x2 x3) rfl (by decide) rfl (by omega) (by omega) (by omega) (by omega) fun hw => ?_
  simp only [ofNat_self]
  rfl

theorem mulh (x0 : Guard) (x1 : SReg) (x2 : SReg) (x3 : SReg) : Statement (.mulh x0 x1 x2 x3) := by
  have b0 := x1.isLt
  have b1 := x2.isLt
  have b2 := x3.isLt
  have c1 := toNat_le_one x0.neg
  have c2 := x0.g.isLt
  refine of_s (i := .mulh x0 x1 x2 x3) rfl (by decide) rfl (by omega) (by omega) (by omega) (by omega) fun hw => ?_
  simp only [ofNat_self]
  rfl

theorem mulhu (x0 : Guard) (x1 : SReg) (x2 : SReg) (x3 : SReg) : Statement (.mulhu x0 x1 x2 x3) := by
  have b0 := x1.isLt
  have b1 := x2.isLt
  have b2 := x3.isLt
  have c1 := toNat_le_one x0.neg
  have c2 := x0.g.isLt
  refine of_s (i := .mulhu x0 x1 x2 x3) rfl (by decide) rfl (by omega) (by omega) (by omega) (by omega) fun hw => ?_
  simp only [ofNat_self]
  rfl

theorem div (x0 : Guard) (x1 : SReg) (x2 : SReg) (x3 : SReg) : Statement (.div x0 x1 x2 x3) := by
  have b0 := x1.isLt
  have b1 := x2.isLt
  have b2 := x3.isLt
  have c1 := toNat_le_one x0.neg
  have c2 := x0.g.isLt
  refine of_s (i := .div x0 x1 x2 x3) rfl (by decide) rfl (by omega) (by omega) (by omega) (by omega) fun hw => ?_
  simp only [ofNat_self]
  rfl

theorem divu (x0 : Guard) (x1 : SReg) (x2 : SReg) (x3 : SReg) : Statement (.divu x0 x1 x2 x3) := by
  have b0 := x1.isLt
  have b1 := x2.isLt
  have b2 := x3.isLt
  have c1 := toNat_le_one x0.neg
  have c2 := x0.g.isLt
  refine of_s (i := .divu x0 x1 x2 x3) rfl (by decide) rfl (by omega) (by omega) (by omega) (by omega) fun hw => ?_
  simp only [ofNat_self]
  rfl

theorem rem (x0 : Guard) (x1 : SReg) (x2 : SReg) (x3 : SReg) : Statement (.rem x0 x1 x2 x3) := by
  have b0 := x1.isLt
  have b1 := x2.isLt
  have b2 := x3.isLt
  have c1 := toNat_le_one x0.neg
  have c2 := x0.g.isLt
  refine of_s (i := .rem x0 x1 x2 x3) rfl (by decide) rfl (by omega) (by omega) (by omega) (by omega) fun hw => ?_
  simp only [ofNat_self]
  rfl

theorem remu (x0 : Guard) (x1 : SReg) (x2 : SReg) (x3 : SReg) : Statement (.remu x0 x1 x2 x3) := by
  have b0 := x1.isLt
  have b1 := x2.isLt
  have b2 := x3.isLt
  have c1 := toNat_le_one x0.neg
  have c2 := x0.g.isLt
  refine of_s (i := .remu x0 x1 x2 x3) rfl (by decide) rfl (by omega) (by omega) (by omega) (by omega) fun hw => ?_
  simp only [ofNat_self]
  rfl

theorem and (x0 : Guard) (x1 : SReg) (x2 : SReg) (x3 : SReg) : Statement (.and x0 x1 x2 x3) := by
  have b0 := x1.isLt
  have b1 := x2.isLt
  have b2 := x3.isLt
  have c1 := toNat_le_one x0.neg
  have c2 := x0.g.isLt
  refine of_s (i := .and x0 x1 x2 x3) rfl (by decide) rfl (by omega) (by omega) (by omega) (by omega) fun hw => ?_
  simp only [ofNat_self]
  rfl

theorem or (x0 : Guard) (x1 : SReg) (x2 : SReg) (x3 : SReg) : Statement (.or x0 x1 x2 x3) := by
  have b0 := x1.isLt
  have b1 := x2.isLt
  have b2 := x3.isLt
  have c1 := toNat_le_one x0.neg
  have c2 := x0.g.isLt
  refine of_s (i := .or x0 x1 x2 x3) rfl (by decide) rfl (by omega) (by omega) (by omega) (by omega) fun hw => ?_
  simp only [ofNat_self]
  rfl

theorem xor (x0 : Guard) (x1 : SReg) (x2 : SReg) (x3 : SReg) : Statement (.xor x0 x1 x2 x3) := by
  have b0 := x1.isLt
  have b1 := x2.isLt
  have b2 := x3.isLt
  have c1 := toNat_le_one x0.neg
  have c2 := x0.g.isLt
  refine of_s (i := .xor x0 x1 x2 x3) rfl (by decide) rfl (by omega) (by omega) (by omega) (by omega) fun hw => ?_
  simp only [ofNat_self]
  rfl

theorem andn (x0 : Guard) (x1 : SReg) (x2 : SReg) (x3 : SReg) : Statement (.andn x0 x1 x2 x3) := by
  have b0 := x1.isLt
  have b1 := x2.isLt
  have b2 := x3.isLt
  have c1 := toNat_le_one x0.neg
  have c2 := x0.g.isLt
  refine of_s (i := .andn x0 x1 x2 x3) rfl (by decide) rfl (by omega) (by omega) (by omega) (by omega) fun hw => ?_
  simp only [ofNat_self]
  rfl

theorem shl (x0 : Guard) (x1 : SReg) (x2 : SReg) (x3 : SReg) : Statement (.shl x0 x1 x2 x3) := by
  have b0 := x1.isLt
  have b1 := x2.isLt
  have b2 := x3.isLt
  have c1 := toNat_le_one x0.neg
  have c2 := x0.g.isLt
  refine of_s (i := .shl x0 x1 x2 x3) rfl (by decide) rfl (by omega) (by omega) (by omega) (by omega) fun hw => ?_
  simp only [ofNat_self]
  rfl

theorem shr (x0 : Guard) (x1 : SReg) (x2 : SReg) (x3 : SReg) : Statement (.shr x0 x1 x2 x3) := by
  have b0 := x1.isLt
  have b1 := x2.isLt
  have b2 := x3.isLt
  have c1 := toNat_le_one x0.neg
  have c2 := x0.g.isLt
  refine of_s (i := .shr x0 x1 x2 x3) rfl (by decide) rfl (by omega) (by omega) (by omega) (by omega) fun hw => ?_
  simp only [ofNat_self]
  rfl

theorem sar (x0 : Guard) (x1 : SReg) (x2 : SReg) (x3 : SReg) : Statement (.sar x0 x1 x2 x3) := by
  have b0 := x1.isLt
  have b1 := x2.isLt
  have b2 := x3.isLt
  have c1 := toNat_le_one x0.neg
  have c2 := x0.g.isLt
  refine of_s (i := .sar x0 x1 x2 x3) rfl (by decide) rfl (by omega) (by omega) (by omega) (by omega) fun hw => ?_
  simp only [ofNat_self]
  rfl

theorem rol (x0 : Guard) (x1 : SReg) (x2 : SReg) (x3 : SReg) : Statement (.rol x0 x1 x2 x3) := by
  have b0 := x1.isLt
  have b1 := x2.isLt
  have b2 := x3.isLt
  have c1 := toNat_le_one x0.neg
  have c2 := x0.g.isLt
  refine of_s (i := .rol x0 x1 x2 x3) rfl (by decide) rfl (by omega) (by omega) (by omega) (by omega) fun hw => ?_
  simp only [ofNat_self]
  rfl

theorem min (x0 : Guard) (x1 : SReg) (x2 : SReg) (x3 : SReg) : Statement (.min x0 x1 x2 x3) := by
  have b0 := x1.isLt
  have b1 := x2.isLt
  have b2 := x3.isLt
  have c1 := toNat_le_one x0.neg
  have c2 := x0.g.isLt
  refine of_s (i := .min x0 x1 x2 x3) rfl (by decide) rfl (by omega) (by omega) (by omega) (by omega) fun hw => ?_
  simp only [ofNat_self]
  rfl

theorem max (x0 : Guard) (x1 : SReg) (x2 : SReg) (x3 : SReg) : Statement (.max x0 x1 x2 x3) := by
  have b0 := x1.isLt
  have b1 := x2.isLt
  have b2 := x3.isLt
  have c1 := toNat_le_one x0.neg
  have c2 := x0.g.isLt
  refine of_s (i := .max x0 x1 x2 x3) rfl (by decide) rfl (by omega) (by omega) (by omega) (by omega) fun hw => ?_
  simp only [ofNat_self]
  rfl

theorem minu (x0 : Guard) (x1 : SReg) (x2 : SReg) (x3 : SReg) : Statement (.minu x0 x1 x2 x3) := by
  have b0 := x1.isLt
  have b1 := x2.isLt
  have b2 := x3.isLt
  have c1 := toNat_le_one x0.neg
  have c2 := x0.g.isLt
  refine of_s (i := .minu x0 x1 x2 x3) rfl (by decide) rfl (by omega) (by omega) (by omega) (by omega) fun hw => ?_
  simp only [ofNat_self]
  rfl

theorem maxu (x0 : Guard) (x1 : SReg) (x2 : SReg) (x3 : SReg) : Statement (.maxu x0 x1 x2 x3) := by
  have b0 := x1.isLt
  have b1 := x2.isLt
  have b2 := x3.isLt
  have c1 := toNat_le_one x0.neg
  have c2 := x0.g.isLt
  refine of_s (i := .maxu x0 x1 x2 x3) rfl (by decide) rfl (by omega) (by omega) (by omega) (by omega) fun hw => ?_
  simp only [ofNat_self]
  rfl

theorem clz (x0 : Guard) (x1 : SReg) (x2 : SReg) : Statement (.clz x0 x1 x2) := by
  have b0 := x1.isLt
  have b1 := x2.isLt
  have c1 := toNat_le_one x0.neg
  have c2 := x0.g.isLt
  refine of_s (i := .clz x0 x1 x2) rfl (by decide) rfl (by omega) (by omega) (by omega) (by omega) fun hw => ?_
  simp only [ofNat_self]
  rfl

theorem popc (x0 : Guard) (x1 : SReg) (x2 : SReg) : Statement (.popc x0 x1 x2) := by
  have b0 := x1.isLt
  have b1 := x2.isLt
  have c1 := toNat_le_one x0.neg
  have c2 := x0.g.isLt
  refine of_s (i := .popc x0 x1 x2) rfl (by decide) rfl (by omega) (by omega) (by omega) (by omega) fun hw => ?_
  simp only [ofNat_self]
  rfl

theorem pdep (x0 : Guard) (x1 : SReg) (x2 : SReg) (x3 : SReg) : Statement (.pdep x0 x1 x2 x3) := by
  have b0 := x1.isLt
  have b1 := x2.isLt
  have b2 := x3.isLt
  have c1 := toNat_le_one x0.neg
  have c2 := x0.g.isLt
  refine of_s (i := .pdep x0 x1 x2 x3) rfl (by decide) rfl (by omega) (by omega) (by omega) (by omega) fun hw => ?_
  simp only [ofNat_self]
  rfl

theorem pext (x0 : Guard) (x1 : SReg) (x2 : SReg) (x3 : SReg) : Statement (.pext x0 x1 x2 x3) := by
  have b0 := x1.isLt
  have b1 := x2.isLt
  have b2 := x3.isLt
  have c1 := toNat_le_one x0.neg
  have c2 := x0.g.isLt
  refine of_s (i := .pext x0 x1 x2 x3) rfl (by decide) rfl (by omega) (by omega) (by omega) (by omega) fun hw => ?_
  simp only [ofNat_self]
  rfl

theorem addi (x0 : Guard) (x1 : SReg) (x2 : SReg) (x3 : BitVec 17) : Statement (.addi x0 x1 x2 x3) := by
  have b0 := x1.isLt
  have b1 := x2.isLt
  have b2 := x3.isLt
  have c1 := toNat_le_one x0.neg
  have c2 := x0.g.isLt
  refine of_s (i := .addi x0 x1 x2 x3) rfl (by decide) rfl (by omega) (by omega) (by omega) (by omega) fun hw => ?_
  have e3 : fld 17 0 (encS 0x20 x0 x1.toNat x2.toNat 0 x3.toNat) = x3 := fld_eq (by unfold encS; omega)
  simp only [ofNat_self]
  exact congrArg some (by rw [e3])

theorem andi (x0 : Guard) (x1 : SReg) (x2 : SReg) (x3 : BitVec 17) : Statement (.andi x0 x1 x2 x3) := by
  have b0 := x1.isLt
  have b1 := x2.isLt
  have b2 := x3.isLt
  have c1 := toNat_le_one x0.neg
  have c2 := x0.g.isLt
  refine of_s (i := .andi x0 x1 x2 x3) rfl (by decide) rfl (by omega) (by omega) (by omega) (by omega) fun hw => ?_
  have e3 : fld 17 0 (encS 0x21 x0 x1.toNat x2.toNat 0 x3.toNat) = x3 := fld_eq (by unfold encS; omega)
  simp only [ofNat_self]
  exact congrArg some (by rw [e3])

theorem ori (x0 : Guard) (x1 : SReg) (x2 : SReg) (x3 : BitVec 17) : Statement (.ori x0 x1 x2 x3) := by
  have b0 := x1.isLt
  have b1 := x2.isLt
  have b2 := x3.isLt
  have c1 := toNat_le_one x0.neg
  have c2 := x0.g.isLt
  refine of_s (i := .ori x0 x1 x2 x3) rfl (by decide) rfl (by omega) (by omega) (by omega) (by omega) fun hw => ?_
  have e3 : fld 17 0 (encS 0x22 x0 x1.toNat x2.toNat 0 x3.toNat) = x3 := fld_eq (by unfold encS; omega)
  simp only [ofNat_self]
  exact congrArg some (by rw [e3])

theorem xori (x0 : Guard) (x1 : SReg) (x2 : SReg) (x3 : BitVec 17) : Statement (.xori x0 x1 x2 x3) := by
  have b0 := x1.isLt
  have b1 := x2.isLt
  have b2 := x3.isLt
  have c1 := toNat_le_one x0.neg
  have c2 := x0.g.isLt
  refine of_s (i := .xori x0 x1 x2 x3) rfl (by decide) rfl (by omega) (by omega) (by omega) (by omega) fun hw => ?_
  have e3 : fld 17 0 (encS 0x23 x0 x1.toNat x2.toNat 0 x3.toNat) = x3 := fld_eq (by unfold encS; omega)
  simp only [ofNat_self]
  exact congrArg some (by rw [e3])

theorem shli (x0 : Guard) (x1 : SReg) (x2 : SReg) (x3 : BitVec 6) : Statement (.shli x0 x1 x2 x3) := by
  have b0 := x1.isLt
  have b1 := x2.isLt
  have b2 := x3.isLt
  have c1 := toNat_le_one x0.neg
  have c2 := x0.g.isLt
  refine of_s (i := .shli x0 x1 x2 x3) rfl (by decide) rfl (by omega) (by omega) (by omega) (by omega) fun hw => ?_
  have e3 : fld 6 0 (encS 0x24 x0 x1.toNat x2.toNat 0 x3.toNat) = x3 := fld_eq (by unfold encS; omega)
  simp only [ofNat_self]
  exact congrArg some (by rw [e3])

theorem shri (x0 : Guard) (x1 : SReg) (x2 : SReg) (x3 : BitVec 6) : Statement (.shri x0 x1 x2 x3) := by
  have b0 := x1.isLt
  have b1 := x2.isLt
  have b2 := x3.isLt
  have c1 := toNat_le_one x0.neg
  have c2 := x0.g.isLt
  refine of_s (i := .shri x0 x1 x2 x3) rfl (by decide) rfl (by omega) (by omega) (by omega) (by omega) fun hw => ?_
  have e3 : fld 6 0 (encS 0x25 x0 x1.toNat x2.toNat 0 x3.toNat) = x3 := fld_eq (by unfold encS; omega)
  simp only [ofNat_self]
  exact congrArg some (by rw [e3])

theorem sari (x0 : Guard) (x1 : SReg) (x2 : SReg) (x3 : BitVec 6) : Statement (.sari x0 x1 x2 x3) := by
  have b0 := x1.isLt
  have b1 := x2.isLt
  have b2 := x3.isLt
  have c1 := toNat_le_one x0.neg
  have c2 := x0.g.isLt
  refine of_s (i := .sari x0 x1 x2 x3) rfl (by decide) rfl (by omega) (by omega) (by omega) (by omega) fun hw => ?_
  have e3 : fld 6 0 (encS 0x26 x0 x1.toNat x2.toNat 0 x3.toNat) = x3 := fld_eq (by unfold encS; omega)
  simp only [ofNat_self]
  exact congrArg some (by rw [e3])

theorem lui (x0 : Guard) (x1 : SReg) (x2 : BitVec 29) : Statement (.lui x0 x1 x2) := by
  have b0 := x1.isLt
  have b1 := x2.isLt
  have c1 := toNat_le_one x0.neg
  have c2 := x0.g.isLt
  have e1 : (encS 0x27 x0 x1.toNat 0 0 x2.toNat) / 2 ^ 40 = 0x27 := by unfold encS; omega
  have e2 : (⟨bit 39 (encS 0x27 x0 x1.toNat 0 0 x2.toNat), fld 4 35 (encS 0x27 x0 x1.toNat 0 0 x2.toNat)⟩ : Guard) = x0 := guard_eq (by unfold encS; omega) (by unfold encS; omega)
  have e3 : fld 6 29 (encS 0x27 x0 x1.toNat 0 0 x2.toNat) = x1 := fld_eq (by unfold encS; omega)
  have e4 : fld 29 0 (encS 0x27 x0 x1.toNat 0 0 x2.toNat) = x2 := fld_eq (by unfold encS; omega)
  refine of_slot (n := 1) (w := (encS 0x27 x0 x1.toNat 0 0 x2.toNat)) rfl rfl (encS_ne (by decide) _ _ _ _ _) ?_
  rw [rawSlot_one, rawS, e1, e2, e3, rawSOp_lui, e4]

theorem cmp (x0 : Guard) (x1 : GReg) (x2 : SReg) (x3 : SReg) (x4 : BitVec 4) : Statement (.cmp x0 x1 x2 x3 x4) := by
  have b0 := x1.isLt
  have b1 := x2.isLt
  have b2 := x3.isLt
  have b3 := x4.isLt
  have c1 := toNat_le_one x0.neg
  have c2 := x0.g.isLt
  refine of_s (i := .cmp x0 x1 x2 x3 x4) rfl (by decide) rfl (by omega) (by omega) (by omega) (by omega) fun hw => ?_
  have e4 : fld 4 13 (encS 0x28 x0 x1.toNat x2.toNat x3.toNat (x4.toNat * 2 ^ 13)) = x4 := fld_eq (by unfold encS; omega)
  simp only [ofNat_self]
  exact congrArg some (by rw [e4])

theorem cmpi (x0 : Guard) (x1 : GReg) (x2 : SReg) (x3 : BitVec 4) (x4 : BitVec 13) : Statement (.cmpi x0 x1 x2 x3 x4) := by
  have b0 := x1.isLt
  have b1 := x2.isLt
  have b2 := x3.isLt
  have b3 := x4.isLt
  have c1 := toNat_le_one x0.neg
  have c2 := x0.g.isLt
  refine of_s (i := .cmpi x0 x1 x2 x3 x4) rfl (by decide) rfl (by omega) (by omega) (by omega) (by omega) fun hw => ?_
  have e3 : fld 4 13 (encS 0x29 x0 x1.toNat x2.toNat 0 (x3.toNat * 2 ^ 13 + x4.toNat)) = x3 := fld_eq (by unfold encS; omega)
  have e4 : fld 13 0 (encS 0x29 x0 x1.toNat x2.toNat 0 (x3.toNat * 2 ^ 13 + x4.toNat)) = x4 := fld_eq (by unfold encS; omega)
  simp only [ofNat_self]
  exact congrArg some (by rw [e3, e4])

theorem sel (x0 : Guard) (x1 : SReg) (x2 : SReg) (x3 : SReg) (x4 : GReg) : Statement (.sel x0 x1 x2 x3 x4) := by
  have b0 := x1.isLt
  have b1 := x2.isLt
  have b2 := x3.isLt
  have b3 := x4.isLt
  have c1 := toNat_le_one x0.neg
  have c2 := x0.g.isLt
  refine of_s (i := .sel x0 x1 x2 x3 x4) rfl (by decide) rfl (by omega) (by omega) (by omega) (by omega) fun hw => ?_
  have e4 : fld 4 13 (encS 0x2A x0 x1.toNat x2.toNat x3.toNat (x4.toNat * 2 ^ 13)) = x4 := fld_eq (by unfold encS; omega)
  simp only [ofNat_self]
  exact congrArg some (by rw [e4])

theorem glog (x0 : Guard) (x1 : GReg) (x2 : GReg) (x3 : GReg) (x4 : BitVec 4) : Statement (.glog x0 x1 x2 x3 x4) := by
  have b0 := x1.isLt
  have b1 := x2.isLt
  have b2 := x3.isLt
  have b3 := x4.isLt
  have c1 := toNat_le_one x0.neg
  have c2 := x0.g.isLt
  refine of_s (i := .glog x0 x1 x2 x3 x4) rfl (by decide) rfl (by omega) (by omega) (by omega) (by omega) fun hw => ?_
  have e2 : fld 4 23 (encS 0x2B x0 x1.toNat x2.toNat x3.toNat (x4.toNat * 2 ^ 13)) = x2 := fld_eq (by unfold encS; omega)
  have e3 : fld 4 17 (encS 0x2B x0 x1.toNat x2.toNat x3.toNat (x4.toNat * 2 ^ 13)) = x3 := fld_eq (by unfold encS; omega)
  have e4 : fld 4 13 (encS 0x2B x0 x1.toNat x2.toNat x3.toNat (x4.toNat * 2 ^ 13)) = x4 := fld_eq (by unfold encS; omega)
  simp only [ofNat_self]
  exact congrArg some (by rw [e2, e3, e4])

theorem puni (x0 : Guard) (x1 : GReg) (x2 : PReg) : Statement (.puni x0 x1 x2) := by
  have b0 := x1.isLt
  have b1 := x2.isLt
  have c1 := toNat_le_one x0.neg
  have c2 := x0.g.isLt
  refine of_s (i := .puni x0 x1 x2) rfl (by decide) rfl (by omega) (by omega) (by omega) (by omega) fun hw => ?_
  have e2 : fld 4 23 (encS 0x2C x0 x1.toNat x2.toNat 0 0) = x2 := fld_eq (by unfold encS; omega)
  simp only [ofNat_self]
  exact congrArg some (by rw [e2])

theorem fadd (x0 : Guard) (x1 : SReg) (x2 : SReg) (x3 : SReg) (x4 : BitVec 3) (x5 : BitVec 5) : Statement (.fadd x0 x1 x2 x3 x4 x5) := by
  have b0 := x1.isLt
  have b1 := x2.isLt
  have b2 := x3.isLt
  have b3 := x4.isLt
  have b4 := x5.isLt
  have c1 := toNat_le_one x0.neg
  have c2 := x0.g.isLt
  refine of_s (i := .fadd x0 x1 x2 x3 x4 x5) rfl (by decide) rfl (by omega) (by omega) (by omega) (by omega) fun hw => ?_
  have e4 : fld 3 14 (encS 0x30 x0 x1.toNat x2.toNat x3.toNat (x4.toNat * 2 ^ 14 + x5.toNat * 2 ^ 9)) = x4 := fld_eq (by unfold encS; omega)
  have e5 : fld 5 9 (encS 0x30 x0 x1.toNat x2.toNat x3.toNat (x4.toNat * 2 ^ 14 + x5.toNat * 2 ^ 9)) = x5 := fld_eq (by unfold encS; omega)
  simp only [ofNat_self]
  exact congrArg some (by rw [e4, e5])

theorem fsub (x0 : Guard) (x1 : SReg) (x2 : SReg) (x3 : SReg) (x4 : BitVec 3) (x5 : BitVec 5) : Statement (.fsub x0 x1 x2 x3 x4 x5) := by
  have b0 := x1.isLt
  have b1 := x2.isLt
  have b2 := x3.isLt
  have b3 := x4.isLt
  have b4 := x5.isLt
  have c1 := toNat_le_one x0.neg
  have c2 := x0.g.isLt
  refine of_s (i := .fsub x0 x1 x2 x3 x4 x5) rfl (by decide) rfl (by omega) (by omega) (by omega) (by omega) fun hw => ?_
  have e4 : fld 3 14 (encS 0x31 x0 x1.toNat x2.toNat x3.toNat (x4.toNat * 2 ^ 14 + x5.toNat * 2 ^ 9)) = x4 := fld_eq (by unfold encS; omega)
  have e5 : fld 5 9 (encS 0x31 x0 x1.toNat x2.toNat x3.toNat (x4.toNat * 2 ^ 14 + x5.toNat * 2 ^ 9)) = x5 := fld_eq (by unfold encS; omega)
  simp only [ofNat_self]
  exact congrArg some (by rw [e4, e5])

theorem fmul (x0 : Guard) (x1 : SReg) (x2 : SReg) (x3 : SReg) (x4 : BitVec 3) (x5 : BitVec 5) : Statement (.fmul x0 x1 x2 x3 x4 x5) := by
  have b0 := x1.isLt
  have b1 := x2.isLt
  have b2 := x3.isLt
  have b3 := x4.isLt
  have b4 := x5.isLt
  have c1 := toNat_le_one x0.neg
  have c2 := x0.g.isLt
  refine of_s (i := .fmul x0 x1 x2 x3 x4 x5) rfl (by decide) rfl (by omega) (by omega) (by omega) (by omega) fun hw => ?_
  have e4 : fld 3 14 (encS 0x32 x0 x1.toNat x2.toNat x3.toNat (x4.toNat * 2 ^ 14 + x5.toNat * 2 ^ 9)) = x4 := fld_eq (by unfold encS; omega)
  have e5 : fld 5 9 (encS 0x32 x0 x1.toNat x2.toNat x3.toNat (x4.toNat * 2 ^ 14 + x5.toNat * 2 ^ 9)) = x5 := fld_eq (by unfold encS; omega)
  simp only [ofNat_self]
  exact congrArg some (by rw [e4, e5])

theorem ffma (x0 : Guard) (x1 : SReg) (x2 : SReg) (x3 : SReg) (x4 : SReg) (x5 : BitVec 3) (x6 : BitVec 5) : Statement (.ffma x0 x1 x2 x3 x4 x5 x6) := by
  have b0 := x1.isLt
  have b1 := x2.isLt
  have b2 := x3.isLt
  have b3 := x4.isLt
  have b4 := x5.isLt
  have b5 := x6.isLt
  have c1 := toNat_le_one x0.neg
  have c2 := x0.g.isLt
  refine of_s (i := .ffma x0 x1 x2 x3 x4 x5 x6) rfl (by decide) rfl (by omega) (by omega) (by omega) (by omega) fun hw => ?_
  have e4 : fld 6 3 (encS 0x33 x0 x1.toNat x2.toNat x3.toNat (x5.toNat * 2 ^ 14 + x6.toNat * 2 ^ 9 + x4.toNat * 2 ^ 3)) = x4 := fld_eq (by unfold encS; omega)
  have e5 : fld 3 14 (encS 0x33 x0 x1.toNat x2.toNat x3.toNat (x5.toNat * 2 ^ 14 + x6.toNat * 2 ^ 9 + x4.toNat * 2 ^ 3)) = x5 := fld_eq (by unfold encS; omega)
  have e6 : fld 5 9 (encS 0x33 x0 x1.toNat x2.toNat x3.toNat (x5.toNat * 2 ^ 14 + x6.toNat * 2 ^ 9 + x4.toNat * 2 ^ 3)) = x6 := fld_eq (by unfold encS; omega)
  simp only [ofNat_self]
  exact congrArg some (by rw [e4, e5, e6])

theorem fdiv (x0 : Guard) (x1 : SReg) (x2 : SReg) (x3 : SReg) (x4 : BitVec 3) (x5 : BitVec 5) : Statement (.fdiv x0 x1 x2 x3 x4 x5) := by
  have b0 := x1.isLt
  have b1 := x2.isLt
  have b2 := x3.isLt
  have b3 := x4.isLt
  have b4 := x5.isLt
  have c1 := toNat_le_one x0.neg
  have c2 := x0.g.isLt
  refine of_s (i := .fdiv x0 x1 x2 x3 x4 x5) rfl (by decide) rfl (by omega) (by omega) (by omega) (by omega) fun hw => ?_
  have e4 : fld 3 14 (encS 0x34 x0 x1.toNat x2.toNat x3.toNat (x4.toNat * 2 ^ 14 + x5.toNat * 2 ^ 9)) = x4 := fld_eq (by unfold encS; omega)
  have e5 : fld 5 9 (encS 0x34 x0 x1.toNat x2.toNat x3.toNat (x4.toNat * 2 ^ 14 + x5.toNat * 2 ^ 9)) = x5 := fld_eq (by unfold encS; omega)
  simp only [ofNat_self]
  exact congrArg some (by rw [e4, e5])

theorem fsqrt (x0 : Guard) (x1 : SReg) (x2 : SReg) (x3 : BitVec 3) (x4 : BitVec 5) : Statement (.fsqrt x0 x1 x2 x3 x4) := by
  have b0 := x1.isLt
  have b1 := x2.isLt
  have b2 := x3.isLt
  have b3 := x4.isLt
  have c1 := toNat_le_one x0.neg
  have c2 := x0.g.isLt
  refine of_s (i := .fsqrt x0 x1 x2 x3 x4) rfl (by decide) rfl (by omega) (by omega) (by omega) (by omega) fun hw => ?_
  have e3 : fld 3 14 (encS 0x35 x0 x1.toNat x2.toNat 0 (x3.toNat * 2 ^ 14 + x4.toNat * 2 ^ 9)) = x3 := fld_eq (by unfold encS; omega)
  have e4 : fld 5 9 (encS 0x35 x0 x1.toNat x2.toNat 0 (x3.toNat * 2 ^ 14 + x4.toNat * 2 ^ 9)) = x4 := fld_eq (by unfold encS; omega)
  simp only [ofNat_self]
  exact congrArg some (by rw [e3, e4])

theorem fmin (x0 : Guard) (x1 : SReg) (x2 : SReg) (x3 : SReg) (x4 : BitVec 3) (x5 : BitVec 5) : Statement (.fmin x0 x1 x2 x3 x4 x5) := by
  have b0 := x1.isLt
  have b1 := x2.isLt
  have b2 := x3.isLt
  have b3 := x4.isLt
  have b4 := x5.isLt
  have c1 := toNat_le_one x0.neg
  have c2 := x0.g.isLt
  refine of_s (i := .fmin x0 x1 x2 x3 x4 x5) rfl (by decide) rfl (by omega) (by omega) (by omega) (by omega) fun hw => ?_
  have e4 : fld 3 14 (encS 0x36 x0 x1.toNat x2.toNat x3.toNat (x4.toNat * 2 ^ 14 + x5.toNat * 2 ^ 9)) = x4 := fld_eq (by unfold encS; omega)
  have e5 : fld 5 9 (encS 0x36 x0 x1.toNat x2.toNat x3.toNat (x4.toNat * 2 ^ 14 + x5.toNat * 2 ^ 9)) = x5 := fld_eq (by unfold encS; omega)
  simp only [ofNat_self]
  exact congrArg some (by rw [e4, e5])

theorem fmax (x0 : Guard) (x1 : SReg) (x2 : SReg) (x3 : SReg) (x4 : BitVec 3) (x5 : BitVec 5) : Statement (.fmax x0 x1 x2 x3 x4 x5) := by
  have b0 := x1.isLt
  have b1 := x2.isLt
  have b2 := x3.isLt
  have b3 := x4.isLt
  have b4 := x5.isLt
  have c1 := toNat_le_one x0.neg
  have c2 := x0.g.isLt
  refine of_s (i := .fmax x0 x1 x2 x3 x4 x5) rfl (by decide) rfl (by omega) (by omega) (by omega) (by omega) fun hw => ?_
  have e4 : fld 3 14 (encS 0x37 x0 x1.toNat x2.toNat x3.toNat (x4.toNat * 2 ^ 14 + x5.toNat * 2 ^ 9)) = x4 := fld_eq (by unfold encS; omega)
  have e5 : fld 5 9 (encS 0x37 x0 x1.toNat x2.toNat x3.toNat (x4.toNat * 2 ^ 14 + x5.toNat * 2 ^ 9)) = x5 := fld_eq (by unfold encS; omega)
  simp only [ofNat_self]
  exact congrArg some (by rw [e4, e5])

theorem fcvt (x0 : Guard) (x1 : SReg) (x2 : SReg) (x3 : BitVec 3) (x4 : BitVec 5) (x5 : BitVec 5) (x6 : Bool) : Statement (.fcvt x0 x1 x2 x3 x4 x5 x6) := by
  have b0 := x1.isLt
  have b1 := x2.isLt
  have b2 := x3.isLt
  have b3 := x4.isLt
  have b4 := x5.isLt
  have b5 := toNat_le_one x6
  have c1 := toNat_le_one x0.neg
  have c2 := x0.g.isLt
  refine of_s (i := .fcvt x0 x1 x2 x3 x4 x5 x6) rfl (by decide) rfl (by omega) (by omega) (by omega) (by omega) fun hw => ?_
  have e3 : fld 3 14 (encS 0x38 x0 x1.toNat x2.toNat 0 (x3.toNat * 2 ^ 14 + x4.toNat * 2 ^ 9 + x5.toNat * 2 ^ 4 + x6.toNat * 2 ^ 3)) = x3 := fld_eq (by unfold encS; omega)
  have e4 : fld 5 9 (encS 0x38 x0 x1.toNat x2.toNat 0 (x3.toNat * 2 ^ 14 + x4.toNat * 2 ^ 9 + x5.toNat * 2 ^ 4 + x6.toNat * 2 ^ 3)) = x4 := fld_eq (by unfold encS; omega)
  have e5 : fld 5 4 (encS 0x38 x0 x1.toNat x2.toNat 0 (x3.toNat * 2 ^ 14 + x4.toNat * 2 ^ 9 + x5.toNat * 2 ^ 4 + x6.toNat * 2 ^ 3)) = x5 := fld_eq (by unfold encS; omega)
  have e6 : bit 3 (encS 0x38 x0 x1.toNat x2.toNat 0 (x3.toNat * 2 ^ 14 + x4.toNat * 2 ^ 9 + x5.toNat * 2 ^ 4 + x6.toNat * 2 ^ 3)) = x6 := bit_eq (by unfold encS; omega)
  simp only [ofNat_self]
  exact congrArg some (by rw [e3, e4, e5, e6])

theorem fcmp (x0 : Guard) (x1 : GReg) (x2 : SReg) (x3 : SReg) (x4 : BitVec 4) (x5 : BitVec 5) : Statement (.fcmp x0 x1 x2 x3 x4 x5) := by
  have b0 := x1.isLt
  have b1 := x2.isLt
  have b2 := x3.isLt
  have b3 := x4.isLt
  have b4 := x5.isLt
  have c1 := toNat_le_one x0.neg
  have c2 := x0.g.isLt
  refine of_s (i := .fcmp x0 x1 x2 x3 x4 x5) rfl (by decide) rfl (by omega) (by omega) (by omega) (by omega) fun hw => ?_
  have e4 : fld 4 13 (encS 0x39 x0 x1.toNat x2.toNat x3.toNat (x4.toNat * 2 ^ 13 + x5.toNat * 2 ^ 8)) = x4 := fld_eq (by unfold encS; omega)
  have e5 : fld 5 8 (encS 0x39 x0 x1.toNat x2.toNat x3.toNat (x4.toNat * 2 ^ 13 + x5.toNat * 2 ^ 8)) = x5 := fld_eq (by unfold encS; omega)
  simp only [ofNat_self]
  exact congrArg some (by rw [e4, e5])

theorem ld (x0 : Guard) (x1 : SReg) (x2 : MemRef) (x3 : BitVec 12) : Statement (.ld x0 x1 x2 x3) := by
  have b0 := x1.isLt
  have b1 := x2.space.isLt
  have b2 := x2.width.isLt
  have b3 := x3.isLt
  have c1 := toNat_le_one x0.neg
  have c2 := x0.g.isLt
  have c3 := x2.a.isLt
  refine of_s (i := .ld x0 x1 x2 x3) rfl (by decide) rfl (by omega) (by omega) (by omega) (by omega) fun hw => ?_
  have e2 : fld 2 15 (encS 0x40 x0 x1.toNat x2.a.toNat 0 (x2.space.toNat * 2 ^ 15 + x2.width.toNat * 2 ^ 12 + x3.toNat)) = x2.space := fld_eq (by unfold encS; omega)
  have f2 : fld 3 12 (encS 0x40 x0 x1.toNat x2.a.toNat 0 (x2.space.toNat * 2 ^ 15 + x2.width.toNat * 2 ^ 12 + x3.toNat)) = x2.width := fld_eq (by unfold encS; omega)
  have e3 : fld 12 0 (encS 0x40 x0 x1.toNat x2.a.toNat 0 (x2.space.toNat * 2 ^ 15 + x2.width.toNat * 2 ^ 12 + x3.toNat)) = x3 := fld_eq (by unfold encS; omega)
  simp only [ofNat_self]
  exact congrArg some (by rw [e2, f2, e3])

theorem st (x0 : Guard) (x1 : SReg) (x2 : MemRef) (x3 : BitVec 12) : Statement (.st x0 x1 x2 x3) := by
  have b0 := x1.isLt
  have b1 := x2.space.isLt
  have b2 := x2.width.isLt
  have b3 := x3.isLt
  have c1 := toNat_le_one x0.neg
  have c2 := x0.g.isLt
  have c3 := x2.a.isLt
  refine of_s (i := .st x0 x1 x2 x3) rfl (by decide) rfl (by omega) (by omega) (by omega) (by omega) fun hw => ?_
  have e2 : fld 2 15 (encS 0x41 x0 0 x2.a.toNat x1.toNat (x2.space.toNat * 2 ^ 15 + x2.width.toNat * 2 ^ 12 + x3.toNat)) = x2.space := fld_eq (by unfold encS; omega)
  have f2 : fld 3 12 (encS 0x41 x0 0 x2.a.toNat x1.toNat (x2.space.toNat * 2 ^ 15 + x2.width.toNat * 2 ^ 12 + x3.toNat)) = x2.width := fld_eq (by unfold encS; omega)
  have e3 : fld 12 0 (encS 0x41 x0 0 x2.a.toNat x1.toNat (x2.space.toNat * 2 ^ 15 + x2.width.toNat * 2 ^ 12 + x3.toNat)) = x3 := fld_eq (by unfold encS; omega)
  simp only [ofNat_self]
  exact congrArg some (by rw [e2, f2, e3])

theorem amo (x0 : Guard) (x1 : SReg) (x2 : SReg) (x3 : MemRef) (x4 : BitVec 4) (x5 : BitVec 8) : Statement (.amo x0 x1 x2 x3 x4 x5) := by
  have b0 := x1.isLt
  have b1 := x2.isLt
  have b2 := x3.space.isLt
  have b3 := x3.width.isLt
  have b4 := x4.isLt
  have b5 := x5.isLt
  have c1 := toNat_le_one x0.neg
  have c2 := x0.g.isLt
  have c3 := x3.a.isLt
  refine of_s (i := .amo x0 x1 x2 x3 x4 x5) rfl (by decide) rfl (by omega) (by omega) (by omega) (by omega) fun hw => ?_
  have e3 : fld 2 15 (encS 0x42 x0 x1.toNat x3.a.toNat x2.toNat (x3.space.toNat * 2 ^ 15 + x3.width.toNat * 2 ^ 12 + x4.toNat * 2 ^ 8 + x5.toNat)) = x3.space := fld_eq (by unfold encS; omega)
  have f3 : fld 3 12 (encS 0x42 x0 x1.toNat x3.a.toNat x2.toNat (x3.space.toNat * 2 ^ 15 + x3.width.toNat * 2 ^ 12 + x4.toNat * 2 ^ 8 + x5.toNat)) = x3.width := fld_eq (by unfold encS; omega)
  have e4 : fld 4 8 (encS 0x42 x0 x1.toNat x3.a.toNat x2.toNat (x3.space.toNat * 2 ^ 15 + x3.width.toNat * 2 ^ 12 + x4.toNat * 2 ^ 8 + x5.toNat)) = x4 := fld_eq (by unfold encS; omega)
  have e5 : fld 8 0 (encS 0x42 x0 x1.toNat x3.a.toNat x2.toNat (x3.space.toNat * 2 ^ 15 + x3.width.toNat * 2 ^ 12 + x4.toNat * 2 ^ 8 + x5.toNat)) = x5 := fld_eq (by unfold encS; omega)
  simp only [ofNat_self]
  exact congrArg some (by rw [e3, f3, e4, e5])

theorem cas (x0 : Guard) (x1 : SReg) (x2 : SReg) (x3 : MemRef) (x4 : BitVec 12) : Statement (.cas x0 x1 x2 x3 x4) := by
  have b0 := x1.isLt
  have b1 := x2.isLt
  have b2 := x3.space.isLt
  have b3 := x3.width.isLt
  have b4 := x4.isLt
  have c1 := toNat_le_one x0.neg
  have c2 := x0.g.isLt
  have c3 := x3.a.isLt
  refine of_s (i := .cas x0 x1 x2 x3 x4) rfl (by decide) rfl (by omega) (by omega) (by omega) (by omega) fun hw => ?_
  have e3 : fld 2 15 (encS 0x43 x0 x1.toNat x3.a.toNat x2.toNat (x3.space.toNat * 2 ^ 15 + x3.width.toNat * 2 ^ 12 + x4.toNat)) = x3.space := fld_eq (by unfold encS; omega)
  have f3 : fld 3 12 (encS 0x43 x0 x1.toNat x3.a.toNat x2.toNat (x3.space.toNat * 2 ^ 15 + x3.width.toNat * 2 ^ 12 + x4.toNat)) = x3.width := fld_eq (by unfold encS; omega)
  have e4 : fld 12 0 (encS 0x43 x0 x1.toNat x3.a.toNat x2.toNat (x3.space.toNat * 2 ^ 15 + x3.width.toNat * 2 ^ 12 + x4.toNat)) = x4 := fld_eq (by unfold encS; omega)
  simp only [ofNat_self]
  exact congrArg some (by rw [e3, f3, e4])

theorem mfs (x0 : Guard) (x1 : SReg) (x2 : BitVec 12) : Statement (.mfs x0 x1 x2) := by
  have b0 := x1.isLt
  have b1 := x2.isLt
  have c1 := toNat_le_one x0.neg
  have c2 := x0.g.isLt
  refine of_s (i := .mfs x0 x1 x2) rfl (by decide) rfl (by omega) (by omega) (by omega) (by omega) fun hw => ?_
  have e2 : fld 12 0 (encS 0x48 x0 x1.toNat 0 0 x2.toNat) = x2 := fld_eq (by unfold encS; omega)
  simp only [ofNat_self]
  exact congrArg some (by rw [e2])

theorem mts (x0 : Guard) (x1 : SReg) (x2 : BitVec 12) : Statement (.mts x0 x1 x2) := by
  have b0 := x1.isLt
  have b1 := x2.isLt
  have c1 := toNat_le_one x0.neg
  have c2 := x0.g.isLt
  refine of_s (i := .mts x0 x1 x2) rfl (by decide) rfl (by omega) (by omega) (by omega) (by omega) fun hw => ?_
  have e2 : fld 12 0 (encS 0x49 x0 0 x1.toNat 0 x2.toNat) = x2 := fld_eq (by unfold encS; omega)
  rw [ofNat_self]
  exact congrArg some (by rw [e2, rawMts_plain hw])

theorem mtsTemp (x0 : Guard) (x1 : SReg) : Statement (.mtsTemp x0 x1) := by
  have b0 := x1.isLt
  have c1 := toNat_le_one x0.neg
  have c2 := x0.g.isLt
  refine of_s (i := .mtsTemp x0 x1) rfl (by decide) rfl (by omega) (by omega) (by omega) (by omega) fun hw => ?_
  have e2 : fld 12 0 (encS 0x49 x0 0 x1.toNat 0 0x020) = BitVec.ofNat 12 (0x020) := fld_eq (by rw [BitVec.toNat_ofNat]; unfold encS; omega)
  rw [ofNat_self]
  exact congrArg some (by rw [e2]; rfl)

theorem mtsLsc (x0 : Guard) (x1 : SReg) : Statement (.mtsLsc x0 x1) := by
  have b0 := x1.isLt
  have c1 := toNat_le_one x0.neg
  have c2 := x0.g.isLt
  refine of_s (i := .mtsLsc x0 x1) rfl (by decide) rfl (by omega) (by omega) (by omega) (by omega) fun hw => ?_
  have e2 : fld 12 0 (encS 0x49 x0 0 x1.toNat 0 0x024) = BitVec.ofNat 12 (0x024) := fld_eq (by rw [BitVec.toNat_ofNat]; unfold encS; omega)
  rw [ofNat_self]
  exact congrArg some (by rw [e2]; rfl)

theorem mtsLscr (x0 : Guard) (x1 : SReg) : Statement (.mtsLscr x0 x1) := by
  have b0 := x1.isLt
  have c1 := toNat_le_one x0.neg
  have c2 := x0.g.isLt
  refine of_s (i := .mtsLscr x0 x1) rfl (by decide) rfl (by omega) (by omega) (by omega) (by omega) fun hw => ?_
  have e2 : fld 12 0 (encS 0x49 x0 0 x1.toNat 0 0x025) = BitVec.ofNat 12 (0x025) := fld_eq (by rw [BitVec.toNat_ofNat]; unfold encS; omega)
  rw [ofNat_self]
  exact congrArg some (by rw [e2]; rfl)

theorem mtsTripKix (x0 : Guard) (x1 : SReg) (x2 : Bool) : Statement (.mtsTripKix x0 x1 x2) := by
  have b0 := x1.isLt
  have b1 := toNat_le_one x2
  have c1 := toNat_le_one x0.neg
  have c2 := x0.g.isLt
  refine of_s (i := .mtsTripKix x0 x1 x2) rfl (by decide) rfl (by omega) (by omega) (by omega) (by omega) fun hw => ?_
  have e2 : fld 12 0 (encS 0x49 x0 0 x1.toNat 0 (0x010 + x2.toNat)) = BitVec.ofNat 12 ((0x010 + x2.toNat)) := fld_eq (by rw [BitVec.toNat_ofNat]; unfold encS; omega)
  rw [ofNat_self]
  exact congrArg some (by rw [e2]; cases x2 <;> rfl)

theorem mtsHot (x0 : Guard) (x1 : SReg) (x2 : BitVec 3) : Statement (.mtsHot x0 x1 x2) := by
  have b0 := x1.isLt
  have b1 := x2.isLt
  have c1 := toNat_le_one x0.neg
  have c2 := x0.g.isLt
  refine of_s (i := .mtsHot x0 x1 x2) rfl (by decide) rfl (by omega) (by omega) (by omega) (by omega) fun hw => ?_
  have e2 : fld 12 0 (encS 0x49 x0 0 x1.toNat 0 (0x050 + x2.toNat)) = BitVec.ofNat 12 ((0x050 + x2.toNat)) := fld_eq (by rw [BitVec.toNat_ofNat]; unfold encS; omega)
  rw [ofNat_self]
  exact congrArg some (by rw [e2]; exact rawMts_hot _ _ _)

theorem mtsRslim (x0 : Guard) (x1 : SReg) : Statement (.mtsRslim x0 x1) := by
  have b0 := x1.isLt
  have c1 := toNat_le_one x0.neg
  have c2 := x0.g.isLt
  refine of_s (i := .mtsRslim x0 x1) rfl (by decide) rfl (by omega) (by omega) (by omega) (by omega) fun hw => ?_
  have e2 : fld 12 0 (encS 0x49 x0 0 x1.toNat 0 0x045) = BitVec.ofNat 12 (0x045) := fld_eq (by rw [BitVec.toNat_ofNat]; unfold encS; omega)
  rw [ofNat_self]
  exact congrArg some (by rw [e2]; rfl)

theorem mtsTcause (x0 : Guard) (x1 : SReg) : Statement (.mtsTcause x0 x1) := by
  have b0 := x1.isLt
  have c1 := toNat_le_one x0.neg
  have c2 := x0.g.isLt
  refine of_s (i := .mtsTcause x0 x1) rfl (by decide) rfl (by omega) (by omega) (by omega) (by omega) fun hw => ?_
  have e2 : fld 12 0 (encS 0x49 x0 0 x1.toNat 0 0x041) = BitVec.ofNat 12 (0x041) := fld_eq (by rw [BitVec.toNat_ofNat]; unfold encS; omega)
  rw [ofNat_self]
  exact congrArg some (by rw [e2]; rfl)

theorem mtsCctr (x0 : Guard) (x1 : SReg) : Statement (.mtsCctr x0 x1) := by
  have b0 := x1.isLt
  have c1 := toNat_le_one x0.neg
  have c2 := x0.g.isLt
  refine of_s (i := .mtsCctr x0 x1) rfl (by decide) rfl (by omega) (by omega) (by omega) (by omega) fun hw => ?_
  have e2 : fld 12 0 (encS 0x49 x0 0 x1.toNat 0 0x023) = BitVec.ofNat 12 (0x023) := fld_eq (by rw [BitVec.toNat_ofNat]; unfold encS; omega)
  rw [ofNat_self]
  exact congrArg some (by rw [e2]; rfl)

theorem mpset (x0 : Guard) (x1 : BitVec 3) (x2 : SReg) (x3 : BitVec 17) : Statement (.mpset x0 x1 x2 x3) := by
  have b0 := x1.isLt
  have b1 := x2.isLt
  have b2 := x3.isLt
  have c1 := toNat_le_one x0.neg
  have c2 := x0.g.isLt
  refine of_s (i := .mpset x0 x1 x2 x3) rfl (by decide) rfl (by omega) (by omega) (by omega) (by omega) fun hw => ?_
  have e1 : fld 3 29 (encS 0x4A x0 x1.toNat x2.toNat 0 x3.toNat) = x1 := fld_eq (by unfold encS; omega)
  have e3 : fld 17 0 (encS 0x4A x0 x1.toNat x2.toNat 0 x3.toNat) = x3 := fld_eq (by unfold encS; omega)
  simp only [ofNat_self]
  exact congrArg some (by rw [e1, e3])

theorem cdset (x0 : Guard) (x1 : BitVec 4) (x2 : BitVec 3) (x3 : SReg) : Statement (.cdset x0 x1 x2 x3) := by
  have b0 := x1.isLt
  have b1 := x2.isLt
  have b2 := x3.isLt
  have c1 := toNat_le_one x0.neg
  have c2 := x0.g.isLt
  refine of_s (i := .cdset x0 x1 x2 x3) rfl (by decide) rfl (by omega) (by omega) (by omega) (by omega) fun hw => ?_
  have e1 : fld 4 29 (encS 0x4B x0 x1.toNat x3.toNat 0 x2.toNat) = x1 := fld_eq (by unfold encS; omega)
  have e2 : fld 3 0 (encS 0x4B x0 x1.toNat x3.toNat 0 x2.toNat) = x2 := fld_eq (by unfold encS; omega)
  simp only [ofNat_self]
  exact congrArg some (by rw [e1, e2])

theorem launch (x0 : Guard) (x1 : GReg) (x2 : SReg) : Statement (.launch x0 x1 x2) := by
  have b0 := x1.isLt
  have b1 := x2.isLt
  have c1 := toNat_le_one x0.neg
  have c2 := x0.g.isLt
  refine of_s (i := .launch x0 x1 x2) rfl (by decide) rfl (by omega) (by omega) (by omega) (by omega) fun hw => ?_
  simp only [ofNat_self]
  rfl

theorem vadd (x0 : VOp) : Statement (.vadd x0) :=
  of_v (op := 0x001) rfl (by decide) (by rw [rawV, encV_op, vop_encV]; rfl) rfl

theorem vsub (x0 : VOp) : Statement (.vsub x0) :=
  of_v (op := 0x002) rfl (by decide) (by rw [rawV, encV_op, vop_encV]; rfl) rfl

theorem vmul (x0 : VOp) : Statement (.vmul x0) :=
  of_v (op := 0x003) rfl (by decide) (by rw [rawV, encV_op, vop_encV]; rfl) rfl

theorem vfma (x0 : VOp) : Statement (.vfma x0) :=
  of_v (op := 0x004) rfl (by decide) (by rw [rawV, encV_op, vop_encV]; rfl) rfl

theorem vfms (x0 : VOp) : Statement (.vfms x0) :=
  of_v (op := 0x005) rfl (by decide) (by rw [rawV, encV_op, vop_encV]; rfl) rfl

theorem vfnma (x0 : VOp) : Statement (.vfnma x0) :=
  of_v (op := 0x006) rfl (by decide) (by rw [rawV, encV_op, vop_encV]; rfl) rfl

theorem vdiv (x0 : VOp) : Statement (.vdiv x0) :=
  of_v (op := 0x007) rfl (by decide) (by rw [rawV, encV_op, vop_encV]; rfl) rfl

theorem vsqrt (x0 : VOp) : Statement (.vsqrt x0) :=
  of_v (op := 0x008) rfl (by decide) (by rw [rawV, encV_op, vop_encV]; rfl) rfl

theorem vmin (x0 : VOp) : Statement (.vmin x0) :=
  of_v (op := 0x009) rfl (by decide) (by rw [rawV, encV_op, vop_encV]; rfl) rfl

theorem vmax (x0 : VOp) : Statement (.vmax x0) :=
  of_v (op := 0x00A) rfl (by decide) (by rw [rawV, encV_op, vop_encV]; rfl) rfl

theorem vabs (x0 : VOp) : Statement (.vabs x0) :=
  of_v (op := 0x00B) rfl (by decide) (by rw [rawV, encV_op, vop_encV]; rfl) rfl

theorem vneg (x0 : VOp) : Statement (.vneg x0) :=
  of_v (op := 0x00C) rfl (by decide) (by rw [rawV, encV_op, vop_encV]; rfl) rfl

theorem vexp2 (x0 : VOp) : Statement (.vexp2 x0) :=
  of_v (op := 0x00D) rfl (by decide) (by rw [rawV, encV_op, vop_encV]; rfl) rfl

theorem vlog2 (x0 : VOp) : Statement (.vlog2 x0) :=
  of_v (op := 0x00E) rfl (by decide) (by rw [rawV, encV_op, vop_encV]; rfl) rfl

theorem vsqacc (x0 : VOp) : Statement (.vsqacc x0) :=
  of_v (op := 0x00F) rfl (by decide) (by rw [rawV, encV_op, vop_encV]; rfl) rfl

theorem vcmul (x0 : VOp) : Statement (.vcmul x0) :=
  of_v (op := 0x010) rfl (by decide) (by rw [rawV, encV_op, vop_encV]; rfl) rfl

theorem vcfma (x0 : VOp) : Statement (.vcfma x0) :=
  of_v (op := 0x011) rfl (by decide) (by rw [rawV, encV_op, vop_encV]; rfl) rfl

theorem vconj (x0 : VOp) : Statement (.vconj x0) :=
  of_v (op := 0x012) rfl (by decide) (by rw [rawV, encV_op, vop_encV]; rfl) rfl

theorem vand (x0 : VOp) : Statement (.vand x0) :=
  of_v (op := 0x018) rfl (by decide) (by rw [rawV, encV_op, vop_encV]; rfl) rfl

theorem vor (x0 : VOp) : Statement (.vor x0) :=
  of_v (op := 0x019) rfl (by decide) (by rw [rawV, encV_op, vop_encV]; rfl) rfl

theorem vxor (x0 : VOp) : Statement (.vxor x0) :=
  of_v (op := 0x01A) rfl (by decide) (by rw [rawV, encV_op, vop_encV]; rfl) rfl

theorem vshl (x0 : VOp) : Statement (.vshl x0) :=
  of_v (op := 0x01B) rfl (by decide) (by rw [rawV, encV_op, vop_encV]; rfl) rfl

theorem vshr (x0 : VOp) : Statement (.vshr x0) :=
  of_v (op := 0x01C) rfl (by decide) (by rw [rawV, encV_op, vop_encV]; rfl) rfl

theorem vsar (x0 : VOp) : Statement (.vsar x0) :=
  of_v (op := 0x01D) rfl (by decide) (by rw [rawV, encV_op, vop_encV]; rfl) rfl

theorem vcvt (x0 : VOp) : Statement (.vcvt x0) :=
  of_v (op := 0x020) rfl (by decide) (by rw [rawV, encV_op, vop_encV]; rfl) rfl

theorem vqnt (x0 : VOp) : Statement (.vqnt x0) :=
  of_v (op := 0x021) rfl (by decide) (by rw [rawV, encV_op, vop_encV]; rfl) rfl

theorem vdqnt (x0 : VOp) : Statement (.vdqnt x0) :=
  of_v (op := 0x022) rfl (by decide) (by rw [rawV, encV_op, vop_encV]; rfl) rfl

theorem vmxq (x0 : VOp) : Statement (.vmxq x0) :=
  of_v (op := 0x023) rfl (by decide) (by rw [rawV, encV_op, vop_encV]; rfl) rfl

theorem vmxd (x0 : VOp) : Statement (.vmxd x0) :=
  of_v (op := 0x024) rfl (by decide) (by rw [rawV, encV_op, vop_encV]; rfl) rfl

theorem vmov (x0 : VOp) : Statement (.vmov x0) :=
  of_v (op := 0x028) rfl (by decide) (by rw [rawV, encV_op, vop_encV]; rfl) rfl

theorem vbcast (x0 : VOp) : Statement (.vbcast x0) :=
  of_v (op := 0x029) rfl (by decide) (by rw [rawV, encV_op, vop_encV]; rfl) rfl

theorem vperm (x0 : VOp) : Statement (.vperm x0) :=
  of_v (op := 0x02A) rfl (by decide) (by rw [rawV, encV_op, vop_encV]; rfl) rfl

theorem vbitx (x0 : VOp) : Statement (.vbitx x0) :=
  of_v (op := 0x02B) rfl (by decide) (by rw [rawV, encV_op, vop_encV]; rfl) rfl

theorem vlane (x0 : VOp) : Statement (.vlane x0) :=
  of_v (op := 0x02C) rfl (by decide) (by rw [rawV, encV_op, vop_encV]; rfl) rfl

theorem vred (x0 : VOp) : Statement (.vred x0) :=
  of_v (op := 0x02D) rfl (by decide) (by rw [rawV, encV_op, vop_encV]; rfl) rfl

theorem vextr (x0 : VOp) : Statement (.vextr x0) :=
  of_v (op := 0x02E) rfl (by decide) (by rw [rawV, encV_op, vop_encV]; rfl) rfl

theorem vins (x0 : VOp) : Statement (.vins x0) :=
  of_v (op := 0x02F) rfl (by decide) (by rw [rawV, encV_op, vop_encV]; rfl) rfl

theorem vcmp (x0 : VOp) : Statement (.vcmp x0) :=
  of_v (op := 0x030) rfl (by decide) (by rw [rawV, encV_op, vop_encV]; rfl) rfl

theorem vsel (x0 : VOp) : Statement (.vsel x0) :=
  of_v (op := 0x031) rfl (by decide) (by rw [rawV, encV_op, vop_encV]; rfl) rfl

theorem vflag (x0 : VOp) : Statement (.vflag x0) :=
  of_v (op := 0x032) rfl (by decide) (by rw [rawV, encV_op, vop_encV]; rfl) rfl

theorem vrnd (x0 : VOp) : Statement (.vrnd x0) :=
  of_v (op := 0x033) rfl (by decide) (by rw [rawV, encV_op, vop_encV]; rfl) rfl

theorem plog (x0 : VOp) : Statement (.plog x0) :=
  of_v (op := 0x038) rfl (by decide) (by rw [rawV, encV_op, vop_encV]; rfl) rfl

theorem pmov (x0 : VOp) : Statement (.pmov x0) :=
  of_v (op := 0x039) rfl (by decide) (by rw [rawV, encV_op, vop_encV]; rfl) rfl

theorem scmp (x0 : VOp) : Statement (.scmp x0) :=
  of_v (op := 0x040) rfl (by decide) (by rw [rawV, encV_op, vop_encV]; rfl) rfl

theorem qlog (x0 : VOp) : Statement (.qlog x0) :=
  of_v (op := 0x041) rfl (by decide) (by rw [rawV, encV_op, vop_encV]; rfl) rfl

theorem qnot (x0 : VOp) : Statement (.qnot x0) :=
  of_v (op := 0x042) rfl (by decide) (by rw [rawV, encV_op, vop_encV]; rfl) rfl

theorem qblend (x0 : VOp) : Statement (.qblend x0) :=
  of_v (op := 0x043) rfl (by decide) (by rw [rawV, encV_op, vop_encV]; rfl) rfl

theorem qcol (x0 : VOp) : Statement (.qcol x0) :=
  of_v (op := 0x044) rfl (by decide) (by rw [rawV, encV_op, vop_encV]; rfl) rfl

theorem qhard (x0 : VOp) : Statement (.qhard x0) :=
  of_v (op := 0x045) rfl (by decide) (by rw [rawV, encV_op, vop_encV]; rfl) rfl

theorem qmov (x0 : VOp) : Statement (.qmov x0) :=
  of_v (op := 0x046) rfl (by decide) (by rw [rawV, encV_op, vop_encV]; rfl) rfl

theorem qgrad (x0 : VOp) : Statement (.qgrad x0) :=
  of_v (op := 0x047) rfl (by decide) (by rw [rawV, encV_op, vop_encV]; rfl) rfl

theorem qbgrad (x0 : VOp) : Statement (.qbgrad x0) :=
  of_v (op := 0x048) rfl (by decide) (by rw [rawV, encV_op, vop_encV]; rfl) rfl

theorem qpgrad (x0 : VOp) : Statement (.qpgrad x0) :=
  of_v (op := 0x049) rfl (by decide) (by rw [rawV, encV_op, vop_encV]; rfl) rfl

theorem gemm (x0 : MOp) : Statement (.gemm x0) :=
  of_call rfl rfl (by decide) fun _ => by
    obtain ⟨h1, -, h3, -⟩ := mop_encM (r := 0) (by decide) x0
    have hc : ∀ w, w / 2 ^ 34 % 256 = 0 → rawCall w = some (.gemm (mop w)) := fun w h => by
      unfold rawCall; rw [h]; rfl
    rw [hc _ h3, h1]

theorem gemmt (x0 : MOp) : Statement (.gemmt x0) :=
  of_call rfl rfl (by decide) fun _ => by
    obtain ⟨h1, -, h3, -⟩ := mop_encM (r := 1) (by decide) x0
    have hc : ∀ w, w / 2 ^ 34 % 256 = 1 → rawCall w = some (.gemmt (mop w)) := fun w h => by
      unfold rawCall; rw [h]; rfl
    rw [hc _ h3, h1]

theorem conv (x0 : MOp) : Statement (.conv x0) :=
  of_call rfl rfl (by decide) fun _ => by
    obtain ⟨h1, -, h3, -⟩ := mop_encM (r := 2) (by decide) x0
    have hc : ∀ w, w / 2 ^ 34 % 256 = 2 → rawCall w = some (.conv (mop w)) := fun w h => by
      unfold rawCall; rw [h]; rfl
    rw [hc _ h3, h1]

theorem cgemm (x0 : MOp) : Statement (.cgemm x0) :=
  of_call rfl rfl (by decide) fun _ => by
    obtain ⟨h1, -, h3, -⟩ := mop_encM (r := 3) (by decide) x0
    have hc : ∀ w, w / 2 ^ 34 % 256 = 3 → rawCall w = some (.cgemm (mop w)) := fun w h => by
      unfold rawCall; rw [h]; rfl
    rw [hc _ h3, h1]

theorem gate (x0 : MOp) : Statement (.gate x0) :=
  of_call rfl rfl (by decide) fun _ => by
    obtain ⟨h1, -, h3, -⟩ := mop_encM (r := 4) (by decide) x0
    have hc : ∀ w, w / 2 ^ 34 % 256 = 4 → rawCall w = some (.gate (mop w)) := fun w h => by
      unfold rawCall; rw [h]; rfl
    rw [hc _ h3, h1]

theorem accrd (x0 : MOp) : Statement (.accrd x0) :=
  of_call rfl rfl (by decide) fun _ => by
    obtain ⟨h1, -, h3, -⟩ := mop_encM (r := 8) (by decide) x0
    have hc : ∀ w, w / 2 ^ 34 % 256 = 8 → rawCall w = some (.accrd (mop w)) := fun w h => by
      unfold rawCall; rw [h]; rfl
    rw [hc _ h3, h1]

theorem accclr (x0 : MOp) : Statement (.accclr x0) :=
  of_call rfl rfl (by decide) fun _ => by
    obtain ⟨h1, -, h3, -⟩ := mop_encM (r := 9) (by decide) x0
    have hc : ∀ w, w / 2 ^ 34 % 256 = 9 → rawCall w = some (.accclr (mop w)) := fun w h => by
      unfold rawCall; rw [h]; rfl
    rw [hc _ h3, h1]

theorem skinit (x0 : MOp) : Statement (.skinit x0) :=
  of_call rfl rfl (by decide) fun _ => by
    obtain ⟨h1, -, h3, -⟩ := mop_encM (r := 16) (by decide) x0
    have hc : ∀ w, w / 2 ^ 34 % 256 = 16 → rawCall w = some (.skinit (mop w)) := fun w h => by
      unfold rawCall; rw [h]; rfl
    rw [hc _ h3, h1]

theorem skfold (x0 : MOp) : Statement (.skfold x0) :=
  of_call rfl rfl (by decide) fun _ => by
    obtain ⟨h1, -, h3, -⟩ := mop_encM (r := 17) (by decide) x0
    have hc : ∀ w, w / 2 ^ 34 % 256 = 17 → rawCall w = some (.skfold (mop w)) := fun w h => by
      unfold rawCall; rw [h]; rfl
    rw [hc _ h3, h1]

theorem skshrink (x0 : MOp) : Statement (.skshrink x0) :=
  of_call rfl rfl (by decide) fun _ => by
    obtain ⟨h1, -, h3, -⟩ := mop_encM (r := 18) (by decide) x0
    have hc : ∀ w, w / 2 ^ 34 % 256 = 18 → rawCall w = some (.skshrink (mop w)) := fun w h => by
      unfold rawCall; rw [h]; rfl
    rw [hc _ h3, h1]

theorem skmerge (x0 : MOp) : Statement (.skmerge x0) :=
  of_call rfl rfl (by decide) fun _ => by
    obtain ⟨h1, -, h3, -⟩ := mop_encM (r := 19) (by decide) x0
    have hc : ∀ w, w / 2 ^ 34 % 256 = 19 → rawCall w = some (.skmerge (mop w)) := fun w h => by
      unfold rawCall; rw [h]; rfl
    rw [hc _ h3, h1]

theorem skrd (x0 : MOp) : Statement (.skrd x0) :=
  of_call rfl rfl (by decide) fun _ => by
    obtain ⟨h1, -, h3, -⟩ := mop_encM (r := 20) (by decide) x0
    have hc : ∀ w, w / 2 ^ 34 % 256 = 20 → rawCall w = some (.skrd (mop w)) := fun w h => by
      unfold rawCall; rw [h]; rfl
    rw [hc _ h3, h1]

theorem skwr (x0 : MOp) : Statement (.skwr x0) :=
  of_call rfl rfl (by decide) fun _ => by
    obtain ⟨h1, -, h3, -⟩ := mop_encM (r := 21) (by decide) x0
    have hc : ∀ w, w / 2 ^ 34 % 256 = 21 → rawCall w = some (.skwr (mop w)) := fun w h => by
      unfold rawCall; rw [h]; rfl
    rw [hc _ h3, h1]

theorem userRoutineCall (x0 : BitVec 8) (x1 : MOp) : Statement (.userRoutineCall x0 x1) := by
  refine of_call rfl rfl x0.isLt fun hw => ?_
  obtain ⟨h1, -, h3, h4⟩ := mop_encM x0.isLt x1
  simp only [Instr.wf, Bool.and_eq_true, decide_eq_true_eq] at hw
  have hb : x1.spec.getLsbD 0 = false := by simpa using hw.2
  rw [rawCall_user h3 hw.1, h4, hb, h1, ofNat_self]
  rfl

theorem userRoutineLoad (x0 : BitVec 8) (x1 : MOp) : Statement (.userRoutineLoad x0 x1) := by
  refine of_call rfl rfl x0.isLt fun hw => ?_
  obtain ⟨h1, -, h3, h4⟩ := mop_encM x0.isLt x1
  simp only [Instr.wf, Bool.and_eq_true, decide_eq_true_eq] at hw
  have hb : x1.spec.getLsbD 0 = true := by simpa using hw.2
  rw [rawCall_user h3 hw.1, h4, hb, h1, ofNat_self]
  rfl

theorem mstop (x0 : Tok) : Statement (.mstop x0) := by
  have b0 := x0.isLt
  have eo : (2 * 2 ^ 42 + x0.toNat * 2 ^ 28) / 2 ^ 42 = 2 := by omega
  have e0 : fld 6 28 (2 * 2 ^ 42 + x0.toNat * 2 ^ 28) = x0 := fld_eq (by omega)
  have hc : ∀ w, w / 2 ^ 42 = 2 → rawM w = some (.mstop (fld 6 28 w)) := fun w h => by
    unfold rawM; rw [h]; rfl
  refine of_slot (n := 4) (w := (2 * 2 ^ 42 + x0.toNat * 2 ^ 28)) rfl rfl (by omega) ?_
  have h1 : ∀ w, rawSlot 4 w = rawM w := fun _ => rfl
  rw [h1]
  rw [hc _ eo, e0]

theorem mstat (x0 : BitVec 3) (x1 : Bool) : Statement (.mstat x0 x1) := by
  have b0 := x0.isLt
  have b1 := toNat_le_one x1
  have eo : (3 * 2 ^ 42 + x1.toNat * 2 ^ 37 + x0.toNat * 2 ^ 34) / 2 ^ 42 = 3 := by omega
  have e0 : fld 3 34 (3 * 2 ^ 42 + x1.toNat * 2 ^ 37 + x0.toNat * 2 ^ 34) = x0 := fld_eq (by omega)
  have e1 : bit 37 (3 * 2 ^ 42 + x1.toNat * 2 ^ 37 + x0.toNat * 2 ^ 34) = x1 := bit_eq (by omega)
  have hc : ∀ w, w / 2 ^ 42 = 3 → rawM w = some (.mstat (fld 3 34 w) (bit 37 w)) := fun w h => by
    unfold rawM; rw [h]; rfl
  refine of_slot (n := 4) (w := (3 * 2 ^ 42 + x1.toNat * 2 ^ 37 + x0.toNat * 2 ^ 34)) rfl rfl (by omega) ?_
  have h1 : ∀ w, rawSlot 4 w = rawM w := fun _ => rfl
  rw [h1]
  rw [hc _ eo, e0, e1]

theorem ldv (x0 : CSlot) (x1 : BitVec 13) (x2 : SReg) (x3 : BitVec 13) (x4 : BitVec 2) : Statement (.ldv x0 x1 x2 x3 x4) := by
  have b0 := x1.isLt
  have b1 := x2.isLt
  have b2 := x3.isLt
  have b3 := x4.isLt
  have eo : (0x01 * 2 ^ 34 + x1.toNat * 2 ^ 21 + x2.toNat * 2 ^ 15 + x3.toNat * 2 ^ 2 + x4.toNat) / 2 ^ 34 = 0x01 := by omega
  have e1 : fld 13 21 (0x01 * 2 ^ 34 + x1.toNat * 2 ^ 21 + x2.toNat * 2 ^ 15 + x3.toNat * 2 ^ 2 + x4.toNat) = x1 := fld_eq (by omega)
  have e2 : fld 6 15 (0x01 * 2 ^ 34 + x1.toNat * 2 ^ 21 + x2.toNat * 2 ^ 15 + x3.toNat * 2 ^ 2 + x4.toNat) = x2 := fld_eq (by omega)
  have e3 : fld 13 2 (0x01 * 2 ^ 34 + x1.toNat * 2 ^ 21 + x2.toNat * 2 ^ 15 + x3.toNat * 2 ^ 2 + x4.toNat) = x3 := fld_eq (by omega)
  have e4 : fld 2 0 (0x01 * 2 ^ 34 + x1.toNat * 2 ^ 21 + x2.toNat * 2 ^ 15 + x3.toNat * 2 ^ 2 + x4.toNat) = x4 := fld_eq (by omega)
  have hc : ∀ w, w / 2 ^ 34 = 0x01 → rawC x0 w = some (.ldv x0 (fld 13 21 w) (fld 6 15 w) (fld 13 2 w) (fld 2 0 w)) := fun w h => by
    unfold rawC; rw [h]; rfl
  exact of_c (w := (0x01 * 2 ^ 34 + x1.toNat * 2 ^ 21 + x2.toNat * 2 ^ 15 + x3.toNat * 2 ^ 2 + x4.toNat)) rfl rfl (by omega) (by rw [hc _ eo, e1, e2, e3, e4])

theorem stv (x0 : CSlot) (x1 : BitVec 13) (x2 : SReg) (x3 : BitVec 13) (x4 : BitVec 2) : Statement (.stv x0 x1 x2 x3 x4) := by
  have b0 := x1.isLt
  have b1 := x2.isLt
  have b2 := x3.isLt
  have b3 := x4.isLt
  have eo : (0x02 * 2 ^ 34 + x1.toNat * 2 ^ 21 + x2.toNat * 2 ^ 15 + x3.toNat * 2 ^ 2 + x4.toNat) / 2 ^ 34 = 0x02 := by omega
  have e1 : fld 13 21 (0x02 * 2 ^ 34 + x1.toNat * 2 ^ 21 + x2.toNat * 2 ^ 15 + x3.toNat * 2 ^ 2 + x4.toNat) = x1 := fld_eq (by omega)
  have e2 : fld 6 15 (0x02 * 2 ^ 34 + x1.toNat * 2 ^ 21 + x2.toNat * 2 ^ 15 + x3.toNat * 2 ^ 2 + x4.toNat) = x2 := fld_eq (by omega)
  have e3 : fld 13 2 (0x02 * 2 ^ 34 + x1.toNat * 2 ^ 21 + x2.toNat * 2 ^ 15 + x3.toNat * 2 ^ 2 + x4.toNat) = x3 := fld_eq (by omega)
  have e4 : fld 2 0 (0x02 * 2 ^ 34 + x1.toNat * 2 ^ 21 + x2.toNat * 2 ^ 15 + x3.toNat * 2 ^ 2 + x4.toNat) = x4 := fld_eq (by omega)
  have hc : ∀ w, w / 2 ^ 34 = 0x02 → rawC x0 w = some (.stv x0 (fld 13 21 w) (fld 6 15 w) (fld 13 2 w) (fld 2 0 w)) := fun w h => by
    unfold rawC; rw [h]; rfl
  exact of_c (w := (0x02 * 2 ^ 34 + x1.toNat * 2 ^ 21 + x2.toNat * 2 ^ 15 + x3.toNat * 2 ^ 2 + x4.toNat)) rfl rfl (by omega) (by rw [hc _ eo, e1, e2, e3, e4])

theorem ldvs (x0 : CSlot) (x1 : BitVec 13) (x2 : SReg) (x3 : SReg) (x4 : SReg) (x5 : BitVec 2) : Statement (.ldvs x0 x1 x2 x3 x4 x5) := by
  have b0 := x1.isLt
  have b1 := x2.isLt
  have b2 := x3.isLt
  have b3 := x4.isLt
  have b4 := x5.isLt
  have eo : (0x03 * 2 ^ 34 + x1.toNat * 2 ^ 21 + x2.toNat * 2 ^ 15 + x3.toNat * 2 ^ 9 + x4.toNat * 2 ^ 3 + x5.toNat) / 2 ^ 34 = 0x03 := by omega
  have e1 : fld 13 21 (0x03 * 2 ^ 34 + x1.toNat * 2 ^ 21 + x2.toNat * 2 ^ 15 + x3.toNat * 2 ^ 9 + x4.toNat * 2 ^ 3 + x5.toNat) = x1 := fld_eq (by omega)
  have e2 : fld 6 15 (0x03 * 2 ^ 34 + x1.toNat * 2 ^ 21 + x2.toNat * 2 ^ 15 + x3.toNat * 2 ^ 9 + x4.toNat * 2 ^ 3 + x5.toNat) = x2 := fld_eq (by omega)
  have e3 : fld 6 9 (0x03 * 2 ^ 34 + x1.toNat * 2 ^ 21 + x2.toNat * 2 ^ 15 + x3.toNat * 2 ^ 9 + x4.toNat * 2 ^ 3 + x5.toNat) = x3 := fld_eq (by omega)
  have e4 : fld 6 3 (0x03 * 2 ^ 34 + x1.toNat * 2 ^ 21 + x2.toNat * 2 ^ 15 + x3.toNat * 2 ^ 9 + x4.toNat * 2 ^ 3 + x5.toNat) = x4 := fld_eq (by omega)
  have e5 : fld 2 0 (0x03 * 2 ^ 34 + x1.toNat * 2 ^ 21 + x2.toNat * 2 ^ 15 + x3.toNat * 2 ^ 9 + x4.toNat * 2 ^ 3 + x5.toNat) = x5 := fld_eq (by omega)
  have hc : ∀ w, w / 2 ^ 34 = 0x03 → rawC x0 w = some (.ldvs x0 (fld 13 21 w) (fld 6 15 w) (fld 6 9 w) (fld 6 3 w) (fld 2 0 w)) := fun w h => by
    unfold rawC; rw [h]; rfl
  exact of_c (w := (0x03 * 2 ^ 34 + x1.toNat * 2 ^ 21 + x2.toNat * 2 ^ 15 + x3.toNat * 2 ^ 9 + x4.toNat * 2 ^ 3 + x5.toNat)) rfl rfl (by omega) (by rw [hc _ eo, e1, e2, e3, e4, e5])

theorem stvs (x0 : CSlot) (x1 : BitVec 13) (x2 : SReg) (x3 : SReg) (x4 : BitVec 2) : Statement (.stvs x0 x1 x2 x3 x4) := by
  have b0 := x1.isLt
  have b1 := x2.isLt
  have b2 := x3.isLt
  have b3 := x4.isLt
  have eo : (0x04 * 2 ^ 34 + x1.toNat * 2 ^ 21 + x2.toNat * 2 ^ 15 + x3.toNat * 2 ^ 9 + x4.toNat) / 2 ^ 34 = 0x04 := by omega
  have e1 : fld 13 21 (0x04 * 2 ^ 34 + x1.toNat * 2 ^ 21 + x2.toNat * 2 ^ 15 + x3.toNat * 2 ^ 9 + x4.toNat) = x1 := fld_eq (by omega)
  have e2 : fld 6 15 (0x04 * 2 ^ 34 + x1.toNat * 2 ^ 21 + x2.toNat * 2 ^ 15 + x3.toNat * 2 ^ 9 + x4.toNat) = x2 := fld_eq (by omega)
  have e3 : fld 6 9 (0x04 * 2 ^ 34 + x1.toNat * 2 ^ 21 + x2.toNat * 2 ^ 15 + x3.toNat * 2 ^ 9 + x4.toNat) = x3 := fld_eq (by omega)
  have e4 : fld 2 0 (0x04 * 2 ^ 34 + x1.toNat * 2 ^ 21 + x2.toNat * 2 ^ 15 + x3.toNat * 2 ^ 9 + x4.toNat) = x4 := fld_eq (by omega)
  have hc : ∀ w, w / 2 ^ 34 = 0x04 → rawC x0 w = some (.stvs x0 (fld 13 21 w) (fld 6 15 w) (fld 6 9 w) (fld 2 0 w)) := fun w h => by
    unfold rawC; rw [h]; rfl
  exact of_c (w := (0x04 * 2 ^ 34 + x1.toNat * 2 ^ 21 + x2.toNat * 2 ^ 15 + x3.toNat * 2 ^ 9 + x4.toNat)) rfl rfl (by omega) (by rw [hc _ eo, e1, e2, e3, e4])

theorem ldx (x0 : CSlot) (x1 : BitVec 13) (x2 : SReg) (x3 : BitVec 13) (x4 : BitVec 2) : Statement (.ldx x0 x1 x2 x3 x4) := by
  have b0 := x1.isLt
  have b1 := x2.isLt
  have b2 := x3.isLt
  have b3 := x4.isLt
  have eo : (0x05 * 2 ^ 34 + x1.toNat * 2 ^ 21 + x2.toNat * 2 ^ 15 + x3.toNat * 2 ^ 2 + x4.toNat) / 2 ^ 34 = 0x05 := by omega
  have e1 : fld 13 21 (0x05 * 2 ^ 34 + x1.toNat * 2 ^ 21 + x2.toNat * 2 ^ 15 + x3.toNat * 2 ^ 2 + x4.toNat) = x1 := fld_eq (by omega)
  have e2 : fld 6 15 (0x05 * 2 ^ 34 + x1.toNat * 2 ^ 21 + x2.toNat * 2 ^ 15 + x3.toNat * 2 ^ 2 + x4.toNat) = x2 := fld_eq (by omega)
  have e3 : fld 13 2 (0x05 * 2 ^ 34 + x1.toNat * 2 ^ 21 + x2.toNat * 2 ^ 15 + x3.toNat * 2 ^ 2 + x4.toNat) = x3 := fld_eq (by omega)
  have e4 : fld 2 0 (0x05 * 2 ^ 34 + x1.toNat * 2 ^ 21 + x2.toNat * 2 ^ 15 + x3.toNat * 2 ^ 2 + x4.toNat) = x4 := fld_eq (by omega)
  have hc : ∀ w, w / 2 ^ 34 = 0x05 → rawC x0 w = some (.ldx x0 (fld 13 21 w) (fld 6 15 w) (fld 13 2 w) (fld 2 0 w)) := fun w h => by
    unfold rawC; rw [h]; rfl
  exact of_c (w := (0x05 * 2 ^ 34 + x1.toNat * 2 ^ 21 + x2.toNat * 2 ^ 15 + x3.toNat * 2 ^ 2 + x4.toNat)) rfl rfl (by omega) (by rw [hc _ eo, e1, e2, e3, e4])

theorem stx (x0 : CSlot) (x1 : BitVec 13) (x2 : SReg) (x3 : BitVec 13) (x4 : BitVec 2) : Statement (.stx x0 x1 x2 x3 x4) := by
  have b0 := x1.isLt
  have b1 := x2.isLt
  have b2 := x3.isLt
  have b3 := x4.isLt
  have eo : (0x06 * 2 ^ 34 + x1.toNat * 2 ^ 21 + x2.toNat * 2 ^ 15 + x3.toNat * 2 ^ 2 + x4.toNat) / 2 ^ 34 = 0x06 := by omega
  have e1 : fld 13 21 (0x06 * 2 ^ 34 + x1.toNat * 2 ^ 21 + x2.toNat * 2 ^ 15 + x3.toNat * 2 ^ 2 + x4.toNat) = x1 := fld_eq (by omega)
  have e2 : fld 6 15 (0x06 * 2 ^ 34 + x1.toNat * 2 ^ 21 + x2.toNat * 2 ^ 15 + x3.toNat * 2 ^ 2 + x4.toNat) = x2 := fld_eq (by omega)
  have e3 : fld 13 2 (0x06 * 2 ^ 34 + x1.toNat * 2 ^ 21 + x2.toNat * 2 ^ 15 + x3.toNat * 2 ^ 2 + x4.toNat) = x3 := fld_eq (by omega)
  have e4 : fld 2 0 (0x06 * 2 ^ 34 + x1.toNat * 2 ^ 21 + x2.toNat * 2 ^ 15 + x3.toNat * 2 ^ 2 + x4.toNat) = x4 := fld_eq (by omega)
  have hc : ∀ w, w / 2 ^ 34 = 0x06 → rawC x0 w = some (.stx x0 (fld 13 21 w) (fld 6 15 w) (fld 13 2 w) (fld 2 0 w)) := fun w h => by
    unfold rawC; rw [h]; rfl
  exact of_c (w := (0x06 * 2 ^ 34 + x1.toNat * 2 ^ 21 + x2.toNat * 2 ^ 15 + x3.toNat * 2 ^ 2 + x4.toNat)) rfl rfl (by omega) (by rw [hc _ eo, e1, e2, e3, e4])

theorem ldt (x0 : CSlot) (x1 : BitVec 5) (x2 : SReg) (x3 : SReg) (x4 : SReg) (x5 : Bool) (x6 : BitVec 2) : Statement (.ldt x0 x1 x2 x3 x4 x5 x6) := by
  have b0 := x1.isLt
  have b1 := x2.isLt
  have b2 := x3.isLt
  have b3 := x4.isLt
  have b4 := toNat_le_one x5
  have b5 := x6.isLt
  have eo : (0x07 * 2 ^ 34 + x1.toNat * 2 ^ 29 + x2.toNat * 2 ^ 23 + x3.toNat * 2 ^ 17 + x4.toNat * 2 ^ 11 + x5.toNat * 2 ^ 10 + x6.toNat) / 2 ^ 34 = 0x07 := by omega
  have e1 : fld 5 29 (0x07 * 2 ^ 34 + x1.toNat * 2 ^ 29 + x2.toNat * 2 ^ 23 + x3.toNat * 2 ^ 17 + x4.toNat * 2 ^ 11 + x5.toNat * 2 ^ 10 + x6.toNat) = x1 := fld_eq (by omega)
  have e2 : fld 6 23 (0x07 * 2 ^ 34 + x1.toNat * 2 ^ 29 + x2.toNat * 2 ^ 23 + x3.toNat * 2 ^ 17 + x4.toNat * 2 ^ 11 + x5.toNat * 2 ^ 10 + x6.toNat) = x2 := fld_eq (by omega)
  have e3 : fld 6 17 (0x07 * 2 ^ 34 + x1.toNat * 2 ^ 29 + x2.toNat * 2 ^ 23 + x3.toNat * 2 ^ 17 + x4.toNat * 2 ^ 11 + x5.toNat * 2 ^ 10 + x6.toNat) = x3 := fld_eq (by omega)
  have e4 : fld 6 11 (0x07 * 2 ^ 34 + x1.toNat * 2 ^ 29 + x2.toNat * 2 ^ 23 + x3.toNat * 2 ^ 17 + x4.toNat * 2 ^ 11 + x5.toNat * 2 ^ 10 + x6.toNat) = x4 := fld_eq (by omega)
  have e5 : bit 10 (0x07 * 2 ^ 34 + x1.toNat * 2 ^ 29 + x2.toNat * 2 ^ 23 + x3.toNat * 2 ^ 17 + x4.toNat * 2 ^ 11 + x5.toNat * 2 ^ 10 + x6.toNat) = x5 := bit_eq (by omega)
  have e6 : fld 2 0 (0x07 * 2 ^ 34 + x1.toNat * 2 ^ 29 + x2.toNat * 2 ^ 23 + x3.toNat * 2 ^ 17 + x4.toNat * 2 ^ 11 + x5.toNat * 2 ^ 10 + x6.toNat) = x6 := fld_eq (by omega)
  have hc : ∀ w, w / 2 ^ 34 = 0x07 → rawC x0 w = some (.ldt x0 (fld 5 29 w) (fld 6 23 w) (fld 6 17 w) (fld 6 11 w) (bit 10 w) (fld 2 0 w)) := fun w h => by
    unfold rawC; rw [h]; rfl
  exact of_c (w := (0x07 * 2 ^ 34 + x1.toNat * 2 ^ 29 + x2.toNat * 2 ^ 23 + x3.toNat * 2 ^ 17 + x4.toNat * 2 ^ 11 + x5.toNat * 2 ^ 10 + x6.toNat)) rfl rfl (by omega) (by rw [hc _ eo, e1, e2, e3, e4, e5, e6])

theorem stt (x0 : CSlot) (x1 : BitVec 5) (x2 : SReg) (x3 : SReg) (x4 : Bool) (x5 : BitVec 2) : Statement (.stt x0 x1 x2 x3 x4 x5) := by
  have b0 := x1.isLt
  have b1 := x2.isLt
  have b2 := x3.isLt
  have b3 := toNat_le_one x4
  have b4 := x5.isLt
  have eo : (0x08 * 2 ^ 34 + x1.toNat * 2 ^ 29 + x2.toNat * 2 ^ 23 + x3.toNat * 2 ^ 17 + x4.toNat * 2 ^ 10 + x5.toNat) / 2 ^ 34 = 0x08 := by omega
  have e1 : fld 5 29 (0x08 * 2 ^ 34 + x1.toNat * 2 ^ 29 + x2.toNat * 2 ^ 23 + x3.toNat * 2 ^ 17 + x4.toNat * 2 ^ 10 + x5.toNat) = x1 := fld_eq (by omega)
  have e2 : fld 6 23 (0x08 * 2 ^ 34 + x1.toNat * 2 ^ 29 + x2.toNat * 2 ^ 23 + x3.toNat * 2 ^ 17 + x4.toNat * 2 ^ 10 + x5.toNat) = x2 := fld_eq (by omega)
  have e3 : fld 6 17 (0x08 * 2 ^ 34 + x1.toNat * 2 ^ 29 + x2.toNat * 2 ^ 23 + x3.toNat * 2 ^ 17 + x4.toNat * 2 ^ 10 + x5.toNat) = x3 := fld_eq (by omega)
  have e4 : bit 10 (0x08 * 2 ^ 34 + x1.toNat * 2 ^ 29 + x2.toNat * 2 ^ 23 + x3.toNat * 2 ^ 17 + x4.toNat * 2 ^ 10 + x5.toNat) = x4 := bit_eq (by omega)
  have e5 : fld 2 0 (0x08 * 2 ^ 34 + x1.toNat * 2 ^ 29 + x2.toNat * 2 ^ 23 + x3.toNat * 2 ^ 17 + x4.toNat * 2 ^ 10 + x5.toNat) = x5 := fld_eq (by omega)
  have hc : ∀ w, w / 2 ^ 34 = 0x08 → rawC x0 w = some (.stt x0 (fld 5 29 w) (fld 6 23 w) (fld 6 17 w) (bit 10 w) (fld 2 0 w)) := fun w h => by
    unfold rawC; rw [h]; rfl
  exact of_c (w := (0x08 * 2 ^ 34 + x1.toNat * 2 ^ 29 + x2.toNat * 2 ^ 23 + x3.toNat * 2 ^ 17 + x4.toNat * 2 ^ 10 + x5.toNat)) rfl rfl (by omega) (by rw [hc _ eo, e1, e2, e3, e4, e5])

theorem copy (x0 : CSlot) (x1 : BitVec 4) (x2 : SReg) (x3 : Tok) (x4 : Tok) (x5 : Tok) (x6 : Tok) : Statement (.copy x0 x1 x2 x3 x4 x5 x6) := by
  have b0 := x1.isLt
  have b1 := x2.isLt
  have b2 := x3.isLt
  have b3 := x4.isLt
  have b4 := x5.isLt
  have b5 := x6.isLt
  have eo : (0x10 * 2 ^ 34 + x1.toNat * 2 ^ 30 + x2.toNat * 2 ^ 24 + x3.toNat * 2 ^ 18 + x4.toNat * 2 ^ 12 + x5.toNat * 2 ^ 6 + x6.toNat) / 2 ^ 34 = 0x10 := by omega
  have e1 : fld 4 30 (0x10 * 2 ^ 34 + x1.toNat * 2 ^ 30 + x2.toNat * 2 ^ 24 + x3.toNat * 2 ^ 18 + x4.toNat * 2 ^ 12 + x5.toNat * 2 ^ 6 + x6.toNat) = x1 := fld_eq (by omega)
  have e2 : fld 6 24 (0x10 * 2 ^ 34 + x1.toNat * 2 ^ 30 + x2.toNat * 2 ^ 24 + x3.toNat * 2 ^ 18 + x4.toNat * 2 ^ 12 + x5.toNat * 2 ^ 6 + x6.toNat) = x2 := fld_eq (by omega)
  have e3 : fld 6 18 (0x10 * 2 ^ 34 + x1.toNat * 2 ^ 30 + x2.toNat * 2 ^ 24 + x3.toNat * 2 ^ 18 + x4.toNat * 2 ^ 12 + x5.toNat * 2 ^ 6 + x6.toNat) = x3 := fld_eq (by omega)
  have e4 : fld 6 12 (0x10 * 2 ^ 34 + x1.toNat * 2 ^ 30 + x2.toNat * 2 ^ 24 + x3.toNat * 2 ^ 18 + x4.toNat * 2 ^ 12 + x5.toNat * 2 ^ 6 + x6.toNat) = x4 := fld_eq (by omega)
  have e5 : fld 6 6 (0x10 * 2 ^ 34 + x1.toNat * 2 ^ 30 + x2.toNat * 2 ^ 24 + x3.toNat * 2 ^ 18 + x4.toNat * 2 ^ 12 + x5.toNat * 2 ^ 6 + x6.toNat) = x5 := fld_eq (by omega)
  have e6 : fld 6 0 (0x10 * 2 ^ 34 + x1.toNat * 2 ^ 30 + x2.toNat * 2 ^ 24 + x3.toNat * 2 ^ 18 + x4.toNat * 2 ^ 12 + x5.toNat * 2 ^ 6 + x6.toNat) = x6 := fld_eq (by omega)
  have hc : ∀ w, w / 2 ^ 34 = 0x10 → rawC x0 w = some (.copy x0 (fld 4 30 w) (fld 6 24 w) (fld 6 18 w) (fld 6 12 w) (fld 6 6 w) (fld 6 0 w)) := fun w h => by
    unfold rawC; rw [h]; rfl
  exact of_c (w := (0x10 * 2 ^ 34 + x1.toNat * 2 ^ 30 + x2.toNat * 2 ^ 24 + x3.toNat * 2 ^ 18 + x4.toNat * 2 ^ 12 + x5.toNat * 2 ^ 6 + x6.toNat)) rfl rfl (by omega) (by rw [hc _ eo, e1, e2, e3, e4, e5, e6])

theorem arrive (x0 : CSlot) (x1 : SReg) (x2 : BitVec 2) : Statement (.arrive x0 x1 x2) := by
  have b0 := x1.isLt
  have b1 := x2.isLt
  have eo : (0x11 * 2 ^ 34 + x1.toNat * 2 ^ 28 + x2.toNat * 2 ^ 26) / 2 ^ 34 = 0x11 := by omega
  have e1 : fld 6 28 (0x11 * 2 ^ 34 + x1.toNat * 2 ^ 28 + x2.toNat * 2 ^ 26) = x1 := fld_eq (by omega)
  have e2 : fld 2 26 (0x11 * 2 ^ 34 + x1.toNat * 2 ^ 28 + x2.toNat * 2 ^ 26) = x2 := fld_eq (by omega)
  have hc : ∀ w, w / 2 ^ 34 = 0x11 → rawC x0 w = some (.arrive x0 (fld 6 28 w) (fld 2 26 w)) := fun w h => by
    unfold rawC; rw [h]; rfl
  exact of_c (w := (0x11 * 2 ^ 34 + x1.toNat * 2 ^ 28 + x2.toNat * 2 ^ 26)) rfl rfl (by omega) (by rw [hc _ eo, e1, e2])

theorem expect (x0 : CSlot) (x1 : SReg) (x2 : BitVec 2) (x3 : SReg) : Statement (.expect x0 x1 x2 x3) := by
  have b0 := x1.isLt
  have b1 := x2.isLt
  have b2 := x3.isLt
  have eo : (0x12 * 2 ^ 34 + x1.toNat * 2 ^ 28 + x2.toNat * 2 ^ 26 + x3.toNat * 2 ^ 20) / 2 ^ 34 = 0x12 := by omega
  have e1 : fld 6 28 (0x12 * 2 ^ 34 + x1.toNat * 2 ^ 28 + x2.toNat * 2 ^ 26 + x3.toNat * 2 ^ 20) = x1 := fld_eq (by omega)
  have e2 : fld 2 26 (0x12 * 2 ^ 34 + x1.toNat * 2 ^ 28 + x2.toNat * 2 ^ 26 + x3.toNat * 2 ^ 20) = x2 := fld_eq (by omega)
  have e3 : fld 6 20 (0x12 * 2 ^ 34 + x1.toNat * 2 ^ 28 + x2.toNat * 2 ^ 26 + x3.toNat * 2 ^ 20) = x3 := fld_eq (by omega)
  have hc : ∀ w, w / 2 ^ 34 = 0x12 → rawC x0 w = some (.expect x0 (fld 6 28 w) (fld 2 26 w) (fld 6 20 w)) := fun w h => by
    unfold rawC; rw [h]; rfl
  exact of_c (w := (0x12 * 2 ^ 34 + x1.toNat * 2 ^ 28 + x2.toNat * 2 ^ 26 + x3.toNat * 2 ^ 20)) rfl rfl (by omega) (by rw [hc _ eo, e1, e2, e3])

theorem tokclr (x0 : CSlot) (x1 : Tok) : Statement (.tokclr x0 x1) := by
  have b0 := x1.isLt
  have eo : (0x13 * 2 ^ 34 + x1.toNat * 2 ^ 28) / 2 ^ 34 = 0x13 := by omega
  have e1 : fld 6 28 (0x13 * 2 ^ 34 + x1.toNat * 2 ^ 28) = x1 := fld_eq (by omega)
  have hc : ∀ w, w / 2 ^ 34 = 0x13 → rawC x0 w = some (.tokclr x0 (fld 6 28 w)) := fun w h => by
    unfold rawC; rw [h]; rfl
  exact of_c (w := (0x13 * 2 ^ 34 + x1.toNat * 2 ^ 28)) rfl rfl (by omega) (by rw [hc _ eo, e1])

theorem cflush (x0 : CSlot) (x1 : SReg) (x2 : SReg) (x3 : Bool) (x4 : Tok) : Statement (.cflush x0 x1 x2 x3 x4) := by
  have b0 := x1.isLt
  have b1 := x2.isLt
  have b2 := toNat_le_one x3
  have b3 := x4.isLt
  have eo : (0x14 * 2 ^ 34 + x1.toNat * 2 ^ 28 + x2.toNat * 2 ^ 22 + x3.toNat * 2 ^ 21 + x4.toNat * 2 ^ 15) / 2 ^ 34 = 0x14 := by omega
  have e1 : fld 6 28 (0x14 * 2 ^ 34 + x1.toNat * 2 ^ 28 + x2.toNat * 2 ^ 22 + x3.toNat * 2 ^ 21 + x4.toNat * 2 ^ 15) = x1 := fld_eq (by omega)
  have e2 : fld 6 22 (0x14 * 2 ^ 34 + x1.toNat * 2 ^ 28 + x2.toNat * 2 ^ 22 + x3.toNat * 2 ^ 21 + x4.toNat * 2 ^ 15) = x2 := fld_eq (by omega)
  have e3 : bit 21 (0x14 * 2 ^ 34 + x1.toNat * 2 ^ 28 + x2.toNat * 2 ^ 22 + x3.toNat * 2 ^ 21 + x4.toNat * 2 ^ 15) = x3 := bit_eq (by omega)
  have e4 : fld 6 15 (0x14 * 2 ^ 34 + x1.toNat * 2 ^ 28 + x2.toNat * 2 ^ 22 + x3.toNat * 2 ^ 21 + x4.toNat * 2 ^ 15) = x4 := fld_eq (by omega)
  have hc : ∀ w, w / 2 ^ 34 = 0x14 → rawC x0 w = some (.cflush x0 (fld 6 28 w) (fld 6 22 w) (bit 21 w) (fld 6 15 w)) := fun w h => by
    unfold rawC; rw [h]; rfl
  exact of_c (w := (0x14 * 2 ^ 34 + x1.toNat * 2 ^ 28 + x2.toNat * 2 ^ 22 + x3.toNat * 2 ^ 21 + x4.toNat * 2 ^ 15)) rfl rfl (by omega) (by rw [hc _ eo, e1, e2, e3, e4])

theorem send (x0 : BitVec 5) (x1 : BitVec 13) (x2 : BitVec 15) : Statement (.send x0 x1 x2) := by
  have b0 := x0.isLt
  have b1 := x1.isLt
  have b2 := x2.isLt
  have eo : (1 * 2 ^ 34 + x0.toNat * 2 ^ 28 + x1.toNat * 2 ^ 15 + x2.toNat) / 2 ^ 34 = 1 := by omega
  have e0 : fld 5 28 (1 * 2 ^ 34 + x0.toNat * 2 ^ 28 + x1.toNat * 2 ^ 15 + x2.toNat) = x0 := fld_eq (by omega)
  have e1 : fld 13 15 (1 * 2 ^ 34 + x0.toNat * 2 ^ 28 + x1.toNat * 2 ^ 15 + x2.toNat) = x1 := fld_eq (by omega)
  have e2 : fld 15 0 (1 * 2 ^ 34 + x0.toNat * 2 ^ 28 + x1.toNat * 2 ^ 15 + x2.toNat) = x2 := fld_eq (by omega)
  have hc : ∀ w, w / 2 ^ 34 = 1 → rawN w = some (.send (fld 5 28 w) (fld 13 15 w) (fld 15 0 w)) := fun w h => by
    unfold rawN; rw [h]; rfl
  refine of_slot (n := 7) (w := (1 * 2 ^ 34 + x0.toNat * 2 ^ 28 + x1.toNat * 2 ^ 15 + x2.toNat)) rfl rfl (by omega) ?_
  have h1 : ∀ w, rawSlot 7 w = rawN w := fun _ => rfl
  rw [h1]
  rw [hc _ eo, e0, e1, e2]

theorem recv (x0 : BitVec 5) (x1 : BitVec 13) (x2 : BitVec 15) : Statement (.recv x0 x1 x2) := by
  have b0 := x0.isLt
  have b1 := x1.isLt
  have b2 := x2.isLt
  have eo : (2 * 2 ^ 34 + x0.toNat * 2 ^ 28 + x1.toNat * 2 ^ 15 + x2.toNat) / 2 ^ 34 = 2 := by omega
  have e0 : fld 5 28 (2 * 2 ^ 34 + x0.toNat * 2 ^ 28 + x1.toNat * 2 ^ 15 + x2.toNat) = x0 := fld_eq (by omega)
  have e1 : fld 13 15 (2 * 2 ^ 34 + x0.toNat * 2 ^ 28 + x1.toNat * 2 ^ 15 + x2.toNat) = x1 := fld_eq (by omega)
  have e2 : fld 15 0 (2 * 2 ^ 34 + x0.toNat * 2 ^ 28 + x1.toNat * 2 ^ 15 + x2.toNat) = x2 := fld_eq (by omega)
  have hc : ∀ w, w / 2 ^ 34 = 2 → rawN w = some (.recv (fld 5 28 w) (fld 13 15 w) (fld 15 0 w)) := fun w h => by
    unfold rawN; rw [h]; rfl
  refine of_slot (n := 7) (w := (2 * 2 ^ 34 + x0.toNat * 2 ^ 28 + x1.toNat * 2 ^ 15 + x2.toNat)) rfl rfl (by omega) ?_
  have h1 : ∀ w, rawSlot 7 w = rawN w := fun _ => rfl
  rw [h1]
  rw [hc _ eo, e0, e1, e2]

theorem recvadd (x0 : BitVec 5) (x1 : BitVec 13) (x2 : BitVec 15) : Statement (.recvadd x0 x1 x2) := by
  have b0 := x0.isLt
  have b1 := x1.isLt
  have b2 := x2.isLt
  have eo : (3 * 2 ^ 34 + x0.toNat * 2 ^ 28 + x1.toNat * 2 ^ 15 + x2.toNat) / 2 ^ 34 = 3 := by omega
  have e0 : fld 5 28 (3 * 2 ^ 34 + x0.toNat * 2 ^ 28 + x1.toNat * 2 ^ 15 + x2.toNat) = x0 := fld_eq (by omega)
  have e1 : fld 13 15 (3 * 2 ^ 34 + x0.toNat * 2 ^ 28 + x1.toNat * 2 ^ 15 + x2.toNat) = x1 := fld_eq (by omega)
  have e2 : fld 15 0 (3 * 2 ^ 34 + x0.toNat * 2 ^ 28 + x1.toNat * 2 ^ 15 + x2.toNat) = x2 := fld_eq (by omega)
  have hc : ∀ w, w / 2 ^ 34 = 3 → rawN w = some (.recvadd (fld 5 28 w) (fld 13 15 w) (fld 15 0 w)) := fun w h => by
    unfold rawN; rw [h]; rfl
  refine of_slot (n := 7) (w := (3 * 2 ^ 34 + x0.toNat * 2 ^ 28 + x1.toNat * 2 ^ 15 + x2.toNat)) rfl rfl (by omega) ?_
  have h1 : ∀ w, rawSlot 7 w = rawN w := fun _ => rfl
  rw [h1]
  rw [hc _ eo, e0, e1, e2]

theorem recvsq (x0 : BitVec 5) (x1 : BitVec 13) (x2 : BitVec 15) : Statement (.recvsq x0 x1 x2) := by
  have b0 := x0.isLt
  have b1 := x1.isLt
  have b2 := x2.isLt
  have eo : (4 * 2 ^ 34 + x0.toNat * 2 ^ 28 + x1.toNat * 2 ^ 15 + x2.toNat) / 2 ^ 34 = 4 := by omega
  have e0 : fld 5 28 (4 * 2 ^ 34 + x0.toNat * 2 ^ 28 + x1.toNat * 2 ^ 15 + x2.toNat) = x0 := fld_eq (by omega)
  have e1 : fld 13 15 (4 * 2 ^ 34 + x0.toNat * 2 ^ 28 + x1.toNat * 2 ^ 15 + x2.toNat) = x1 := fld_eq (by omega)
  have e2 : fld 15 0 (4 * 2 ^ 34 + x0.toNat * 2 ^ 28 + x1.toNat * 2 ^ 15 + x2.toNat) = x2 := fld_eq (by omega)
  have hc : ∀ w, w / 2 ^ 34 = 4 → rawN w = some (.recvsq (fld 5 28 w) (fld 13 15 w) (fld 15 0 w)) := fun w h => by
    unfold rawN; rw [h]; rfl
  refine of_slot (n := 7) (w := (4 * 2 ^ 34 + x0.toNat * 2 ^ 28 + x1.toNat * 2 ^ 15 + x2.toNat)) rfl rfl (by omega) ?_
  have h1 : ∀ w, rawSlot 7 w = rawN w := fun _ => rfl
  rw [h1]
  rw [hc _ eo, e0, e1, e2]

theorem putsig (x0 : BitVec 3) (x1 : BitVec 13) (x2 : SReg) : Statement (.putsig x0 x1 x2) := by
  have b0 := x0.isLt
  have b1 := x1.isLt
  have b2 := x2.isLt
  have eo : (5 * 2 ^ 34 + x0.toNat * 2 ^ 28 + x1.toNat * 2 ^ 15 + x2.toNat * 2 ^ 9) / 2 ^ 34 = 5 := by omega
  have e0 : fld 3 28 (5 * 2 ^ 34 + x0.toNat * 2 ^ 28 + x1.toNat * 2 ^ 15 + x2.toNat * 2 ^ 9) = x0 := fld_eq (by omega)
  have e1 : fld 13 15 (5 * 2 ^ 34 + x0.toNat * 2 ^ 28 + x1.toNat * 2 ^ 15 + x2.toNat * 2 ^ 9) = x1 := fld_eq (by omega)
  have e2 : fld 6 9 (5 * 2 ^ 34 + x0.toNat * 2 ^ 28 + x1.toNat * 2 ^ 15 + x2.toNat * 2 ^ 9) = x2 := fld_eq (by omega)
  have hc : ∀ w, w / 2 ^ 34 = 5 → rawN w = some (.putsig (fld 3 28 w) (fld 13 15 w) (fld 6 9 w)) := fun w h => by
    unfold rawN; rw [h]; rfl
  refine of_slot (n := 7) (w := (5 * 2 ^ 34 + x0.toNat * 2 ^ 28 + x1.toNat * 2 ^ 15 + x2.toNat * 2 ^ 9)) rfl rfl (by omega) ?_
  have h1 : ∀ w, rawSlot 7 w = rawN w := fun _ => rfl
  rw [h1]
  rw [hc _ eo, e0, e1, e2]

theorem ncoll (x0 : SReg) (x1 : Tok) : Statement (.ncoll x0 x1) := by
  have b0 := x0.isLt
  have b1 := x1.isLt
  have eo : (6 * 2 ^ 34 + x0.toNat * 2 ^ 28 + x1.toNat * 2 ^ 9) / 2 ^ 34 = 6 := by omega
  have e0 : fld 6 28 (6 * 2 ^ 34 + x0.toNat * 2 ^ 28 + x1.toNat * 2 ^ 9) = x0 := fld_eq (by omega)
  have e1 : fld 6 9 (6 * 2 ^ 34 + x0.toNat * 2 ^ 28 + x1.toNat * 2 ^ 9) = x1 := fld_eq (by omega)
  have hc : ∀ w, w / 2 ^ 34 = 6 → rawN w = some (.ncoll (fld 6 28 w) (fld 6 9 w)) := fun w h => by
    unfold rawN; rw [h]; rfl
  refine of_slot (n := 7) (w := (6 * 2 ^ 34 + x0.toNat * 2 ^ 28 + x1.toNat * 2 ^ 9)) rfl rfl (by omega) ?_
  have h1 : ∀ w, rawSlot 7 w = rawN w := fun _ => rfl
  rw [h1]
  rw [hc _ eo, e0, e1]

theorem nwait (x0 : BitVec 15) : Statement (.nwait x0) := by
  have b0 := x0.isLt
  have eo : (7 * 2 ^ 34 + x0.toNat) / 2 ^ 34 = 7 := by omega
  have e0 : fld 15 0 (7 * 2 ^ 34 + x0.toNat) = x0 := fld_eq (by omega)
  have hc : ∀ w, w / 2 ^ 34 = 7 → rawN w = some (.nwait (fld 15 0 w)) := fun w h => by
    unfold rawN; rw [h]; rfl
  refine of_slot (n := 7) (w := (7 * 2 ^ 34 + x0.toNat)) rfl rfl (by omega) ?_
  have h1 : ∀ w, rawSlot 7 w = rawN w := fun _ => rfl
  rw [h1]
  rw [hc _ eo, e0]

theorem br (x0 : Guard) (x1 : BitVec 15) : Statement (.br x0 x1) := by
  have b0 := x1.isLt
  have c1 := toNat_le_one x0.neg
  have c2 := x0.g.isLt
  have e1 : fld 15 14 (encB 0x01 x0 x1.toNat 0) = x1 := fld_eq (by unfold encB; omega)
  refine of_b (i := .br x0 x1) rfl (by decide) rfl (by omega) (by omega) ?_
  exact congrArg some (by rw [e1])

theorem brc (x0 : Guard) (x1 : SReg) : Statement (.brc x0 x1) := by
  have b0 := x1.isLt
  have c1 := toNat_le_one x0.neg
  have c2 := x0.g.isLt
  have e1 : fld 6 23 (encB 0x02 x0 (x1.toNat * 2 ^ 9) 0) = x1 := fld_eq (by unfold encB; omega)
  refine of_b (i := .brc x0 x1) rfl (by decide) rfl (by omega) (by omega) ?_
  exact congrArg some (by rw [e1])

theorem call (x0 : Guard) (x1 : BitVec 15) : Statement (.call x0 x1) := by
  have b0 := x1.isLt
  have c1 := toNat_le_one x0.neg
  have c2 := x0.g.isLt
  have e1 : fld 15 14 (encB 0x03 x0 x1.toNat 0) = x1 := fld_eq (by unfold encB; omega)
  refine of_b (i := .call x0 x1) rfl (by decide) rfl (by omega) (by omega) ?_
  exact congrArg some (by rw [e1])

theorem ret (x0 : Guard) : Statement (.ret x0) := by
  have c1 := toNat_le_one x0.neg
  have c2 := x0.g.isLt
  refine of_b (i := .ret x0) rfl (by decide) rfl (by omega) (by omega) ?_
  rfl

theorem loop (x0 : BitVec 15) : Statement (.loop x0) := by
  have b0 := x0.isLt
  have e0 : fld 15 14 (encB 0x05 ⟨false, 0⟩ x0.toNat 0) = x0 := fld_eq (by simp only [encB, Bool.toNat_false]; omega)
  refine of_b (i := .loop x0) rfl (by decide) rfl (by omega) (by omega) ?_
  exact congrArg some (by rw [e0])

theorem loopr (x0 : BitVec 15) (x1 : BitVec 3) : Statement (.loopr x0 x1) := by
  have b0 := x0.isLt
  have b1 := x1.isLt
  have e0 : fld 15 14 (encB 0x06 ⟨false, 0⟩ x0.toNat x1.toNat) = x0 := fld_eq (by simp only [encB, Bool.toNat_false]; omega)
  have e1 : fld 3 0 (encB 0x06 ⟨false, 0⟩ x0.toNat x1.toNat) = x1 := fld_eq (by simp only [encB, Bool.toNat_false]; omega)
  refine of_b (i := .loopr x0 x1) rfl (by decide) rfl (by omega) (by omega) ?_
  exact congrArg some (by rw [e0, e1])

theorem bswap (x0 : Guard) (x1 : BitVec 15) : Statement (.bswap x0 x1) := by
  have b0 := x1.isLt
  have c1 := toNat_le_one x0.neg
  have c2 := x0.g.isLt
  have e1 : fld 15 14 (encB 0x07 x0 x1.toNat 0) = x1 := fld_eq (by unfold encB; omega)
  refine of_b (i := .bswap x0 x1) rfl (by decide) rfl (by omega) (by omega) ?_
  exact congrArg some (by rw [e1])

theorem ifence (x0 : Guard) : Statement (.ifence x0) := by
  have c1 := toNat_le_one x0.neg
  have c2 := x0.g.isLt
  refine of_b (i := .ifence x0) rfl (by decide) rfl (by omega) (by omega) ?_
  rfl

theorem waitb (x0 : Guard) (x1 : SReg) (x2 : SReg) (x3 : BitVec 2) : Statement (.waitb x0 x1 x2 x3) := by
  have b0 := x1.isLt
  have b1 := x2.isLt
  have b2 := x3.isLt
  have c1 := toNat_le_one x0.neg
  have c2 := x0.g.isLt
  have e1 : fld 6 23 (encB 0x09 x0 (x1.toNat * 2 ^ 9 + x2.toNat * 2 ^ 3 + x3.toNat) 0) = x1 := fld_eq (by unfold encB; omega)
  have e2 : fld 6 17 (encB 0x09 x0 (x1.toNat * 2 ^ 9 + x2.toNat * 2 ^ 3 + x3.toNat) 0) = x2 := fld_eq (by unfold encB; omega)
  have e3 : fld 2 14 (encB 0x09 x0 (x1.toNat * 2 ^ 9 + x2.toNat * 2 ^ 3 + x3.toNat) 0) = x3 := fld_eq (by unfold encB; omega)
  refine of_b (i := .waitb x0 x1 x2 x3) rfl (by decide) rfl (by omega) (by omega) ?_
  exact congrArg some (by rw [e1, e2, e3])

theorem waitt (x0 : Guard) (x1 : Tok) : Statement (.waitt x0 x1) := by
  have b0 := x1.isLt
  have c1 := toNat_le_one x0.neg
  have c2 := x0.g.isLt
  have e1 : fld 6 23 (encB 0x0A x0 (x1.toNat * 2 ^ 9) 0) = x1 := fld_eq (by unfold encB; omega)
  refine of_b (i := .waitt x0 x1) rfl (by decide) rfl (by omega) (by omega) ?_
  exact congrArg some (by rw [e1])

theorem waitc (x0 : Guard) (x1 : SReg) (x2 : BitVec 14) : Statement (.waitc x0 x1 x2) := by
  have b0 := x1.isLt
  have b1 := x2.isLt
  have c1 := toNat_le_one x0.neg
  have c2 := x0.g.isLt
  have e1 : fld 6 23 (encB 0x0B x0 (x1.toNat * 2 ^ 9) x2.toNat) = x1 := fld_eq (by unfold encB; omega)
  have e2 : fld 14 0 (encB 0x0B x0 (x1.toNat * 2 ^ 9) x2.toNat) = x2 := fld_eq (by unfold encB; omega)
  refine of_b (i := .waitc x0 x1 x2) rfl (by decide) rfl (by omega) (by omega) ?_
  exact congrArg some (by rw [e1, e2])

theorem hold (x0 : Guard) (x1 : SReg) (x2 : BitVec 14) : Statement (.hold x0 x1 x2) := by
  have b0 := x1.isLt
  have b1 := x2.isLt
  have c1 := toNat_le_one x0.neg
  have c2 := x0.g.isLt
  have e1 : fld 6 23 (encB 0x0C x0 (x1.toNat * 2 ^ 9) x2.toNat) = x1 := fld_eq (by unfold encB; omega)
  have e2 : fld 14 0 (encB 0x0C x0 (x1.toNat * 2 ^ 9) x2.toNat) = x2 := fld_eq (by unfold encB; omega)
  refine of_b (i := .hold x0 x1 x2) rfl (by decide) rfl (by omega) (by omega) ?_
  exact congrArg some (by rw [e1, e2])

theorem done (x0 : Guard) : Statement (.done x0) := by
  have c1 := toNat_le_one x0.neg
  have c2 := x0.g.isLt
  refine of_b (i := .done x0) rfl (by decide) rfl (by omega) (by omega) ?_
  rfl

theorem yield (x0 : Guard) (x1 : BitVec 15) : Statement (.yield x0 x1) := by
  have b0 := x1.isLt
  have c1 := toNat_le_one x0.neg
  have c2 := x0.g.isLt
  have e1 : fld 15 14 (encB 0x0E x0 x1.toNat 0) = x1 := fld_eq (by unfold encB; omega)
  refine of_b (i := .yield x0 x1) rfl (by decide) rfl (by omega) (by omega) ?_
  exact congrArg some (by rw [e1])

theorem trap (x0 : Guard) (x1 : BitVec 14) : Statement (.trap x0 x1) := by
  have b0 := x1.isLt
  have c1 := toNat_le_one x0.neg
  have c2 := x0.g.isLt
  have e1 : fld 14 0 (encB 0x0F x0 0 x1.toNat) = x1 := fld_eq (by unfold encB; omega)
  refine of_b (i := .trap x0 x1) rfl (by decide) rfl (by omega) (by omega) ?_
  exact congrArg some (by rw [e1])

theorem ebreak (x0 : Guard) (x1 : BitVec 14) : Statement (.ebreak x0 x1) := by
  have b0 := x1.isLt
  have c1 := toNat_le_one x0.neg
  have c2 := x0.g.isLt
  have e1 : fld 14 0 (encB 0x12 x0 0 x1.toNat) = x1 := fld_eq (by unfold encB; omega)
  refine of_b (i := .ebreak x0 x1) rfl (by decide) rfl (by omega) (by omega) ?_
  exact congrArg some (by rw [e1])

theorem savex (x0 : Guard) (x1 : SReg) : Statement (.savex x0 x1) := by
  have b0 := x1.isLt
  have c1 := toNat_le_one x0.neg
  have c2 := x0.g.isLt
  have e1 : fld 6 23 (encB 0x10 x0 (x1.toNat * 2 ^ 9) 0) = x1 := fld_eq (by unfold encB; omega)
  refine of_b (i := .savex x0 x1) rfl (by decide) rfl (by omega) (by omega) ?_
  exact congrArg some (by rw [e1])

theorem restx (x0 : Guard) (x1 : SReg) : Statement (.restx x0 x1) := by
  have b0 := x1.isLt
  have c1 := toNat_le_one x0.neg
  have c2 := x0.g.isLt
  have e1 : fld 6 23 (encB 0x11 x0 (x1.toNat * 2 ^ 9) 0) = x1 := fld_eq (by unfold encB; omega)
  refine of_b (i := .restx x0 x1) rfl (by decide) rfl (by omega) (by omega) ?_
  exact congrArg some (by rw [e1])

theorem acq (x0 : Guard) (x1 : SReg) (x2 : BitVec 2) : Statement (.acq x0 x1 x2) := by
  have b0 := x1.isLt
  have b1 := x2.isLt
  have c1 := toNat_le_one x0.neg
  have c2 := x0.g.isLt
  have e1 : fld 6 23 (encB 0x13 x0 (x1.toNat * 2 ^ 9 + x2.toNat) 0) = x1 := fld_eq (by unfold encB; omega)
  have e2 : fld 2 14 (encB 0x13 x0 (x1.toNat * 2 ^ 9 + x2.toNat) 0) = x2 := fld_eq (by unfold encB; omega)
  refine of_b (i := .acq x0 x1 x2) rfl (by decide) rfl (by omega) (by omega) ?_
  exact congrArg some (by rw [e1, e2])

theorem rel (x0 : Guard) (x1 : SReg) (x2 : BitVec 2) : Statement (.rel x0 x1 x2) := by
  have b0 := x1.isLt
  have b1 := x2.isLt
  have c1 := toNat_le_one x0.neg
  have c2 := x0.g.isLt
  have e1 : fld 6 23 (encB 0x14 x0 (x1.toNat * 2 ^ 9 + x2.toNat) 0) = x1 := fld_eq (by unfold encB; omega)
  have e2 : fld 2 14 (encB 0x14 x0 (x1.toNat * 2 ^ 9 + x2.toNat) 0) = x2 := fld_eq (by unfold encB; omega)
  refine of_b (i := .rel x0 x1 x2) rfl (by decide) rfl (by omega) (by omega) ?_
  exact congrArg some (by rw [e1, e2])

theorem fence (x0 : Guard) (x1 : BitVec 3) : Statement (.fence x0 x1) := by
  have b0 := x1.isLt
  have c1 := toNat_le_one x0.neg
  have c2 := x0.g.isLt
  have e1 : fld 3 0 (encB 0x15 x0 0 x1.toNat) = x1 := fld_eq (by unfold encB; omega)
  refine of_b (i := .fence x0 x1) rfl (by decide) rfl (by omega) (by omega) ?_
  exact congrArg some (by rw [e1])

theorem invalidationComplete (x0 : Nat) : Statement (.invalidationComplete x0) := fun _ h _ => nomatch h

theorem moduleReset : Statement (.moduleReset) := fun _ h _ => nomatch h

theorem mapPublish : Statement (.mapPublish) := fun _ h _ => nomatch h

theorem bringUpWatchdog : Statement (.bringUpWatchdog) := fun _ h _ => nomatch h

theorem ptpLockTimeout : Statement (.ptpLockTimeout) := fun _ h _ => nomatch h

theorem fenceListClear : Statement (.fenceListClear) := fun _ h _ => nomatch h

theorem thermalStop : Statement (.thermalStop) := fun _ h _ => nomatch h

theorem powerOverloadStop : Statement (.powerOverloadStop) := fun _ h _ => nomatch h

theorem slotSend : Statement (.slotSend) := fun _ h _ => nomatch h

theorem signalApply : Statement (.signalApply) := fun _ h _ => nomatch h

theorem linkTimetableStart : Statement (.linkTimetableStart) := fun _ h _ => nomatch h

theorem linkTimetableEnd : Statement (.linkTimetableEnd) := fun _ h _ => nomatch h

theorem poolTake : Statement (.poolTake) := fun _ h _ => nomatch h

theorem barrierUpdate : Statement (.barrierUpdate) := fun _ h _ => nomatch h

theorem quote : Statement (.quote) := fun _ h _ => nomatch h

theorem mnop : Statement (.mnop) := by intro k h _; cases h; rfl

theorem cnop : Statement (.cnop) := by intro k h _; cases h; rfl

theorem nnop : Statement (.nnop) := by intro k h _; cases h; rfl

theorem bnop : Statement (.bnop) := by intro k h _; cases h; rfl

end Sys2Proof.Laws.Encoding
end

