-- ==== Sys2Proof/Laws/Scalar.lean ====
section
/-! SUPPORT. What the shared operations of the S slot do: one lemma each, in the terms of Safety.lean. -/

namespace Sys2Proof.Machine

/-- R290. A guarded operation. -/
theorem whenG_sop {i : Instr} {g : Guard} {s : State} {k : State → State} {Q : State → Prop}
    (he : exec i s = .next (whenG g k s)) (hq : guardOn s g = true → Q (k s)) : SOp i g s Q := by
  refine ⟨whenG g k s, he, fun h => ?_, fun h => ?_⟩
  · rw [whenG, if_neg (by simp [h])]
  · rw [whenG, if_pos h]
    exact hq h

/-- R291. A register form of two operands. -/
theorem sop2_writes {i : Instr} {lat : Nat} {f : Word64 → Word64 → Word64} {g : Guard} {d a b : SReg} {s : State}
    (he : exec i s = .next (sop2 lat f g d a b s)) : SWrites i g d lat (f (rdS s a) (rdS s b)) s :=
  whenG_sop he fun _ => putS_lands lat d _ s

/-- R291, R294. A form of one operand. -/
theorem sop1_writes {i : Instr} {lat : Nat} {f : Word64 → Word64} {g : Guard} {d a : SReg} {s : State}
    (he : exec i s = .next (sop1 lat f g d a s)) : SWrites i g d lat (f (rdS s a)) s :=
  whenG_sop he fun _ => putS_lands lat d _ s

/-- A guarded write of a scalar register. -/
theorem putS_writes {i : Instr} {lat : Nat} {v : State → Word64} {g : Guard} {d : SReg} {s : State}
    (he : exec i s = .next (whenG g (fun s => putS lat d (v s) s) s)) : SWrites i g d lat (v s) s :=
  whenG_sop he fun _ => putS_lands lat d _ s

/-- A guarded write of a uniform predicate. -/
theorem putG_writes {i : Instr} {lat : Nat} {v : State → Bool} {g : Guard} {d : GReg} {s : State}
    (he : exec i s = .next (whenG g (fun s => putG lat d (v s) s) s)) : GWrites i g d lat (v s) s :=
  whenG_sop he fun _ => putG_lands lat d _ s

/-- A guarded write of a system register but SFLG. -/
theorem sys_writes {i : Instr} {g : Guard} {n : Nat} (hn : n ≠ 0x004) {v : State → Word64} {s : State}
    (he : exec i s = .next (whenG g (fun s => put 1 (.sys n (v s)) s) s)) : SysWrites i g n (v s) s :=
  whenG_sop he fun _ => put_lands (flagFree_sys hn _) 1 s

/-! ### Checks that come before the operation (R245, R250) -/

theorem firstCause_none {cs : List (Option (Nat × Nat))} (h : ∀ c ∈ cs, c = none) : firstCause cs = none := by
  induction cs with
  | nil => rfl
  | cons c cs ih =>
    rw [h c (by simp)]
    exact ih fun x hx => h x (by simp [hx])

/-- No check fails: the operation goes on. -/
theorem orRaise_ok {slot : Nat} {cs : List (Option (Nat × Nat))} {k : State → State} {s : State}
    (h : ∀ c ∈ cs, c = none) : orRaise slot cs k s = k s := by
  rw [orRaise, firstCause_none h]

theorem guarded_ok {slot : Nat} {cs : List (Option (Nat × Nat))} {k : State → State} {s : State}
    (h : ∀ c ∈ cs, c = none) : guarded slot cs k s = .next (k s) := by
  rw [guarded, orRaise_ok h]

theorem codeCause_ok {b : Bool} {c : Nat} (h : b = true) : codeCause b c = none := by
  rw [codeCause, causeIf, h]; rfl

theorem codeCause_bad {b : Bool} {c : Nat} (h : b = false) : codeCause b c = some (cOperand, c) := by
  rw [codeCause, causeIf, h]; rfl

theorem guarded_first {slot code detail : Nat} {cs : List (Option (Nat × Nat))} {k : State → State} {s : State}
    (h : firstCause cs = some (code, detail)) : guarded slot cs k s = .next (raise code slot detail s) := by
  rw [guarded, orRaise, h]

/-! ### Floating point (R299, R300) -/

theorem orSflg_zero (s : State) : orSflg 0 s = s := by
  rw [orSflg, show s.core.sflg ||| 0 = s.core.sflg from BitVec.or_zero]

/-- A scalar result with its flags. -/
theorem putSflg_putS_lands (lat : Nat) (d : SReg) (v : Word64) (f : Flags) (s : State) :
    Lands lat (fun u => orSflg f (writeS d (physS s.core d) v u)) s (putSflg lat f (putS lat d v s)) := by
  by_cases hf : f = 0
  · have : (fun u => orSflg f (writeS d (physS s.core d) v u)) = writeS d (physS s.core d) v := by
      funext u; rw [hf, orSflg_zero]
    rw [this, putSflg, if_pos hf]
    exact putS_lands lat d v s
  · by_cases hd : d = 0
    · have h := putMany_lands (es := [.sflg f]) (by simpa using flagFree_sflg f) lat s
      have hw : landEffects [.sflg f] = fun u => orSflg f (writeS d (physS s.core d) v u) := by
        funext u; rw [writeS, if_pos hd]; rfl
      rw [hw] at h
      rwa [putSflg, if_neg hf, putS, if_pos hd, put_eq_putMany]
    · have h := putMany_lands (es := [.s (physS s.core d) v, .sflg f])
        (by
          intro e he
          rcases List.mem_cons.1 he with rfl | he
          · exact flagFree_s _ _
          · rw [List.mem_singleton.1 he]; exact flagFree_sflg f) lat s
      have hw : landEffects [.s (physS s.core d) v, .sflg f] = fun u => orSflg f (writeS d (physS s.core d) v u) := by
        funext u; rw [writeS, if_neg hd]; rfl
      rw [hw] at h
      have e : putSflg lat f (putS lat d v s) = putMany lat [.s (physS s.core d) v, .sflg f] s := by
        rw [putSflg, if_neg hf, putS, if_neg hd, putMany_pend, put_eq_putMany, put_eq_putMany, putMany_pend, putMany_pend]
        show setPend _ (setPend _ s) = _
        rw [setPend_setPend]
        simp [setPend]
      rw [e]
      exact h

/-- A uniform predicate with its flags. -/
theorem putSflg_putG_lands (lat : Nat) (d : GReg) (v : Bool) (f : Flags) (s : State) :
    Lands lat (fun u => orSflg f (writeG d v u)) s (putSflg lat f (putG lat d v s)) := by
  by_cases hf : f = 0
  · have : (fun u => orSflg f (writeG d v u)) = writeG d v := by
      funext u; rw [hf, orSflg_zero]
    rw [this, putSflg, if_pos hf]
    exact putG_lands lat d v s
  · by_cases hd : d = 0
    · have h := putMany_lands (es := [.sflg f]) (by simpa using flagFree_sflg f) lat s
      have hw : landEffects [.sflg f] = fun u => orSflg f (writeG d v u) := by
        funext u; rw [writeG, if_pos hd]; rfl
      rw [hw] at h
      rwa [putSflg, if_neg hf, putG, if_pos hd, put_eq_putMany]
    · have h := putMany_lands (es := [.g d.toNat v, .sflg f])
        (by
          intro e he
          rcases List.mem_cons.1 he with rfl | he
          · exact flagFree_g _ _
          · rw [List.mem_singleton.1 he]; exact flagFree_sflg f) lat s
      have hw : landEffects [.g d.toNat v, .sflg f] = fun u => orSflg f (writeG d v u) := by
        funext u; rw [writeG, if_neg hd]; rfl
      rw [hw] at h
      have e : putSflg lat f (putG lat d v s) = putMany lat [.g d.toNat v, .sflg f] s := by
        rw [putSflg, if_neg hf, putG, if_neg hd, putMany_pend, put_eq_putMany, put_eq_putMany, putMany_pend, putMany_pend]
        show setPend _ (setPend _ s) = _
        rw [setPend_setPend]
        simp [setPend]
      rw [e]
      exact h

end Sys2Proof.Machine
end

