-- ==== Sys2Proof/Laws/State.lean ====
section
/-! SUPPORT. What the record updates of the shared operations leave: for each operation the core it gives, and every other
field of the state as it was. -/

namespace Sys2Proof.Machine

/-! ### `put` -/

@[simp] theorem put_core (lat : Nat) (e : Effect) (s : State) :
    (put lat e s).core = { s.core with pend := s.core.pend ++ [⟨s.core.icnt + lat, s.core.icnt + lat, e⟩] } := rfl
@[simp] theorem put_cyc (lat : Nat) (e : Effect) (s : State) : (put lat e s).cyc = s.cyc := rfl
@[simp] theorem put_free (lat : Nat) (e : Effect) (s : State) : (put lat e s).free = s.free := rfl
@[simp] theorem put_inputs (lat : Nat) (e : Effect) (s : State) : (put lat e s).inputs = s.inputs := rfl
@[simp] theorem put_coreNo (lat : Nat) (e : Effect) (s : State) : (put lat e s).coreNo = s.coreNo := rfl
@[simp] theorem put_others (lat : Nat) (e : Effect) (s : State) : (put lat e s).others = s.others := rfl
@[simp] theorem put_mem (lat : Nat) (e : Effect) (s : State) : (put lat e s).mem = s.mem := rfl
@[simp] theorem put_poison (lat : Nat) (e : Effect) (s : State) : (put lat e s).poison = s.poison := rfl
@[simp] theorem put_frameTag (lat : Nat) (e : Effect) (s : State) : (put lat e s).frameTag = s.frameTag := rfl
@[simp] theorem put_l2 (lat : Nat) (e : Effect) (s : State) : (put lat e s).l2 = s.l2 := rfl
@[simp] theorem put_boot (lat : Nat) (e : Effect) (s : State) : (put lat e s).boot = s.boot := rfl
@[simp] theorem put_maps (lat : Nat) (e : Effect) (s : State) : (put lat e s).maps = s.maps := rfl
@[simp] theorem put_tt (lat : Nat) (e : Effect) (s : State) : (put lat e s).tt = s.tt := rfl
@[simp] theorem put_runs (lat : Nat) (e : Effect) (s : State) : (put lat e s).runs = s.runs := rfl
@[simp] theorem put_flog (lat : Nat) (e : Effect) (s : State) : (put lat e s).flog = s.flog := rfl
@[simp] theorem put_pool (lat : Nat) (e : Effect) (s : State) : (put lat e s).pool = s.pool := rfl
@[simp] theorem put_sigcap (lat : Nat) (e : Effect) (s : State) : (put lat e s).sigcap = s.sigcap := rfl
@[simp] theorem put_finj (lat : Nat) (e : Effect) (s : State) : (put lat e s).finj = s.finj := rfl
@[simp] theorem put_irqs (lat : Nat) (e : Effect) (s : State) : (put lat e s).irqs = s.irqs := rfl
@[simp] theorem put_fab (lat : Nat) (e : Effect) (s : State) : (put lat e s).fab = s.fab := rfl
@[simp] theorem put_outbox (lat : Nat) (e : Effect) (s : State) : (put lat e s).outbox = s.outbox := rfl
@[simp] theorem put_barq (lat : Nat) (e : Effect) (s : State) : (put lat e s).barq = s.barq := rfl
@[simp] theorem put_relObjs (lat : Nat) (e : Effect) (s : State) : (put lat e s).relObjs = s.relObjs := rfl
@[simp] theorem put_colls (lat : Nat) (e : Effect) (s : State) : (put lat e s).colls = s.colls := rfl
@[simp] theorem put_xlat (lat : Nat) (e : Effect) (s : State) : (put lat e s).xlat = s.xlat := rfl
@[simp] theorem put_wmode (lat : Nat) (e : Effect) (s : State) : (put lat e s).wmode = s.wmode := rfl
@[simp] theorem put_wchange (lat : Nat) (e : Effect) (s : State) : (put lat e s).wchange = s.wchange := rfl
@[simp] theorem put_bind (lat : Nat) (e : Effect) (s : State) : (put lat e s).bind = s.bind := rfl
@[simp] theorem put_region (lat : Nat) (e : Effect) (s : State) : (put lat e s).region = s.region := rfl
@[simp] theorem put_coded (lat : Nat) (e : Effect) (s : State) : (put lat e s).coded = s.coded := rfl
@[simp] theorem put_cctrs (lat : Nat) (e : Effect) (s : State) : (put lat e s).cctrs = s.cctrs := rfl

/-! ### `putMany` -/

@[simp] theorem putMany_core (lat : Nat) (es : List Effect) (s : State) :
    (putMany lat es s).core = { s.core with pend := s.core.pend ++ es.map fun e => ⟨s.core.icnt + lat, s.core.icnt + lat, e⟩ } := rfl
@[simp] theorem putMany_cyc (lat : Nat) (es : List Effect) (s : State) : (putMany lat es s).cyc = s.cyc := rfl
@[simp] theorem putMany_free (lat : Nat) (es : List Effect) (s : State) : (putMany lat es s).free = s.free := rfl
@[simp] theorem putMany_inputs (lat : Nat) (es : List Effect) (s : State) : (putMany lat es s).inputs = s.inputs := rfl
@[simp] theorem putMany_coreNo (lat : Nat) (es : List Effect) (s : State) : (putMany lat es s).coreNo = s.coreNo := rfl
@[simp] theorem putMany_others (lat : Nat) (es : List Effect) (s : State) : (putMany lat es s).others = s.others := rfl
@[simp] theorem putMany_mem (lat : Nat) (es : List Effect) (s : State) : (putMany lat es s).mem = s.mem := rfl
@[simp] theorem putMany_poison (lat : Nat) (es : List Effect) (s : State) : (putMany lat es s).poison = s.poison := rfl
@[simp] theorem putMany_frameTag (lat : Nat) (es : List Effect) (s : State) : (putMany lat es s).frameTag = s.frameTag := rfl
@[simp] theorem putMany_l2 (lat : Nat) (es : List Effect) (s : State) : (putMany lat es s).l2 = s.l2 := rfl
@[simp] theorem putMany_boot (lat : Nat) (es : List Effect) (s : State) : (putMany lat es s).boot = s.boot := rfl
@[simp] theorem putMany_maps (lat : Nat) (es : List Effect) (s : State) : (putMany lat es s).maps = s.maps := rfl
@[simp] theorem putMany_tt (lat : Nat) (es : List Effect) (s : State) : (putMany lat es s).tt = s.tt := rfl
@[simp] theorem putMany_runs (lat : Nat) (es : List Effect) (s : State) : (putMany lat es s).runs = s.runs := rfl
@[simp] theorem putMany_flog (lat : Nat) (es : List Effect) (s : State) : (putMany lat es s).flog = s.flog := rfl
@[simp] theorem putMany_pool (lat : Nat) (es : List Effect) (s : State) : (putMany lat es s).pool = s.pool := rfl
@[simp] theorem putMany_sigcap (lat : Nat) (es : List Effect) (s : State) : (putMany lat es s).sigcap = s.sigcap := rfl
@[simp] theorem putMany_finj (lat : Nat) (es : List Effect) (s : State) : (putMany lat es s).finj = s.finj := rfl
@[simp] theorem putMany_irqs (lat : Nat) (es : List Effect) (s : State) : (putMany lat es s).irqs = s.irqs := rfl
@[simp] theorem putMany_fab (lat : Nat) (es : List Effect) (s : State) : (putMany lat es s).fab = s.fab := rfl
@[simp] theorem putMany_outbox (lat : Nat) (es : List Effect) (s : State) : (putMany lat es s).outbox = s.outbox := rfl
@[simp] theorem putMany_barq (lat : Nat) (es : List Effect) (s : State) : (putMany lat es s).barq = s.barq := rfl
@[simp] theorem putMany_relObjs (lat : Nat) (es : List Effect) (s : State) : (putMany lat es s).relObjs = s.relObjs := rfl
@[simp] theorem putMany_colls (lat : Nat) (es : List Effect) (s : State) : (putMany lat es s).colls = s.colls := rfl
@[simp] theorem putMany_xlat (lat : Nat) (es : List Effect) (s : State) : (putMany lat es s).xlat = s.xlat := rfl
@[simp] theorem putMany_wmode (lat : Nat) (es : List Effect) (s : State) : (putMany lat es s).wmode = s.wmode := rfl
@[simp] theorem putMany_wchange (lat : Nat) (es : List Effect) (s : State) : (putMany lat es s).wchange = s.wchange := rfl
@[simp] theorem putMany_bind (lat : Nat) (es : List Effect) (s : State) : (putMany lat es s).bind = s.bind := rfl
@[simp] theorem putMany_region (lat : Nat) (es : List Effect) (s : State) : (putMany lat es s).region = s.region := rfl
@[simp] theorem putMany_coded (lat : Nat) (es : List Effect) (s : State) : (putMany lat es s).coded = s.coded := rfl
@[simp] theorem putMany_cctrs (lat : Nat) (es : List Effect) (s : State) : (putMany lat es s).cctrs = s.cctrs := rfl

/-! ### `raise` -/

@[simp] theorem raise_core (code slot detail : Nat) (s : State) :
    (raise code slot detail s).core = { s.core with raised := some ⟨BitVec.ofNat 8 code, BitVec.ofNat 3 slot, false, false, BitVec.ofNat 56 detail, false⟩ } := rfl
@[simp] theorem raise_cyc (code slot detail : Nat) (s : State) : (raise code slot detail s).cyc = s.cyc := rfl
@[simp] theorem raise_free (code slot detail : Nat) (s : State) : (raise code slot detail s).free = s.free := rfl
@[simp] theorem raise_inputs (code slot detail : Nat) (s : State) : (raise code slot detail s).inputs = s.inputs := rfl
@[simp] theorem raise_coreNo (code slot detail : Nat) (s : State) : (raise code slot detail s).coreNo = s.coreNo := rfl
@[simp] theorem raise_others (code slot detail : Nat) (s : State) : (raise code slot detail s).others = s.others := rfl
@[simp] theorem raise_mem (code slot detail : Nat) (s : State) : (raise code slot detail s).mem = s.mem := rfl
@[simp] theorem raise_poison (code slot detail : Nat) (s : State) : (raise code slot detail s).poison = s.poison := rfl
@[simp] theorem raise_frameTag (code slot detail : Nat) (s : State) : (raise code slot detail s).frameTag = s.frameTag := rfl
@[simp] theorem raise_l2 (code slot detail : Nat) (s : State) : (raise code slot detail s).l2 = s.l2 := rfl
@[simp] theorem raise_boot (code slot detail : Nat) (s : State) : (raise code slot detail s).boot = s.boot := rfl
@[simp] theorem raise_maps (code slot detail : Nat) (s : State) : (raise code slot detail s).maps = s.maps := rfl
@[simp] theorem raise_tt (code slot detail : Nat) (s : State) : (raise code slot detail s).tt = s.tt := rfl
@[simp] theorem raise_runs (code slot detail : Nat) (s : State) : (raise code slot detail s).runs = s.runs := rfl
@[simp] theorem raise_flog (code slot detail : Nat) (s : State) : (raise code slot detail s).flog = s.flog := rfl
@[simp] theorem raise_pool (code slot detail : Nat) (s : State) : (raise code slot detail s).pool = s.pool := rfl
@[simp] theorem raise_sigcap (code slot detail : Nat) (s : State) : (raise code slot detail s).sigcap = s.sigcap := rfl
@[simp] theorem raise_finj (code slot detail : Nat) (s : State) : (raise code slot detail s).finj = s.finj := rfl
@[simp] theorem raise_irqs (code slot detail : Nat) (s : State) : (raise code slot detail s).irqs = s.irqs := rfl
@[simp] theorem raise_fab (code slot detail : Nat) (s : State) : (raise code slot detail s).fab = s.fab := rfl
@[simp] theorem raise_outbox (code slot detail : Nat) (s : State) : (raise code slot detail s).outbox = s.outbox := rfl
@[simp] theorem raise_barq (code slot detail : Nat) (s : State) : (raise code slot detail s).barq = s.barq := rfl
@[simp] theorem raise_relObjs (code slot detail : Nat) (s : State) : (raise code slot detail s).relObjs = s.relObjs := rfl
@[simp] theorem raise_colls (code slot detail : Nat) (s : State) : (raise code slot detail s).colls = s.colls := rfl
@[simp] theorem raise_xlat (code slot detail : Nat) (s : State) : (raise code slot detail s).xlat = s.xlat := rfl
@[simp] theorem raise_wmode (code slot detail : Nat) (s : State) : (raise code slot detail s).wmode = s.wmode := rfl
@[simp] theorem raise_wchange (code slot detail : Nat) (s : State) : (raise code slot detail s).wchange = s.wchange := rfl
@[simp] theorem raise_bind (code slot detail : Nat) (s : State) : (raise code slot detail s).bind = s.bind := rfl
@[simp] theorem raise_region (code slot detail : Nat) (s : State) : (raise code slot detail s).region = s.region := rfl
@[simp] theorem raise_coded (code slot detail : Nat) (s : State) : (raise code slot detail s).coded = s.coded := rfl
@[simp] theorem raise_cctrs (code slot detail : Nat) (s : State) : (raise code slot detail s).cctrs = s.cctrs := rfl

/-! ### `branchTo` -/

@[simp] theorem branchTo_core (d : DelayOf) (t : Option Redir) (s : State) :
    (branchTo d t s).core = { s.core with nextDelay := d, nextRedir := t } := rfl
@[simp] theorem branchTo_cyc (d : DelayOf) (t : Option Redir) (s : State) : (branchTo d t s).cyc = s.cyc := rfl
@[simp] theorem branchTo_free (d : DelayOf) (t : Option Redir) (s : State) : (branchTo d t s).free = s.free := rfl
@[simp] theorem branchTo_inputs (d : DelayOf) (t : Option Redir) (s : State) : (branchTo d t s).inputs = s.inputs := rfl
@[simp] theorem branchTo_coreNo (d : DelayOf) (t : Option Redir) (s : State) : (branchTo d t s).coreNo = s.coreNo := rfl
@[simp] theorem branchTo_others (d : DelayOf) (t : Option Redir) (s : State) : (branchTo d t s).others = s.others := rfl
@[simp] theorem branchTo_mem (d : DelayOf) (t : Option Redir) (s : State) : (branchTo d t s).mem = s.mem := rfl
@[simp] theorem branchTo_poison (d : DelayOf) (t : Option Redir) (s : State) : (branchTo d t s).poison = s.poison := rfl
@[simp] theorem branchTo_frameTag (d : DelayOf) (t : Option Redir) (s : State) : (branchTo d t s).frameTag = s.frameTag := rfl
@[simp] theorem branchTo_l2 (d : DelayOf) (t : Option Redir) (s : State) : (branchTo d t s).l2 = s.l2 := rfl
@[simp] theorem branchTo_boot (d : DelayOf) (t : Option Redir) (s : State) : (branchTo d t s).boot = s.boot := rfl
@[simp] theorem branchTo_maps (d : DelayOf) (t : Option Redir) (s : State) : (branchTo d t s).maps = s.maps := rfl
@[simp] theorem branchTo_tt (d : DelayOf) (t : Option Redir) (s : State) : (branchTo d t s).tt = s.tt := rfl
@[simp] theorem branchTo_runs (d : DelayOf) (t : Option Redir) (s : State) : (branchTo d t s).runs = s.runs := rfl
@[simp] theorem branchTo_flog (d : DelayOf) (t : Option Redir) (s : State) : (branchTo d t s).flog = s.flog := rfl
@[simp] theorem branchTo_pool (d : DelayOf) (t : Option Redir) (s : State) : (branchTo d t s).pool = s.pool := rfl
@[simp] theorem branchTo_sigcap (d : DelayOf) (t : Option Redir) (s : State) : (branchTo d t s).sigcap = s.sigcap := rfl
@[simp] theorem branchTo_finj (d : DelayOf) (t : Option Redir) (s : State) : (branchTo d t s).finj = s.finj := rfl
@[simp] theorem branchTo_irqs (d : DelayOf) (t : Option Redir) (s : State) : (branchTo d t s).irqs = s.irqs := rfl
@[simp] theorem branchTo_fab (d : DelayOf) (t : Option Redir) (s : State) : (branchTo d t s).fab = s.fab := rfl
@[simp] theorem branchTo_outbox (d : DelayOf) (t : Option Redir) (s : State) : (branchTo d t s).outbox = s.outbox := rfl
@[simp] theorem branchTo_barq (d : DelayOf) (t : Option Redir) (s : State) : (branchTo d t s).barq = s.barq := rfl
@[simp] theorem branchTo_relObjs (d : DelayOf) (t : Option Redir) (s : State) : (branchTo d t s).relObjs = s.relObjs := rfl
@[simp] theorem branchTo_colls (d : DelayOf) (t : Option Redir) (s : State) : (branchTo d t s).colls = s.colls := rfl
@[simp] theorem branchTo_xlat (d : DelayOf) (t : Option Redir) (s : State) : (branchTo d t s).xlat = s.xlat := rfl
@[simp] theorem branchTo_wmode (d : DelayOf) (t : Option Redir) (s : State) : (branchTo d t s).wmode = s.wmode := rfl
@[simp] theorem branchTo_wchange (d : DelayOf) (t : Option Redir) (s : State) : (branchTo d t s).wchange = s.wchange := rfl
@[simp] theorem branchTo_bind (d : DelayOf) (t : Option Redir) (s : State) : (branchTo d t s).bind = s.bind := rfl
@[simp] theorem branchTo_region (d : DelayOf) (t : Option Redir) (s : State) : (branchTo d t s).region = s.region := rfl
@[simp] theorem branchTo_coded (d : DelayOf) (t : Option Redir) (s : State) : (branchTo d t s).coded = s.coded := rfl
@[simp] theorem branchTo_cctrs (d : DelayOf) (t : Option Redir) (s : State) : (branchTo d t s).cctrs = s.cctrs := rfl

/-! ### `beginWait` -/

@[simp] theorem beginWait_core (k : WaitKind) (i : Instr) (s : State) :
    (beginWait k i s).core = { s.core with wait := some ⟨k, BitVec.ofNat 40 (encode i)⟩ } := rfl
@[simp] theorem beginWait_cyc (k : WaitKind) (i : Instr) (s : State) : (beginWait k i s).cyc = s.cyc := rfl
@[simp] theorem beginWait_free (k : WaitKind) (i : Instr) (s : State) : (beginWait k i s).free = s.free := rfl
@[simp] theorem beginWait_inputs (k : WaitKind) (i : Instr) (s : State) : (beginWait k i s).inputs = s.inputs := rfl
@[simp] theorem beginWait_coreNo (k : WaitKind) (i : Instr) (s : State) : (beginWait k i s).coreNo = s.coreNo := rfl
@[simp] theorem beginWait_others (k : WaitKind) (i : Instr) (s : State) : (beginWait k i s).others = s.others := rfl
@[simp] theorem beginWait_mem (k : WaitKind) (i : Instr) (s : State) : (beginWait k i s).mem = s.mem := rfl
@[simp] theorem beginWait_poison (k : WaitKind) (i : Instr) (s : State) : (beginWait k i s).poison = s.poison := rfl
@[simp] theorem beginWait_frameTag (k : WaitKind) (i : Instr) (s : State) : (beginWait k i s).frameTag = s.frameTag := rfl
@[simp] theorem beginWait_l2 (k : WaitKind) (i : Instr) (s : State) : (beginWait k i s).l2 = s.l2 := rfl
@[simp] theorem beginWait_boot (k : WaitKind) (i : Instr) (s : State) : (beginWait k i s).boot = s.boot := rfl
@[simp] theorem beginWait_maps (k : WaitKind) (i : Instr) (s : State) : (beginWait k i s).maps = s.maps := rfl
@[simp] theorem beginWait_tt (k : WaitKind) (i : Instr) (s : State) : (beginWait k i s).tt = s.tt := rfl
@[simp] theorem beginWait_runs (k : WaitKind) (i : Instr) (s : State) : (beginWait k i s).runs = s.runs := rfl
@[simp] theorem beginWait_flog (k : WaitKind) (i : Instr) (s : State) : (beginWait k i s).flog = s.flog := rfl
@[simp] theorem beginWait_pool (k : WaitKind) (i : Instr) (s : State) : (beginWait k i s).pool = s.pool := rfl
@[simp] theorem beginWait_sigcap (k : WaitKind) (i : Instr) (s : State) : (beginWait k i s).sigcap = s.sigcap := rfl
@[simp] theorem beginWait_finj (k : WaitKind) (i : Instr) (s : State) : (beginWait k i s).finj = s.finj := rfl
@[simp] theorem beginWait_irqs (k : WaitKind) (i : Instr) (s : State) : (beginWait k i s).irqs = s.irqs := rfl
@[simp] theorem beginWait_fab (k : WaitKind) (i : Instr) (s : State) : (beginWait k i s).fab = s.fab := rfl
@[simp] theorem beginWait_outbox (k : WaitKind) (i : Instr) (s : State) : (beginWait k i s).outbox = s.outbox := rfl
@[simp] theorem beginWait_barq (k : WaitKind) (i : Instr) (s : State) : (beginWait k i s).barq = s.barq := rfl
@[simp] theorem beginWait_relObjs (k : WaitKind) (i : Instr) (s : State) : (beginWait k i s).relObjs = s.relObjs := rfl
@[simp] theorem beginWait_colls (k : WaitKind) (i : Instr) (s : State) : (beginWait k i s).colls = s.colls := rfl
@[simp] theorem beginWait_xlat (k : WaitKind) (i : Instr) (s : State) : (beginWait k i s).xlat = s.xlat := rfl
@[simp] theorem beginWait_wmode (k : WaitKind) (i : Instr) (s : State) : (beginWait k i s).wmode = s.wmode := rfl
@[simp] theorem beginWait_wchange (k : WaitKind) (i : Instr) (s : State) : (beginWait k i s).wchange = s.wchange := rfl
@[simp] theorem beginWait_bind (k : WaitKind) (i : Instr) (s : State) : (beginWait k i s).bind = s.bind := rfl
@[simp] theorem beginWait_region (k : WaitKind) (i : Instr) (s : State) : (beginWait k i s).region = s.region := rfl
@[simp] theorem beginWait_coded (k : WaitKind) (i : Instr) (s : State) : (beginWait k i s).coded = s.coded := rfl
@[simp] theorem beginWait_cctrs (k : WaitKind) (i : Instr) (s : State) : (beginWait k i s).cctrs = s.cctrs := rfl

/-! ### `setTok` -/

@[simp] theorem setTok_core (n : Tok) (v : TokState) (s : State) :
    (setTok n v s).core = if n = 0 then s.core else { s.core with dt := mset .ok s.core.dt n.toNat v } := by
  unfold setTok; split <;> rfl
@[simp] theorem setTok_cyc (n : Tok) (v : TokState) (s : State) : (setTok n v s).cyc = s.cyc := by
  unfold setTok; split <;> rfl
@[simp] theorem setTok_free (n : Tok) (v : TokState) (s : State) : (setTok n v s).free = s.free := by
  unfold setTok; split <;> rfl
@[simp] theorem setTok_inputs (n : Tok) (v : TokState) (s : State) : (setTok n v s).inputs = s.inputs := by
  unfold setTok; split <;> rfl
@[simp] theorem setTok_coreNo (n : Tok) (v : TokState) (s : State) : (setTok n v s).coreNo = s.coreNo := by
  unfold setTok; split <;> rfl
@[simp] theorem setTok_others (n : Tok) (v : TokState) (s : State) : (setTok n v s).others = s.others := by
  unfold setTok; split <;> rfl
@[simp] theorem setTok_mem (n : Tok) (v : TokState) (s : State) : (setTok n v s).mem = s.mem := by
  unfold setTok; split <;> rfl
@[simp] theorem setTok_poison (n : Tok) (v : TokState) (s : State) : (setTok n v s).poison = s.poison := by
  unfold setTok; split <;> rfl
@[simp] theorem setTok_frameTag (n : Tok) (v : TokState) (s : State) : (setTok n v s).frameTag = s.frameTag := by
  unfold setTok; split <;> rfl
@[simp] theorem setTok_l2 (n : Tok) (v : TokState) (s : State) : (setTok n v s).l2 = s.l2 := by
  unfold setTok; split <;> rfl
@[simp] theorem setTok_boot (n : Tok) (v : TokState) (s : State) : (setTok n v s).boot = s.boot := by
  unfold setTok; split <;> rfl
@[simp] theorem setTok_maps (n : Tok) (v : TokState) (s : State) : (setTok n v s).maps = s.maps := by
  unfold setTok; split <;> rfl
@[simp] theorem setTok_tt (n : Tok) (v : TokState) (s : State) : (setTok n v s).tt = s.tt := by
  unfold setTok; split <;> rfl
@[simp] theorem setTok_runs (n : Tok) (v : TokState) (s : State) : (setTok n v s).runs = s.runs := by
  unfold setTok; split <;> rfl
@[simp] theorem setTok_flog (n : Tok) (v : TokState) (s : State) : (setTok n v s).flog = s.flog := by
  unfold setTok; split <;> rfl
@[simp] theorem setTok_pool (n : Tok) (v : TokState) (s : State) : (setTok n v s).pool = s.pool := by
  unfold setTok; split <;> rfl
@[simp] theorem setTok_sigcap (n : Tok) (v : TokState) (s : State) : (setTok n v s).sigcap = s.sigcap := by
  unfold setTok; split <;> rfl
@[simp] theorem setTok_finj (n : Tok) (v : TokState) (s : State) : (setTok n v s).finj = s.finj := by
  unfold setTok; split <;> rfl
@[simp] theorem setTok_irqs (n : Tok) (v : TokState) (s : State) : (setTok n v s).irqs = s.irqs := by
  unfold setTok; split <;> rfl
@[simp] theorem setTok_fab (n : Tok) (v : TokState) (s : State) : (setTok n v s).fab = s.fab := by
  unfold setTok; split <;> rfl
@[simp] theorem setTok_outbox (n : Tok) (v : TokState) (s : State) : (setTok n v s).outbox = s.outbox := by
  unfold setTok; split <;> rfl
@[simp] theorem setTok_barq (n : Tok) (v : TokState) (s : State) : (setTok n v s).barq = s.barq := by
  unfold setTok; split <;> rfl
@[simp] theorem setTok_relObjs (n : Tok) (v : TokState) (s : State) : (setTok n v s).relObjs = s.relObjs := by
  unfold setTok; split <;> rfl
@[simp] theorem setTok_colls (n : Tok) (v : TokState) (s : State) : (setTok n v s).colls = s.colls := by
  unfold setTok; split <;> rfl
@[simp] theorem setTok_xlat (n : Tok) (v : TokState) (s : State) : (setTok n v s).xlat = s.xlat := by
  unfold setTok; split <;> rfl
@[simp] theorem setTok_wmode (n : Tok) (v : TokState) (s : State) : (setTok n v s).wmode = s.wmode := by
  unfold setTok; split <;> rfl
@[simp] theorem setTok_wchange (n : Tok) (v : TokState) (s : State) : (setTok n v s).wchange = s.wchange := by
  unfold setTok; split <;> rfl
@[simp] theorem setTok_bind (n : Tok) (v : TokState) (s : State) : (setTok n v s).bind = s.bind := by
  unfold setTok; split <;> rfl
@[simp] theorem setTok_region (n : Tok) (v : TokState) (s : State) : (setTok n v s).region = s.region := by
  unfold setTok; split <;> rfl
@[simp] theorem setTok_coded (n : Tok) (v : TokState) (s : State) : (setTok n v s).coded = s.coded := by
  unfold setTok; split <;> rfl
@[simp] theorem setTok_cctrs (n : Tok) (v : TokState) (s : State) : (setTok n v s).cctrs = s.cctrs := by
  unfold setTok; split <;> rfl

/-! ### `advCctr` -/

@[simp] theorem advCctr_core (b : Bool) (s : State) :
    (advCctr b s).core = if b then { s.core with cctr := s.core.cctr + 1 } else s.core := by
  unfold advCctr; split <;> rfl
@[simp] theorem advCctr_cyc (b : Bool) (s : State) : (advCctr b s).cyc = s.cyc := by
  unfold advCctr; split <;> rfl
@[simp] theorem advCctr_free (b : Bool) (s : State) : (advCctr b s).free = s.free := by
  unfold advCctr; split <;> rfl
@[simp] theorem advCctr_inputs (b : Bool) (s : State) : (advCctr b s).inputs = s.inputs := by
  unfold advCctr; split <;> rfl
@[simp] theorem advCctr_coreNo (b : Bool) (s : State) : (advCctr b s).coreNo = s.coreNo := by
  unfold advCctr; split <;> rfl
@[simp] theorem advCctr_others (b : Bool) (s : State) : (advCctr b s).others = s.others := by
  unfold advCctr; split <;> rfl
@[simp] theorem advCctr_mem (b : Bool) (s : State) : (advCctr b s).mem = s.mem := by
  unfold advCctr; split <;> rfl
@[simp] theorem advCctr_poison (b : Bool) (s : State) : (advCctr b s).poison = s.poison := by
  unfold advCctr; split <;> rfl
@[simp] theorem advCctr_frameTag (b : Bool) (s : State) : (advCctr b s).frameTag = s.frameTag := by
  unfold advCctr; split <;> rfl
@[simp] theorem advCctr_l2 (b : Bool) (s : State) : (advCctr b s).l2 = s.l2 := by
  unfold advCctr; split <;> rfl
@[simp] theorem advCctr_boot (b : Bool) (s : State) : (advCctr b s).boot = s.boot := by
  unfold advCctr; split <;> rfl
@[simp] theorem advCctr_maps (b : Bool) (s : State) : (advCctr b s).maps = s.maps := by
  unfold advCctr; split <;> rfl
@[simp] theorem advCctr_tt (b : Bool) (s : State) : (advCctr b s).tt = s.tt := by
  unfold advCctr; split <;> rfl
@[simp] theorem advCctr_runs (b : Bool) (s : State) : (advCctr b s).runs = s.runs := by
  unfold advCctr; split <;> rfl
@[simp] theorem advCctr_flog (b : Bool) (s : State) : (advCctr b s).flog = s.flog := by
  unfold advCctr; split <;> rfl
@[simp] theorem advCctr_pool (b : Bool) (s : State) : (advCctr b s).pool = s.pool := by
  unfold advCctr; split <;> rfl
@[simp] theorem advCctr_sigcap (b : Bool) (s : State) : (advCctr b s).sigcap = s.sigcap := by
  unfold advCctr; split <;> rfl
@[simp] theorem advCctr_finj (b : Bool) (s : State) : (advCctr b s).finj = s.finj := by
  unfold advCctr; split <;> rfl
@[simp] theorem advCctr_irqs (b : Bool) (s : State) : (advCctr b s).irqs = s.irqs := by
  unfold advCctr; split <;> rfl
@[simp] theorem advCctr_fab (b : Bool) (s : State) : (advCctr b s).fab = s.fab := by
  unfold advCctr; split <;> rfl
@[simp] theorem advCctr_outbox (b : Bool) (s : State) : (advCctr b s).outbox = s.outbox := by
  unfold advCctr; split <;> rfl
@[simp] theorem advCctr_barq (b : Bool) (s : State) : (advCctr b s).barq = s.barq := by
  unfold advCctr; split <;> rfl
@[simp] theorem advCctr_relObjs (b : Bool) (s : State) : (advCctr b s).relObjs = s.relObjs := by
  unfold advCctr; split <;> rfl
@[simp] theorem advCctr_colls (b : Bool) (s : State) : (advCctr b s).colls = s.colls := by
  unfold advCctr; split <;> rfl
@[simp] theorem advCctr_xlat (b : Bool) (s : State) : (advCctr b s).xlat = s.xlat := by
  unfold advCctr; split <;> rfl
@[simp] theorem advCctr_wmode (b : Bool) (s : State) : (advCctr b s).wmode = s.wmode := by
  unfold advCctr; split <;> rfl
@[simp] theorem advCctr_wchange (b : Bool) (s : State) : (advCctr b s).wchange = s.wchange := by
  unfold advCctr; split <;> rfl
@[simp] theorem advCctr_bind (b : Bool) (s : State) : (advCctr b s).bind = s.bind := by
  unfold advCctr; split <;> rfl
@[simp] theorem advCctr_region (b : Bool) (s : State) : (advCctr b s).region = s.region := by
  unfold advCctr; split <;> rfl
@[simp] theorem advCctr_coded (b : Bool) (s : State) : (advCctr b s).coded = s.coded := by
  unfold advCctr; split <;> rfl
@[simp] theorem advCctr_cctrs (b : Bool) (s : State) : (advCctr b s).cctrs = s.cctrs := by
  unfold advCctr; split <;> rfl

/-! ### `putS` -/

@[simp] theorem putS_core (lat : Nat) (d : SReg) (v : Word64) (s : State) :
    (putS lat d v s).core = if d = 0 then s.core else (put lat (.s (physS s.core d) v) s).core := by
  unfold putS; split <;> rfl
@[simp] theorem putS_cyc (lat : Nat) (d : SReg) (v : Word64) (s : State) : (putS lat d v s).cyc = s.cyc := by
  unfold putS; split <;> rfl
@[simp] theorem putS_free (lat : Nat) (d : SReg) (v : Word64) (s : State) : (putS lat d v s).free = s.free := by
  unfold putS; split <;> rfl
@[simp] theorem putS_inputs (lat : Nat) (d : SReg) (v : Word64) (s : State) : (putS lat d v s).inputs = s.inputs := by
  unfold putS; split <;> rfl
@[simp] theorem putS_coreNo (lat : Nat) (d : SReg) (v : Word64) (s : State) : (putS lat d v s).coreNo = s.coreNo := by
  unfold putS; split <;> rfl
@[simp] theorem putS_others (lat : Nat) (d : SReg) (v : Word64) (s : State) : (putS lat d v s).others = s.others := by
  unfold putS; split <;> rfl
@[simp] theorem putS_mem (lat : Nat) (d : SReg) (v : Word64) (s : State) : (putS lat d v s).mem = s.mem := by
  unfold putS; split <;> rfl
@[simp] theorem putS_poison (lat : Nat) (d : SReg) (v : Word64) (s : State) : (putS lat d v s).poison = s.poison := by
  unfold putS; split <;> rfl
@[simp] theorem putS_frameTag (lat : Nat) (d : SReg) (v : Word64) (s : State) : (putS lat d v s).frameTag = s.frameTag := by
  unfold putS; split <;> rfl
@[simp] theorem putS_l2 (lat : Nat) (d : SReg) (v : Word64) (s : State) : (putS lat d v s).l2 = s.l2 := by
  unfold putS; split <;> rfl
@[simp] theorem putS_boot (lat : Nat) (d : SReg) (v : Word64) (s : State) : (putS lat d v s).boot = s.boot := by
  unfold putS; split <;> rfl
@[simp] theorem putS_maps (lat : Nat) (d : SReg) (v : Word64) (s : State) : (putS lat d v s).maps = s.maps := by
  unfold putS; split <;> rfl
@[simp] theorem putS_tt (lat : Nat) (d : SReg) (v : Word64) (s : State) : (putS lat d v s).tt = s.tt := by
  unfold putS; split <;> rfl
@[simp] theorem putS_runs (lat : Nat) (d : SReg) (v : Word64) (s : State) : (putS lat d v s).runs = s.runs := by
  unfold putS; split <;> rfl
@[simp] theorem putS_flog (lat : Nat) (d : SReg) (v : Word64) (s : State) : (putS lat d v s).flog = s.flog := by
  unfold putS; split <;> rfl
@[simp] theorem putS_pool (lat : Nat) (d : SReg) (v : Word64) (s : State) : (putS lat d v s).pool = s.pool := by
  unfold putS; split <;> rfl
@[simp] theorem putS_sigcap (lat : Nat) (d : SReg) (v : Word64) (s : State) : (putS lat d v s).sigcap = s.sigcap := by
  unfold putS; split <;> rfl
@[simp] theorem putS_finj (lat : Nat) (d : SReg) (v : Word64) (s : State) : (putS lat d v s).finj = s.finj := by
  unfold putS; split <;> rfl
@[simp] theorem putS_irqs (lat : Nat) (d : SReg) (v : Word64) (s : State) : (putS lat d v s).irqs = s.irqs := by
  unfold putS; split <;> rfl
@[simp] theorem putS_fab (lat : Nat) (d : SReg) (v : Word64) (s : State) : (putS lat d v s).fab = s.fab := by
  unfold putS; split <;> rfl
@[simp] theorem putS_outbox (lat : Nat) (d : SReg) (v : Word64) (s : State) : (putS lat d v s).outbox = s.outbox := by
  unfold putS; split <;> rfl
@[simp] theorem putS_barq (lat : Nat) (d : SReg) (v : Word64) (s : State) : (putS lat d v s).barq = s.barq := by
  unfold putS; split <;> rfl
@[simp] theorem putS_relObjs (lat : Nat) (d : SReg) (v : Word64) (s : State) : (putS lat d v s).relObjs = s.relObjs := by
  unfold putS; split <;> rfl
@[simp] theorem putS_colls (lat : Nat) (d : SReg) (v : Word64) (s : State) : (putS lat d v s).colls = s.colls := by
  unfold putS; split <;> rfl
@[simp] theorem putS_xlat (lat : Nat) (d : SReg) (v : Word64) (s : State) : (putS lat d v s).xlat = s.xlat := by
  unfold putS; split <;> rfl
@[simp] theorem putS_wmode (lat : Nat) (d : SReg) (v : Word64) (s : State) : (putS lat d v s).wmode = s.wmode := by
  unfold putS; split <;> rfl
@[simp] theorem putS_wchange (lat : Nat) (d : SReg) (v : Word64) (s : State) : (putS lat d v s).wchange = s.wchange := by
  unfold putS; split <;> rfl
@[simp] theorem putS_bind (lat : Nat) (d : SReg) (v : Word64) (s : State) : (putS lat d v s).bind = s.bind := by
  unfold putS; split <;> rfl
@[simp] theorem putS_region (lat : Nat) (d : SReg) (v : Word64) (s : State) : (putS lat d v s).region = s.region := by
  unfold putS; split <;> rfl
@[simp] theorem putS_coded (lat : Nat) (d : SReg) (v : Word64) (s : State) : (putS lat d v s).coded = s.coded := by
  unfold putS; split <;> rfl
@[simp] theorem putS_cctrs (lat : Nat) (d : SReg) (v : Word64) (s : State) : (putS lat d v s).cctrs = s.cctrs := by
  unfold putS; split <;> rfl

/-! ### `putG` -/

@[simp] theorem putG_core (lat : Nat) (d : GReg) (v : Bool) (s : State) :
    (putG lat d v s).core = if d = 0 then s.core else (put lat (.g d.toNat v) s).core := by
  unfold putG; split <;> rfl
@[simp] theorem putG_cyc (lat : Nat) (d : GReg) (v : Bool) (s : State) : (putG lat d v s).cyc = s.cyc := by
  unfold putG; split <;> rfl
@[simp] theorem putG_free (lat : Nat) (d : GReg) (v : Bool) (s : State) : (putG lat d v s).free = s.free := by
  unfold putG; split <;> rfl
@[simp] theorem putG_inputs (lat : Nat) (d : GReg) (v : Bool) (s : State) : (putG lat d v s).inputs = s.inputs := by
  unfold putG; split <;> rfl
@[simp] theorem putG_coreNo (lat : Nat) (d : GReg) (v : Bool) (s : State) : (putG lat d v s).coreNo = s.coreNo := by
  unfold putG; split <;> rfl
@[simp] theorem putG_others (lat : Nat) (d : GReg) (v : Bool) (s : State) : (putG lat d v s).others = s.others := by
  unfold putG; split <;> rfl
@[simp] theorem putG_mem (lat : Nat) (d : GReg) (v : Bool) (s : State) : (putG lat d v s).mem = s.mem := by
  unfold putG; split <;> rfl
@[simp] theorem putG_poison (lat : Nat) (d : GReg) (v : Bool) (s : State) : (putG lat d v s).poison = s.poison := by
  unfold putG; split <;> rfl
@[simp] theorem putG_frameTag (lat : Nat) (d : GReg) (v : Bool) (s : State) : (putG lat d v s).frameTag = s.frameTag := by
  unfold putG; split <;> rfl
@[simp] theorem putG_l2 (lat : Nat) (d : GReg) (v : Bool) (s : State) : (putG lat d v s).l2 = s.l2 := by
  unfold putG; split <;> rfl
@[simp] theorem putG_boot (lat : Nat) (d : GReg) (v : Bool) (s : State) : (putG lat d v s).boot = s.boot := by
  unfold putG; split <;> rfl
@[simp] theorem putG_maps (lat : Nat) (d : GReg) (v : Bool) (s : State) : (putG lat d v s).maps = s.maps := by
  unfold putG; split <;> rfl
@[simp] theorem putG_tt (lat : Nat) (d : GReg) (v : Bool) (s : State) : (putG lat d v s).tt = s.tt := by
  unfold putG; split <;> rfl
@[simp] theorem putG_runs (lat : Nat) (d : GReg) (v : Bool) (s : State) : (putG lat d v s).runs = s.runs := by
  unfold putG; split <;> rfl
@[simp] theorem putG_flog (lat : Nat) (d : GReg) (v : Bool) (s : State) : (putG lat d v s).flog = s.flog := by
  unfold putG; split <;> rfl
@[simp] theorem putG_pool (lat : Nat) (d : GReg) (v : Bool) (s : State) : (putG lat d v s).pool = s.pool := by
  unfold putG; split <;> rfl
@[simp] theorem putG_sigcap (lat : Nat) (d : GReg) (v : Bool) (s : State) : (putG lat d v s).sigcap = s.sigcap := by
  unfold putG; split <;> rfl
@[simp] theorem putG_finj (lat : Nat) (d : GReg) (v : Bool) (s : State) : (putG lat d v s).finj = s.finj := by
  unfold putG; split <;> rfl
@[simp] theorem putG_irqs (lat : Nat) (d : GReg) (v : Bool) (s : State) : (putG lat d v s).irqs = s.irqs := by
  unfold putG; split <;> rfl
@[simp] theorem putG_fab (lat : Nat) (d : GReg) (v : Bool) (s : State) : (putG lat d v s).fab = s.fab := by
  unfold putG; split <;> rfl
@[simp] theorem putG_outbox (lat : Nat) (d : GReg) (v : Bool) (s : State) : (putG lat d v s).outbox = s.outbox := by
  unfold putG; split <;> rfl
@[simp] theorem putG_barq (lat : Nat) (d : GReg) (v : Bool) (s : State) : (putG lat d v s).barq = s.barq := by
  unfold putG; split <;> rfl
@[simp] theorem putG_relObjs (lat : Nat) (d : GReg) (v : Bool) (s : State) : (putG lat d v s).relObjs = s.relObjs := by
  unfold putG; split <;> rfl
@[simp] theorem putG_colls (lat : Nat) (d : GReg) (v : Bool) (s : State) : (putG lat d v s).colls = s.colls := by
  unfold putG; split <;> rfl
@[simp] theorem putG_xlat (lat : Nat) (d : GReg) (v : Bool) (s : State) : (putG lat d v s).xlat = s.xlat := by
  unfold putG; split <;> rfl
@[simp] theorem putG_wmode (lat : Nat) (d : GReg) (v : Bool) (s : State) : (putG lat d v s).wmode = s.wmode := by
  unfold putG; split <;> rfl
@[simp] theorem putG_wchange (lat : Nat) (d : GReg) (v : Bool) (s : State) : (putG lat d v s).wchange = s.wchange := by
  unfold putG; split <;> rfl
@[simp] theorem putG_bind (lat : Nat) (d : GReg) (v : Bool) (s : State) : (putG lat d v s).bind = s.bind := by
  unfold putG; split <;> rfl
@[simp] theorem putG_region (lat : Nat) (d : GReg) (v : Bool) (s : State) : (putG lat d v s).region = s.region := by
  unfold putG; split <;> rfl
@[simp] theorem putG_coded (lat : Nat) (d : GReg) (v : Bool) (s : State) : (putG lat d v s).coded = s.coded := by
  unfold putG; split <;> rfl
@[simp] theorem putG_cctrs (lat : Nat) (d : GReg) (v : Bool) (s : State) : (putG lat d v s).cctrs = s.cctrs := by
  unfold putG; split <;> rfl

/-! ### `spend` -/

@[simp] theorem spend_cyc (k : Nat) (s : State) : (spend k s).cyc = s.cyc := rfl
@[simp] theorem spend_free (k : Nat) (s : State) : (spend k s).free = s.free + k := rfl
@[simp] theorem spend_inputs (k : Nat) (s : State) : (spend k s).inputs = s.inputs := rfl
@[simp] theorem spend_coreNo (k : Nat) (s : State) : (spend k s).coreNo = s.coreNo := rfl
@[simp] theorem spend_core (k : Nat) (s : State) : (spend k s).core = s.core := rfl
@[simp] theorem spend_others (k : Nat) (s : State) : (spend k s).others = s.others := rfl
@[simp] theorem spend_mem (k : Nat) (s : State) : (spend k s).mem = s.mem := rfl
@[simp] theorem spend_poison (k : Nat) (s : State) : (spend k s).poison = s.poison := rfl
@[simp] theorem spend_frameTag (k : Nat) (s : State) : (spend k s).frameTag = s.frameTag := rfl
@[simp] theorem spend_l2 (k : Nat) (s : State) : (spend k s).l2 = s.l2 := rfl
@[simp] theorem spend_boot (k : Nat) (s : State) : (spend k s).boot = s.boot := rfl
@[simp] theorem spend_maps (k : Nat) (s : State) : (spend k s).maps = s.maps := rfl
@[simp] theorem spend_tt (k : Nat) (s : State) : (spend k s).tt = s.tt := rfl
@[simp] theorem spend_runs (k : Nat) (s : State) : (spend k s).runs = s.runs := rfl
@[simp] theorem spend_flog (k : Nat) (s : State) : (spend k s).flog = s.flog := rfl
@[simp] theorem spend_pool (k : Nat) (s : State) : (spend k s).pool = s.pool := rfl
@[simp] theorem spend_sigcap (k : Nat) (s : State) : (spend k s).sigcap = s.sigcap := rfl
@[simp] theorem spend_finj (k : Nat) (s : State) : (spend k s).finj = s.finj := rfl
@[simp] theorem spend_irqs (k : Nat) (s : State) : (spend k s).irqs = s.irqs := rfl
@[simp] theorem spend_fab (k : Nat) (s : State) : (spend k s).fab = s.fab := rfl
@[simp] theorem spend_outbox (k : Nat) (s : State) : (spend k s).outbox = s.outbox := rfl
@[simp] theorem spend_barq (k : Nat) (s : State) : (spend k s).barq = s.barq := rfl
@[simp] theorem spend_relObjs (k : Nat) (s : State) : (spend k s).relObjs = s.relObjs := rfl
@[simp] theorem spend_colls (k : Nat) (s : State) : (spend k s).colls = s.colls := rfl
@[simp] theorem spend_xlat (k : Nat) (s : State) : (spend k s).xlat = s.xlat := rfl
@[simp] theorem spend_wmode (k : Nat) (s : State) : (spend k s).wmode = s.wmode := rfl
@[simp] theorem spend_wchange (k : Nat) (s : State) : (spend k s).wchange = s.wchange := rfl
@[simp] theorem spend_bind (k : Nat) (s : State) : (spend k s).bind = s.bind := rfl
@[simp] theorem spend_region (k : Nat) (s : State) : (spend k s).region = s.region := rfl
@[simp] theorem spend_coded (k : Nat) (s : State) : (spend k s).coded = s.coded := rfl
@[simp] theorem spend_cctrs (k : Nat) (s : State) : (spend k s).cctrs = s.cctrs := rfl

end Sys2Proof.Machine
end

