-- ==== Sys2Proof/Laws/Store.lean ====
section
/-! SUPPORT. The laws of sparse maps and of memory: read after write, the canonical form, equality from reads. -/

namespace Sys2Proof.Machine

/-! ### Sparse maps -/

@[simp] theorem mget_nil {α : Type} (d : α) (k : Nat) : mget d [] k = d := rfl

theorem mwfFrom_le {α : Type} [DecidableEq α] {d : α} {m : SMap α} {lo lo' : Nat} (h : mwfFrom d lo m = true)
    (hl : lo' ≤ lo) : mwfFrom d lo' m = true := by
  cases m with
  | nil => rfl
  | cons p m =>
    simp only [mwfFrom, Bool.and_eq_true, decide_eq_true_eq] at h ⊢
    exact ⟨⟨by omega, h.1.2⟩, h.2⟩

/-- Below the first key a canonical map reads its default. -/
theorem mget_below {α : Type} [DecidableEq α] {d : α} {m : SMap α} {lo k : Nat} (h : mwfFrom d lo m = true)
    (hk : k < lo) : mget d m k = d := by
  cases m with
  | nil => rfl
  | cons p m =>
    simp only [mwfFrom, Bool.and_eq_true, decide_eq_true_eq] at h
    simp only [mget]
    rw [if_neg (by omega), if_pos (by omega)]

/-- The key written reads the value written. -/
theorem mget_mset_self {α : Type} [DecidableEq α] {d : α} {m : SMap α} {lo : Nat} (h : mwfFrom d lo m = true) (k : Nat)
    (v : α) : mget d (mset d m k v) k = v := by
  induction m generalizing lo with
  | nil => simp only [mset]; split <;> simp_all [mget]
  | cons p m ih =>
    obtain ⟨k', v'⟩ := p
    simp only [mwfFrom, Bool.and_eq_true, decide_eq_true_eq] at h
    simp only [mset]
    split
    · rename_i hk
      subst hk
      split
      · rename_i hv
        rw [hv]
        exact mget_below h.2 (Nat.lt_succ_self k)
      · simp [mget]
    · split
      · split
        · rename_i hv
          simp only [mget]
          rw [if_neg (by omega), if_pos (by omega), hv]
        · simp [mget]
      · rename_i h1 h2
        simp only [mget]
        rw [if_neg h1, if_neg h2]
        exact ih h.2

/-- Every other key reads as before. -/
theorem mget_mset_of_ne {α : Type} [DecidableEq α] {d : α} {m : SMap α} {lo : Nat} (h : mwfFrom d lo m = true) {k j : Nat}
    (hj : j ≠ k) (v : α) : mget d (mset d m k v) j = mget d m j := by
  induction m generalizing lo with
  | nil =>
    simp only [mset]
    split
    · rfl
    · simp only [mget]
      rw [if_neg hj]
      split <;> rfl
  | cons p m ih =>
    obtain ⟨k', v'⟩ := p
    simp only [mwfFrom, Bool.and_eq_true, decide_eq_true_eq] at h
    simp only [mset]
    split
    · rename_i hk
      subst hk
      split
      · simp only [mget]
        rw [if_neg hj]
        split
        · exact mget_below h.2 (by omega)
        · rfl
      · simp only [mget]
        rw [if_neg hj, if_neg hj]
    · split
      · rename_i h1 h2
        split
        · rfl
        · simp only [mget]
          rw [if_neg hj]
          split
          · rename_i hlt
            rw [if_neg (by omega), if_pos (by omega)]
          · rfl
      · simp only [mget]
        split
        · rfl
        · split
          · rfl
          · exact ih h.2

theorem mwfFrom_mset {α : Type} [DecidableEq α] {d : α} {m : SMap α} {lo : Nat} (h : mwfFrom d lo m = true) {k : Nat}
    (hk : lo ≤ k) (v : α) : mwfFrom d lo (mset d m k v) = true := by
  induction m generalizing lo with
  | nil =>
    simp only [mset]
    split
    · rfl
    · simp_all [mwfFrom]
  | cons p m ih =>
    obtain ⟨k', v'⟩ := p
    simp only [mwfFrom, Bool.and_eq_true, decide_eq_true_eq] at h
    simp only [mset]
    split
    · rename_i he
      subst he
      split
      · exact mwfFrom_le h.2 (by omega)
      · simp only [mwfFrom, Bool.and_eq_true, decide_eq_true_eq]
        exact ⟨⟨hk, by assumption⟩, h.2⟩
    · split
      · split
        · simp only [mwfFrom, Bool.and_eq_true, decide_eq_true_eq]
          exact h
        · simp only [mwfFrom, Bool.and_eq_true, decide_eq_true_eq]
          exact ⟨⟨hk, by assumption⟩, ⟨by omega, h.1.2⟩, h.2⟩
      · simp only [mwfFrom, Bool.and_eq_true, decide_eq_true_eq]
        exact ⟨h.1, ih h.2 (by omega)⟩

/-- Writing keeps the canonical form. -/
theorem mwf_mset {α : Type} [DecidableEq α] {d : α} {m : SMap α} (h : mwf d m = true) (k : Nat) (v : α) :
    mwf d (mset d m k v) = true := mwfFrom_mset h (Nat.zero_le k) v

theorem mwf_filter_from {α : Type} [DecidableEq α] {d : α} {m : SMap α} {lo : Nat} (f : Nat × α → Bool)
    (h : mwfFrom d lo m = true) : mwfFrom d lo (m.filter f) = true := by
  induction m generalizing lo with
  | nil => rfl
  | cons p m ih =>
    obtain ⟨k', v'⟩ := p
    simp only [mwfFrom, Bool.and_eq_true, decide_eq_true_eq] at h
    simp only [List.filter]
    split
    · simp only [mwfFrom, Bool.and_eq_true, decide_eq_true_eq]
      exact ⟨h.1, ih h.2⟩
    · exact mwfFrom_le (ih h.2) (by omega)

/-- Dropping entries keeps the canonical form. -/
theorem mwf_filter {α : Type} [DecidableEq α] {d : α} {m : SMap α} (f : Nat × α → Bool) (h : mwf d m = true) :
    mwf d (m.filter f) = true := mwf_filter_from f h

theorem mwfFrom_ext {α : Type} [DecidableEq α] {d : α} {m m' : SMap α} {lo : Nat} (h : mwfFrom d lo m = true)
    (h' : mwfFrom d lo m' = true) (he : ∀ k, mget d m k = mget d m' k) : m = m' := by
  induction m generalizing lo m' with
  | nil =>
    cases m' with
    | nil => rfl
    | cons p m' =>
      obtain ⟨k, v⟩ := p
      have := he k
      simp only [mwfFrom, Bool.and_eq_true, decide_eq_true_eq] at h'
      simp only [mget, reduceIte] at this
      exact absurd this.symm h'.1.2
  | cons p m ih =>
    obtain ⟨k, v⟩ := p
    cases m' with
    | nil =>
      have := he k
      simp only [mwfFrom, Bool.and_eq_true, decide_eq_true_eq] at h
      simp only [mget, reduceIte] at this
      exact absurd this h.1.2
    | cons p' m' =>
      obtain ⟨k', v'⟩ := p'
      simp only [mwfFrom, Bool.and_eq_true, decide_eq_true_eq] at h h'
      have hkk : k = k' := by
        rcases Nat.lt_trichotomy k k' with hlt | heq | hgt
        · have := he k
          simp only [mget, reduceIte] at this
          rw [if_neg (by omega), if_pos hlt] at this
          exact absurd this h.1.2
        · exact heq
        · have := he k'
          simp only [mget, reduceIte] at this
          rw [if_neg (by omega), if_pos (by omega)] at this
          exact absurd this.symm h'.1.2
      subst hkk
      have hv : v = v' := by
        have := he k
        simpa [mget] using this
      subst hv
      have ht : m = m' := by
        refine ih h.2 h'.2 fun j => ?_
        rcases Nat.lt_or_ge k j with hj | hj
        · have := he j
          simp only [mget] at this
          rwa [if_neg (by omega), if_neg (by omega), if_neg (by omega), if_neg (by omega)] at this
        · rw [mget_below h.2 (by omega), mget_below h'.2 (by omega)]
      rw [ht]

/-- Canonical maps that read alike are the same data. -/
theorem mwf_ext {α : Type} [DecidableEq α] {d : α} {m m' : SMap α} (h : mwf d m = true) (h' : mwf d m' = true)
    (he : ∀ k, mget d m k = mget d m' k) : m = m' := mwfFrom_ext h h' he

/-! ### Memory -/

theorem Memory.wf_nil : Memory.wf [] = true := rfl

theorem Memory.write_wf {m : Memory} (h : m.wf = true) (a : Nat) (v : Byte) : (m.write a v).wf = true := mwf_mset h a v

/-- A byte written reads back. -/
theorem Memory.read_write_self {m : Memory} (h : m.wf = true) (a : Nat) (v : Byte) : (m.write a v).read a = v :=
  mget_mset_self h a v

/-- A write leaves every other byte alone. -/
theorem Memory.read_write_of_ne {m : Memory} (h : m.wf = true) {a b : Nat} (hb : b ≠ a) (v : Byte) :
    (m.write a v).read b = m.read b := mget_mset_of_ne h hb v

/-- Writing bytes keeps the canonical form. -/
theorem Memory.writeBytes_wf {m : Memory} (h : m.wf = true) (a : Nat) (bs : List Byte) : (m.writeBytes a bs).wf = true := by
  induction bs generalizing m a with
  | nil => exact h
  | cons b bs ih => exact ih (Memory.write_wf h a b) (a + 1)

/-- Outside the bytes written every byte reads as before. -/
theorem Memory.read_writeBytes_out {m : Memory} (h : m.wf = true) {a x : Nat} {bs : List Byte}
    (hx : x < a ∨ a + bs.length ≤ x) : (m.writeBytes a bs).read x = m.read x := by
  induction bs generalizing m a with
  | nil => rfl
  | cons b bs ih =>
    rw [List.length_cons] at hx
    rw [Memory.writeBytes, ih (Memory.write_wf h a b) (by omega), Memory.read_write_of_ne h (by omega)]

/-- The bytes written read back. -/
theorem Memory.read_writeBytes_in {m : Memory} (h : m.wf = true) {a i : Nat} {bs : List Byte} (hi : i < bs.length) :
    (m.writeBytes a bs).read (a + i) = bs.getD i 0 := by
  induction bs generalizing m a i with
  | nil => exact absurd hi (Nat.not_lt_zero i)
  | cons b bs ih =>
    rw [Memory.writeBytes]
    cases i with
    | zero =>
      rw [Memory.read_writeBytes_out (Memory.write_wf h a b) (by omega)]
      simpa using Memory.read_write_self h a b
    | succ i =>
      have := ih (Memory.write_wf h a b) (a := a + 1) (i := i) (by simpa using hi)
      rw [show a + (i + 1) = a + 1 + i by omega, this]
      simp

/-- Canonical memories that read alike are the same data. -/
theorem Memory.ext {m m' : Memory} (h : m.wf = true) (h' : m'.wf = true) (he : ∀ a, m.read a = m'.read a) : m = m' :=
  mwf_ext h h' he

theorem Memory.readBytes_length (m : Memory) (a n : Nat) : (m.readBytes a n).length = n := by
  simp [Memory.readBytes]

/-! ### Bytes and numbers -/

theorem natToBytes_length (n v : Nat) : (natToBytes n v).length = n := by
  induction n generalizing v with
  | zero => rfl
  | succ n ih => simp [natToBytes, ih]

theorem bytesToNat_natToBytes (n v : Nat) : bytesToNat (natToBytes n v) = v % 256 ^ n := by
  induction n generalizing v with
  | zero => simp [natToBytes, bytesToNat, Nat.mod_one]
  | succ n ih =>
    have h : (BitVec.ofNat 8 v).toNat = v % 256 := BitVec.toNat_ofNat v 8
    rw [natToBytes, bytesToNat, ih, h, show 256 ^ (n + 1) = 256 * 256 ^ n by rw [Nat.pow_succ, Nat.mul_comm], Nat.mod_mul]

end Sys2Proof.Machine
end

