-- ==== Sys2Proof/Laws/Vector.lean ====
section
/-! SUPPORT. What the shared operations of the V slots do when their results land. -/

namespace Sys2Proof.Machine

theorem foldl_mset_wf {α ι : Type} [DecidableEq α] {d : α} (key : ι → Nat) (val : ι → α) (L : List ι) {m : SMap α}
    (h : mwf d m = true) : mwf d (L.foldl (fun m l => mset d m (key l) (val l)) m) = true := by
  induction L generalizing m with
  | nil => exact h
  | cons l L ih => exact ih (mwf_mset h _ _)

/-- A key that no write names reads as before. -/
theorem mget_foldl_mset_out {α ι : Type} [DecidableEq α] {d : α} (key : ι → Nat) (val : ι → α) (L : List ι) {m : SMap α}
    (h : mwf d m = true) {x : Nat} (hx : ∀ l ∈ L, x ≠ key l) :
    mget d (L.foldl (fun m l => mset d m (key l) (val l)) m) x = mget d m x := by
  induction L generalizing m with
  | nil => rfl
  | cons l L ih =>
    rw [List.foldl_cons, ih (mwf_mset h _ _) fun j hj => hx j (by simp [hj]), mget_mset_of_ne h (hx l (by simp))]

/-- Each of several writes to different keys reads back. -/
theorem mget_foldl_mset_in {α ι : Type} [DecidableEq α] {d : α} (key : ι → Nat) (val : ι → α) {L : List ι}
    (hn : L.Nodup) (hk : ∀ i ∈ L, ∀ j ∈ L, key i = key j → i = j) {m : SMap α} (h : mwf d m = true) {l : ι} (hl : l ∈ L) :
    mget d (L.foldl (fun m l => mset d m (key l) (val l)) m) (key l) = val l := by
  induction L generalizing m with
  | nil => simp at hl
  | cons i L ih =>
    rw [List.nodup_cons] at hn
    rw [List.foldl_cons]
    by_cases hli : l = i
    · subst hli
      rw [mget_foldl_mset_out key val L (mwf_mset h _ _), mget_mset_self h]
      intro j hj he
      exact hn.1 (hk l (by simp) j (by simp [hj]) he ▸ hj)
    · have hl' : l ∈ L := by simpa [hli] using hl
      exact ih hn.2 (fun a ha b hb => hk a (by simp [ha]) b (by simp [hb])) (mwf_mset h _ _) hl'

/-- Flags ORed lane by lane. -/
theorem mget_foldl_or {L : List Nat} (hn : L.Nodup) (c : Nat → Bool) (fl : Nat → Flags) {m : SMap Flags}
    (h : mwf 0 m = true) (x : Nat) :
    mget 0 (L.foldl (fun m l => if c l then mset 0 m l (mget 0 m l ||| fl l) else m) m) x
      = mget 0 m x ||| (if x ∈ L ∧ c x = true then fl x else 0) := by
  induction L generalizing m with
  | nil => simp
  | cons l L ih =>
    rw [List.nodup_cons] at hn
    rw [List.foldl_cons]
    have hw : mwf 0 (if c l then mset 0 m l (mget 0 m l ||| fl l) else m) = true := by
      split
      · exact mwf_mset h _ _
      · exact h
    rw [ih hn.2 hw]
    by_cases hx : x = l
    · subst hx
      have hx : ¬(x ∈ L ∧ c x = true) := fun h => hn.1 h.1
      rw [if_neg hx]
      by_cases hc : c x = true
      · rw [if_pos hc, mget_mset_self h, if_pos ⟨List.mem_cons_self, hc⟩]
        exact BitVec.or_zero
      · rw [if_neg hc, if_neg (fun h : x ∈ x :: L ∧ c x = true => hc h.2)]
    · have he : (x ∈ l :: L ∧ c x = true) ↔ (x ∈ L ∧ c x = true) := by simp [hx]
      simp only [he]
      by_cases hc : c l = true
      · rw [if_pos hc, mget_mset_of_ne h hx]
      · rw [if_neg hc]

/-- `u` with another register array, or other lane flags. -/
def setTile (m : SMap Word32) (u : State) : State := { u with core := { u.core with tile := m } }
def setLflag (m : SMap Flags) (u : State) : State := { u with core := { u.core with lflag := m } }

/-- What lane `l` puts in flight. -/
def laneEffects (nf : Bool) (key : Nat → Nat) (lane : Nat → Nat × Flags) (l : Nat) : List Effect :=
  if nf || (lane l).2 == 0 then [.t (key l) (BitVec.ofNat 32 (lane l).1)]
  else [.t (key l) (BitVec.ofNat 32 (lane l).1), .lflg l (lane l).2]

theorem laneEffects_flagFree (nf : Bool) (key : Nat → Nat) (lane : Nat → Nat × Flags) (L : List Nat) :
    ∀ e ∈ L.flatMap (laneEffects nf key lane), FlagFree e := by
  intro e he
  obtain ⟨l, -, he⟩ := List.mem_flatMap.1 he
  unfold laneEffects at he
  split at he
  · rw [List.mem_singleton.1 he]; exact flagFree_t _ _
  · rcases List.mem_cons.1 he with rfl | he
    · exact flagFree_t _ _
    · rw [List.mem_singleton.1 he]; exact flagFree_lflg _ _

theorem foldl_applyEffect_lanes (nf : Bool) (key : Nat → Nat) (lane : Nat → Nat × Flags) (L : List Nat) (u : State) :
    (L.flatMap (laneEffects nf key lane)).foldl (fun s e => applyEffect e s) u
      = setTile (L.foldl (fun m l => mset 0 m (key l) (BitVec.ofNat 32 (lane l).1)) u.core.tile) u := by
  induction L generalizing u with
  | nil => rfl
  | cons l L ih =>
    rw [List.flatMap_cons, List.foldl_append, ih]
    have h1 : (laneEffects nf key lane l).foldl (fun s e => applyEffect e s) u
        = setTile (mset 0 u.core.tile (key l) (BitVec.ofNat 32 (lane l).1)) u := by
      unfold laneEffects
      split <;> rfl
    rw [h1]
    rfl

theorem foldl_applyFlag_lanes (nf : Bool) (key : Nat → Nat) (lane : Nat → Nat × Flags) (L : List Nat) (u : State) :
    (L.flatMap (laneEffects nf key lane)).foldl (fun s e => applyFlag e s) u
      = setLflag (L.foldl (fun m l => if !(nf || (lane l).2 == 0) then mset 0 m l (mget 0 m l ||| (lane l).2) else m)
          u.core.lflag) u := by
  induction L generalizing u with
  | nil => rfl
  | cons l L ih =>
    rw [List.flatMap_cons, List.foldl_append, ih, List.foldl_cons]
    have h1 : (laneEffects nf key lane l).foldl (fun s e => applyFlag e s) u
        = setLflag (if !(nf || (lane l).2 == 0) then mset 0 u.core.lflag l (mget 0 u.core.lflag l ||| (lane l).2)
            else u.core.lflag) u := by
      unfold laneEffects
      by_cases h : (nf || (lane l).2 == 0) = true
      · rw [if_pos h, if_neg (by rw [h]; decide)]; rfl
      · rw [if_neg h, if_pos (by rw [Bool.not_eq_true] at h; rw [h]; rfl)]; rfl
    rw [h1]
    rfl

theorem landEffects_lanes (nf : Bool) (key : Nat → Nat) (lane : Nat → Nat × Flags) (L : List Nat) (u : State) :
    landEffects (L.flatMap (laneEffects nf key lane)) u
      = setLflag (L.foldl (fun m l => if !(nf || (lane l).2 == 0) then mset 0 m l (mget 0 m l ||| (lane l).2) else m)
          u.core.lflag)
        (setTile (L.foldl (fun m l => mset 0 m (key l) (BitVec.ofNat 32 (lane l).1)) u.core.tile) u) := by
  rw [landEffects, foldl_applyEffect_lanes, foldl_applyFlag_lanes]
  rfl

/-! ### The canonical form while results land -/

theorem applyEffect_tile_wf {e : Effect} {s : State} (h : mwf 0 s.core.tile = true) :
    mwf 0 (applyEffect e s).core.tile = true := by
  cases e
  case t k v => exact mwf_mset h _ _
  case sys n v =>
    have : (applySys n v s.core).tile = s.core.tile := by
      simp only [applySys, apply_ite Core.tile]
      simp [stages]
    show mwf 0 (applySys n v s.core).tile = true
    rw [this]; exact h
  all_goals exact h

theorem applyEffect_lflag_wf {e : Effect} {s : State} (h : mwf 0 s.core.lflag = true) :
    mwf 0 (applyEffect e s).core.lflag = true := by
  cases e
  case lclr l => exact mwf_mset h _ _
  case sys n v =>
    show mwf 0 (applySys n v s.core).lflag = true
    rw [applySys_keeps_lflag]; exact h
  all_goals exact h

theorem applyFlag_wf {e : Effect} {s : State} (h : LanesOk s) : LanesOk (applyFlag e s) := by
  cases e
  case lflg l f => exact ⟨h.1, mwf_mset h.2 _ _⟩
  all_goals exact h

theorem landEffects_lanesOk (es : List Effect) {s : State} (h : LanesOk s) : LanesOk (landEffects es s) := by
  unfold landEffects
  have h1 : ∀ (l : List Effect) (s : State), LanesOk s → LanesOk (l.foldl (fun s e => applyEffect e s) s) := by
    intro l
    induction l with
    | nil => exact fun _ h => h
    | cons e l ih => exact fun s h => ih _ ⟨applyEffect_tile_wf h.1, applyEffect_lflag_wf h.2⟩
  have h2 : ∀ (l : List Effect) (s : State), LanesOk s → LanesOk (l.foldl (fun s e => applyFlag e s) s) := by
    intro l
    induction l with
    | nil => exact fun _ h => h
    | cons e l ih => exact fun s h => ih _ (applyFlag_wf h)
  exact h2 _ _ (h1 _ _ h)

theorem later_lanesOk (n : Nat) {s : State} (h : LanesOk s) : LanesOk (later n s) := by
  rw [later_eq]
  exact landEffects_lanesOk _ h

/-! ### Vector results -/

/-- R105. The 64 elements of a vector are different. -/
theorem elKey_inj {c : Core} {k : Kind} (hk : k.isVec = true) {i j : Nat}
    (h : elKey c k i = elKey c k j) : i = j := by
  cases k with
  | row t r => simp only [elKey, tileKey] at h; omega
  | col t r =>
    simp only [elKey, tileKey] at h
    omega
  | diag t r =>
    simp only [elKey, tileKey] at h
    omega
  | s n => simp [Kind.isVec] at hk
  | q n st => simp [Kind.isVec] at hk
  | p n => simp [Kind.isVec] at hk
  | imm v => simp [Kind.isVec] at hk
  | bad => simp [Kind.isVec] at hk

/-- Lanes written and flags ORed, as `LaneWrites` says it. -/
theorem setLanes_spec {u w s : State} {nf : Bool} {k : Kind} {guard : Nat → Bool} {lane : Nat → Nat × Flags}
    (hw : LanesOk u)
    (h2 : w = setLflag (((List.range 64).filter guard).foldl (fun m l =>
          if !(nf || (lane l).2 == 0) then mset 0 m l (mget 0 m l ||| (lane l).2) else m) u.core.lflag)
        (setTile (((List.range 64).filter guard).foldl
          (fun m l => mset 0 m (elKey s.core k l) (BitVec.ofNat 32 (lane l).1)) u.core.tile) u))
    (hk : k.isVec = true) :
    { w with core := { w.core with tile := u.core.tile, lflag := u.core.lflag } } = u
    ∧ (∀ l, l < 64 → guard l = true → mget 0 w.core.tile (elKey s.core k l) = BitVec.ofNat 32 (lane l).1)
    ∧ (∀ x, (∀ l, l < 64 → guard l = true → x ≠ elKey s.core k l) → mget 0 w.core.tile x = mget 0 u.core.tile x)
    ∧ (∀ l, l < 64 → mget 0 w.core.lflag l =
        mget 0 u.core.lflag l ||| (if guard l = true ∧ nf = false then (lane l).2 else 0)) := by
  have hmem : ∀ l, l ∈ (List.range 64).filter guard ↔ l < 64 ∧ guard l = true := by
    intro l; rw [List.mem_filter, List.mem_range]
  have hn : ((List.range 64).filter guard).Nodup := List.Nodup.filter _ List.nodup_range
  subst h2
  refine ⟨rfl, fun l hl hg => ?_, fun x hx => ?_, fun l hl => ?_⟩
  · exact mget_foldl_mset_in (elKey s.core k) _ hn
      (fun _ _ _ _ => elKey_inj hk) hw.1 ((hmem l).2 ⟨hl, hg⟩)
  · exact mget_foldl_mset_out (elKey s.core k) _ _ hw.1 fun l hl => hx l ((hmem l).1 hl).1 ((hmem l).1 hl).2
  · refine (mget_foldl_or hn (fun l => !(nf || (lane l).2 == 0)) (fun l => (lane l).2) hw.2 l).trans ?_
    congr 1
    by_cases hg : guard l = true
    · cases nf
      · by_cases hf : (lane l).2 = 0
        · rw [hf]; simp
        · rw [if_pos ⟨(hmem l).2 ⟨hl, hg⟩, by simpa using hf⟩, if_pos ⟨hg, rfl⟩]
      · simp
    · rw [if_neg (fun h => hg ((hmem l).1 h.1).2), if_neg (fun h => hg h.1)]

/-- What a vector result does when it lands. -/
theorem lanes_land {lat : Nat} {s : State} (hs : LanesOk s) {v : VOp} {k : Kind} (hk : k.isVec = true)
    (guard : Nat → Bool) (lane : Nat → Nat × Flags) :
    LaneWrites lat v.nf k guard lane s (putMany lat (vecEffects s v k guard lane) s) := by
  have he : vecEffects s v k guard lane
      = ((List.range 64).filter guard).flatMap (laneEffects v.nf (elKey s.core k) lane) := rfl
  rw [he]
  obtain ⟨h1, h2⟩ := putMany_lands (laneEffects_flagFree v.nf (elKey s.core k) lane _) lat s
  refine ⟨h1, ?_⟩
  have hw := later_lanesOk lat hs
  rw [landEffects_lanes] at h2
  exact setLanes_spec hw h2 hk

end Sys2Proof.Machine
end

