-- ==== Sys2Proof/Tests/Slice0.lean ====
section
/-! SUPPORT. Tests: words that are no instructions, words that the specification's encodings give, one instruction on a small
state, and for each statement of Certificates/Slice0/Obligations.lean states and operands that meet its hypotheses. -/

namespace Sys2Proof

set_option Elab.async false

/-! ### Words that are no instructions (R278): one for each check of `Instr.wf` -/

/-- A V word of these fields, in V0 under P0. -/
def vw (d a b : BitVec 13) (sub : BitVec 4) (fmt : BitVec 5) : VOp := ⟨false, false, false, 0, d, a, b, sub, fmt⟩
/-- The guard that always holds. -/
def gt : Guard := ⟨false, 0⟩

/-- R281, R282, R295–R310. Condition codes above 9, GLOG operations above 4 or NOT with b, formats, roundings, widths,
spaces, atomic operations and system registers that the S rows do not list. -/
theorem test_wf_scalar :
  ([.cmp gt 1 2 3 10, .cmpi gt 1 2 15 0, .glog gt 1 2 3 5, .glog gt 1 2 3 4,
    .fadd gt 1 2 3 0 4, .fadd gt 1 2 3 7 10, .fsub gt 1 2 3 0 12, .fmul gt 1 2 3 7 10, .ffma gt 1 2 3 4 0 7,
    .fdiv gt 1 2 3 7 11, .fsqrt gt 1 2 0 31, .fmin gt 1 2 3 1 10, .fmax gt 1 2 3 0 5, .fcvt gt 1 2 0 3 10 false,
    .fcvt gt 1 2 0 10 12 false, .fcvt gt 1 2 7 10 11 false, .fcmp gt 1 2 3 6 10, .fcmp gt 1 2 3 0 4,
    .ld gt 1 ⟨2, 0, 7⟩ 0, .ld gt 1 ⟨2, 1, 3⟩ 0, .st gt 1 ⟨2, 0, 4⟩ 0, .st gt 1 ⟨2, 1, 3⟩ 0, .amo gt 1 2 ⟨3, 0, 1⟩ 0 0,
    .amo gt 1 2 ⟨3, 1, 3⟩ 0 0, .amo gt 1 2 ⟨3, 0, 3⟩ 9 0, .cas gt 1 2 ⟨3, 0, 4⟩ 0, .cas gt 1 2 ⟨3, 1, 2⟩ 0,
    .mfs gt 1 0x005, .mfs gt 1 0x025, .mts gt 1 0x000, .mts gt 1 0x010] : List Instr).all (fun i => !i.wf) = true := by
  decide +kernel

/-- R283, R319–R349. Formats, roundings, saturation and fields that the V rows do not list. -/
theorem test_wf_vector :
  ([.vadd (vw 0 0 0 0 12), .vsub (vw 0 0 0 0xE 10), .vmul (vw 0 0 0 2 4), .vfma (vw 0 0 0 0 5), .vfms (vw 0 0 0 0xE 10),
    .vfnma (vw 0 0 0 0 16), .vdiv (vw 0 0 0 0 4), .vsqrt (vw 0 0 1 0 10), .vmin (vw 0 0 0 1 10), .vmax (vw 0 0 0 0 13),
    .vabs (vw 0 0 0 1 10), .vabs (vw 0 0 1 0 10), .vneg (vw 0 0 0 2 4), .vexp2 (vw 0 0 0 0 11), .vexp2 (vw 0 0 0 0xA 10),
    .vlog2 (vw 0 0 3 0 10), .vsqacc (vw 0 0 0 0 9), .vsqacc (vw 0 0 0 2 10), .vcmul (vw 0 0 0 0 10), .vcfma (vw 0 0 0 0xE 17),
    .vconj (vw 0 0 1 0 17), .vand (vw 0 0 0 0 10), .vor (vw 0 0 0 1 4), .vxor (vw 0 0 0 0 8), .vshl (vw 0 0 0 8 4),
    .vshr (vw 0 0 0 0 31), .vsar (vw 0 0 0 0 9), .vcvt (vw 0 0 10 0 15), .vcvt (vw 0 0 42 0 10), .vcvt (vw 0 0 17 0 10),
    .vqnt (vw 0 0 0 0 14), .vqnt (vw 0 0 0 1 15), .vdqnt (vw 0 0 0 0 9), .vdqnt (vw 0 0 0 2 10), .vmxq (vw 0 0 11 0 12),
    .vmxq (vw 0 0 9 1 12), .vmxq (vw 0 0 9 0 10), .vmxd (vw 0 0 9 0 9), .vmxd (vw 0 0 12 0xE 9), .vmxd (vw 0 0 12 0 12),
    .vmov (vw 0 0 0 0 10), .vmov (vw 0 0 1 0 4), .vbcast (vw 0 0 0 0 8), .vperm (vw 0 0 0 0 6), .vbitx (vw 0 0 0 1 4),
    .vlane (vw 0 0 0 0 11), .vred (vw 0 0 0 3 10), .vred (vw 0 0 0 0 8), .vextr (vw 0 0 0 0 9), .vins (vw 0 0 0 1 4),
    .vcmp (vw 0 0 0 12 10), .vcmp (vw 0 0 0 6 10), .vcmp (vw 0 0 0 10 4), .vsel (vw 0 0 0 0 3), .vflag (vw 0 1 0 0 5),
    .vflag (vw 0 0 0 0 4), .vrnd (vw 0 0 1 0 10), .vrnd (vw 0 0 0 0 4)] : List Instr).all (fun i => !i.wf) = true := by
  decide +kernel

/-- R342–R349. The predicate rows. Classes: P 0x1A00 + n, Q 0x1900 + n, S 0x1800 + n. -/
theorem test_wf_predicate :
  ([.plog (vw 0x1A01 0x1A02 0x1A03 5 0), .plog (vw 0x1A01 0x1A02 0x1A03 0 5), .plog (vw 0x1A01 0x1A02 0x1A03 4 0),
    .pmov (vw 0x1A01 0x1A02 0 0 5), .pmov (vw 0x1A01 0 0 0 0), .pmov (vw 0x1A01 0 1 0 5), .scmp (vw 0x1901 0 0 6 10),
    .scmp (vw 0x1901 0 0 0 11), .qlog (vw 0x1901 0x1902 0x1903 8 0), .qnot (vw 0x1901 0x1902 1 0 0), .qblend (vw 0 0 0 0 11),
    .qcol (vw 0x1A01 0x1902 0 1 0), .qhard (vw 0x1A01 0x1902 1 0 0), .qmov (vw 0x1901 0x1902 0 0 10), .qmov (vw 0x1901 0 0 0 0),
    .qgrad (vw 0 0 0 6 10), .qgrad (vw 0 0 0 0 9), .qbgrad (vw 0 0 0 1 10), .qpgrad (vw 0 0x1901 0x1902 0 0)] : List Instr).all
    (fun i => !i.wf) = true := by decide +kernel

/-- R284–R287, R366, R370, R371, R382, R402, R411. Routine numbers, spaces, tags and scopes that the other rows do not list. -/
theorem test_wf_others :
  ([.userRoutineCall 63 ⟨0, 0, 0, 0, 0, false, 0⟩, .userRoutineCall 64 ⟨0, 0, 0, 0, 0, false, 1⟩,
    .userRoutineLoad 22 ⟨0, 0, 0, 0, 0, false, 1⟩, .userRoutineLoad 64 ⟨0, 0, 0, 0, 0, false, 0⟩,
    .ldvs true 0 1 2 3 1, .ldvs true 0 1 2 3 3, .ldx true 0 1 0 1, .stx true 0 1 0 1, .ldt true 0 1 2 3 false 3,
    .ldt true 0 1 2 0 true 1, .stt true 0 1 2 true 1, .arrive true 1 1, .expect true 1 1 2, .waitb gt 1 2 1, .acq gt 1 1,
    .rel gt 1 1, .fence gt 6] : List Instr).all (fun i => !i.wf) = true := by decide +kernel

/-! ### Words of the encoding tables and the instructions they stand for -/

/-- R282. Words of the integer rows, guard !G5, by the field table. -/
theorem test_decode_integer :
  ([(0x01ac290e0000, .add ⟨true, 5⟩ 33 18 7),
   (0x02ac290e0000, .sub ⟨true, 5⟩ 33 18 7),
   (0x03ac290e0000, .mul ⟨true, 5⟩ 33 18 7),
   (0x04ac290e0000, .mulh ⟨true, 5⟩ 33 18 7),
   (0x05ac290e0000, .mulhu ⟨true, 5⟩ 33 18 7),
   (0x06ac290e0000, .div ⟨true, 5⟩ 33 18 7),
   (0x07ac290e0000, .divu ⟨true, 5⟩ 33 18 7),
   (0x08ac290e0000, .rem ⟨true, 5⟩ 33 18 7),
   (0x09ac290e0000, .remu ⟨true, 5⟩ 33 18 7),
   (0x0aac290e0000, .and ⟨true, 5⟩ 33 18 7),
   (0x0bac290e0000, .or ⟨true, 5⟩ 33 18 7),
   (0x0cac290e0000, .xor ⟨true, 5⟩ 33 18 7),
   (0x0dac290e0000, .andn ⟨true, 5⟩ 33 18 7),
   (0x0eac290e0000, .shl ⟨true, 5⟩ 33 18 7),
   (0x0fac290e0000, .shr ⟨true, 5⟩ 33 18 7),
   (0x10ac290e0000, .sar ⟨true, 5⟩ 33 18 7),
   (0x11ac290e0000, .rol ⟨true, 5⟩ 33 18 7),
   (0x12ac290e0000, .min ⟨true, 5⟩ 33 18 7),
   (0x13ac290e0000, .max ⟨true, 5⟩ 33 18 7),
   (0x14ac290e0000, .minu ⟨true, 5⟩ 33 18 7),
   (0x15ac290e0000, .maxu ⟨true, 5⟩ 33 18 7),
   (0x16ac29000000, .clz ⟨true, 5⟩ 33 18),
   (0x17ac29000000, .popc ⟨true, 5⟩ 33 18),
   (0x18ac290e0000, .pdep ⟨true, 5⟩ 33 18 7),
   (0x19ac290e0000, .pext ⟨true, 5⟩ 33 18 7),
   (0x20ac2901fffd, .addi ⟨true, 5⟩ 33 18 (BitVec.ofInt 17 (-3))),
   (0x21ac2901fffd, .andi ⟨true, 5⟩ 33 18 (BitVec.ofInt 17 (-3))),
   (0x22ac2901fffd, .ori ⟨true, 5⟩ 33 18 (BitVec.ofInt 17 (-3))),
   (0x23ac2901fffd, .xori ⟨true, 5⟩ 33 18 (BitVec.ofInt 17 (-3))),
   (0x24ac2900002d, .shli ⟨true, 5⟩ 33 18 45),
   (0x25ac2900002d, .shri ⟨true, 5⟩ 33 18 45),
   (0x26ac2900002d, .sari ⟨true, 5⟩ 33 18 45),
   (0x27ac3ffffff7, .lui ⟨true, 5⟩ 33 (BitVec.ofInt 29 (-9)))] : List (Nat × Instr)).all
    (fun x => decide (decodeSlot 1 x.1 = some x.2)) = true := by decide +kernel

/-- R282. Words of the other S rows. -/
theorem test_decode_scalar :
  ([(0x28a9a90f0000, .cmp ⟨true, 5⟩ 13 18 7 8),
   (0x29a9a9007ffb, .cmpi ⟨true, 5⟩ 13 18 3 (BitVec.ofInt 13 (-5))),
   (0x2aac290f2000, .sel ⟨true, 5⟩ 33 18 7 9),
   (0x2ba9a40e6000, .glog ⟨true, 5⟩ 13 8 7 3),
   (0x2ca9a4000000, .puni ⟨true, 5⟩ 13 8),
   (0x30ac290ed600, .fadd ⟨true, 5⟩ 33 18 7 3 11),
   (0x31ac290ed600, .fsub ⟨true, 5⟩ 33 18 7 3 11),
   (0x32ac290ed600, .fmul ⟨true, 5⟩ 33 18 7 3 11),
   (0x34ac290ed600, .fdiv ⟨true, 5⟩ 33 18 7 3 11),
   (0x33ac290ed740, .ffma ⟨true, 5⟩ 33 18 7 40 3 11),
   (0x35ac2900d600, .fsqrt ⟨true, 5⟩ 33 18 3 11),
   (0x36ac290e1200, .fmin ⟨true, 5⟩ 33 18 7 0 9),
   (0x37ac290e1200, .fmax ⟨true, 5⟩ 33 18 7 0 9),
   (0x38ac290088a8, .fcvt ⟨true, 5⟩ 33 18 2 4 10 true),
   (0x39a9a90f6a00, .fcmp ⟨true, 5⟩ 13 18 7 11 10),
   (0x40ac2901dffe, .ld ⟨true, 5⟩ 33 ⟨18, 3, 5⟩ (BitVec.ofInt 12 (-2))),
   (0x41a8090f1064, .st ⟨true, 5⟩ 7 ⟨18, 2, 1⟩ 100),
   (0x42ac290fa6ff, .amo ⟨true, 5⟩ 33 7 ⟨18, 3, 2⟩ 6 (BitVec.ofInt 8 (-1))),
   (0x43ac290e3004, .cas ⟨true, 5⟩ 33 7 ⟨18, 0, 3⟩ 4),
   (0x48ac20000041, .mfs ⟨true, 5⟩ 33 0x041),
   (0x49a809000022, .mts ⟨true, 5⟩ 18 0x022),
   (0x49a809000020, .mtsTemp ⟨true, 5⟩ 18),
   (0x49a809000024, .mtsLsc ⟨true, 5⟩ 18),
   (0x49a809000025, .mtsLscr ⟨true, 5⟩ 18),
   (0x49a809000010, .mtsTripKix ⟨true, 5⟩ 18 false),
   (0x49a809000011, .mtsTripKix ⟨true, 5⟩ 18 true),
   (0x49a809000053, .mtsHot ⟨true, 5⟩ 18 3),
   (0x49a809000045, .mtsRslim ⟨true, 5⟩ 18),
   (0x49a809000041, .mtsTcause ⟨true, 5⟩ 18),
   (0x49a809000023, .mtsCctr ⟨true, 5⟩ 18),
   (0x4aa8c901fffd, .mpset ⟨true, 5⟩ 6 18 (BitVec.ofInt 17 (-3))),
   (0x4ba9a9000005, .cdset ⟨true, 5⟩ 13 5 18),
   (0x4ca9a9000000, .launch ⟨true, 5⟩ 13 18)] : List (Nat × Instr)).all
    (fun x => decide (decodeSlot 1 x.1 = some x.2)) = true := by decide +kernel

/-- R283. Words of the arithmetic, logic and conversion rows: nf, guard P9, d T1 row 2, a T3 column 4, b T5 diagonal 6. -/
theorem test_decode_vector :
  ([(0x0069021231228caa, .vadd ⟨false, true, false, 9, 66, 2244, 4422, 5, 10⟩),
   (0x00a9021231228caa, .vsub ⟨false, true, false, 9, 66, 2244, 4422, 5, 10⟩),
   (0x00e9021231228caa, .vmul ⟨false, true, false, 9, 66, 2244, 4422, 5, 10⟩),
   (0x0129021231228caa, .vfma ⟨false, true, false, 9, 66, 2244, 4422, 5, 10⟩),
   (0x0169021231228caa, .vfms ⟨false, true, false, 9, 66, 2244, 4422, 5, 10⟩),
   (0x01a9021231228caa, .vfnma ⟨false, true, false, 9, 66, 2244, 4422, 5, 10⟩),
   (0x01e9021231228caa, .vdiv ⟨false, true, false, 9, 66, 2244, 4422, 5, 10⟩),
   (0x02290212310000ca, .vsqrt ⟨false, true, false, 9, 66, 2244, 0, 6, 10⟩),
   (0x0269021231228c0a, .vmin ⟨false, true, false, 9, 66, 2244, 4422, 0, 10⟩),
   (0x02a9021231228c03, .vmax ⟨false, true, false, 9, 66, 2244, 4422, 0, 3⟩),
   (0x02e902123100000a, .vabs ⟨false, true, false, 9, 66, 2244, 0, 0, 10⟩),
   (0x0329021231000022, .vneg ⟨false, true, false, 9, 66, 2244, 0, 1, 2⟩),
   (0x036902123100004a, .vexp2 ⟨false, true, false, 9, 66, 2244, 0, 2, 10⟩),
   (0x03a902123100010a, .vlog2 ⟨false, true, false, 9, 66, 2244, 0, 8, 10⟩),
   (0x03e902123100000b, .vsqacc ⟨false, true, false, 9, 66, 2244, 0, 0, 11⟩),
   (0x0429021231228d71, .vcmul ⟨false, true, false, 9, 66, 2244, 4422, 11, 17⟩),
   (0x0469021231228c51, .vcfma ⟨false, true, false, 9, 66, 2244, 4422, 2, 17⟩),
   (0x04a9021231000011, .vconj ⟨false, true, false, 9, 66, 2244, 0, 0, 17⟩),
   (0x0629021231228c00, .vand ⟨false, true, false, 9, 66, 2244, 4422, 0, 0⟩),
   (0x0669021231228c01, .vor ⟨false, true, false, 9, 66, 2244, 4422, 0, 1⟩),
   (0x06a9021231228c02, .vxor ⟨false, true, false, 9, 66, 2244, 4422, 0, 2⟩),
   (0x06e9021231228c03, .vshl ⟨false, true, false, 9, 66, 2244, 4422, 0, 3⟩),
   (0x0729021231228c04, .vshr ⟨false, true, false, 9, 66, 2244, 4422, 0, 4⟩),
   (0x0769021231228c05, .vsar ⟨false, true, false, 9, 66, 2244, 4422, 0, 5⟩),
   (0x08290212310012ab, .vcvt ⟨false, true, false, 9, 66, 2244, 9, 5, 11⟩),
   (0x086902123130114f, .vqnt ⟨false, true, false, 9, 66, 2244, 6152, 10, 15⟩),
   (0x08a902123130100a, .vdqnt ⟨false, true, false, 9, 66, 2244, 6152, 0, 10⟩),
   (0x08e902123100124c, .vmxq ⟨false, true, false, 9, 66, 2244, 9, 2, 12⟩),
   (0x0929021231001a69, .vmxd ⟨false, true, false, 9, 66, 2244, 13, 3, 9⟩)] : List (Nat × Instr)).all
    (fun x => decide (decodeSlot 2 x.1 = some x.2)) = true := by decide +kernel

/-- R283. Words of the movement and predicate rows. -/
theorem test_decode_vector_moves :
  ([(0x0a29021231000004, .vmov ⟨false, true, false, 9, 66, 2244, 0, 0, 4⟩),
   (0x0a69021231000011, .vbcast ⟨false, true, false, 9, 66, 2244, 0, 0, 17⟩),
   (0x0aa9021231228c05, .vperm ⟨false, true, false, 9, 66, 2244, 4422, 0, 5⟩),
   (0x0ae9021231300e0b, .vbitx ⟨false, true, false, 9, 66, 2244, 6151, 0, 11⟩),
   (0x0b29021231300e04, .vlane ⟨false, true, false, 9, 66, 2244, 6151, 0, 4⟩),
   (0x0b6902123100004a, .vred ⟨false, true, false, 9, 66, 2244, 0, 2, 10⟩),
   (0x0ba9c10a31300e05, .vextr ⟨false, true, false, 9, 6177, 2244, 6151, 0, 5⟩),
   (0x0be9021604b00e04, .vins ⟨false, true, false, 9, 66, 6162, 6151, 0, 4⟩),
   (0x0c29d01a31228d4a, .vcmp ⟨false, true, false, 9, 6659, 2244, 4422, 10, 10⟩),
   (0x0c69021231228c04, .vsel ⟨false, true, false, 9, 66, 2244, 4422, 0, 4⟩),
   (0x0ca9021000000005, .vflag ⟨false, true, false, 9, 66, 0, 0, 0, 5⟩),
   (0x0ce902100000000a, .vrnd ⟨false, true, false, 9, 66, 0, 0, 0, 10⟩),
   (0x0e29d01e81340a60, .plog ⟨false, true, false, 9, 6659, 6660, 6661, 3, 0⟩),
   (0x0e69d01a31000005, .pmov ⟨false, true, false, 9, 6659, 2244, 0, 0, 5⟩),
   (0x1029cb1a31228caa, .scmp ⟨false, true, false, 9, 6499, 2244, 4422, 5, 10⟩),
   (0x1069c81e41320ae0, .qlog ⟨false, true, false, 9, 6403, 6404, 6405, 7, 0⟩),
   (0x10a9c81e41000000, .qnot ⟨false, true, false, 9, 6403, 6404, 0, 0, 0⟩),
   (0x10e9021231228d6a, .qblend ⟨false, true, false, 9, 66, 2244, 4422, 11, 10⟩),
   (0x1129d01e41000000, .qcol ⟨false, true, false, 9, 6659, 6404, 0, 0, 0⟩),
   (0x1169d01e41000000, .qhard ⟨false, true, false, 9, 6659, 6404, 0, 0, 0⟩),
   (0x11a902164100000a, .qmov ⟨false, true, false, 9, 66, 6404, 0, 0, 10⟩),
   (0x11e9021231228c4a, .qgrad ⟨false, true, false, 9, 66, 2244, 4422, 2, 10⟩),
   (0x1229021231228c0a, .qbgrad ⟨false, true, false, 9, 66, 2244, 4422, 0, 10⟩),
   (0x1269021641320baa, .qpgrad ⟨false, true, false, 9, 66, 6404, 6405, 13, 10⟩)] : List (Nat × Instr)).all
    (fun x => decide (decodeSlot 2 x.1 = some x.2)) = true := by decide +kernel

/-- R284. Words of the M slot. -/
theorem test_decode_matrix :
  ([(0x040214870479, .gemm ⟨33, 18, 7, 1, 9, true, 3⟩),
   (0x040614870409, .gemmt ⟨33, 18, 7, 1, 9, false, 0⟩),
   (0x040a14870409, .conv ⟨33, 18, 7, 1, 9, false, 0⟩),
   (0x040e14870449, .cgemm ⟨33, 18, 7, 1, 9, false, 2⟩),
   (0x041214870409, .gate ⟨33, 18, 7, 1, 9, false, 0⟩),
   (0x042214870409, .accrd ⟨33, 18, 7, 1, 9, false, 0⟩),
   (0x042614870409, .accclr ⟨33, 18, 7, 1, 9, false, 0⟩),
   (0x044214870409, .skinit ⟨33, 18, 7, 1, 9, false, 0⟩),
   (0x044614870409, .skfold ⟨33, 18, 7, 1, 9, false, 0⟩),
   (0x044a14870409, .skshrink ⟨33, 18, 7, 1, 9, false, 0⟩),
   (0x044e14870409, .skmerge ⟨33, 18, 7, 1, 9, false, 0⟩),
   (0x045214870409, .skrd ⟨33, 18, 7, 1, 9, false, 0⟩),
   (0x045614870409, .skwr ⟨33, 18, 7, 1, 9, false, 0⟩),
   (0x072214870449, .userRoutineCall 200 ⟨33, 18, 7, 1, 9, false, 2⟩),
   (0x072214870429, .userRoutineLoad 200 ⟨33, 18, 7, 1, 9, false, 1⟩),
   (0x080210000000, .mstop 33),
   (0x0c3800000000, .mstat 6 true),
   (0x000000000000, .mnop)] : List (Nat × Instr)).all
    (fun x => decide (decodeSlot 4 x.1 = some x.2)) = true := by decide +kernel

/-- R285. Words of the C slots. -/
theorem test_decode_transfer :
  ([(0x040850c007, .ldv true 66 33 4097 3),
   (0x080850c007, .stv true 66 33 4097 3),
   (0x0f4090a43a, .ldvs true 6660 33 18 7 2),
   (0x100850a401, .stvs true 66 33 18 1),
   (0x140850c51b, .ldx true 66 33 4422 3),
   (0x180850c51b, .stx true 66 33 4422 3),
   (0x1f30a43c02, .ldt true 25 33 18 7 true 2),
   (0x2330a40003, .stt true 25 33 18 false 3),
   (0x4361487209, .copy true 13 33 18 7 8 9),
   (0x4618000000, .arrive true 33 2),
   (0x4a1d200000, .expect true 33 3 18),
   (0x4e10000000, .tokclr true 33),
   (0x5214a38000, .cflush true 33 18 true 7),
   (0x0000000000, .cnop)] : List (Nat × Instr)).all
    (fun x => decide (decodeSlot 6 x.1 = some x.2)) = true := by decide +kernel

/-- R286. Words of the N slot. -/
theorem test_decode_ports :
  ([(0x05e0217001, .send 30 66 0x7001),
   (0x09e0217001, .recv 30 66 0x7001),
   (0x0de0217001, .recvadd 30 66 0x7001),
   (0x11e0217001, .recvsq 30 66 0x7001),
   (0x1460214200, .putsig 6 66 33),
   (0x1a10002400, .ncoll 33 18),
   (0x1c00007001, .nwait 0x7001),
   (0x0000000000, .nnop)] : List (Nat × Instr)).all
    (fun x => decide (decodeSlot 7 x.1 = some x.2)) = true := by decide +kernel

/-- R287. Words of the B slot, condition !G5. -/
theorem test_decode_branch :
  ([(0x06b400c000, .br ⟨true, 5⟩ 0x5003),
   (0x0eb400c000, .call ⟨true, 5⟩ 0x5003),
   (0x1eb400c000, .bswap ⟨true, 5⟩ 0x5003),
   (0x3ab400c000, .yield ⟨true, 5⟩ 0x5003),
   (0x0ab0800000, .brc ⟨true, 5⟩ 33),
   (0x42b0800000, .savex ⟨true, 5⟩ 33),
   (0x46b0800000, .restx ⟨true, 5⟩ 33),
   (0x12a0000000, .ret ⟨true, 5⟩),
   (0x22a0000000, .ifence ⟨true, 5⟩),
   (0x36a0000000, .done ⟨true, 5⟩),
   (0x141400c000, .loop 0x5003),
   (0x181400c006, .loopr 0x5003 6),
   (0x26b0a48000, .waitb ⟨true, 5⟩ 33 18 2),
   (0x2ab0800000, .waitt ⟨true, 5⟩ 33),
   (0x2eb0802007, .waitc ⟨true, 5⟩ 33 0x2007),
   (0x32b0802007, .hold ⟨true, 5⟩ 33 0x2007),
   (0x3ea0002007, .trap ⟨true, 5⟩ 0x2007),
   (0x4aa0002007, .ebreak ⟨true, 5⟩ 0x2007),
   (0x4eb080c000, .acq ⟨true, 5⟩ 33 3),
   (0x52b080c000, .rel ⟨true, 5⟩ 33 3),
   (0x56a0000005, .fence ⟨true, 5⟩ 5),
   (0x0000000000, .bnop)] : List (Nat × Instr)).all
    (fun x => decide (decodeSlot 0 x.1 = some x.2)) = true := by decide +kernel

/-! ### One instruction on a small state; expected values from the specification's examples or worked by hand from its rules -/

open Sys2Proof.Machine

/-- The module after reset, its core's scalar registers holding `xs`. -/
def regs (xs : List (Nat × Word64)) : State :=
  { State.reset with core := { Core.idle with sreg := xs.foldl (fun m x => mset 0 m x.1 x.2) [] } }
/-- What `f` reads `lat` cycles after `i` has executed in `s`. -/
def after {α : Type} (i : Instr) (lat : Nat) (s : State) (f : State → α) : Option α :=
  match exec i s with
  | .next t => some (f (later lat t))
  | _ => none
/-- S1 after each instruction's latency, with S2 = −2^63, S3 = −1, S4 = 0x00F0, S5 = 0x1_0000_0005. -/
def s1After (i : Instr) (lat : Nat) : Option Word64 :=
  after i lat (regs [(2, 0x8000000000000000), (3, 0xFFFFFFFFFFFFFFFF), (4, 0xF0), (5, 0x100000005)]) fun t => rdS t 1

/-- R291–R294, by hand: wraps, the division corners of R292, PDEP and PEXT, shifts by the low six bits, sign extension. -/
theorem test_integer_values :
  ([(.add gt 1 3 3, 1, 0xFFFFFFFFFFFFFFFE), (.sub gt 1 2 3, 1, 0x8000000000000001), (.mul gt 1 3 5, 3, 0xFFFFFFFEFFFFFFFB),
    (.mulh gt 1 2 3, 3, 0), (.mulhu gt 1 3 3, 3, 0xFFFFFFFFFFFFFFFE), (.div gt 1 2 3, 18, 0x8000000000000000),
    (.rem gt 1 2 3, 18, 0), (.div gt 1 4 0, 18, 0xFFFFFFFFFFFFFFFF), (.remu gt 1 4 0, 18, 0xF0), (.divu gt 1 3 4, 18, 0x111111111111111),
    (.andn gt 1 3 4, 1, 0xFFFFFFFFFFFFFF0F), (.shl gt 1 4 5, 1, 0x1E00), (.sar gt 1 2 4, 1, 0xFFFFFFFFFFFF8000),
    (.rol gt 1 2 5, 1, 0x10), (.min gt 1 2 4, 1, 0x8000000000000000), (.minu gt 1 2 4, 1, 0xF0), (.clz gt 1 4, 1, 56),
    (.popc gt 1 5, 1, 3), (.pdep gt 1 5 4, 2, 0x50), (.pext gt 1 5 5, 2, 7), (.addi gt 1 0 0x1FFFF, 1, 0xFFFFFFFFFFFFFFFF),
    (.lui gt 1 0x1FFFFFFF, 1, 0xFFFFFFFFFFFE0000), (.sel gt 1 2 3 0, 1, 0x8000000000000000)] : List (Instr × Nat × Word64)).all
    (fun x => decide (s1After x.1 x.2.1 = some x.2.2)) = true := by decide +kernel

/-- R169–R174, R299–R301, by hand: 1 + 2^−24 ties to 1.0 with NX; 2^−24 goes up under RUP; 1/0 raises DZ; −1 has no root; an
FP32 1.5 becomes INT32 2 (RNE ties to even); −0 and +0 compare equal. -/
theorem test_float_values :
  let s := regs [(2, 0x3F800000), (3, 0x33800000), (4, 0xBF800000), (5, 0x3FC00000), (6, 0x80000000)]
  let out := fun (i : Instr) (lat : Nat) => after i lat s fun t => (rdS t 1, t.core.sflg)
  out (.fadd gt 1 2 3 0 10) 4 = some (0x3F800000, 0x01) ∧ out (.fadd gt 1 2 3 3 10) 4 = some (0x3F800000, 0x01)
  ∧ out (.fadd gt 1 2 3 2 10) 4 = some (0x3F800001, 0x01) ∧ out (.fdiv gt 1 2 0 0 10) 12 = some (0x7F800000, 0x08)
  ∧ out (.fsqrt gt 1 4 0 10) 14 = some (0x7FC00000, 0x10) ∧ out (.fcvt gt 1 5 0 4 10 false) 4 = some (2, 0x01)
  ∧ after (.fcmp gt 1 6 0 0 10) 2 s (fun t => (rdG t 1, t.core.sflg)) = some (true, 0) := by decide +kernel

/-- R8, R303–R307. A doubleword stored in the scratchpad reads back in the next bundle, its second byte sign-extended
by a byte load; an atomic adds. -/
theorem test_scalar_memory :
  let s := regs [(2, 0x0123456789ABCDEF), (3, 64)]
  after (.st gt 2 ⟨3, 0, 3⟩ 1) 1 s (fun u =>
    let t := startBundle u
    (after (.ld gt 1 ⟨3, 0, 3⟩ 1) 8 t fun u => rdS u 1, after (.ld gt 1 ⟨3, 0, 4⟩ 9) 8 t fun u => rdS u 1,
      after (.amo gt 1 3 ⟨3, 0, 3⟩ 0 1) 12 t fun u => (rdS u 1, u.mem.read (spadBase 0 + 72)))) =
    some (some 0x0123456789ABCDEF, some 0xFFFFFFFFFFFFFFCD, some (0x0123456789ABCDEF, 0x2F)) := by decide +kernel

/-- R233, R241: the example "one comparison at two temperatures" and its gradients. -/
theorem test_soft_comparison :
  [softCmp 4 0x3F000000 0x40400000 0x3F800000, softCmp 4 0x3F000000 0x3F800000 0x40400000, softCmp 4 0x3F000000 0x40A00000 0x40A00000,
    softCmp 4 0x3F000000 0x7FC00000 0x3F800000, softCmp 4 0x7F800000 0x40A00000 0x40A00000, softCmp 5 0x7F800000 0x40A00000 0x40A00000,
    softCmp 0 0x3F000000 0x40400000 0x3F800000] =
    [(0x3F400000, 0), (0x3E800000, 0), (0x3F000000, 0), (0, 16), (0, 0), (0x3F800000, 0), (0x3F000000, 0)]
  ∧ [softGrad 4 0x3F000000 0x40400000 0x3F800000, softGrad 4 0x3F000000 0x3F800000 0x40400000,
      softGrad 4 0x3F000000 0x40A00000 0x40A00000] = [(0x3D800000, 0), (0x3D800000, 0), (0x3E800000, 0)] := by decide +kernel

/-- R235: the example "reuse of one comparison": 0.75 and 0.25, IND then POS, and IND twice. -/
theorem test_predicate_reuse :
  qCombine 0 false 0x3F400000 0x3E800000 = 0x3E400000 ∧ qCombine 1 false 0x3E400000 0x3F400000 = 0x3E400000
  ∧ qCombine 0 false 0x3E400000 0x3F400000 = 0x3E100000 := by decide +kernel

/-- R184: the example "one rounding, not two": 2,720·13,421,773·2^−27 is 288 = 0x79 in E4M3, with NX. -/
theorem test_one_rounding : roundFin (ffmt 12) Rnd.rne false (2720 * 13421773) (-27) = (0x79, 1) := by decide +kernel

/-- R328: the example "one MX quantisation" issued as its word, and the values VMXD gives back (R329). -/
theorem test_mx_example :
  let s := { State.reset with core := { Core.idle with
    tile := [(0x1000, 0x40600000), (0x1001, 0x3F800000), (0x1002, 0xBE99999A), (0x1003, 0x3A83126F)] } }
  let at_ := fun (t : State) (l : Nat) => mget 0 t.core.tile (elKey t.core (.row 6 0) l)
  (decodeSlot 2 0x08C00C001000140C).bind (fun i => after i 6 s fun t => ([at_ t 0, at_ t 1, at_ t 62, at_ t 63], mget 0 t.core.lflag 0,
    (after (.vmxd ⟨false, false, false, 0, 0x200, 0x180, 12, 0, 10⟩) 6 t fun u =>
      (List.range 4).map fun l => mget 0 u.core.tile (elKey u.core (.row 8 0) l)))) =
    some ([0x20E2707E, 0, 0, 0x78], 1, some [0x40600000, 0x3F800000, 0xBEA00000, 0x3A800000]) := by decide +kernel

/-- The doubles 0.0 … 15.0. -/
def ramp : List Word64 := (List.range 16).map fun i => BitVec.ofNat 64 (roundFin F64 Rnd.rne false i 0).1

/-- R199–R203: the example "one block, one lost bit" at B = 16, and the block after the store to element 1. -/
theorem test_coded_block :
  bytesToNat ((encodeBlock 16 ramp).1.take 8) = 0x800380000F000402 ∧ decodeBlock 16 (encodeBlock 16 ramp).1 = some ramp
  ∧ (encodeBlock 16 (ramp.set 1 0x3FF0000000000001)).1 = (encodeBlock 16 ramp).1 := by decide +kernel

/-- R94, R278: the bundle of the example "one bundle of a pipelined kernel". -/
theorem test_bundle_example :
  slotsOf (0x1800040000 * 2 ^ 344 + 0x200082000100 * 2 ^ 296 + 0x0108300A20218A0A * 2 ^ 232 + 0x04C0020008 * 2 ^ 80) =
    [⟨0, 0x1800040000, some (.loopr 0x10 0)⟩, ⟨1, 0x200082000100, some (.addi gt 4 4 0x100)⟩,
      ⟨2, 0x0108300A20218A0A, some (.vfma ⟨false, false, false, 8, 0x601, 0x880, 0x10C5, 0, 10⟩)⟩,
      ⟨5, 0x04C0020008, some (.ldv false 0x600 4 2 0)⟩] := by decide +kernel

/-- Host interface: from reset, the step runs the word placed at the fetch position, here `addi S1, S0, 5`. -/
theorem test_step_runs_placed_word :
  (match step (State.reset.withFetchWord 384 (slotPlace 1 (encode (.addi gt 1 0 5)))) with
    | .next t => (t.core.icnt, rdS (later 1 t) 1)
    | _ => (0, 0)) = (1, 5) := by decide +kernel

/-- R86, R249: DONE ends the task; in handler mode it ends by fault with TCAUSE. -/
theorem test_done :
  (match exec (.done gt) State.reset with
    | .next t => t.core.ending
    | _ => none) = some .done
  ∧ (match exec (.done gt) { State.reset with core := { Core.idle with handler := true, tcause := 7 } } with
    | .next t => t.core.ending
    | _ => none) = some (.fault 7) := by decide +kernel

/-! ### Witnesses: states and operands that meet the hypotheses of each statement, clause by clause -/

/-- `regs` with lane predicate P1 = x. -/
def withP1 (x : BitVec 64) : State := { State.reset with core := { Core.idle with preg := mset 0 [] 1 x } }
/-- The core's format table has one entry, `e`. -/
def withFt (e : Word64) : State := { State.reset with core := { Core.idle with ft := mset 0 [] 0 e } }
/-- The module after reset, its core in a task's state `c`. -/
def coreIs (c : Core) : State := { State.reset with core := c }

theorem witness_ScalarRegisterForms :
  rdS (regs [(2, 5)]) 2 ≠ 0 ∧ rdS (regs []) 2 = 0
  ∧ (rdS (regs [(2, 0x8000000000000000), (3, 0xFFFFFFFFFFFFFFFF)]) 2 = BitVec.intMin 64
    ∧ rdS (regs [(2, 0x8000000000000000), (3, 0xFFFFFFFFFFFFFFFF)]) 3 = BitVec.allOnes 64)
  ∧ (0x1A ≤ 0x1A * 2 ^ 40 / 2 ^ 40 ∧ 0x1A * 2 ^ 40 / 2 ^ 40 ≤ 0x1F) ∧ (0x1A ≤ 0x1F * 2 ^ 40 / 2 ^ 40 ∧ 0x1F * 2 ^ 40 / 2 ^ 40 ≤ 0x1F)
  ∧ guardOn (regs []) gt = true ∧ guardOn (regs []) ⟨true, 0⟩ = false := by decide +kernel

theorem witness_ScalarImmediateForms :
  (let w := 0x24 * 2 ^ 40 + 2 ^ 6; 0x24 ≤ w / 2 ^ 40 ∧ w / 2 ^ 40 ≤ 0x26 ∧ w / 2 ^ 6 % 2 ^ 11 ≠ 0)
  ∧ (let w := 0x26 * 2 ^ 40 + 2 ^ 16; 0x24 ≤ w / 2 ^ 40 ∧ w / 2 ^ 40 ≤ 0x26 ∧ w / 2 ^ 6 % 2 ^ 11 ≠ 0)
  ∧ ((-2 ^ 45 : Int) ≤ -2 ^ 45 ∧ (-2 ^ 45 : Int) ≤ 2 ^ 45 - 2 ^ 16 - 1)
  ∧ ((-2 ^ 45 : Int) ≤ 2 ^ 45 - 2 ^ 16 - 1 ∧ (2 ^ 45 - 2 ^ 16 - 1 : Int) ≤ 2 ^ 45 - 2 ^ 16 - 1) := by decide +kernel

theorem witness_ScalarCompareSelect :
  (9#4).toNat ≤ 9 ∧ (let w := 0x28 * 2 ^ 40 + 10 * 2 ^ 13; w / 2 ^ 40 = 0x28 ∧ 10 ≤ w / 2 ^ 13 % 2 ^ 4)
  ∧ (let w := 0x29 * 2 ^ 40 + 15 * 2 ^ 13; w / 2 ^ 40 = 0x29 ∧ 10 ≤ w / 2 ^ 13 % 2 ^ 4)
  ∧ (let w := 0x2B * 2 ^ 40 + 5 * 2 ^ 13; w / 2 ^ 40 = 0x2B ∧ 5 ≤ w / 2 ^ 13 % 2 ^ 4)
  ∧ (let w := 0x2B * 2 ^ 40 + 4 * 2 ^ 13 + 2 ^ 17; w / 2 ^ 40 = 0x2B ∧ w / 2 ^ 13 % 2 ^ 4 = 4 ∧ w / 2 ^ 17 % 2 ^ 6 ≠ 0)
  ∧ (∀ l, l < 64 → (rdP (withP1 0xFFFFFFFFFFFFFFFF) 1).getLsbD l = true) ∧ (∀ l, l < 64 → (rdP (withP1 0) 1).getLsbD l = false)
  ∧ ((rdP (withP1 0x8000000000000000) 1).getLsbD 63 = true ∧ (rdP (withP1 0x8000000000000000) 1).getLsbD 0 = false) := by
  decide +kernel

/-- FP16 with RNE, FP64 with the stochastic rounding, and both taken from the table. -/
theorem witness_ScalarFloatArithmetic :
  (8 ≤ fmtOf (regs []) 8 ∧ fmtOf (regs []) 8 ≤ 11 ∧ rndOf (regs []) 0 ≤ 5) ∧ (8 ≤ fmtOf (regs []) 11 ∧ fmtOf (regs []) 11 ≤ 11 ∧ rndOf (regs []) 5 ≤ 5)
  ∧ (let s := withFt (10 + 5 * 2 ^ 10); 8 ≤ fmtOf s 30 ∧ fmtOf s 30 ≤ 11 ∧ rndOf s 6 ≤ 5) := by decide +kernel

theorem witness_ScalarFloatCompareConvert :
  (8 ≤ fmtOf (regs []) 8 ∧ fmtOf (regs []) 11 ≤ 11)
  ∧ (let s := withFt (4 + 11 * 2 ^ 5 + 5 * 2 ^ 10)
     4 ≤ fmtOf s 30 ∧ fmtOf s 30 ≤ 11 ∧ 4 ≤ sfmtOf s 30 ∧ sfmtOf s 30 ≤ 11 ∧ rndOf s 6 ≤ 5) := by decide +kernel

/-- R168, by its table: a quiet and a signalling FP16 NaN, the zeros and the infinities; −2 below 1; an INT32 beside UINT64. -/
theorem witness_ScalarFloatCompareConvert_cases :
  (let F := ffmt 8
   ((0x7C01 : Nat) < 2 ^ fmtWidth 8 ∧ 0x7C01 / 2 ^ F.fb % 2 ^ F.eb = 2 ^ F.eb - 1 ∧ 0x7C01 % 2 ^ F.fb ≠ 0 ∧ 0x7C01 % 2 ^ F.fb < 2 ^ (F.fb - 1))
   ∧ (0x7E00 / 2 ^ F.fb % 2 ^ F.eb = 2 ^ F.eb - 1 ∧ 0x7E00 % 2 ^ F.fb ≠ 0 ∧ ¬0x7E00 % 2 ^ F.fb < 2 ^ (F.fb - 1))
   ∧ nanPattern F = 0x7E00 ∧ minusZero F = 0x8000 ∧ infPattern F false = 0x7C00 ∧ infPattern F true = 0xFC00
   ∧ ¬0x8000 / 2 ^ F.fb % 2 ^ F.eb = 2 ^ F.eb - 1 ∧ ¬0x3C00 / 2 ^ F.fb % 2 ^ F.eb = 2 ^ F.eb - 1
   ∧ signedBits F 0xC000 < signedBits F 0x3C00 ∧ signedBits F 0x8000 = signedBits F 0)
  ∧ fmtWidth 8 < fmtWidth 10 ∧ (4 ≤ 4 ∧ 7 ≤ 7 ∧ (0xFFFFFFFF : Nat) < 2 ^ fmtWidth 4) := by decide +kernel

/-- Table entries that the scalar and the element-wise rows refuse, and operands of a refused class: P1 as a destination, a
predicate as a source. -/
theorem witness_OperandFaults :
  (¬(8 ≤ fmtOf (withFt 12) 30 ∧ fmtOf (withFt 12) 30 ≤ 11)) ∧ (8 ≤ fmtOf (withFt (10 + 6 * 2 ^ 10)) 30 ∧ 5 < rndOf (withFt (10 + 6 * 2 ^ 10)) 6)
  ∧ (¬(4 ≤ fmtOf (withFt 3) 30 ∧ fmtOf (withFt 3) 30 ≤ 11)) ∧ (4 ≤ fmtOf (withFt (4 + 12 * 2 ^ 5)) 30 ∧ ¬sfmtOf (withFt (4 + 12 * 2 ^ 5)) 30 ≤ 11)
  ∧ 11 < fmtOf (withFt 12) 30
  ∧ (fmtOf (withFt (4 + 2 ^ 10)) 30 ≤ 11 ∧ fmtOf (withFt (4 + 2 ^ 10)) 30 < 8 ∧ 0 < rndOf (withFt (4 + 2 ^ 10)) 6)
  ∧ (dstBad 10 (kindOf 0x1A01) = true) ∧ (dstBad 10 (kindOf 0) = false ∧ srcBad 10 (kindOf 0x1A01) = true)
  ∧ (dstBad 10 (kindOf 0) = false ∧ srcBad 10 (kindOf 0) = false ∧ srcBad 10 (kindOf 0x1A01) = true) := by decide +kernel

theorem witness_Rounding :
  ((-1 : Int) < 0 ∧ (3 % 2 ^ (0 - (-1 : Int)).toNat ≠ 0))
  ∧ (8 ≤ 14 ∧ 14 ≤ 14 ∧ 5 < 2 ^ fmtWidth 14 ∧ (ffmt 14).decode 5 = .fin false 3 0) := by decide +kernel

/-- Space 0 at its last doubleword, space 2, and a prefetch that misses. -/
theorem witness_ScalarLoad :
  let s := regs [(2, 0x1FFFF8)]
  ((3#3) ≠ 7 ∧ (0#2) ≠ 1 ∧ 0x1FFFF8 % 8 = 0 ∧ (1#6) ≠ 0 ∧ Reaches s 0 false 0x1FFFF8 8 (spadBase 0 + 0x1FFFF8) true
    ∧ Stored s (spadBase 0 + 0x1FFFF8) 8)
  ∧ (∀ e ∈ s.xlat.tu, e.die = myDie s → 0x1FFFF8 / 64 * 64 < e.va ∨ e.va + e.size ≤ 0x1FFFF8 / 64 * 64) := by
  refine ⟨⟨by decide, by decide, by decide, by decide, Or.inl ?_, ?_⟩, ?_⟩
  · decide +kernel
  · exact ⟨by decide +kernel, by decide +kernel⟩
  · decide +kernel

/-- A page of the first stack, installed for die 0: readable and writable, L1 allowed. -/
def mapped : State := { State.reset with xlat := { State.reset.xlat with xen := true, tu := [⟨0, 0x40000, 4096, 0x40000, true, true, true⟩] } }

theorem reaches_mapped (wr : Bool) (va n : Nat) (h : tuFind mapped .core 0 va = some ⟨0, 0x40000, 4096, 0x40000, true, true, true⟩)
    (h1 : va < 2 ^ 56) (h2 : 0x40000 ≤ va) (h3 : localPart mapped va = some va) : Reaches mapped 3 wr va n va true :=
  Or.inr ⟨rfl, h1, rfl, _, h, by cases wr <;> decide +kernel, rfl, by
    have : 0x40000 + (va - 0x40000) = va := by omega
    show localPart mapped (0x40000 + (va - 0x40000)) = some va
    rw [this]; exact h3⟩

theorem witness_ScalarStore :
  (regs [(2, 0x1FFFF8)]).memOk ∧ Reaches (regs [(2, 0x1FFFF8)]) 0 true 0x1FFFF8 8 (spadBase 0 + 0x1FFFF8) true
  ∧ Writable (regs [(2, 0x1FFFF8)]) (spadBase 0 + 0x1FFFF8) 8
  ∧ Reaches mapped 3 true 0x40FF8 8 0x40FF8 true ∧ Writable mapped 0x40FF8 8 := by
  refine ⟨(show _ = true by decide +kernel), Or.inl ?_, ⟨⟨by decide +kernel, by decide +kernel⟩, by decide +kernel⟩, reaches_mapped _ _ _ ?_ ?_ ?_ ?_,
    ⟨⟨by decide +kernel, by decide +kernel⟩, by decide +kernel⟩⟩
  all_goals decide +kernel

theorem witness_ScalarAtomics :
  ((2#3) = 2 ∨ (2#3) = 3) ∧ (8#4).toNat ≤ 8 ∧ mapped.memOk ∧ Writable mapped 0x40FF8 8 ∧ OwnDone mapped 0x40FF8 8 ∧ 0x40FF8 % 8 = 0
  ∧ Reaches mapped 3 true 0x40FF8 8 0x40FF8 true := by
  refine ⟨Or.inl rfl, by decide, (show _ = true by decide +kernel), ⟨⟨by decide +kernel, by decide +kernel⟩, by decide +kernel⟩,
    fun _ h => absurd h List.not_mem_nil, by decide, reaches_mapped _ _ _ ?_ ?_ ?_ ?_⟩
  all_goals decide +kernel

/-- Past the end of space 0 by one byte, misaligned in space 2; the two together; misaligned in space 3, its page installed or not. -/
theorem witness_ScalarAccessFaults :
  (0#2).toNat % 2 = 0 ∧ (2#2).toNat % 2 = 0 ∧ spaceSize 0 < 0x1FFFF9 + 8 ∧ (¬spaceSize 2 < 4 + 8 ∧ 4 % 8 ≠ 0)
  ∧ (12#8).toInt = (12#12).toInt ∧ (0xFF#8).toInt = (0xFFF#12).toInt
  ∧ ((3#2) = 3 ∧ 0x40004 % 8 ≠ 0 ∧ tuFind (regs []) .core ((regs []).coreNo / 48) 0x40004 = none)
  ∧ (let e : TuEntry := ⟨0, 0x40000, 4096, 0x40000, true, true, true⟩
     (mapped.xlat.inval.any fun p => p.1 == mapped.coreNo / 48) = false ∧ tuFind mapped .core (mapped.coreNo / 48) 0x40004 = some e
     ∧ tuAllows mapped e true = true ∧ tuAllows mapped e false = true ∧ localPart mapped (e.pa + (0x40004 - e.va)) = some 0x40004
     ∧ place 0x40004 ≠ .coded ∧ textRefused mapped 0x40004 8 = none) := by decide +kernel

theorem witness_SystemRegisterRead : 0x800 ≤ (0x800#12).toNat ∧ 0x800 ≤ (0xFFF#12).toNat
  ∧ ((coreIs Core.idle).core.task.bind Task.budget) = none := by decide +kernel

/-- A core with one spilled return-stack entry, a tagged accumulator, and TEMP operands at their limits. -/
theorem witness_SystemRegisterWrite :
  (0x7FF#12).toNat < 0x800 ∧ (0x7FF#12) ≠ 0x004 ∧ 0x800 ≤ (0x800#12).toNat
  ∧ (Core.idle.rsd0.toNat ≤ Core.idle.h0) ∧ (let c := { Core.idle with rsd0 := 1 }; c.h0 < c.rsd0.toNat)
  ∧ (let s := coreIs { Core.idle with mfull := [(0, true)], mtag := [(0, 7)] }
     (tags s.core).all (fun t => t == (7#64).setWidth 8) = true ∧ (tags s.core).any (fun t => t != (8#64).setWidth 8) = true)
  ∧ 0x7F800000 < (0x7F800001 : Nat) % 2 ^ 31 ∧ 2 ^ 31 < 0x80000001 ∧ ¬(0x7F800000 < 0x80000000 % 2 ^ 31 ∨ 2 ^ 31 < 0x80000000) := by
  decide +kernel

theorem witness_SystemRegisterReadBack : mwf 0 Core.idle.ft = true ∧ mwf 0 Core.idle.hot = true ∧ mwf 0 Core.idle.preg = true
  ∧ 0x03F ≤ 0x03F ∧ 0x050 ≤ 0x057 ∧ (0x045 : Nat) < 0x1000 := by decide +kernel

theorem witness_LossScaleRescale :
  let c := { Core.idle with mfull := [(0, true)], macc := [(5, 0x3F800000)] }
  c.rtns = [] ∧ c.rescale = none ∧ mwf 0 c.macc = true ∧ mwf 0 c.mtag = true ∧ mwf false c.mf64 = true
  ∧ mget false c.mfull 0 = true ∧ mget false c.mf64 0 = false ∧ mget false c.mfull 3 = false
  ∧ mget false { c with mf64 := [(0, true)] }.mf64 (1 / 2 * 2) = true
  ∧ ({ c with rescale := some (9, []) }.rescale ≠ none) := by decide +kernel

/-- A sketch of one column of four elements at 0x1000, the only one. -/
theorem witness_LossScaleRescale_sketch :
  let s := coreIs { Core.idle with sk := [(1, Desc.image { descOf 0 with base := 0x1000, m := 4, n := 4, c := 1 })] }
  mwf 0 s.core.sk = true ∧ (skAt s.core 1).c ≠ 0 ∧ (∀ j, j < 8 → j ≠ 1 → (skAt s.core j).c = 0) ∧ s.vers = [] ∧ (skAt s.core 1).base % 16 = 0
  ∧ (skAt s.core 1).m = 4 ∧ ∀ j, j < (skAt s.core 1).c → badAddr s ((skAt s.core 1).colAt s.coreNo false j) (4 * (skAt s.core 1).m) = none := by
  decide +kernel

theorem witness_ParametersAndDescriptors : (let w := 0x4B * 2 ^ 40 + 2 ^ 22; w / 2 ^ 40 = 0x4B ∧ w / 2 ^ 3 % 2 ^ 20 ≠ 0)
  ∧ (let w := 0x4B * 2 ^ 40 + 2 ^ 3; w / 2 ^ 40 = 0x4B ∧ w / 2 ^ 3 % 2 ^ 20 ≠ 0) := by decide +kernel

/-- The last image of the scratchpad, with the pool empty and with it full; one byte too high; misaligned. -/
theorem witness_LaunchPosts :
  let s := regs [(2, 0x1FFFC0)]
  let full : State := { s with pool := { s.pool with entries := (List.range 256).map fun i => (i, BitVec.twoPow 512 361) } }
  (0x1FFFC0 % 16 = 0 ∧ 0x1FFFC0 + 64 ≤ 0x200000 ∧ badAddr s (spadBase 0 + 0x1FFFC0) 64 = none) ∧ freePool s = some 0
  ∧ mwf 0 s.pool.entries = true ∧ freePool full = none ∧ 0x200000 < 0x1FFFC1 + 64 ∧ (0x1FFFC8 - 16) % 16 ≠ 0 := by decide +kernel

/-! Operand codes: tile T.h row t is t·64 + i, S register n 0x1800 + n, Q 0x1900 + n (+ 16 site), P 0x1A00 + n, immediate 0x1B00 + v. -/

theorem witness_LanesOk : LanesOk (regs []) ∧ LanesOk (withP1 1) ∧ LanesOk (coreIs { Core.idle with tile := [(5, 1)], lflag := [(63, 4)] }) :=
  ⟨⟨by decide, by decide⟩, ⟨by decide, by decide⟩, ⟨by decide, by decide⟩⟩

theorem witness_VectorLanding : LanesOk (regs []) ∧ (kindOf (vw 0x7FF 0 0 0 10).d).isVec = true
  ∧ (17 ≤ 17 ∧ 31 < numVals 17 ∧ ∀ j : Nat, ((fun _ => (0, 0)) j : Nat × Flags).1 < 2 ^ fmtWidth 17)
  ∧ (15 ≤ 17 ∧ 511 < numVals 15) := ⟨⟨by decide, by decide⟩, by decide, ⟨by decide, by decide, fun _ => Nat.two_pow_pos _⟩, by decide, by decide⟩

/-- INT4 rows, FP32 with a Q source and the stochastic rounding, FP64, and VABS on each. -/
theorem witness_VectorArithmetic : LanesOk (regs [])
  ∧ (let v := vw 0 0x1B00 0x1801 0 0; let f := fmtOf (regs []) v.fmt; f ≤ 11 ∧ rndOf (regs []) v.rnd ≤ 5 ∧ (f < 8 → rndOf (regs []) v.rnd = 0)
      ∧ dstBad f (kindOf v.d) = false ∧ srcBad f (kindOf v.a) = false ∧ srcBad f (kindOf v.b) = false ∧ f < 8)
  ∧ (let v := vw 0 0x1901 0 0xA 10; let f := fmtOf (regs []) v.fmt; f ≤ 11 ∧ rndOf (regs []) v.rnd = 5 ∧ ¬f < 8
      ∧ dstBad f (kindOf v.d) = false ∧ srcBad f (kindOf v.a) = false ∧ srcBad f (kindOf v.b) = false ∧ 8 ≤ f ∧ v.sat = false)
  ∧ (let v := vw 0 0 0 1 11; let f := fmtOf (regs []) v.fmt; f ≤ 11 ∧ dstBad f (kindOf v.d) = false ∧ srcBad f (kindOf v.a) = false ∧ 8 ≤ f
      ∧ v.sat = true) := by
  refine ⟨⟨by decide, by decide⟩, ?_⟩; decide +kernel

theorem witness_VectorFunctions :
  (let v := vw 0 0x1901 0 8 10; dstBad 10 (kindOf v.d) = false ∧ srcBad 10 (kindOf v.a) = false ∧ fmtOf (regs []) v.fmt = 10 ∧ rndOf (regs []) v.rnd ≤ 4)
  ∧ (let v := vw 0 0 0 0xA 17; dstBad 17 (kindOf v.d) = false ∧ srcBad 17 (kindOf v.a) = false ∧ fmtOf (regs []) v.fmt = 17
      ∧ rndOf (regs []) v.rnd ≤ 5 ∧ srcBad 17 (kindOf v.b) = false)
  ∧ (let v := vw 0 0 0 0 11; dstBad 11 (kindOf v.d) = false ∧ srcBad 11 (kindOf v.a) = false ∧ fmtOf (regs []) v.fmt = 11) := by
  decide +kernel

/-- R168, by its table of FP32: a NaN, −0, the infinities, and the integer −3. -/
theorem witness_VectorFunctions_cases : infPattern F32 false = 0x7F800000 ∧ infPattern F32 true = 0xFF800000 ∧ minusZero F32 = 0x80000000
  ∧ nanPattern F32 = 0x7FC00000 ∧ (0x7F800001 / 2 ^ F32.fb % 2 ^ F32.eb = 2 ^ F32.eb - 1 ∧ 0x7F800001 % 2 ^ F32.fb ≠ 0)
  ∧ (0x80000000 < 0x80000001 ∧ ¬0x80000001 / 2 ^ F32.fb % 2 ^ F32.eb = 2 ^ F32.eb - 1)
  ∧ Holds32 0xC0400000 (-3) := by
  refine ⟨by decide, by decide, by decide, by decide, by decide, by decide, 0xC00000, -22, by decide +kernel, by decide +kernel⟩

theorem witness_VectorLogic : (let v := vw 0 0 0x1B04 0 7; let f := fmtOf (regs []) v.fmt
    f < 8 ∧ dstBad f (kindOf v.d) = false ∧ srcBad f (kindOf v.a) = false ∧ srcBad f (kindOf v.b) = false)
  ∧ (let v := vw 0 0 0 0 0; let f := fmtOf (regs []) v.fmt
    f < 8 ∧ dstBad f (kindOf v.d) = false ∧ srcBad f (kindOf v.a) = false ∧ srcBad f (kindOf v.b) = false) := by decide +kernel

/-- FP32 to FP16; a QN4 block and back, scaled by S1; MX blocks of FP32 and of BF16 to and from MXFP8 and MXFP4. -/
theorem witness_VectorConversions :
  (let v := vw 0 0x1B00 10 0xA 9; fmtOf (regs []) v.fmt = 9 ∧ sfmtOf (regs []) (v.b.extractLsb' 0 5) = 10 ∧ rndOf (regs []) v.rnd ≤ 5
    ∧ (kindOf v.d).isVec = true ∧ accC 9 = true ∧ accC 10 = true ∧ dstBad 9 (kindOf v.d) = false ∧ srcBad 10 (kindOf v.a) = false)
  ∧ (let v := vw 0 0 0x1801 0 15; srcBad 10 (kindOf v.a) = false ∧ (kindOf v.b).isS = true ∧ srcBad 15 (kindOf v.a) = false)
  ∧ (let v := vw 0 0 9 0 14; 12 ≤ fmtOf (regs []) v.fmt ∧ fmtOf (regs []) v.fmt ≤ 14 ∧ sfmtOf (regs []) (v.b.extractLsb' 0 5) = 9
      ∧ srcBad 9 (kindOf v.a) = false)
  ∧ (let v := vw 0 0 12 0 10; fmtOf (regs []) v.fmt = 10 ∧ 12 ≤ sfmtOf (regs []) (v.b.extractLsb' 0 5)
      ∧ sfmtOf (regs []) (v.b.extractLsb' 0 5) ≤ 14 ∧ srcBad 12 (kindOf v.a) = false) := by decide +kernel

theorem witness_VectorMovement :
  (let v := vw 0 0x801 0x1B00 0 4; dstBad 4 (kindOf v.d) = false ∧ elemBad 4 (kindOf v.a) = false ∧ elemBad 4 (kindOf v.b) = false
    ∧ ((kindOf v.b).isS || (kindOf v.b).isImm) = true)
  ∧ (let s := regs [(1, 0x80), (2, 0x7F), (3, 0xFF)]
     ctlVal s 4 (kindOf 0x1801) / 2 ^ 6 % 4 = 2 ∧ ctlVal s 4 (kindOf 0x1802) / 2 ^ 6 % 4 = 1 ∧ ctlVal s 4 (kindOf 0x1803) / 2 ^ 6 % 4 = 3
     ∧ ctlVal s 4 (kindOf 0x1800) / 2 ^ 6 % 4 = 0)
  ∧ (kindOf 0x183F = .s 63 ∧ kindOf 0x1800 = .s 0 ∧ (kindOf 0x1B3F).isImm = true ∧ (kindOf 0x183F).isS = true) := by decide +kernel

theorem witness_VectorReduction :
  (let v := vw 0 0 0 2 10; accR (fmtOf (regs []) v.fmt) = true ∧ v.sub.toNat ≤ 2 ∧ srcBad 10 (kindOf v.a) = false ∧ dstBad 10 (kindOf v.d) = false)
  ∧ (let v := vw 0x1801 0 0 0 4; accR (fmtOf (regs []) v.fmt) = true ∧ v.sub.toNat ≤ 2 ∧ srcBad 4 (kindOf v.a) = false ∧ kindOf v.d = .s 1)
  ∧ ([1, 2].length = 2 ^ 1 ∧ [3, 4].length = 2 ^ 1) := by decide +kernel

theorem witness_LanePredicates : mwf 0 (withP1 5).core.preg = true ∧ kindOf 0x1A00 = .p 0 ∧ kindOf 0x1A0F = .p 15
  ∧ (accR 4 = true ∧ 9 ≤ 9 ∧ srcBad 4 (kindOf 0) = false ∧ srcBad 4 (kindOf 0x1B01) = false)
  ∧ (accR 10 = true ∧ srcBad 10 (kindOf 0x1901) = false) ∧ (kindOf 0x1A01).isP = true
  ∧ (let f := fun sub => (vw 0x1A01 0x1A02 0x1A03 sub 0).sub.toNat; f 0 = 0 ∧ f 1 = 1 ∧ f 2 = 2 ∧ f 3 = 3 ∧ f 4 = 4)
  ∧ (kindOf 0).isVec = true ∧ (kindOf 0x1801).isS = true := by decide +kernel

theorem witness_FlagsAndRandom : (kindOf 0).isVec = true ∧ kindOf 0x1A01 = .p 1
  ∧ (let v : VOp := { vw 0 0 0 0 5 with nf := true }; v.nf = true) ∧ (vw 0 0 0 0 10).nf = false
  ∧ (∀ p ∈ (regs []).core.pend, ∀ x, p.eff ≠ .lflg 63 x) ∧ laneGuard (regs []) (vw 0 0 0 0 5) 63 = true
  ∧ laneGuard (regs []) { vw 0 0 0 0 5 with p := 1 } 63 = false := by
  refine ⟨by decide, by decide, by decide, by decide, by simp [regs, Core.idle], by decide +kernel, by decide +kernel⟩

/-- A site given and none, a Q, a P and a vector source; patterns of each range at its ends. -/
theorem witness_ProbabilityPredicates : kindOf 0x1971 = .q 1 7 ∧ kindOf 0x1901 = .q 1 0 ∧ kindOf 0x190F = .q 15 0 ∧ kindOf 0x1A01 = .p 1 ∧ (kindOf 0).isVec = true
  ∧ srcBad 10 (kindOf 0x1B00) = false
  ∧ mwf 0 (coreIs { Core.idle with qval := [(64, 0x3F000000)], qlin := [(64, 1)] }).core.qval = true := by decide +kernel
theorem witness_ProbabilityPredicates_ranges : (0x7F800000 < 0xFF800001 % 2 ^ 31) ∧ (2 ^ 31 ≤ 0xFF800000 ∧ 0xFF800000 % 2 ^ 31 ≤ 0x7F800000)
  ∧ (2 ^ 31 ≤ 0x80000000) ∧ (0x3F800000 < 0x3F800001 ∧ 0x7F800000 ≤ 0x7F800000) ∧ (0x3F800000 ≤ 0x3F800000) := by decide

theorem witness_ProbabilityUses : dstBad 10 (kindOf 0) = false ∧ srcBad 10 (kindOf 0) = false ∧ srcBad 10 (kindOf 0x1901) = false
  ∧ kindOf 0x1901 = .q 1 0 ∧ kindOf 0x1A01 = .p 1 ∧ mwf 0 (withP1 5).core.preg = true ∧ (kindOf 0x7FF).isVec = true := by decide +kernel

/-- An MCALL with these tokens and elastic code. -/
def mw (p c1 : Tok) (e : BitVec 4) : MOp := { produce := p, c1 := c1, c2 := 0, c3 := 0, elastic := e, comp := false, spec := 0 }
/-- The core holds these parameter registers; routine 0x20 is loaded with no microword, descriptor K1 has its base at 0x10000. -/
def withMp (xs : List (Nat × Word64)) : State := coreIs { Core.idle with mp := xs, user := [(0x20, some ⟨0, 0⟩)], sk := [(1, 0x10000)] }
/-- Parameters that each MCALL form accepts, in the order of `matrixCalls`. -/
def goodMp : List (List (Nat × Word64)) :=
  let f : Word64 := 10 * 2 ^ 35 + 10 * 2 ^ 40 + 2 ^ 16
  [[(3, f)], [(3, f)], [(3, f), (4, 0x1001001)], [(3, 17 * 2 ^ 35 + 17 * 2 ^ 40 + 2 ^ 16)], [(1, 2 ^ 10), (2, 1)], [(0, 160)], [(0, 15)],
    [], [(1, 0x10000), (2, 0x10000)], [], [(0, 8)], [], [], [], []]

/-- Every form, called without a consumed token, and with one that pends under elastic code 1. -/
theorem witness_MatrixCall : (List.range 15).all (fun j => [mw 1 0 0, mw 1 2 1].all fun m =>
    let s := withMp (goodMp.getD j [])
    let s := { s with core := { s.core with dt := mset .ok s.core.dt 2 .pending } }
    match (matrixCalls m 0x20 s)[j]? with
    | none => false
    | some x => x.2.2.2.1.causes.isEmpty && decide (rdTok s m.produce ≠ .pending) && decide (onPipe s.core (pipeOf x.2.1) < pipeLimit (pipeOf x.2.1))
      && x.2.2.2.1.occM.all (fun i => !mBusy s.core i) && s.core.rescale.isNone && decide (m.spec.toNat &&& x.2.2.1 = m.spec.toNat)
      && decide (m.elastic = 0 → ∀ t ∈ [m.c1, m.c2, m.c3], rdTok s t = .ok)) = true := by decide +kernel

/-- A late token; SCHEDULE from a pending token and from a rescale; a misaligned image; a token produced and consumed, COMP outside
GEMM, a flag bit the row does not define. -/
theorem witness_MatrixCallFaults :
  mget none (withMp []).core.user 0x21 = none
  ∧ (let s := coreIs { Core.idle with dt := [(2, .pending)] }
     ([(mw 1 2 0).c1, (0 : Tok), 0].find? fun t => decide (rdTok s t ≠ .ok)) = some 2 ∧ rdTok s 2 = .pending)
  ∧ (coreIs { Core.idle with rescale := some (5, []) }).core.rescale ≠ none
  ∧ (loadPlan (withMp [(0, 1)]) (mw 1 0 0)).causes = [(0x0B, 1)] ∧ minCause [(0x0B, 1)] = some (0x0B, 1)
  ∧ ((mw 1 1 1).produce ∈ [(mw 1 1 1).c1, 0, 0]) ∧ { mw 1 0 0 with comp := true }.comp = true
  ∧ (let m := { mw 1 0 0 with spec := 4 }; m.spec.toNat &&& 3 ≠ m.spec.toNat) := by decide +kernel

/-- An ACCRD that has not started; one that has. -/
def rtn0 (m : MOp) (r : Option MuResult) : Routine :=
  ⟨0, 8, m, [], 0, if r.isSome then some 0 else none, 16, 0, [0], [], [], [], 0, 0, 0, 0, [], none, r⟩
/-- A module in cycle `x` whose core has these routines. -/
def withRtns (x : Nat) (rs : List Routine) (dt : List (Nat × TokState)) : State :=
  { coreIs { Core.idle with rtns := rs, dt := dt } with cyc := x }
/-- The decidable parts of a core's canonical form, tokens and routines apart. -/
theorem canon_idle (rs : List Routine) (dt : List (Nat × TokState)) (hd : mwf .ok dt = true) :
    { Core.idle with rtns := rs, dt := dt }.canon := by
  exact ⟨⟨rfl, rfl, rfl, rfl, rfl, rfl, rfl, rfl⟩, ⟨rfl, rfl, rfl, rfl, rfl, rfl, rfl⟩, ⟨rfl, rfl, hd, rfl, rfl⟩, rfl, rfl, rfl, rfl, rfl, rfl⟩

/-- A routine that fills accumulator 0 and has not completed. -/
theorem witness_LossScaleRescale_held : ∃ r ∈ (withRtns 0 [rtn0 (mw 1 0 0) none] []).core.rtns,
    ∃ i ∈ r.occM, mNonEmpty { Core.idle with mfull := [(0, true)], rtns := [rtn0 (mw 1 0 0) none] } i = true :=
  ⟨_, .head _, 0, .head _, by decide +kernel⟩

theorem witness_MatrixControl :
  (let r := rtn0 (mw 1 0 0) none
   let s := withRtns 0 [r] [(1, .pending)]
   let s := { s with core := { s.core with pend := [⟨0, 0, .mstop 1⟩] } }
   dueNow s.core = [⟨s.core.icnt, 0, .mstop 1⟩]
   ∧ (s.core.rtns.find? fun r => decide (r.op.produce ≠ 0) && decide (r.op.produce = 1)) = some r ∧ 0 ∈ r.occM ∧ 3 ∉ r.occM
   ∧ (∀ r ∈ s.core.rtns, r.op.produce = 0 ∨ r.op.produce ≠ 2) ∧ onPipe s.core .sketch ≤ 4)
  ∧ { Core.idle with rtns := [], dt := [(63, TokState.err)] }.canon := ⟨by decide +kernel, canon_idle _ _ (by decide)⟩

/-- A start; a token done-error, a window at its end and one before it; a microword; a completion, good and bad; a rescale. -/
theorem witness_RoutineEvents :
  (let s := withRtns 0 [rtn0 (mw 1 0 0) none] []
   startable false (select 0 s) = none ∧ (startable true (select 0 s)).isSome = true ∧ (rtn0 (mw 1 0 0) none).start = none)
  ∧ (startable false (select 0 (withRtns 0 [rtn0 (mw 1 2 1) none] [(2, .err)])) = some (rtn0 (mw 1 2 1) none, .never 2))
  ∧ (startable false (select 0 (withRtns 31 [rtn0 (mw 1 2 1) none] [(2, .pending)])) = some (rtn0 (mw 1 2 1) none, .never 2))
  ∧ startable false (select 0 (withRtns 30 [rtn0 (mw 1 2 1) none] [(2, .pending)])) = none
  ∧ (let y : UserRun := ⟨[], 0, 5, ⟨0, []⟩, ⟨0, []⟩, [], 0, []⟩
     let r := { rtn0 (mw 1 0 0) none with start := some 1, usr := some y }
     startable false (select 0 (withRtns 5 [r] [])) = some (r, .micro y))
  ∧ (let r := rtn0 (mw 1 0 0) (some MuResult.none)
     finished (select 0 (withRtns 5 [r] [])) = some (r, MuResult.none) ∧ MuResult.none.ok = true)
  ∧ (let x := { MuResult.none with ok := false }
     let r := rtn0 (mw 1 0 0) (some x)
     finished (select 0 (withRtns 5 [r] [])) = some (r, x))
  ∧ (let s := coreIs { Core.idle with rescale := some (0, []) }
     (select 0 s).core.rescale = some (0, []) ∧ 0 ≤ (select 0 s).cyc) := by decide +kernel

/-- The parts of an access to space 0 of core 0 are reached where each lies inside one sector of it. -/
theorem reach0 (s : State) (wr : Bool) (n cnt : Nat) (va : Nat → Nat) (hc : s.coreNo = 0)
    (h : ∀ i, i < cnt → va i + n ≤ 0x200000 ∧ (spadBase 0 + va i) % 16 + n ≤ 16 ∧ place (spadBase 0 + va i) ≠ .coded
      ∧ badAddr s (spadBase 0 + va i) n = none ∧ textRefused s (spadBase 0 + va i) n = none) (hq : s.barq = []) :
    AllReach s 0 wr n cnt va (fun i => spadBase 0 + va i) fun _ => true := fun i hi =>
  have ⟨a, b, c, d, e⟩ := h i hi
  ⟨Or.inl ⟨by decide, a, by simp [spaceBase, hc], rfl⟩, b, (fun u hu => absurd hu (by simp [hq])),
    by cases wr; exact ⟨c, d⟩; exact ⟨⟨c, d⟩, e⟩⟩

/-- S2 the base 0x1000, S3 the pitch 4, S4 the pitch 256, S5 the last row of the space. -/
def rowsIn : State := regs [(2, 0x1000), (3, 4), (4, 256), (5, 0x1FFF00)]

/-- A row at the end of the space, 64 elements 4 bytes apart, a tile with the pitch of a row; the lane slices at their end. -/
theorem witness_TransferLoads : mwf none rowsIn.core.l1 = true
  ∧ AllReach rowsIn 0 false 16 16 (fun j => (0x1FFF00 + 16 * j) % 2 ^ 64) (fun j => spadBase 0 + (0x1FFF00 + 16 * j) % 2 ^ 64) (fun _ => true)
  ∧ AllReach rowsIn 0 false 8 1 (fun _ => 0x1000) (fun _ => spadBase 0 + 0x1000) (fun _ => true)
  ∧ AllReach rowsIn 0 false 4 64 (stridedAddr rowsIn 2 3) (fun j => spadBase 0 + stridedAddr rowsIn 2 3 j) (fun _ => true)
  ∧ AllReach rowsIn 0 false 4 64 (indexedAddr rowsIn 2 (kindOf 0)) (fun j => spadBase 0 + indexedAddr rowsIn 2 (kindOf 0) j) (fun _ => true)
  ∧ AllReach rowsIn 0 false 16 1024 (fun q => (tileAddr rowsIn 2 4 (q / 16) + 16 * (q % 16)) % 2 ^ 64)
      (fun q => spadBase 0 + (tileAddr rowsIn 2 4 (q / 16) + 16 * (q % 16)) % 2 ^ 64) (fun _ => true) := by
  refine ⟨by decide, ?_, ?_, ?_, ?_, ?_⟩ <;> refine reach0 _ _ _ _ _ rfl ?_ rfl <;> decide +kernel

theorem witness_TransferLoads_lanes :
  (∀ x y, x < 64 → y < 64 → x / 32 = y / 32 → stridedAddr rowsIn 2 3 x / 16 % 32 = stridedAddr rowsIn 2 3 y / 16 % 32 →
    stridedAddr rowsIn 2 3 x / 16 = stridedAddr rowsIn 2 3 y / 16)
  ∧ (∀ j, j < 64 → stridedAddr rowsIn 2 3 j % 4 = 0 ∧ tileAddr rowsIn 2 4 j % 16 = 0)
  ∧ (kindOf 0x1A0F = .p 15 ∧ (15 : PReg) ≠ 0 ∧ kindOf 0x1A00 = .p 0)
  ∧ (let s := regs [(2, 0xFFC), (3, 4)]
     (0xFFC + 4 ≤ 4096 ∧ 0xFFC % 4 = 0 ∧ s.core.lanePoison = []) ∧ ∀ j, j < 64 → stridedAddr s 3 3 j + 4 ≤ 4096 ∧ stridedAddr s 3 3 j % 4 = 0)
  ∧ (let s := regs [(3, 16)]
     ∀ j, j < 64 → tileAddr s 0 3 j + 4 ≤ 4096 ∧ tileAddr s 0 3 j % 16 = 0) := by
  refine ⟨?_, by decide +kernel, by decide +kernel, by decide +kernel, by decide +kernel⟩
  have h : ∀ x, x < 64 → ∀ y, y < 64 → x / 32 = y / 32 → stridedAddr rowsIn 2 3 x / 16 % 32 = stridedAddr rowsIn 2 3 y / 16 % 32 →
    stridedAddr rowsIn 2 3 x / 16 = stridedAddr rowsIn 2 3 y / 16 := by decide +kernel
  exact fun x y hx hy => h x hx y hy

theorem witness_TransferStores : rowsIn.memOk
  ∧ AllReach rowsIn 0 true 16 16 (fun j => (0x1FFF00 + 16 * j) % 2 ^ 64) (fun j => spadBase 0 + (0x1FFF00 + 16 * j) % 2 ^ 64) (fun _ => true)
  ∧ AllReach rowsIn 0 true 4 64 (stridedAddr rowsIn 2 3) (fun j => spadBase 0 + stridedAddr rowsIn 2 3 j) (fun _ => true)
  ∧ AllReach rowsIn 0 true 4 64 (indexedAddr rowsIn 2 (kindOf 0)) (fun j => spadBase 0 + indexedAddr rowsIn 2 (kindOf 0) j) (fun _ => true)
  ∧ AllReach rowsIn 0 true 16 1024 (fun q => (tileAddr rowsIn 2 4 (q / 16) + 16 * (q % 16)) % 2 ^ 64)
      (fun q => spadBase 0 + (tileAddr rowsIn 2 4 (q / 16) + 16 * (q % 16)) % 2 ^ 64) (fun _ => true)
  ∧ (mwf [] rowsIn.slow = true ∧ slowOf rowsIn (granule 0x1000).1 = none) := by
  refine ⟨(show _ = true by decide +kernel), ?_, ?_, ?_, ?_, by decide +kernel⟩ <;> refine reach0 _ _ _ _ _ rfl ?_ rfl <;> decide +kernel

/-- A misaligned row; one past the end in its last sector; a scalar register in place of a vector; the lane slices past their
end and misaligned. -/
theorem witness_TransferFaults : (kindOf 0x1801).isP = false ∧ (kindOf 0x1801).isVec = false
  ∧ (0x1FFEFF + 256 ≤ spaceSize 0 ∧ 0x1FFEFF % 16 ≠ 0) ∧ (0x1FFF10 < spaceSize 0 ∧ spaceSize 0 < 0x1FFF10 + 256)
  ∧ (0x1FFF00 + 256 ≤ spaceSize 2 ∧ 0x1FFF00 % 16 = 0) ∧ 4096 < 0xFFD + 4 ∧ (0xFFB + 4 ≤ 4096 ∧ 0xFFB % 4 ≠ 0) := by decide +kernel

/-- Lanes 512 bytes apart; lanes that leave the space at lane 2 and lanes off their alignment from lane 1 on; a tag that no frame
has; a tile whose row 1 leaves the space, and one off its alignment; the same in the lane slices. -/
theorem witness_TransferFaults_lanes :
  let s := regs [(2, 0x1000), (3, 512), (4, 0x1FFFF8), (5, 4), (6, 6), (7, 0x1FFF00), (8, 260), (9, 0xFF8), (10, 16)]
  (kindOf 0).isVec = true
  ∧ (1 / 32 = 0 / 32 ∧ stridedAddr s 2 3 0 / 16 % 32 = stridedAddr s 2 3 1 / 16 % 32 ∧ stridedAddr s 2 3 0 / 16 ≠ stridedAddr s 2 3 1 / 16)
  ∧ (spaceSize 0 < stridedAddr s 4 5 2 + 4 ∧ ∀ m, m < 2 → ¬spaceSize 0 < stridedAddr s 4 5 m + 4)
  ∧ (stridedAddr s 2 6 1 % 4 ≠ 0 ∧ stridedAddr s 2 6 0 % 4 = 0 ∧ ∀ m, m < 64 → stridedAddr s 2 6 m + 4 ≤ spaceSize 0)
  ∧ ((∀ m, m < 64 → stridedAddr s 2 5 m + 4 ≤ spaceSize 0 ∧ stridedAddr s 2 5 m % 4 = 0) ∧ (kindOf 0x1801).isVec = false)
  ∧ ((2 : SReg) ≠ 0 ∧ mget 0 s.frameTag (frameKey (spaceBase s 0 + 0x1000)) ≠ (rdS s 2).setWidth 16)
  ∧ (spaceSize 0 < (tileAddr s 7 8 1 + 16 * 0) % 2 ^ 64 + 16) ∧ (tileAddr s 2 8 1 % 16 ≠ 0 ∧ tileAddr s 2 8 0 % 16 = 0
    ∧ ∀ j, j < 64 → tileAddr s 2 8 j + 256 ≤ spaceSize 0)
  ∧ (4096 < tileAddr s 9 10 1 + 4 ∧ ¬4096 < tileAddr s 9 10 0 + 4) ∧ (4096 < stridedAddr s 9 5 2 + 4 ∧ ∀ m, m < 2 → ¬4096 < stridedAddr s 9 5 m + 4) := by
  decide +kernel
theorem witness_TransferFaults_calm :
  let s := regs [(2, 0x1000), (5, 4)]
  ∀ n, n < 64 → ∀ m, m < n → m / 32 = n / 32 → stridedAddr s 2 5 m / 16 % 32 = stridedAddr s 2 5 n / 16 % 32 →
    stridedAddr s 2 5 m / 16 = stridedAddr s 2 5 n / 16 := by decide +kernel

/-- A command of the engine: its start cycle, its issue number, what it consumes. -/
def cmd0 (f : Bool) (c q : Nat) (cs : List Tok) : Cmd := ⟨f, false, [0, 0, 0, 0, 0, 0, 0, 0], c, q, 1, cs, 5, 0, 0⟩
/-- A running command. -/
def run0 (f ok : Bool) : Running :=
  { cmd := cmd0 f 0 0 [], finish := 0, ok := ok, writes := [], wrote := 0, frames := [], tags := none, tag := 0, barrier := none
    crc := none, moved := 0, remote := false, dest := 0, tab := 0, unsent := [], awaiting := 0, blocks := [], lines := [] }
/-- A barrier's word at the start of the first stack's page (count 1, expecting 1), with an update to apply. -/
def barrier0 : State := { mapped with mem := mapped.mem.writeBytes 0x40000 (natToBytes 16 (2 ^ 32 + 2 ^ 48))
                                      barq := [BarrierUpd.plain mapped 0 false 0x40000 0 1] }

/-- A pending token; one produced and consumed; a reserved code from the table; the buffer full and with one place; a barrier's word, and
one bound as a lock. -/
theorem witness_EngineCommands :
  rdTok (coreIs { Core.idle with dt := [(1, .pending)] }) 1 = .pending ∧ rdTok (regs []) 1 ≠ .pending
  ∧ ((1 : Tok) ≠ 0 ∧ (1 : Tok) ∈ [(1 : Tok), 0, 0]) ∧ ¬((3 : Tok) ∈ [(1 : Tok), 0, 0])
  ∧ ¬(sfmtOf (withFt (18 * 2 ^ 5)) 30 ≤ 17) ∧ sfmtOf (withFt (17 * 2 ^ 5 + 17)) 30 = fmtOf (withFt (17 * 2 ^ 5 + 17)) 30 ∧ rndOf (withFt (7 * 2 ^ 10)) 6 = 7
  ∧ 32 ≤ (List.replicate 32 (cmd0 false 9 0 [])).length ∧ (List.replicate 31 (cmd0 false 9 0 [])).length < 32
  ∧ (boundLock mapped (globalOf mapped 0x40000) = false
    ∧ boundLock { mapped with bind := [(0, ⟨0x40000, 16, 0x40000, 0, true, true⟩)] } (globalOf mapped 0x40000) = true
    ∧ Stored mapped 0x40000 16 ∧ place 0x40000 = .hbm 0 ∧ (rdS (regs [(2, 0x40000)]) 2).toNat % 16 = 0)
  ∧ ((∃ u, barrier0.barq[0]? = some u ∧ u.due ≤ barrier0.cyc ∧ u.sig = none ∧ u.waits = []) ∧ ∀ u ∈ barrier0.barq, badAddr barrier0 u.addr 16 = none) := by
  refine ⟨?_, ?_, ?_, ?_, ?_, ?_, ?_, ?_, ?_, ?_, ⟨_, rfl, by decide, rfl, rfl⟩, ?_⟩
  all_goals (try unfold Stored); decide +kernel
/-- A message whose payload goes to a region bound to the barrier at 0x40000. -/
theorem witness_EngineCommands_waits :
  let m : SigMsg := { id := 3, chan := 0, core := 0, dest := 0, sigAddr := 0x40100, flag := none, pay := [(0x40020, [1])], earliest := 0
                      sigAt := 9, pieces := [(5, [(0x40020, [1])])], tab := 0, sent := false, oks := 0, local_ := true, waits := [] }
  let s := { mapped with bind := [(0, ⟨0x40020, 16, 0x40000, 0, false, true⟩)], fab := { mapped.fab with sigs := [m] } }
  outstanding s 3 = true ∧ inBound s 0x40000 (m.dest * 2 ^ 44 + 0x40020, 1) = true := by decide +kernel
theorem witness_EngineCommands_reaches : Reaches mapped 3 true 0x40000 16 0x40000 true ∧ barrier0.memOk :=
  ⟨reaches_mapped _ _ _ (by decide +kernel) (by decide) (by decide) (by decide +kernel), show _ = true by decide +kernel⟩

/-- A core whose engine holds and runs these. -/
def withBte (b : List Cmd) (r : List Running) (dt : List (Nat × TokState)) : State := coreIs { Core.idle with bte := b, running := r, dt := dt }

theorem witness_EngineEvents :
  (nextCmd false (select 0 (withBte [cmd0 false 0 0 []] [] [])) = none
    ∧ nextCmd true (select 0 (withBte [cmd0 false 0 1 [], cmd0 false 0 0 []] [] [])) = some (cmd0 false 0 0 [], .start))
  ∧ nextCmd false (select 0 (withBte [cmd0 false 0 0 [2]] [] [(2, .err)])) = some (cmd0 false 0 0 [2], .never 2)
  ∧ cmdAct (select 0 (withBte [cmd0 true 0 0 []] [] [])) (cmd0 true 0 0 []) = some .start
  ∧ doneCmd false (select 0 (withBte [] [run0 false true] [])) = some (run0 false true)
  ∧ doneCmd false (select 0 (withBte [] [run0 false false] [])) = some (run0 false false)
  ∧ (let r := { run0 false true with crc := some (5, 7), barrier := some 0x40000, wrote := 1 }
     doneCmd false (select 0 (withBte [] [r] [])) = some r ∧ r.wrote ≠ 0)
  ∧ doneCmd true (select 0 (withBte [] [run0 true true] [])) = some (run0 true true) ∧ (run0 true true).blocks = []
  ∧ doneCmd true (select 0 (withBte [] [run0 true false] [])) = some (run0 true false)
  ∧ (cmdAct (select 0 (withBte [cmd0 false 0 1 [], cmd0 false 0 0 []] [] [])) (cmd0 false 0 1 []) = some .start)
  ∧ (let r := { run0 false true with barrier := some 0xFF00000000, wrote := 1 }
     let s := select 0 (withBte [] [r] [])
     doneCmd false s = some r ∧ badAddr s 0xFF00000000 16 ≠ none) := by decide +kernel

/-- A COPY with one write due, which completes frame 0x40000 / 4096. -/
theorem witness_EngineEvents_lands :
  let w : Nat × WriteUnit := (0, [(0x40000, List.replicate 16 7)])
  let r := { run0 false true with writes := [w], frames := [3] }
  let s := { mapped with core := { Core.idle with running := [r] } }
  landDue (select 0 s) 0 = some (r, w) ∧ (∀ x ∈ w.2, place x.1 ≠ .coded ∧ badAddr (select 0 s) x.1 x.2.length = none
    ∧ textRefused (select 0 s) x.1 x.2.length = none) ∧ mwf 0 (select 0 s).frameTag = true ∧ s.inputs = [] ∧ hostDue s = none := by
  decide +kernel
theorem witness_EngineEvents_step :
  let w : Nat × WriteUnit := (0, [(0x40000, List.replicate 16 7)])
  let r := { run0 false true with writes := [w] }
  let s := { mapped with core := { Core.idle with phase := .run, running := [r] } }
  (writeDue s).map (fun x => (x.1, x.2.1, x.2.2.1)) = some (0, r, 0) := by decide +kernel

theorem witness_GlobalAccessFaults : (⟨3, 3, 3⟩ : MemRef).space = 3 ∧ (2 ^ 56 : Nat) ≤ 0x100000000000000
  ∧ (let s := { mapped with xlat := { mapped.xlat with tu := [⟨0, 0x40000, 4096, 0x40000, false, false, true⟩] } }
     (s.xlat.inval.any fun p => p.1 == s.coreNo / 48) = false
     ∧ tuFind s .core (s.coreNo / 48) 0x40FFF = some ⟨0, 0x40000, 4096, 0x40000, false, false, true⟩
     ∧ tuAllows s ⟨0, 0x40000, 4096, 0x40000, false, false, true⟩ false = false)
  ∧ (localPart mapped 0xFF00000000 = some 0xFF00000000 ∧ place 0xFF00000000 = .mmio) := by decide +kernel

/-- Port 0 of a module with this link timetable. -/
def linked (es : List (BitVec 128)) : State :=
  { State.reset with maps := { State.reset.maps with port := 1 }, fab := { State.reset.fab with table := some ⟨es, 2, 0⟩ } }
/-- R42. A SEND entry of port 0, slot index 0, core 0, one flit. -/
def sendE : BitVec 128 := BitVec.ofNat 128 (2 ^ 15 + 2 ^ 21 * kSend)

/-- Slot 2 is the first of index 0 that begins 16 cycles after cycle 160; in cycle 112 slot 0 is the latest visible one. -/
theorem witness_PortOperations :
  (let t : LinkTable := ⟨[], 2, 0⟩
   (linked []).maps.port.getLsbD 0 = true ∧ portDie 0 = (linked []).coreNo / 48 ∧ (0 : Nat) < t.period
   ∧ (0 ≤ 2 ∧ 160 + 16 ≤ 88 * 2 ∧ (2 - t.slotA) % t.period = 0) ∧ (∀ m, m < 2 → ¬(160 + 16 ≤ 88 * m ∧ (m - t.slotA) % t.period = 0))
   ∧ (88 * (0 + 1) + 24 ≤ 112 ∧ (0 - t.slotA) % t.period = 0) ∧ (∀ m, m < 9 → 88 * (m + 1) + 24 ≤ 112 → m ≤ 0)
   ∧ (∀ n, n < 9 → ¬(88 * (n + 1) + 24 ≤ 111)))
  ∧ sendEntryOf ⟨[sendE], 2, 0⟩ 0 0 0 = some sendE ∧ ltFlits sendE = 1 ∧ sendEntryOf ⟨[sendE], 2, 0⟩ 0 1 0 = none
  ∧ nSrcBad (kindOf 0) = false ∧ nSrcBad (kindOf 0x1901) = true ∧ (kindOf 0).isVec = true ∧ (kindOf 0x1800).isVec = false
  ∧ (let f : RxFlit := ⟨0, 0, 0, 0, 0, .ok, []⟩
     (([⟨0, 0, [f, { f with idx := 1, status := .unc }]⟩] : List RxSlot).find? fun r => decide (r.port = 0) && decide (r.slot = 0)).isSome = true
     ∧ ([f].find? fun f => decide (f.idx = 0)) = some f ∧ f.status = .ok) := by decide +kernel

/-- Scratchpad offset 0 holds a signal descriptor: 16 payload bytes to 0x40000, a barrier update at 0x40100; the page leads to module `m`. -/
def signalling (m : Nat) : State :=
  { mapped with
    xlat := { mapped.xlat with tu := [⟨0, 0x40000, 4096, m * 2 ^ 44 + 0x40000, true, true, true⟩] }
    mem := mapped.mem.writeBytes (spadBase 0) (natToBytes 32 (0x40000 + 16 * 2 ^ 64 + 0x40100 * 2 ^ 128))
    sigcap := [(1, 1)]
    maps := { mapped.maps with port := 1 }
    fab := { mapped.fab with d := 1, table := some ⟨[BitVec.ofNat 128 (2 ^ 15 + 6 * 2 ^ 21 + 2 ^ 24 + 2 ^ 48)], 2, 0⟩ } }

/-- To this module and to module 1: the descriptor, its addresses, the channel free and granted; the same channel ungranted. -/
theorem witness_SignalsCollectivesWaits : ∀ m, m < 2 →
  let s := signalling m
  let d := sigDescOf (bytesToNat (readHome s (spadBase s.coreNo) 32))
  badAddr s (spadBase s.coreNo) 32 = none ∧ nSrcBad (kindOf 0) = false
  ∧ d.plen = 16 ∧ d.res = false ∧ d.paddr = 0x40000 ∧ d.isFlag = false ∧ d.saddr = 0x40100
  ∧ tuFind s .core (s.coreNo / 48) 0x40100 = some ⟨0, 0x40000, 4096, m * 2 ^ 44 + 0x40000, true, true, true⟩
  ∧ tuAllows s ⟨0, 0x40000, 4096, m * 2 ^ 44 + 0x40000, true, true, true⟩ true = true
  ∧ (m = 0 → textRefused s 0x40000 16 = none ∧ boundLock s 0x40100 = false) ∧ place 0x40100 = .hbm 0
  ∧ (m ≠ 0 → (sigTable s 0 m).isSome = true) ∧ (s.fab.sigs.filter fun x => decide (x.chan = 0)).length < 4
  ∧ granted s 0 = true ∧ granted s 1 = false := by decide +kernel

/-- The collectives of the die at their limit and one below it; a descriptor at the last 64 bytes, past them, and misaligned; NWAIT of
an index outside the period, and the first slot after this cycle. -/
theorem witness_SignalsCollectivesWaits_others :
  (let c : Coll := ⟨0, 0, 0, [], 0, 0, none, [], [], none, 0, 0, 0, true, [], false⟩
   let s := { State.reset with colls := [c, c, c, c] }
   4 ≤ (s.colls.filter fun c => decide (c.die = s.coreNo / 48)).length
   ∧ ¬(4 ≤ (State.reset.colls.filter fun c => decide (c.die = State.reset.coreNo / 48)).length ∨ rdTok State.reset 1 = .pending))
  ∧ (0x1FFFC0 + 64 ≤ 0x200000 ∧ 0x1FFFC0 % 16 = 0 ∧ badAddr State.reset (spadBase 0 + 0x1FFFC0) 64 = none) ∧ 0x200000 < 0x1FFFC1 + 64 ∧ 0x1FFFB8 % 16 ≠ 0
  ∧ State.reset.fab.table = none ∧ (2 ≤ (2 : BitVec 15).toNat) ∧ ((linked []).cyc < 88 * 1 ∧ (1 - 0) % 2 = (1 : BitVec 15).toNat)
  ∧ (∀ m, m < 1 → ¬((linked []).cyc < 88 * m)) := by decide +kernel

/-- A core whose return stack holds `h` of `n` positions, its spill area from 0 to `l`. -/
def stacked (h n : Nat) (l : Word64) : State :=
  coreIs { Core.idle with rs := List.replicate h 9, rsdepth := BitVec.ofNat 18 n, rslim := l * 2 ^ 32 }

theorem witness_Branches : guardOn (stacked 0 0 0) gt = true ∧ guardOn (stacked 0 0 0) ⟨true, 0⟩ = false
  ∧ (stacked 31 31 0).core.rs.length < 32
  ∧ ((stacked 32 32 7).core.rs.length = 32 ∧ (rsLimit (stacked 32 32 7).core < rsBase (stacked 32 32 7).core + 8 * (32 - 32) + 8)
    ∧ rsUsable (stacked 32 32 7).core = false)
  ∧ ((stacked 32 32 8).core.rs.length = 32 ∧ rsUsable (stacked 32 32 8).core = true
    ∧ rsBase (stacked 32 32 8).core + 8 * (32 - 32) + 8 ≤ rsLimit (stacked 32 32 8).core)
  ∧ (rsUsable (stacked 0 1 8).core = true ∧ (stacked 0 1 8).core.rs.length < (stacked 0 1 8).core.rsdepth.toNat
    ∧ badAddr (stacked 0 1 8) (spadBase 0) 8 = none)
  ∧ (stacked 0 0 0).core.rsdepth.toNat = 0 ∧ ((stacked 1 1 0).core.rs = [9] ∧ (stacked 1 1 0).core.rsdepth.toNat = 0 + 1)
  ∧ (coreIs { Core.idle with delay := .loop }).core.delay = .loop ∧ (stacked 0 0 0).core.delay ≠ .loop
  ∧ ((stacked 0 0 0).core.olc = 0) ∧ (coreIs { Core.idle with olc := 1 }).core.olc = 1 ∧ 1 < (coreIs { Core.idle with olc := 2 }).core.olc.toNat
  ∧ mwf 0 (stacked 0 0 0).core.preg = true ∧ inHalf (stacked 0 0 0).core 16383 = true
  ∧ (inHalf (stacked 0 0 0).core 16384 = false ∧ preloadHolds (stacked 0 0 0).core true = false)
  ∧ (stacked 0 0 0).core.redir = none ∧ (stacked 0 0 0).core.nextRedir = none
  ∧ (coreIs { Core.idle with redir := some ⟨5, .swap⟩ }).core.redir = some ⟨5, .swap⟩ := by
  decide +kernel

theorem witness_WaitsAndFences : guardOn mapped gt = true ∧ guardOn mapped ⟨true, 0⟩ = false
  ∧ ((0xFFFFFFFF : Word64).toNat + 0 < 2 ^ 32) ∧ 2 ^ 32 ≤ (0xFFFFFFFF : Word64).toNat + 1
  ∧ (Stored mapped 0x40000 16 ∧ place 0x40000 = .hbm 0 ∧ boundLock mapped (globalOf mapped 0x40000) = false)
  ∧ genComplete mapped 0x40000 0 = false ∧ genComplete mapped 0x40000 0xFFFFFFFF = true
  ∧ (1 : BitVec 3) ≠ 0 ∧ (1 : BitVec 3) ≠ 5 ∧ mwf none mapped.core.l1 = true ∧ mwf [] mapped.core.unfetched = true
  ∧ mwf false mapped.relObjs = true ∧ mapped.barq = [] ∧ mapped.fab.sigs = []
  ∧ mget false mapped.relObjs (0x40000 / 16 * 16) = false ∧ mget false { mapped with relObjs := [(0x40000, true)] }.relObjs (0x40000 / 16 * 16) = true := by
  unfold Stored; decide +kernel
theorem witness_WaitsAndFences_reaches : Reaches mapped 3 false 0x40000 16 0x40000 true
  ∧ Reaches mapped 0 false 0x1FFFF0 16 (spadBase 0 + 0x1FFFF0) true :=
  ⟨reaches_mapped _ _ _ (by decide +kernel) (by decide) (by decide) (by decide +kernel), Or.inl (by decide +kernel)⟩

/-- A module whose core runs a task; its launch. -/
def launch0 : Launch := ⟨none, 0, 0, 0, 0, 0, 0, true, false, false, 0, none, 0, 0, 0, 0, 0, 0, BitVec.ofNat 512 (2 ^ 80)⟩
def running (c : Core) (k : Phase) : State := coreIs { c with phase := k, task := some ⟨launch0, false, 0, none⟩ }

theorem witness_TaskControl : guardOn (running Core.idle .run) gt = true ∧ (running Core.idle .drain).core.delay = .none
  ∧ (running { Core.idle with delay := .loop } .run).core.delay ≠ .none ∧ (running Core.idle .run).core.handler = false
  ∧ (running { Core.idle with handler := true } .run).core.handler = true ∧ (running Core.idle .run).core.phase ≠ .drain
  ∧ (notQuiet (running Core.idle .drain) = false ∧ inHalf (running Core.idle .drain).core 16383 = true
    ∧ inHalf (running Core.idle .drain).core 16384 = false)
  ∧ notQuiet (running { Core.idle with rescale := some (9, []) } .drain) = true
  ∧ ((running { Core.idle with drainWhy := .pool, susp := some ⟨⟨launch0, false, 0, none⟩, 0, none, false, []⟩ } .drain).core.susp ≠ none)
  ∧ (running { Core.idle with drainWhy := .thermal } .drain).core.drainWhy = .thermal := by decide +kernel

/-- The record at the last 96 bytes, past them, misaligned; a good record and a bad one. -/
theorem witness_TaskControl_record :
  (0x1FFFA0 + 96 ≤ 0x200000 ∧ 0x1FFFA0 % 16 = 0 ∧ badAddr (stacked 0 0 0) (spadBase 0 + 0x1FFFA0) 96 = none)
  ∧ 0x200000 < 0x1FFFA1 + 96 ∧ (0x1FFF98 + 96 ≤ 0x200000 ∧ 0x1FFF98 % 16 ≠ 0)
  ∧ ((stacked 0 1 8).core.rs = [] ∧ rsBase (stacked 0 1 8).core + 8 * (stacked 0 1 8).core.rsdepth.toNat ≤ rsLimit (stacked 0 1 8).core)
  ∧ recordBad Core.idle 0 = false ∧ recordBad Core.idle (2 ^ 102) = true ∧ mwf 0 (stacked 0 0 0).core.preg = true := by decide +kernel

/-- A bundle with an illegal S word; a trap entered in its cycle. -/
theorem witness_TrapTaken : (bundleCause (startBundle (running Core.idle .run)) (slotsOf (slotPlace 1 (0xFF * 2 ^ 40)))).isSome = true
  ∧ (running Core.idle .run).core.handler = false ∧ (running Core.idle .run).core.phase ≠ .drain ∧ mwf .ok (running Core.idle .drain).core.dt = true
  ∧ (running { Core.idle with handler := true } .run).core.handler = true
  ∧ (bundleCause (startBundle (running Core.idle .drain)) (slotsOf (slotPlace 1 (0xFF * 2 ^ 40)))).isSome = true
  ∧ (let e : TrapEntry := ⟨⟨1, 1, false, false, 0, false⟩, 0, true, 0⟩
     let s := running { Core.idle with entering := some e } .run
     (select 0 s).core.entering = some e ∧ e.due ≤ (select 0 s).core.icnt) := by decide +kernel

/-- A scratchpad whose first drain-table entry covers positions 0 to 9, with the stub 100. -/
def covered (c : Core) : State :=
  let s := running { c with drainReq := some ⟨0x20, .late, 0, 0⟩ } .run
  { s with mem := s.mem.writeBytes (spadBase 0) (natToBytes 8 (2 ^ 63 + 100 * 2 ^ 32 + 9 * 2 ^ 16)) }

theorem witness_CoreEvents :
  dueNow (select 0 (running Core.idle .run)).core = []
  ∧ (let w := fun k => (running { Core.idle with wait := some ⟨k, 0⟩ } .run)
     rdTok (w (.token 0)) 0 ≠ .pending ∧ 0 ≤ (w (.cycle 0)).cyc ∧ waitOver (w (.cycle 1)) = false)
  ∧ (let s := running { Core.idle with wait := some ⟨.cycle 1, 0⟩, reports := [⟨6, 4, false, true, 2, false⟩] } .run
     waitOver s = false ∧ s.core.reports ≠ [] ∧ s.core.entering = none ∧ s.core.handler = false)
  ∧ (let s := running { Core.idle with memerr := some (0x18, 0x40000, 5, 1) } .drain
     s.core.memerr = some (0x18, 0x40000, 5, 1) ∧ s.core.phase = .drain)
  ∧ (running { Core.idle with reports := [⟨6, 4, false, true, 2, false⟩], holding := true, holdc := 3, holdPos := some 9 } .run).core.holding = true
  ∧ holdLeft (running { Core.idle with holding := true, holdc := 3 } .run) ≠ 0 ∧ holdLeft (running { Core.idle with holding := true } .run) = 0
  ∧ (let s := select 0 (covered { Core.idle with pc := 9 })
     drainStub s = some 100 ∧ s.core.drainReq = some ⟨0x20, .late, 0, 0⟩ ∧ s.core.wait = none)
  ∧ (let s := select 0 (covered { Core.idle with pc := 9, wait := some ⟨.cycle 1, 77⟩ })
     drainStub s = some 100)
  ∧ drainStub (covered { Core.idle with pc := 10 }) = none ∧ 0 + 65536 < 65537 ∧ 0 + 4095 < 4096
  ∧ (let w : Wait := ⟨.remoteBarrier 3 0x40000 true, 0⟩; w.kind = .remoteBarrier 3 0x40000 true)
  ∧ (let w : Wait := ⟨.barrier 0x40000 1 8 (some 0), 0⟩; w.kind = .barrier 0x40000 1 8 (some 0) ∧ 0 ≤ State.reset.cyc) := by decide +kernel
theorem witness_CoreEvents_lands : let c := (select 0 (running { Core.idle with pend := [⟨0, 0, .s 5 7⟩] } .run)).core
    dueNow c ≠ [] ∧ ∀ p ∈ dueNow c, ∀ n, p.eff ≠ .mstop n := by
  refine ⟨by decide +kernel, fun p hp n => ?_⟩
  have h : dueNow (select 0 (running { Core.idle with pend := [⟨0, 0, .s 5 7⟩] } .run)).core = [⟨0, 0, .s 5 7⟩] := by decide +kernel
  rw [h] at hp
  rw [List.mem_singleton.mp hp]
  exact fun h => nomatch h

/-- R61. A launch of one text line at 0x40000 of the first stack, entry position 0. -/
def launchA : Launch := ⟨none, 0, 0, 0, 0, 0, 1, true, false, false, 0, none, 0, 0, 0, 0, 0, 0, BitVec.ofNat 512 (0x40000 + 2 ^ 64)⟩
/-- The module in cycle `x`, its core in state `c`. -/
def taskState (x : Nat) (c : Core) : State := { coreIs c with cyc := x }
/-- A queued task. -/
def queued1 (l : Launch) : Incoming := ⟨l, none, none, false, false, false, [], false, (0, 0)⟩

theorem witness_TaskEvents : mwf Core.idle State.reset.others = true
  ∧ (let q := queued1 launchA
     let s := taskState 0 { Core.idle with queue := [q] }
     preloadIdx (coreAt s 0) = some 0 ∧ s.wchange = [] ∧ 0 < pdTextLen q.l.pd ∧ pdTextLen q.l.pd ≤ 16384 ∧ pdLexCnt q.l.pd = 0
     ∧ (peekGa s (pdText q.l.pd) (2 * pdTextLen q.l.pd)).isSome = true
     ∧ nextQueued (coreAt s 0) = some (0, q) ∧ spadLoadDue s (coreAt s 0) = true ∧ depState (coreAt s 0) q.l = some true
     ∧ mwf none (coreAt s 0).l1 = true)
  ∧ (let l := { launchA with pd := BitVec.ofNat 512 (2 ^ 43 + 2 ^ 64) }
     rangesOk State.reset (codeRanges l) = false ∧ pdTextLen l.pd = 1)
  ∧ (let c := { Core.idle with queue := [queued1 { launchA with dep := true, prev := some (0, 0) }], ends := [(0, 0, false)] }
     depState c { launchA with dep := true, prev := some (0, 0) } = some false ∧ spadLoadDue (taskState 0 c) c = true)
  ∧ (let c := { Core.idle with queue := [queued1 { launchA with pre := false }] }
     spadLoadDue (taskState 0 c) c = true ∧ (nextQueued c).isSome = true) := by decide +kernel

theorem witness_TaskEvents_starts :
  (let q := { queued1 launchA with code := some 5, spad := some 5 }
   startDue false (taskState 5 { Core.idle with queue := [q] }) { Core.idle with queue := [q] } = true)
  ∧ (let q := { queued1 launchA with code := some 5, spad := some 5, isRerun := true }
     startDue true (taskState 5 { Core.idle with queue := [q] }) { Core.idle with queue := [q] } = true)
  ∧ (let x : Susp := ⟨⟨launchA, false, 0, none⟩, 9, none, false, []⟩
     resumeDue (taskState 5 { Core.idle with susp := some x }) { Core.idle with susp := some x } = true)
  ∧ (let x : Susp := ⟨⟨launchA, false, 0, none⟩, 9, some 5, false, []⟩
     let s := taskState 5 { Core.idle with susp := some x }
     s.core.susp = some x ∧ 5 ≤ s.cyc ∧ s.boot.tstop = false ∧ s.core.phase = .idle) := by decide +kernel

theorem witness_TaskEvents_ends :
  (let c := fun (p : BitVec 2) (x : Launch) => { Core.idle with phase := .run, task := some ⟨x, false, 0, some 0⟩, queue := [queued1 { launchA with latep := p, tick := 0 }] }
   let s := taskState 0 (c 2 launchA)
   lateIdx s s.core = some 0 ∧ mayPreempt s.core { launchA with latep := 2, tick := 0 } = true
   ∧ lateIdx (taskState 0 (c 1 launchA)) (c 1 launchA) = some 0
   ∧ overrunDue s s.core = true ∧ s.core.phase = .run ∧ s.core.drainReq = none)
  ∧ (let c := { Core.idle with phase := .run, task := some ⟨{ launchA with pool := some 0 }, false, 0, none⟩
                               queue := [queued1 { launchA with tick := 131072 }] }
     preemptDue (taskState 0 c) c = true)
  ∧ (let c := { Core.idle with phase := .drain, drainWhy := .late, task := some ⟨launchA, false, 0, some 0⟩ }
     overrunDue (taskState 0 c) c = true)
  ∧ ([{ queued1 launchA with failed := true }].find? fun q => q.failed).isSome = true
  ∧ (let c := { Core.idle with phase := .ended, ending := some .done, task := some ⟨launchA, false, 0, none⟩ }
     retireDue (taskState 0 c) 0 c = true)
  ∧ (let l := { launchA with rerun := true }
     let c := { Core.idle with phase := .ended, ending := some (.fault 7), task := some ⟨l, false, 0, none⟩ }
     retireDue (taskState 0 c) 0 c = true ∧ (l.rerun = true ∧ l.pool = none))
  ∧ (let c := { Core.idle with phase := .run, task := some ⟨launchA, false, 0, some 0⟩, drainReq := some ⟨0x20, .late, 0, 0⟩ }
     overrunDue (taskState 0 c) c = true ∧ c.drainReq = some ⟨0x20, .late, 0, 0⟩)
  ∧ (let q := { queued1 { launchA with latep := 1, tick := 0 } with late := false }
     afterRerun { Core.idle with queue := [q] } q.l = false ∧ q.l.latep = 1)
  ∧ (let x : Susp := ⟨⟨launchA, false, 0, none⟩, 9, some 5, true, []⟩
     x.failed = true ∧ (({ Core.idle with susp := some x } : Core).queue.find? fun q => q.failed) = none) := by decide +kernel

/-- The host is released; an entry of cluster 0, core 0 stands at 0x40000, its descriptor at 0x40100. -/
def released0 : State := { State.reset with boot := { State.reset.boot with stage := 15 } }
def entry0 (cls : Nat) : Nat := 2 ^ 72 + cls * 2 ^ 80 + 0x40100 * 2 ^ 128
def walking : State :=
  { released0 with
    mem := (released0.mem.writeBytes 0x40000 (natToBytes 64 (entry0 0))).writeBytes 0x40100 (natToBytes 64 (0x40000 + 2 ^ 64))
    tt := [(0, { Timetable.idle with base := 0x40000, count := 1, run := true, reading := true })] }

theorem witness_SchedulerRegisters : released released0 = true ∧ released0.boot.tstop = false
  ∧ (let t := { Timetable.idle with base := 0x40000, count := 1 }
     t.run = false ∧ 1 ≤ t.count.toNat ∧ t.base.toNat % 64 = 0 ∧ t.cbase.toNat % 32 = 0 ∧ released0.cyc + 1048576 ≤ (1048576 : Word64).toNat)
  ∧ ¬(1 ≤ Timetable.idle.count.toNat)
  ∧ ((ttOf walking 0).run = true ∧ (ttOf walking 0).reading = true ∧ walking.wchange = []
    ∧ readGa walking (0x40000 + 64 * 0) 64 = some (entry0 0) ∧ entry0 0 < 2 ^ 512 ∧ (∀ r ∈ walking.runs, isRun 0 0 0 r = false)
    ∧ entCmask (BitVec.ofNat 512 (entry0 0)) = 2 ^ 0 ∧ entClass (BitVec.ofNat 512 (entry0 0)) ≠ 2 ∧ entryOk 0 (BitVec.ofNat 512 (entry0 0)) = true
    ∧ walking.maps.core.getLsbD 0 = true ∧ readGa walking 0x40100 64 ≠ none
    ∧ descriptorOk walking (launchOf walking 0 0 0 0 0 none (BitVec.ofNat 512 (entry0 0))) = true) := by decide +kernel

theorem witness_SchedulerRegisters_pool :
  (let r : EntryRun := ⟨0, 0, 0, 0, false, 0, 2, BitVec.ofNat 512 (entry0 2), 1, 0, 0, 0, 0, 0, 0, 0, 0, 0, 0, 0, false⟩
   let s := { walking with runs := [r] }
   postDue s 0 = some r ∧ (s.runs.filter (isRun 0 0 0)).length = 1 ∧ r.open_ ≠ 0 ∧ freePool s = some 0)
  ∧ (let s := { walking with cyc := 1, pool := { walking.pool with entries := [(0, BitVec.ofNat 512 (0x40100 * 2 ^ 64 + 2 ^ 361))] } }
     takeDue s = true ∧ firstPool s = some 0 ∧ poolCore s 0 = some 0 ∧ readGa s (poolLaunch s 0 0).pdAddr.toNat 64 ≠ none
     ∧ descriptorOk s (poolLaunch s 0 0) = true ∧ poolV (poolAt s 0) = true ∧ poolTaken (poolAt s 0) = false)
  ∧ poolDone released0 = true ∧ poolDone { released0 with pool := { released0.pool with busyTo := 9 } } = false
  ∧ (0x38018 < 0x100000000 ∧ 0x38018 % 8 = 0 ∧ ownStep 0x38018 0 = false ∧ ownStep 0x1000 0 = false) := by decide +kernel

/-- The module in stage `n` of its start. -/
def inStage0 (n : BitVec 4) : State := { State.reset with boot := { State.reset.boot with stage := n } }

theorem witness_BringUpAndProtection :
  (State.reset.boot.tstop = false ∧ State.reset.boot.stage = 1 ∧ State.reset.boot.failed = false)
  ∧ (∀ hot : Bool, let s := { State.reset with boot := { State.reset.boot with tstop := true, overheat := hot } }
     s.boot.tstop = true ∧ s.boot.overheat = hot)
  ∧ (∀ n : BitVec 4, (inStage0 n).boot.stage = n ∧ (inStage0 n).boot.failed = false)
  ∧ (2 ≤ (inStage0 2).boot.stage.toNat ∧ (inStage0 4).boot.stage.toNat < 5 ∧ (12 : BitVec 4).toNat ≤ 12 ∧ (4095 : BitVec 12).toNat < 2 ^ 12)
  ∧ aloneClock (inStage0 5) = true
  ∧ aloneClock { inStage0 5 with boot := { (inStage0 5).boot with d := 1 } } = false
  ∧ released (inStage0 15) = true ∧ ((0x100 : Word64).extractLsb' 8 2 ≠ 0 ∧ (0 : Word64).extractLsb' 8 2 = 0)
  ∧ ((∀ u ∈ [(⟨.csp 8, false⟩ : UnitRetry), ⟨.die 2, true⟩], stage2Unit u.unit = true) ∧ stackUnit (.stack 5) = true) := by
  refine ⟨by decide, fun _ => ⟨rfl, rfl⟩, fun n => ⟨rfl, rfl⟩, by decide, by decide, by decide, by decide, by decide, by decide⟩

/-- The clock's parent is port 3; its headers have been off 16 times, or 15; it is down; back. -/
theorem witness_BringUpAndProtection_clock :
  let s := fun (n : Nat) => { State.reset with maps := { State.reset.maps with port := 8 },
                                               fab := { State.reset.fab with lock := true, parent := some 3, badOffs := n } }
  ((s 16).fab.lock = true ∧ (s 16).fab.parent = some 3 ∧ 16 ≤ (s 16).fab.badOffs)
  ∧ ((s 15).maps.port.getLsbD 3 = true ∧ (s 15).fab.badOffs < 16)
  ∧ ({ (s 0) with fab := { (s 0).fab with hold := true, backIn := true } }).fab.backIn = true := by decide

/-- A flit of slot 0 that arrives on port 0. -/
def flit0 (b : FlitBody) (dst : Nat) : Flit := ⟨0, 0, 0, 1, 0, 0, 0, dst, 5, 2, b, false, false, false, false⟩
/-- Port 0 of dimension 0 of two modules, group 5 active in generation 2, a timetable in force. -/
def onFabric : State :=
  { released0 with
    maps := { released0.maps with port := 1 }
    fab := { released0.fab with d := 1, groupActive := [(5, true)], groupGen := [(5, 2)], table := some ⟨[sendE], 2, 0⟩ } }

theorem witness_FabricEvents :
  (mwf 0 onFabric.fab.ctr = true ∧ mwf 0 onFabric.fab.groupGen = true ∧ mwf false onFabric.fab.groupActive = true)
  ∧ (let f := flit0 (.copy [(0x40000, [1, 2])] none) 0
     onFabric.maps.port.getLsbD f.port = true ∧ isServ f = false ∧ 88 * f.slot ≤ onFabric.cyc + 3 ∧ onFabric.cyc ≤ 88 * (f.slot + 1) + 24
     ∧ arrivalStatus onFabric f = .ok ∧ onFabric.fab.seenSlot ≤ f.slot ∧ arrivalStatus onFabric { f with gen := 1 } = .stale
     ∧ arrivalStatus onFabric { f with bad := true } = .unc ∧ 0x40000 % 16 + 2 ≤ 16 ∧ f.dst = onFabric.fab.id.toNat ∧ (flit0 f.body 1).dst ≠ 0)
  ∧ (slotDue onFabric = true ∧ (0 : Nat) ≤ onFabric.cyc / 88 ∧ ltSlot sendE = ltIndex ⟨[sendE], 2, 0⟩ 0 ∧ ltKind sendE = kSend ∧ ltFlits sendE = 1)
  ∧ (servTab onFabric 0 = some 0 ∧ localPart onFabric 0x40000 = some 0x40000 ∧ localPart onFabric (2 ^ 44) = none
    ∧ remotePath onFabric 1 = none ∧ (2 ^ 44) / 2 ^ 44 = 1)
  ∧ (let s := { onFabric with fab := { onFabric.fab with table := some ⟨[BitVec.ofNat 128 (2 ^ 15 + kServ * 2 ^ 21)], 1, 0⟩ } }
     passHop s 0 1 = some 0 ∧ queued s (servPort s 0) < 64)
  ∧ (let s := { onFabric with fab := { onFabric.fab with accs := [⟨7, 0, 0, 2 ^ 44, 3, 1, 90, .s 5 3, []⟩] } }
     (s.fab.transit.find? fun t => decide (t.1 = 7)) = none ∧ (s.fab.accs.find? fun a => decide (a.id = 7)).isSome = true
     ∧ (select 0 s).core.memerr = none ∧ isAwaited (select 0 s).core 7 (.s 5 3) = true ∧ s.fab.seenSlot ≤ 0 ∧ s.cyc ≤ 88 * (0 + 1)) := by decide +kernel

theorem witness_FabricEvents_tables :
  (let s := { released0 with maps := { released0.maps with port := 1 }, fab := { released0.fab with ltper := 2, ltcnt := 0 } }
   (ltCheck 1024 s).isSome = true ∧ ltCheck 1023 s = none ∧ ltCheck (2 ^ 64 - 1) s ≠ none)
  ∧ ((1 : Word64).getLsbD 0 = true ∧ onFabric.fab.table ≠ none ∧ released0.fab.table = none)
  ∧ (startingTable { released0 with fab := { released0.fab with pending := [⟨[], 1, 0⟩] } }).isSome = true
  ∧ tableStops { onFabric with fab := { onFabric.fab with stopAt := some 0 } } = true
  ∧ ((0x80 : Byte).getLsbD 7 = true ∧ mget false released0.fab.groupActive 0x3FF = false)
  ∧ (released0.cyc ≤ 88 * (0 : Word64).toNat ∧ 88 * (0 : Word64).toNat < 1) := by decide +kernel

/-- An all-gather of two modules that begins; one whose timetable has ended; one that has sent. -/
theorem witness_CollectiveEvents :
  (let c : Coll := ⟨0, 0, 0, [0, 0, 0, 0, 0, 0, 0, 0], 1, 0, none, [], [], none, 0, 0, 0, true, [], false⟩
   startColl { onFabric with colls := [c] } 0 = some c ∧ (collDescOf c.words).bad { onFabric with colls := [c] } = true
   ∧ cutColl { onFabric with colls := [{ c with cut := true }] } 0 = some { c with cut := true })
  ∧ ([1, 2].length = 2 ^ 1 ∧ [3, 4].length = 2 ^ 1) := by decide +kernel

/-- The same once it has sent: an all-gather (kind 2), and a broadcast (kind 5). -/
def sentC (w : Word64) : Coll :=
  ⟨0, 0, 0, [w, 0, 0, 32, 0, 0, 0, 0], 1, 0, some 0, List.replicate 16 1, [(0x40000, 16), (0x40010, 16)], none, 0, 0, 0, true, [], false⟩
theorem witness_CollectiveEvents_results :
  (∀ a ∈ [0x40000, 0x40010], a % 16 = 0 ∧ place a ≠ .coded ∧ badAddr onFabric a 16 = none ∧ textRefused onFabric a 16 = none)
  ∧ (let s := fun w => { onFabric with colls := [sentC w] }
     (cutColl (s 0x452) 0).isNone = true ∧ (sentColl (s 0x452) 0).isSome = true
     ∧ (cutColl (s 0x455) 0).isNone = true ∧ (sentColl (s 0x455) 0).isSome = true)
  ∧ ((collDescOf (sentC 0x452).words).kind = 2 ∧ contribOk (collDescOf (sentC 0x452).words) [List.replicate 16 1, List.replicate 16 2] = true)
  ∧ ((collDescOf (sentC 0x455).words).kind = 5 ∧ contribOk (collDescOf (sentC 0x455).words) [List.replicate 32 1, List.replicate 32 2] = true)
  ∧ onFabric.wchange = [] := by decide +kernel

/-- An all-gather of 16 bytes each, from 0x40000 to 0x40080, whose page is installed, that begins in the slot of cycle 0. -/
theorem witness_CollectiveEvents_begins :
  let c : Coll := ⟨0, 0, 0, [0x452, 0x40000, 0x40080, 32, 0, 0, 0, 0], 1, 0, none, [], [], none, 0, 0, 0, true, [], false⟩
  let e : TuEntry := ⟨0, 0x40000, 4096, 0x40000, true, true, true⟩
  let s := { onFabric with colls := [c], xlat := mapped.xlat }
  startColl s 0 = some c ∧ (collDescOf c.words).bad s = false ∧ (collDescOf c.words).kind ≠ 3 ∧ (s.xlat.inval.any fun p => p.1 == 0) = false ∧ s.vers = []
  ∧ pieces128 0x40000 (collDescOf c.words).inBytes = [(0x40000, 16)] ∧ pieces128 0x40080 (collDescOf c.words).outBytes = [(0x40080, 32)]
  ∧ tuFind (select 0 s) .core 0 0x40000 = some e ∧ tuAllows (select 0 s) e false = true ∧ localPart (select 0 s) (e.pa + (0x40000 - e.va)) = some 0x40000
  ∧ tuFind (select 0 s) .core 0 0x40080 = some e ∧ tuAllows (select 0 s) e true = true ∧ localPart (select 0 s) (e.pa + (0x40080 - e.va)) = some 0x40080
  ∧ place 0x40000 ≠ .coded ∧ badAddr s 0x40000 16 = none := by decide +kernel

/-- Sent: a reduction of INT32 (kind 0), a reduce-scatter (1) and one with NORM (3), a BX over index bit 0 (4). -/
def sentR (k : Word64) (n : Option Nat) : Coll :=
  ⟨0, 0, 0, [0x400 + 10 * 8 + k, 0, 0, 32, 0, 0, 0, 0], 1, 0, some 0, List.replicate 32 1, [(0x40000, if k = 0 ∨ k = 4 then 32 else 16)], n, 0, 0, 0, true, [], false⟩
theorem witness_CollectiveEvents_reductions :
  (∀ k, k ∈ [0, 1, 3, 4] →
    let c := sentR (BitVec.ofNat 64 k) (if k = 3 then some 0x40040 else none)
    let s := { onFabric with colls := [c] }
    let d := collDescOf c.words
    sentColl s 0 = some c ∧ cutColl s 0 = none ∧ d.kind = k ∧ c.ok = true ∧ contribOk d [List.replicate 32 1, List.replicate 32 2] = true
    ∧ (∀ p ∈ c.dst, p.1 % 16 = 0 ∧ p.2 % 16 = 0 ∧ p.1 % 128 + p.2 ≤ 128 ∧ place p.1 ≠ .coded ∧ badAddr (select 0 s) p.1 p.2 = none
      ∧ textRefused (select 0 s) p.1 p.2 = none)
    ∧ (k = 4 → fmtWidth d.fmt = 32 ∧ c.dst = [(0x40000, d.count)] ∧ d.dims = [0])
    ∧ (k = 3 → c.norm = some 0x40040 ∧ 0x40040 % 8 = 0 ∧ place 0x40040 ≠ .coded ∧ badAddr (select 0 s) 0x40040 8 = none
      ∧ textRefused (select 0 s) 0x40040 8 = none ∧ ∀ p ∈ c.dst, 0x40040 + 8 ≤ p.1 ∨ p.1 + p.2 ≤ 0x40040))
  ∧ onFabric.mem.wf = true ∧ mwf .ok (select 0 onFabric).core.dt = true := by decide +kernel

/-- A TLB entry in invalidation, a walk to begin, one in progress, a failed one; a slice's change due; a flush. -/
theorem witness_MemoryEvents :
  (mwf 0 released0.wmode = true ∧ mwf Region.none released0.region = true)
  ∧ ({ released0 with xlat := { released0.xlat with inval := [(8, 64)] } }.xlat.inval.any fun p => p.1 == 8) = true
  ∧ (let w : Walk := ⟨0, 0x40000, none, none, none, .core⟩
     let s := { released0 with core := { Core.idle with walks := [w] } }
     walkNow (select 0 s).core = none ∧ walkNext (select 0 s).core = some w
     ∧ (let v := { w with ends := some 0 }
        let s := { released0 with core := { Core.idle with walks := [v], raised := some ⟨9, 1, false, false, 0, true⟩, phase := .run } }
        (select 0 s).core.walks = [v] ∧ v.ends = some 0 ∧ 0 ≤ s.cyc ∧ v.bad = none ∧ v.entry = none ∧ (select 0 s).core.handler = false))
  ∧ ((1 : Word64).setWidth 2 ≠ mget 0 released0.wmode 53 ∧ (4 : Word64).setWidth 2 = mget 0 released0.wmode 53)
  ∧ wmodeDue { released0 with wchange := [(53, 2, 0)] } 53 = some 2 ∧ (∀ b ∈ released0.coded, b.dirty = 0)
  ∧ (let s := { released0 with wmode := [(53, 2)], wchange := [(53, 0, 0)] }
     wmodeDue s 53 = some 0 ∧ mget 0 s.wmode 53 = 2)
  ∧ place (0x40000 / 64 * 64) ≠ .coded ∧ (0x40 : Word64).getLsbD 6 = true
  ∧ flushDue { released0 with region := [(63, { Region.none with fbusy := some 0 })] } 63 = true := by decide +kernel

/-- R193–R195. A region of one block of the coded view at its first address, its backing at the start of the first stack, 20 bits a value. -/
def coded1 (bs : List CodedBlock) : State :=
  { released0 with
    region := [(0, { Region.none with lbase := 0x40000000000, len := 4096, pbase := 0x40000, bc := 3, v := true })], coded := bs }

theorem witness_MemoryEvents_coded :
  (let s := coded1 []
   place 0x40000000080 = .coded ∧ blockAt s 0x40000000080 = some (0, 1) ∧ (regionOf s 0).fbusy = none ∧ (∀ b ∈ s.coded, b.entry ≠ 0)
   ∧ findBlock s 0 1 = none ∧ badAddr s (backAddr s 0 1) (regionOf s 0).blockBytes = none
   ∧ (decodeBlock (budgetBits (regionOf s 0).bc.toNat) (s.mem.readBytes (backAddr s 0 1) (regionOf s 0).blockBytes)).isSome = true)
  ∧ (let b : CodedBlock := ⟨0, 1, List.replicate 16 0, 0xFF⟩
     let s := { coded1 [b] with evq := [(0x40000000080 / 64, 3)] }
     findBlock s 0 1 = some b ∧ place (0x40000000080 / 64 * 64) = .coded ∧ blockOfLine s (0x40000000080 / 64) = some (0, b)
     ∧ b.dirty ≠ 0 ∧ badAddr s (backAddr s 0 1) (regionOf s 0).blockBytes = none ∧ b.vals.length = 16 ∧ (regionOf s 0).bc.toNat ≤ 9) := by
  decide +kernel

theorem witness_BlockCodec : (List.replicate 16 (0x7FF0000000000000 : Word64)).length = 16
  ∧ (List.replicate 16 (0x7FF0000000000000 : Word64)).all isFinite64 = false
  ∧ bytesToNat [0xFF, 0x07, 0, 0] % 4096 = 2047 ∧ (List.replicate 16 (-1 : Int)).length = 16 := by decide +kernel

theorem witness_EmptyBundles : State.reset.core.redir = none ∧ (0xFFF : BitVec 12) ≠ 0 ∧ State.reset.core.pc.toNat + 1 < 32768
  ∧ (coreIs { Core.idle with redir := some ⟨32767, .plain⟩ }).core.redir = some ⟨32767, .plain⟩ := by decide

/-- The core stands at a fetch; a pause, an index that is none, a literal at the end of a half, a bundle of one operation. -/
theorem witness_StepRunsDecoded : State.atFetch (State.reset.withFetchWord 16 0xE005) := by
  refine ⟨fun x i rest h => (List.cons_ne_nil _ _ h.symm).elim, ?_⟩; decide +kernel
theorem witness_StepRunsDecoded_index :
  (let s := State.reset.withFetchWord 16 0xE005
   s.core.inQuote = false ∧ decodeIndex (indexAt s s.core.pc.toNat) = .instr (.pause 5))
  ∧ decodeIndex 0x1000 = .illegal ∧ (2048 ≤ 0x7FF ↔ false = true) ∧ (16359 % 16384 + 25 ≤ 16384)
  ∧ (let w := slotPlace 1 (encode (.add gt 1 2 3))
     slotsOf w = [⟨1, slotWord w 1, some (.add gt 1 2 3)⟩] ∧ bundleCause (startBundle State.reset) (slotsOf w) = none) := by
  decide +kernel

theorem witness_DecodeEncode : slotOf (.add gt 63 1 2) = some 1 ∧ (Instr.add gt 63 1 2).wf = true := by decide

theorem witness_canon : State.reset.canon ∧ State.reset.memOk := by
  have h : Core.idle.canon := canon_idle [] [] rfl
  have m : State.reset.memOk := show _ = true by decide +kernel
  refine ⟨⟨h, rfl, fun p hp => (List.not_mem_nil hp).elim, m, ⟨rfl, fun p hp => (List.not_mem_nil hp).elim, rfl, rfl⟩,
    ⟨rfl, rfl, by decide +kernel, rfl, fun p hp => (List.not_mem_nil hp).elim, rfl, rfl⟩, ⟨rfl, rfl, rfl⟩, rfl, rfl, rfl, rfl, rfl⟩, m⟩

/-- From reset there is a step, and with the clock locked it is the next cycle. -/
theorem witness_StepKeeps : (match step State.reset with
    | .next t => decide (t.cyc = 0)
    | _ => false) = true ∧ State.reset.boot.stage ≠ 5 := by decide +kernel
theorem witness_CycNeverStepsBack :
  let s := { State.reset with fab := { State.reset.fab with lock := true } }
  hostDue s = none ∧ dueEvent s = none ∧ turnOf s = none ∧ lastEvent s = none ∧ (match step s with
    | .next t => decide (t.cyc = 1)
    | _ => false) = true := by decide +kernel

end Sys2Proof
end

section
/-! SUPPORT. What a system-register write leaves (R9, R107, R109, R112). -/

namespace Sys2Proof.Machine

/-- R107, R109. What writing `v` to the system register numbered `n` makes of the core `c`: a line for each register that a write
changes, and nothing for every other number. -/
inductive SysWrite (v : Word64) (c : Core) : Nat → Core → Prop
  | sflg : SysWrite v c 0x004 { c with sflg := v.setWidth 5 }
  | trip : SysWrite v c 0x010 (stages { c with trip := v.setWidth 32 })
  | kix : SysWrite v c 0x011 (stages { c with kix := v.setWidth 32 })
  | rawTrip : SysWrite v c 0x1010 { c with trip := v.setWidth 32 }
  | rawKix : SysWrite v c 0x1011 { c with kix := v.setWidth 32 }
  | olc : SysWrite v c 0x012 { c with olc := v.setWidth 32 }
  | rot : SysWrite v c 0x013 { c with rot := v.setWidth 6 }
  | holdc : SysWrite v c 0x014 { c with holdc := v.setWidth 32 }
  | pausec : SysWrite v c 0x015 { c with pausec := v.setWidth 12 }
  | temp : SysWrite v c 0x020 { c with temp := v.setWidth 32 }
  | tinv : SysWrite v c 0x021 { c with tinv := v.setWidth 32 }
  | ckey : SysWrite v c 0x022 { c with ckey := v }
  | cctr : SysWrite v c 0x023 { c with cctr := v }
  | lsc : SysWrite v c 0x024 { c with lsc := v.setWidth 8 }
  | ft {n : Nat} (h : 0x030 ≤ n ∧ n ≤ 0x03F) : SysWrite v c n { c with ft := mset 0 c.ft (n - 0x030) (v &&& 0x1FFF) }
  | tvec : SysWrite v c 0x040 { c with tvec := v.setWidth 15 }
  | tcause : SysWrite v c 0x041 { c with tcause := v.setWidth 8, handler := c.handler && (v.setWidth 8 != 0#8) }
  | tepc : SysWrite v c 0x042 { c with tepc := v.setWidth 15 }
  | tinfo : SysWrite v c 0x043 { c with tinfo := v &&& 0x9FFFFFFFFFFFFFFF }
  | draintab : SysWrite v c 0x044 { c with draintab := v.setWidth 21 }
  | rslim : SysWrite v c 0x045 { c with rslim := v &&& 0x001FFFFF001FFFFF }
  | hot {n : Nat} (h : 0x050 ≤ n ∧ n ≤ 0x057) : SysWrite v c n { c with hot := mset 0 c.hot (n - 0x050) (v &&& 0x8FFF) }
  | other {n : Nat} : SysWrite v c n c

/-- One more number of the table that `applySys` reads from the top. -/
theorem SysWrite.ite {v : Word64} {c x y : Core} {n k : Nat} (hx : SysWrite v c k x) (hy : SysWrite v c n y) :
    SysWrite v c n (if n = k then x else y) := by
  split
  · next h => exact h ▸ hx
  · exact hy

theorem applySys_sysWrite (n : Nat) (v : Word64) (c : Core) : SysWrite v c n (applySys n v c) := by
  unfold applySys
  refine .ite .sflg (.ite .trip (.ite .kix (.ite .rawTrip (.ite .rawKix (.ite .olc (.ite .rot (.ite .holdc (.ite .pausec
    (.ite .temp (.ite .tinv (.ite .ckey (.ite .cctr (.ite .lsc ?_)))))))))))))
  refine iteInduction (motive := SysWrite v c n) .ft fun _ => ?_
  refine .ite .tvec (.ite .tcause (.ite .tepc (.ite .tinfo (.ite .draintab (.ite .rslim ?_)))))
  exact iteInduction (motive := SysWrite v c n) .hot fun _ => .other

/-! ### One clause at a time -/

theorem applySys_ft {n : Nat} (h : 0x030 ≤ n ∧ n ≤ 0x03F) (v : Word64) (c : Core) :
    applySys n v c = { c with ft := mset 0 c.ft (n - 0x030) (v &&& 0x1FFF) } := by
  obtain ⟨h1, h2⟩ := h
  interval_cases n <;> rfl

theorem applySys_hot {n : Nat} (h : 0x050 ≤ n ∧ n ≤ 0x057) (v : Word64) (c : Core) :
    applySys n v c = { c with hot := mset 0 c.hot (n - 0x050) (v &&& 0x8FFF) } := by
  obtain ⟨h1, h2⟩ := h
  interval_cases n <;> rfl

theorem sysValue_ft {n : Nat} (h : 0x030 ≤ n ∧ n ≤ 0x03F) (s : State) : sysValue s n = mget 0 s.core.ft (n - 0x030) := by
  obtain ⟨h1, h2⟩ := h
  interval_cases n <;> rfl

theorem sysValue_hot {n : Nat} (h : 0x050 ≤ n ∧ n ≤ 0x057) (s : State) : sysValue s n = mget 0 s.core.hot (n - 0x050) := by
  obtain ⟨h1, h2⟩ := h
  interval_cases n <;> rfl

/-- Every number but the one written reads as before. -/
theorem SysWrite.sysValue_of_ne {n k : Nat} {v : Word64} {s : State} {c : Core} (h : SysWrite v s.core n c)
    (hft : mwf 0 s.core.ft = true) (hhot : mwf 0 s.core.hot = true) (hn : n < 0x1000) (hk : k ≠ n) :
    sysValue { s with core := c } k = sysValue s k := by
  cases h
  case rawTrip => omega
  case rawKix => omega
  case other => rfl
  case ft hr =>
    by_cases hkr : 0x030 ≤ k ∧ k ≤ 0x03F
    · rw [sysValue_ft hkr, sysValue_ft hkr]
      exact mget_mset_of_ne hft (by omega) _
    · simp only [sysValue, if_neg hkr]
      rfl
  case hot hr =>
    by_cases hkr : 0x050 ≤ k ∧ k ≤ 0x057
    · rw [sysValue_hot hkr, sysValue_hot hkr]
      exact mget_mset_of_ne hhot (by omega) _
    · simp only [sysValue, if_neg hkr]
      rfl
  all_goals
    simp only [sysValue, if_neg hk]
    rfl

theorem SysWrite.handler_of_ne {n : Nat} {v : Word64} {c c' : Core} (h : SysWrite v c n c') (hn : n ≠ 0x041) :
    c'.handler = c.handler := by
  cases h
  case tcause => exact absurd rfl hn
  all_goals rfl

theorem SysWrite.preg_of_ne {n : Nat} {v : Word64} {c c' : Core} (h : SysWrite v c n c') (ht : n ≠ 0x010) (hk : n ≠ 0x011) :
    c'.preg = c.preg := by
  cases h
  case trip => exact absurd rfl ht
  case kix => exact absurd rfl hk
  all_goals rfl

/-- R112. P0–P7 are no stage predicates. -/
theorem mget_stages_low {c : Core} (h : mwf 0 c.preg = true) {j : Nat} (hj : j < 8) :
    mget 0 (stages c).preg j = mget 0 c.preg j :=
  mget_foldl_mset_out (8 + ·) _ _ h fun _ _ => by omega

theorem getLsbD_stageMask (trip kix : Word32) (j : Nat) {l : Nat} (hl : l < 64) :
    (stageMask trip kix j).getLsbD l = decide (j ≤ kix.toNat ∧ kix.toNat - j < trip.toNat) := by
  unfold stageMask
  split
  · next h => rw [BitVec.getLsbD_allOnes, decide_eq_true hl, decide_eq_true h]
  · next h => rw [BitVec.ofNat_eq_ofNat, BitVec.getLsbD_zero, decide_eq_false h]

/-- R112. Stage predicate `j`, lane by lane. -/
theorem getLsbD_stages_high {c : Core} (h : mwf 0 c.preg = true) {j l : Nat} (hj : j < 8) (hl : l < 64) :
    (mget 0 (stages c).preg (8 + j)).getLsbD l = decide (j ≤ c.kix.toNat ∧ c.kix.toNat - j < c.trip.toNat) := by
  have hget : mget 0 (stages c).preg (8 + j) = stageMask c.trip c.kix j :=
    mget_foldl_mset_in (8 + ·) _ List.nodup_range (fun _ _ _ _ => Nat.add_left_cancel) h (List.mem_range.2 hj)
  rw [hget, getLsbD_stageMask _ _ _ hl]

theorem SysWrite.preg_low {n : Nat} {v : Word64} {c c' : Core} (h : SysWrite v c n c') (hp : mwf 0 c.preg = true) {j : Nat}
    (hj : j < 8) : mget 0 c'.preg j = mget 0 c.preg j := by
  cases h
  case trip => exact mget_stages_low (c := { c with trip := v.setWidth 32 }) hp hj
  case kix => exact mget_stages_low (c := { c with kix := v.setWidth 32 }) hp hj
  all_goals rfl

/-- R112. A write of TRIP or of KIX rewrites the stage predicates. -/
theorem applySys_stages {n : Nat} (hn : n = 0x010 ∨ n = 0x011) (v : Word64) {c : Core} (hp : mwf 0 c.preg = true) {j l : Nat}
    (hj : j < 8) (hl : l < 64) : (mget 0 (applySys n v c).preg (8 + j)).getLsbD l =
      decide (j ≤ (applySys n v c).kix.toNat ∧ (applySys n v c).kix.toNat - j < (applySys n v c).trip.toNat) := by
  rcases hn with rfl | rfl
  · exact getLsbD_stages_high (c := { c with trip := v.setWidth 32 }) hp hj hl
  · exact getLsbD_stages_high (c := { c with kix := v.setWidth 32 }) hp hj hl

/-- Settles O14: each clause from what `SysWrite` says a write makes of the core. -/
theorem systemRegisterReadBack : Obligations.SystemRegisterReadBack := by
  intro s n v hft hhot u
  have hw : SysWrite v s.core n u.core := applySys_sysWrite n v s.core
  refine ⟨fun w hm => ?_, fun h1 h2 => ?_, fun h => ?_, fun h => ?_, fun h1 h2 => ?_, fun k hn hk => hw.sysValue_of_ne hft hhot hn hk,
    fun h => ?_, fun hn hp j hj l hl => applySys_stages hn v hp hj hl, hw.handler_of_ne, fun _ => hw.preg_of_ne,
    fun hp j hj => hw.preg_low hp hj, ?_⟩
  · simp only [List.mem_cons, Prod.mk.injEq, List.not_mem_nil, or_false] at hm
    rcases hm with ⟨rfl, rfl⟩ | ⟨rfl, rfl⟩ | ⟨rfl, rfl⟩ | ⟨rfl, rfl⟩ | ⟨rfl, rfl⟩ | ⟨rfl, rfl⟩ | ⟨rfl, rfl⟩ | ⟨rfl, rfl⟩ |
      ⟨rfl, rfl⟩ | ⟨rfl, rfl⟩ | ⟨rfl, rfl⟩ | ⟨rfl, rfl⟩ | ⟨rfl, rfl⟩ | ⟨rfl, rfl⟩
    case inr.inr.inr.inr.inr.inr.inr.inl => exact (BitVec.setWidth_eq v).symm
    all_goals rfl
  · rw [sysValue_ft ⟨h1, h2⟩]
    show mget 0 (applySys n v s.core).ft _ = _
    rw [applySys_ft ⟨h1, h2⟩]
    exact mget_mset_self hft _ _
  · subst h; rfl
  · subst h; rfl
  · rw [sysValue_hot ⟨h1, h2⟩]
    show mget 0 (applySys n v s.core).hot _ = _
    rw [applySys_hot ⟨h1, h2⟩]
    exact mget_mset_self hhot _ _
  · subst h; rfl
  · generalize u.core = c at hw ⊢
    cases hw <;> rfl

end Sys2Proof.Machine
end

section
/-! SUPPORT. The canonical form of the whole state (R8, R134, log 4), as records with a named field for each sparse map, and the laws
that the steps' proofs cite: what writing, dropping and folding keep.

The sections after this one hold one lemma `canon_<f>` for each function `f` that makes a state, in the order of the model: from a
canonical state, and from canonical states of the functions it calls, `f` makes a canonical one. Where `f` answers something beside the
state, the lemma speaks of its answer `r` by an equation (`hr : f … = r`), as `split` finds it. An update of fields that hold no sparse map is
canonical as it stands (`h`); one that writes a map names the field (`Core.Ok.canon { h.ok with … }`). -/

namespace Sys2Proof.Machine

/-! ### Sparse maps -/

/-- What stands in a map after a write stood there before or is what was written. -/
theorem mem_mset {α : Type} [DecidableEq α] {d : α} {m : SMap α} {k : Nat} {v : α} {p : Nat × α}
    (h : p ∈ mset d m k v) : p ∈ m ∨ p = (k, v) := by
  induction m with
  | nil =>
    simp only [mset] at h
    split at h
    · exact .inl h
    · exact .inr (List.mem_singleton.1 h)
  | cons q m ih =>
    obtain ⟨k', v'⟩ := q
    simp only [mset] at h
    split at h
    · split at h
      · exact .inl (List.mem_cons_of_mem _ h)
      · exact (List.mem_cons.1 h).elim .inr fun h => .inl (List.mem_cons_of_mem _ h)
    · split at h
      · split at h
        · exact .inl h
        · exact (List.mem_cons.1 h).elim .inr .inl
      · rcases List.mem_cons.1 h with rfl | h
        · exact .inl List.mem_cons_self
        · exact (ih h).imp_left (List.mem_cons_of_mem _)

/-- A property of every value listed is one of every value written beside them. -/
theorem forall_mem_mset {α : Type} [DecidableEq α] {P : α → Prop} {d : α} {m : SMap α} (h : ∀ p ∈ m, P p.2) (k : Nat) {v : α}
    (hv : P v) : ∀ p ∈ mset d m k v, P p.2 := by
  intro p hp
  rcases mem_mset hp with hp | rfl
  · exact h p hp
  · exact hv

/-- A property of the default and of every value listed is one of whatever is read. -/
theorem mget_keeps {α : Type} {P : α → Prop} {d : α} {m : SMap α} (hd : P d) (h : ∀ p ∈ m, P p.2) (k : Nat) : P (mget d m k) := by
  induction m with
  | nil => exact hd
  | cons q m ih =>
    obtain ⟨k', v'⟩ := q
    simp only [mget]
    split
    · exact h (k', v') List.mem_cons_self
    · split
      · exact hd
      · exact ih fun p hp => h p (List.mem_cons_of_mem _ hp)

theorem mwf_foldl {α ι : Type} [DecidableEq α] {d : α} {f : SMap α → ι → SMap α} {m : SMap α} {l : List ι}
    (hf : ∀ m i, mwf d m = true → mwf d (f m i) = true) (h : mwf d m = true) :
    mwf d (l.foldl f m) = true := by
  induction l generalizing m with
  | nil => exact h
  | cons i l ih => exact ih (hf m i h)

/-- Any number of writes, one after another. -/
theorem mwf_foldl_mset {α ι : Type} [DecidableEq α] {d : α} {k : SMap α → ι → Nat} {v : SMap α → ι → α} {m : SMap α} {l : List ι}
    (h : mwf d m = true) : mwf d (l.foldl (fun m i => mset d m (k m i) (v m i)) m) = true :=
  mwf_foldl (fun _ _ hm => mwf_mset hm _ _) h

theorem mwf_msetMany {α : Type} [DecidableEq α] {d : α} {m : SMap α} (h : mwf d m = true) (l : List (Nat × α)) :
    mwf d (msetMany d m l) = true := mwf_foldl (fun _ p hm => mwf_mset hm p.1 p.2) h

theorem mwf_ite {α : Type} [DecidableEq α] {d : α} {p : Prop} {_ : Decidable p} {m m' : SMap α} (h : mwf d m = true)
    (h' : mwf d m' = true) : mwf d (if p then m else m') = true := by
  split
  · exact h
  · exact h'

theorem mwfFrom_filterMap {α β : Type} [DecidableEq α] [DecidableEq β] {d : α} {e : β} {f : Nat × α → Option (Nat × β)}
    (hf : ∀ p q, p.2 ≠ d → f p = some q → q.1 = p.1 ∧ q.2 ≠ e) {m : SMap α} {lo : Nat} (h : mwfFrom d lo m = true) :
    mwfFrom e lo (m.filterMap f) = true := by
  induction m generalizing lo with
  | nil => rfl
  | cons p m ih =>
    obtain ⟨k, v⟩ := p
    simp only [mwfFrom, Bool.and_eq_true, decide_eq_true_eq] at h
    obtain ⟨⟨hlo, hv⟩, hm⟩ := h
    rw [List.filterMap_cons]
    split
    · exact mwfFrom_le (ih hm) (by omega)
    · next q hq =>
      obtain ⟨hk, hne⟩ := hf (k, v) q hv hq
      obtain ⟨k', v'⟩ := q
      obtain rfl : k' = k := hk
      simp only [mwfFrom, Bool.and_eq_true, decide_eq_true_eq]
      exact ⟨⟨hlo, hne⟩, ih hm⟩

/-- A canonical map stays canonical where each value becomes another one, or goes. -/
theorem mwf_filterMap {α β : Type} [DecidableEq α] [DecidableEq β] {d : α} {e : β} {f : Nat × α → Option (Nat × β)}
    (hf : ∀ p q, p.2 ≠ d → f p = some q → q.1 = p.1 ∧ q.2 ≠ e) {m : SMap α} (h : mwf d m = true) :
    mwf e (m.filterMap f) = true := mwfFrom_filterMap hf h

theorem filter_map_eq_filterMap {α β : Type} [DecidableEq β] (g : Nat → List α → List β) (m : SMap (List α)) :
    ((m.map fun x => (x.1, g x.1 x.2)).filter fun x => decide (x.2 ≠ []))
      = m.filterMap fun x => if g x.1 x.2 = [] then none else some (x.1, g x.1 x.2) := by
  induction m with
  | nil => rfl
  | cons p m ih =>
    rw [List.map_cons, List.filter_cons, List.filterMap_cons, ih]
    by_cases hg : g p.1 p.2 = [] <;> simp [hg]

/-- Values changed, and then the empty ones dropped. -/
theorem mwf_map_filter {α β : Type} [DecidableEq α] [DecidableEq β] (g : Nat → List α → List β) {m : SMap (List α)}
    (h : mwf [] m = true) : mwf [] ((m.map fun x => (x.1, g x.1 x.2)).filter fun x => decide (x.2 ≠ [])) = true := by
  rw [filter_map_eq_filterMap]
  refine mwf_filterMap (fun p q _ hq => ?_) h
  split at hq
  · exact absurd hq (by simp)
  · next hg =>
    obtain rfl := Option.some.inj hq
    exact ⟨rfl, hg⟩

/-! ### The canonical form by its fields -/

/-- Every register file and every record of a core is in its canonical form (`Core.canon`), each under a name. -/
structure Core.Ok (c : Core) : Prop where
  sreg : mwf 0 c.sreg = true
  greg : mwf false c.greg = true
  preg : mwf 0 c.preg = true
  qval : mwf 0 c.qval = true
  qlin : mwf 0 c.qlin = true
  tile : mwf 0 c.tile = true
  lane : mwf 0 c.lane = true
  lflag : mwf 0 c.lflag = true
  macc : mwf 0 c.macc = true
  mfull : mwf false c.mfull = true
  mtag : mwf 0 c.mtag = true
  mf64 : mwf false c.mf64 = true
  sk : mwf 0 c.sk = true
  micro : mwf 0 c.micro = true
  user : mwf none c.user = true
  mp : mwf 0 c.mp = true
  cd : mwf 0 c.cd = true
  dt : mwf .ok c.dt = true
  ft : mwf 0 c.ft = true
  hot : mwf 0 c.hot = true
  l1 : mwf none c.l1 = true
  bold : mwf none c.bold = true
  unfetched : mwf [] c.unfetched = true
  laneSlow : mwf [] c.laneSlow = true
  lanePoison : mwf none c.lanePoison = true
  cursor : mwf 0 c.cursor = true

theorem Core.canon.ok {c : Core} (h : c.canon) : c.Ok := by
  obtain ⟨⟨_, _, _, _, _, _, _, _⟩, ⟨_, _, _, _, _, _, _⟩, ⟨_, _, _, _, _⟩, _, _, _, _, _, _⟩ := h
  constructor <;> assumption

theorem Core.Ok.canon {c : Core} (h : c.Ok) : c.canon :=
  ⟨⟨h.sreg, h.greg, h.preg, h.qval, h.qlin, h.tile, h.lane, h.lflag⟩, ⟨h.macc, h.mfull, h.mtag, h.mf64, h.sk, h.micro, h.user⟩,
    ⟨h.mp, h.cd, h.dt, h.ft, h.hot⟩, h.l1, h.bold, h.unfetched, h.laneSlow, h.lanePoison, h.cursor⟩

/-- Every sparse map of the module is in its canonical form (`State.canon`), each under a name. -/
structure State.Ok (s : State) : Prop where
  core : s.core.canon
  others : mwf Core.idle s.others = true
  parked : ∀ p ∈ s.others, p.2.canon
  mem : s.mem.wf = true
  l2 : mwf L2Set.empty s.l2 = true
  ways : ∀ p ∈ s.l2, mwf none p.2.ways = true
  vers : mwf [] s.vers = true
  slow : mwf [] s.slow = true
  poison : mwf none s.poison = true
  frameTag : mwf 0 s.frameTag = true
  cxlBytes : mwf 0 s.maps.cxlBytes = true
  tt : mwf Timetable.idle s.tt = true
  sel : ∀ p ∈ s.tt, mwf none p.2.sel = true
  entries : mwf 0 s.pool.entries = true
  sigcap : mwf 0 s.sigcap = true
  groupActive : mwf false s.fab.groupActive = true
  groupGen : mwf 0 s.fab.groupGen = true
  ctr : mwf 0 s.fab.ctr = true
  relObjs : mwf false s.relObjs = true
  wmode : mwf 0 s.wmode = true
  bind : mwf Binding.none s.bind = true
  region : mwf Region.none s.region = true
  cctrs : mwf ⟨0, 0, 0, 0⟩ s.cctrs = true

theorem State.canon.ok {s : State} (h : s.canon) : s.Ok := by
  obtain ⟨core, others, parked, mem, ⟨l2, ways, vers, slow⟩, ⟨poison, frameTag, cxl, tt, sel, entries, sigcap⟩,
    ⟨active, gen, ctr⟩, rel, wmode, bind, region, cctrs⟩ := h
  exact ⟨core, others, parked, mem, l2, ways, vers, slow, poison, frameTag, cxl, tt, sel, entries, sigcap, active, gen, ctr, rel,
    wmode, bind, region, cctrs⟩

theorem State.Ok.canon {s : State} (h : s.Ok) : s.canon :=
  ⟨h.core, h.others, h.parked, h.mem, ⟨h.l2, h.ways, h.vers, h.slow⟩,
    ⟨h.poison, h.frameTag, h.cxlBytes, h.tt, h.sel, h.entries, h.sigcap⟩, ⟨h.groupActive, h.groupGen, h.ctr⟩,
    h.relObjs, h.wmode, h.bind, h.region, h.cctrs⟩

theorem State.canon.core {s : State} (h : s.canon) : s.core.canon := h.1

/-- Another canonical core in a canonical state. -/
theorem State.canon.setCore {s : State} {c : Core} (h : s.canon) (hc : c.canon) : State.canon { s with core := c } := ⟨hc, h.2⟩

/-- Other canonical bytes in a canonical state. -/
theorem State.canon.setMem {s : State} {m : Memory} (h : s.canon) (hm : m.wf = true) : State.canon { s with mem := m } :=
  State.Ok.canon { h.ok with mem := hm }

theorem State.canon.ite {p : Prop} {_ : Decidable p} {s t : State} (hs : s.canon) (ht : t.canon) : (if p then s else t).canon := by
  split
  · exact hs
  · exact ht

theorem Core.canon.ite {p : Prop} {_ : Decidable p} {c d : Core} (hc : c.canon) (hd : d.canon) : (if p then c else d).canon := by
  split
  · exact hc
  · exact hd

theorem State.canon.foldl {ι : Type} {f : State → ι → State} {l : List ι} {s : State}
    (hf : ∀ s i, s.canon → (f s i).canon) (h : s.canon) : (l.foldl f s).canon := by
  induction l generalizing s with
  | nil => exact h
  | cons i l ih => exact ih (hf s i h)

theorem Core.canon.foldl {ι : Type} {f : Core → ι → Core} {l : List ι} {c : Core}
    (hf : ∀ c i, c.canon → (f c i).canon) (h : c.canon) : (l.foldl f c).canon := by
  induction l generalizing c with
  | nil => exact h
  | cons i l ih => exact ih (hf c i h)

/-! ### Results that hold a state -/

/-- The next state, where there is one, is canonical. -/
def Res.canon : Res → Prop
  | .next t => t.canon
  | .fault _ => True
  | .refused _ => True

theorem Res.canon.ite {p : Prop} {_ : Decidable p} {r q : Res} (hr : Res.canon r) (hq : Res.canon q) :
    Res.canon (if p then r else q) := by
  split
  · exact hr
  · exact hq

/-- The state that a failing access leaves is canonical; `P` says it of what a success answers. -/
def AccCanon {ε β : Type} (P : β → Prop) : Except (ε × State) β → Prop
  | .error e => e.2.canon
  | .ok b => P b

/-- The state that a failure holds is canonical. -/
def ErrCanon {ε β : Type} : Except (ε × State) β → Prop
  | .error e => e.2.canon
  | .ok _ => True

/-- The state, where there is one, is canonical. -/
def OptCanon : Option State → Prop
  | none => True
  | some t => t.canon

theorem canon_getD {o : Option State} {s : State} (ho : OptCanon o) (h : s.canon) : (o.getD s).canon := by
  cases o with
  | none => exact h
  | some t => exact ho

end Sys2Proof.Machine
end

section
/-! CANONICAL FORM. The state at reset. -/

namespace Sys2Proof.Machine

theorem canon_Core_idle : Core.idle.canon := canon_idle [] [] rfl

theorem canon_State_reset : State.reset.canon :=
  State.Ok.canon ⟨canon_Core_idle, rfl, fun _ hp => absurd hp List.not_mem_nil, rfl, rfl,
    fun _ hp => absurd hp List.not_mem_nil, rfl,
    rfl, rfl, rfl, rfl, rfl, fun _ hp => absurd hp List.not_mem_nil, rfl, rfl, rfl, rfl, rfl, rfl, rfl, rfl, rfl, rfl⟩

end Sys2Proof.Machine
end

section
/-! CANONICAL FORM. State operations: landings, memory writes, L2, traps, cores, the fault log. -/

namespace Sys2Proof.Machine

/-! ### Registers (R108, R111) -/

theorem canon_setTok {n v} {s : State} (h : s.canon) : State.canon (setTok n v s) :=
  .ite h (h.setCore (Core.Ok.canon { h.core.ok with dt := mwf_mset h.core.ok.dt _ _ }))

theorem canon_produceTok {n} {s : State} (h : s.canon) : State.canon (produceTok n s) := canon_setTok h

/-! ### Free values (log 2) -/

theorem canon_spend {k} {s : State} (h : s.canon) : State.canon (spend k s) := h

/-! ### Results in flight (R99–R102) -/

theorem canon_put {lat e} {s : State} (h : s.canon) : State.canon (put lat e s) := h

theorem canon_putMany {lat es} {s : State} (h : s.canon) : State.canon (putMany lat es s) := h

theorem canon_putBounded {b es} {s : State} (h : s.canon) : State.canon (putBounded b es s) := canon_spend h

theorem canon_putS {lat d v} {s : State} (h : s.canon) : State.canon (putS lat d v s) := .ite h (canon_put h)

theorem canon_putG {lat d v} {s : State} (h : s.canon) : State.canon (putG lat d v s) := .ite h (canon_put h)

theorem canon_stages {c : Core} (h : c.canon) : Core.canon (stages c) :=
  Core.Ok.canon { h.ok with preg := mwf_foldl_mset h.ok.preg }

theorem canon_applySys {n v} {c : Core} (h : c.canon) : Core.canon (applySys n v c) := by
  unfold applySys
  refine .ite h (.ite (canon_stages h) (.ite (canon_stages h) ?_))
  iterate 11 refine .ite h ?_
  refine .ite (Core.Ok.canon { h.ok with ft := mwf_mset h.ok.ft _ _ }) ?_
  iterate 6 refine .ite h ?_
  exact .ite (Core.Ok.canon { h.ok with hot := mwf_mset h.ok.hot _ _ }) h

/-! ### Memory writes and landing (R99–R101, R123, R128) -/

/-- R130. The ways of a set of L2 are a canonical map. -/
theorem ways_wf {s : State} (h : s.canon) (k : Nat) : mwf none (mget L2Set.empty s.l2 k).ways = true :=
  mget_keeps (P := fun x : L2Set => mwf none x.ways = true) rfl h.ok.ways k

theorem State.canon.setL2 {s : State} {k : Nat} {x : L2Set} (h : s.canon) (hx : mwf none x.ways = true) :
    State.canon { s with l2 := mset L2Set.empty s.l2 k x } :=
  State.Ok.canon { h.ok with
    l2 := mwf_mset h.ok.l2 _ _
    ways := forall_mem_mset (P := fun x : L2Set => mwf none x.ways = true) h.ok.ways k hx }

theorem canon_l2Drop {die line} {s : State} (h : s.canon) : State.canon (l2Drop die line s) := by
  unfold l2Drop
  extract_lets k x
  split
  · exact h
  · exact h.setL2 (mwf_mset (ways_wf h k) _ _)

theorem canon_l2Twin {die line} {s : State} (h : s.canon) : State.canon (l2Twin die line s) := .ite (canon_l2Drop h) h

theorem canon_l2Line {pol wr die line mask} {s : State} (h : s.canon) : State.canon (l2Line pol wr die line mask s) := by
  unfold l2Line
  extract_lets k x ws put d
  have hput : ∀ w l s, State.canon s → State.canon (put w l s) := fun w l s h => h.setL2 (mwf_mset (ways_wf h k) _ _)
  split
  · exact hput _ _ _ h
  · split
    · exact h
    · split
      · exact hput _ _ _ h
      · exact hput _ _ _ (canon_l2Twin (State.canon.ite h h))

theorem canon_nextAccess {s : State} (h : s.canon) : State.canon (nextAccess s) := .ite h h

theorem canon_l2Touch {pol wr a n} {s : State} (h : s.canon) : State.canon (l2Touch pol wr a n s) :=
  canon_nextAccess (.ite h (.foldl (fun _ _ h3 => canon_l2Line h3) h))

theorem canon_freshen {a n} {s : State} (h : s.canon) : State.canon (freshen a n s) := by
  unfold freshen
  extract_lets gs
  exact State.Ok.canon { h.ok with vers := mwf_foldl_mset h.ok.vers, slow := mwf_foldl_mset h.ok.slow }

theorem canon_noteStore {due g old dirty runs} {s : State} (h : s.canon) : State.canon (noteStore due g old dirty runs s) :=
  State.Ok.canon { h.ok with vers := mwf_mset h.ok.vers _ _, slow := mwf_mset h.ok.slow _ _ }

theorem canon_mapVers {f} {s : State} (h : s.canon) : State.canon (mapVers f s) :=
  State.Ok.canon { h.ok with vers := mwf_map_filter (fun k l => (l.map (f k)).filter _) h.ok.vers }

theorem canon_keepBold {a n} {s : State} (h : s.canon) : State.canon (keepBold a n s) :=
  h.setCore (Core.Ok.canon { h.core.ok with bold := mwf_foldl (fun _ _ hm => mwf_ite (mwf_mset hm _ _) hm) h.core.ok.bold })

theorem canon_memWrite {pol a bs} {s : State} (h : s.canon) : State.canon (memWrite pol a bs s) := by
  unfold memWrite
  extract_lets s1
  have hs1 : State.canon s1 := canon_freshen (canon_l2Touch h)
  clear_value s1
  exact State.Ok.canon { hs1.ok with mem := Memory.writeBytes_wf hs1.ok.mem _ _ }

theorem canon_homeWrite {due a bs} {s : State} (h : s.canon) : State.canon (homeWrite due a bs s) := by
  unfold homeWrite
  extract_lets s1 s2
  have hs1 : State.canon s1 := canon_keepBold (canon_l2Touch h)
  have hs2 : State.canon s2 := .foldl (fun _ _ h2 => canon_noteStore h2) hs1
  exact State.Ok.canon { hs2.ok with mem := Memory.writeBytes_wf hs2.ok.mem _ _ }

theorem mwf_l1Store {ga bs m} (hm : mwf none m = true) : mwf none (l1Store ga bs m) = true := by
  refine mwf_foldl (fun m p hm => ?_) hm
  dsimp only
  split
  · exact hm
  · exact mwf_mset hm _ _

theorem canon_storeBytes {due a bs} {s : State} (h : s.canon) : State.canon (storeBytes due a bs s) := by
  unfold storeBytes
  extract_lets s1
  have hs1 : State.canon s1 := canon_homeWrite h
  exact hs1.setCore (Core.Ok.canon { hs1.core.ok with l1 := mwf_l1Store hs1.core.ok.l1 })

theorem canon_applyEffect {e} {s : State} (h : s.canon) : State.canon (applyEffect e s) := by
  unfold applyEffect
  split
  · exact h.setCore (Core.Ok.canon { h.core.ok with sreg := mwf_mset h.core.ok.sreg _ _ })
  · exact h.setCore (Core.Ok.canon { h.core.ok with greg := mwf_mset h.core.ok.greg _ _ })
  · exact h.setCore (Core.Ok.canon { h.core.ok with tile := mwf_mset h.core.ok.tile _ _ })
  · exact h.setCore (Core.Ok.canon { h.core.ok with preg := mwf_mset h.core.ok.preg _ _ })
  · exact h.setCore (Core.Ok.canon { h.core.ok with preg := mwf_mset h.core.ok.preg _ _ })
  · exact h.setCore (Core.Ok.canon { h.core.ok with qval := mwf_mset h.core.ok.qval _ _, qlin := mwf_mset h.core.ok.qlin _ _ })
  · exact h.setCore (Core.Ok.canon { h.core.ok with mp := mwf_mset h.core.ok.mp _ _ })
  · exact h.setCore (Core.Ok.canon { h.core.ok with cd := mwf_mset h.core.ok.cd _ _ })
  · exact h.setCore (canon_applySys h.core)
  · exact h
  · exact h
  · exact h.setCore (Core.Ok.canon { h.core.ok with lflag := mwf_mset h.core.ok.lflag _ _ })
  · exact h.setCore (Core.Ok.canon { h.core.ok with
      lane := mwf_foldl_mset h.core.ok.lane
      laneSlow := mwf_foldl_mset h.core.ok.laneSlow })
  · exact h.setCore (Core.Ok.canon { h.core.ok with
      lane := mwf_foldl_mset h.core.ok.lane
      laneSlow := mwf_foldl_mset h.core.ok.laneSlow })
  · exact h.setCore (Core.Ok.canon { h.core.ok with dt := mwf_ite h.core.ok.dt (mwf_mset h.core.ok.dt _ _) })
  · exact h
  · exact h
  · exact h

theorem canon_applyFlag {e} {s : State} (h : s.canon) : State.canon (applyFlag e s) := by
  unfold applyFlag
  split
  · exact h
  · exact h.setCore (Core.Ok.canon { h.core.ok with lflag := mwf_mset h.core.ok.lflag _ _ })
  · exact h

theorem canon_landAll {s : State} (h : s.canon) : State.canon (landAll s) :=
  .foldl (fun _ _ h1 => canon_applyFlag h1) (.foldl (fun _ _ h2 => canon_applyEffect h2) h)

/-! ### Traps (R245–R252) -/

theorem canon_raise {code slot detail} {s : State} (h : s.canon) : State.canon (raise code slot detail s) := h

theorem canon_raiseWalk {code slot detail} {s : State} (h : s.canon) : State.canon (raiseWalk code slot detail s) := h

theorem canon_orRaise {slot cs k} {s : State} (hk : ∀ x1, State.canon x1 → State.canon (k x1)) (h : s.canon) :
    State.canon (orRaise slot cs k s) := by
  unfold orRaise
  split
  · exact canon_raise h
  · exact hk _ h

theorem canon_discardBte {s : State} (h : s.canon) : State.canon (discardBte s) := by
  unfold discardBte
  extract_lets s1
  have hs1 : State.canon s1 := .foldl (fun _ _ h2 => canon_setTok h2) h
  exact hs1

theorem canon_endTask {k} {s : State} (h : s.canon) : State.canon (endTask k s) := by
  unfold endTask
  extract_lets s1
  have hs1 : State.canon s1 := .ite h (canon_discardBte h)
  exact hs1

theorem canon_takeCauseAt {t pos x} {s : State} (h : s.canon) : State.canon (takeCauseAt t pos x s) := .ite (canon_endTask h) h

theorem canon_takeCause {x} {s : State} (h : s.canon) : State.canon (takeCause x s) := canon_takeCauseAt h

theorem canon_enterHandler {e} {s : State} (h : s.canon) : State.canon (enterHandler e s) := h

theorem canon_Core_meetError {pos slot code addr} {c : Core} (h : c.canon) :
    Core.canon (Core.meetError pos slot code addr c) := by
  unfold Core.meetError
  split
  · exact h
  · exact h

theorem canon_taskErrorAt {pos slot code addr} {s : State} (h : s.canon) : State.canon (taskErrorAt pos slot code addr s) :=
  h.setCore (canon_Core_meetError h.core)

theorem canon_taskError {slot code addr} {s : State} (h : s.canon) : State.canon (taskError slot code addr s) :=
  canon_taskErrorAt h

/-! ### Current core and the others -/

theorem canon_select {g} {s : State} (h : s.canon) : State.canon (select g s) := by
  unfold select
  split
  · exact h
  · have hp : ∀ p ∈ mset Core.idle s.others s.coreNo s.core, p.2.canon := forall_mem_mset h.ok.parked _ h.core
    exact State.Ok.canon { h.ok with
      core := mget_keeps canon_Core_idle hp g
      others := mwf_mset (mwf_mset h.ok.others _ _) _ _
      parked := forall_mem_mset hp g canon_Core_idle }

theorem canon_modCore {g f} {s : State} (hf : ∀ c, Core.canon c → Core.canon (f c)) (h : s.canon) :
    State.canon (modCore g f s) := by
  unfold modCore
  split
  · exact h.setCore (hf _ h.core)
  · exact State.Ok.canon { h.ok with
      others := mwf_mset h.ok.others _ _
      parked := forall_mem_mset h.ok.parked g (hf _ (mget_keeps canon_Core_idle h.ok.parked g)) }

/-! ### Interrupt messages and the fault log (R65–R67, R426) -/

theorem canon_sendIrq {die kind entry rep} {s : State} (h : s.canon) : State.canon (sendIrq die kind entry rep s) := h

/-! ### Units and fencing (R26, R29, R253) -/

theorem clearUnit_cxlBytes (m : Maps) (u : HwUnit) : (clearUnit m u).cxlBytes = m.cxlBytes := by
  cases u <;> rfl

theorem canon_fenceUnit {u} {s : State} (h : s.canon) : State.canon (fenceUnit u s) :=
  State.Ok.canon { h.ok with cxlBytes := (congrArg (mwf 0) (clearUnit_cxlBytes s.maps u)).trans h.ok.cxlBytes }

theorem canon_passRetry {a} {s : State} (h : s.canon) : State.canon (passRetry a s) :=
  State.Ok.canon { h.ok with poison := mwf_mset h.ok.poison _ _ }

theorem canon_faultLogN {fuel cyc kind die core cause taskId entry tepc info addr} {s : State} (h : s.canon) :
    State.canon (faultLogN fuel cyc kind die core cause taskId entry tepc info addr s) := by
  induction fuel using Nat.strong_induction_on generalizing cyc kind die core cause taskId entry tepc info addr s with
  | _ fuel ih =>
    unfold faultLogN
    extract_lets f lost
    have hlost : State.canon lost := h
    refine .ite h (.ite hlost ?_)
    split
    · exact hlost
    · split
      · extract_lets s1
        have hs1 : State.canon s1 := canon_memWrite h
        exact .ite (canon_sendIrq hs1) hs1
      · refine .ite hlost ?_
        split
        · exact hlost
        · extract_lets b
          split
          · exact hlost
          · split
            · exact hlost
            · exact .ite (ih _ (Nat.lt_succ_self _) (canon_fenceUnit hlost)) (ih _ (Nat.lt_succ_self _) (canon_passRetry hlost))

theorem canon_faultLogAt {cyc kind die core cause taskId entry tepc info addr} {s : State} (h : s.canon) :
    State.canon (faultLogAt cyc kind die core cause taskId entry tepc info addr s) := canon_faultLogN h

theorem canon_faultLog {kind die core cause taskId entry tepc info addr} {s : State} (h : s.canon) :
    State.canon (faultLog kind die core cause taskId entry tepc info addr s) := canon_faultLogAt h

theorem canon_classify {a} {s : State} (h : s.canon) : State.canon (classify a s) := by
  unfold classify
  extract_lets p
  split
  · exact canon_faultLog h
  · exact .ite (canon_faultLog (.ite (canon_fenceUnit h) h)) (canon_faultLog (canon_passRetry h))

end Sys2Proof.Machine
end

section
/-! CANONICAL FORM. Uncorrectable errors and coded regions. -/

namespace Sys2Proof.Machine

/-! ### Residency (R204–R208) -/

theorem canon_putBlock {b} {s : State} (h : s.canon) : State.canon (putBlock b s) := h

theorem canon_dropBlock {i k} {s : State} (h : s.canon) : State.canon (dropBlock i k s) := canon_l2Drop (canon_l2Drop h)

theorem canon_touchBlock {i k install read dirty} {s : State} (h : s.canon) :
    State.canon (touchBlock i k install read dirty s) := by
  unfold touchBlock
  extract_lets die ln line
  have hline : ∀ j s, State.canon s → State.canon (line j s) := by
    intro j s h
    unfold line
    extract_lets d r s1
    have hs1 : State.canon s1 := .ite (canon_l2Line h) (.ite (canon_l2Line h) h)
    exact .ite (canon_l2Line hs1) hs1
  exact canon_nextAccess (hline _ _ (hline _ _ h))

theorem canon_fetchBlock {i k la r} {s : State} (hr : fetchBlock i k la s = r) (h : s.canon) :
    AccCanon (fun b => b.2.2.canon) r := by
  subst hr
  unfold fetchBlock
  split
  · exact h
  · extract_lets r a
    split
    · exact canon_classify h
    · next s2 _ _ =>
        have hs2 : State.canon s2 := canon_l2Touch h
        split
        · exact hs2
        · exact hs2

theorem canon_codedEntry {a r} {s : State} (hr : codedEntry a s = r) (h : s.canon) : ErrCanon r := by
  subst hr
  unfold codedEntry
  split
  · exact canon_classify h
  · split
    · exact h
    · exact trivial

theorem canon_codedBlockRead {a n r} {s : State} (hr : codedBlockRead a n s = r) (h : s.canon) :
    AccCanon (fun b => b.2.canon) r := by
  subst hr
  unfold codedBlockRead
  split
  · next he => exact canon_codedEntry he h
  · split
    · next he => exact canon_fetchBlock he h
    · next he => exact canon_touchBlock (.ite (canon_putBlock (canon_fetchBlock he h)) (canon_fetchBlock he h))

theorem canon_codedRead {a n r} {s : State} (hr : codedRead a n s = r) (h : s.canon) : AccCanon (fun b => b.2.canon) r := by
  subst hr
  unfold codedRead
  split
  · next he =>
      show State.canon _
      exact canon_codedBlockRead he h
  · next he =>
      show State.canon _
      exact canon_codedBlockRead he h

theorem canon_codedWrites {own ws r} {s : State} (hr : codedWrites own ws s = r) (h : s.canon) :
    AccCanon (fun b => b.canon) r := by
  subst hr
  unfold codedWrites
  extract_lets a
  split
  · next he => exact canon_codedEntry he h
  · extract_lets note
    have hnote : ∀ x1 x2, State.canon x2 → State.canon (note x1 x2) := by
      intro x11 s1 h1
      unfold note
      split
      · exact canon_noteStore h1
      · exact canon_freshen h1
    split
    · next s1 _ =>
        have hs1 : State.canon s1 := hnote _ _ h
        exact canon_touchBlock (canon_putBlock hs1)
    · split
      · next he => exact canon_fetchBlock he h
      · next he => exact canon_touchBlock (canon_putBlock (hnote _ _ (canon_fetchBlock he h)))

theorem canon_codedWrite {a bs r} {s : State} (hr : codedWrite a bs s = r) (h : s.canon) : AccCanon (fun b => b.canon) r := by
  subst hr
  exact canon_codedWrites rfl h

/-! ### Writeback and counters (R205, R211–R213) -/

theorem canon_retryAll {a n} {s : State} (h : s.canon) : State.canon (retryAll a n s) := by
  unfold retryAll
  refine .foldl (fun s1 _ h1 => ?_) h
  split
  · exact .ite h1 (canon_classify h1)
  · exact h1

theorem canon_writeBack {b fails r} {s : State} (hr : writeBack b fails s = r) (h : s.canon) : r.1.canon := by
  subst hr
  unfold writeBack
  extract_lets r bits a s0 sl key s1 clean
  have hs0 : State.canon s0 := canon_retryAll h
  have hs1 : State.canon s1 := canon_memWrite (canon_freshen hs0)
  have hclean : ∀ j s, State.canon s → State.canon (clean j s) := by
    intro j s h
    unfold clean
    extract_lets ln key x
    split
    · exact h
    · exact h.setL2 (mwf_mset (ways_wf h _) _ _)
  clear_value s0 s1 clean
  split
  · split
    · exact canon_faultLog (.ite (canon_fenceUnit hs0) hs0)
    · exact hs0
  · exact hclean _ _ (hclean _ _ (canon_putBlock (State.Ok.canon { hs1.ok with cctrs := mwf_mset hs1.ok.cctrs _ _ })))

theorem canon_flushAs {inv b r} {s : State} (hr : flushAs inv b s = r) (h : s.canon) : r.1.canon := by
  subst hr
  unfold flushAs
  split
  · extract_lets r
    have hr : State.canon r.1 := canon_writeBack rfl h
    split
    · exact .ite (canon_dropBlock hr) hr
    · exact hr
  · exact .ite (canon_dropBlock h) h

theorem canon_flushBlock {choose inv i k r} {s : State} (hr : flushBlock choose inv i k s = r) (h : s.canon) : r.1.canon := by
  subst hr
  unfold flushBlock
  split
  · exact h
  · next b _ =>
    extract_lets g cand left
    clear_value left
    split
    · exact canon_flushAs rfl (.ite h (canon_spend h))
    · next v _ =>
      extract_lets r
      have hr : r.1.canon := canon_flushAs rfl (canon_spend h)
      clear_value r
      split
      · exact canon_putBlock hr
      · have hfetch : AccCanon (fun b => b.2.2.canon) (if inv then fetchBlock i k g r.1
            else .ok ({ b with vals := valsOf v.val, dirty := 0 }, false, r.1)) := by
          split
          · exact canon_fetchBlock rfl hr
          · exact hr
        split
        · next he => exact (he ▸ hfetch :)
        · next s1 he =>
          have hs1 : State.canon s1 := by rw [he] at hfetch; exact hfetch
          extract_lets x s2
          have hs2 : State.canon s2 := canon_touchBlock (canon_putBlock hs1)
          clear_value s2
          exact State.Ok.canon { hs2.ok with vers := mwf_mset hs2.ok.vers _ _ }

theorem canon_flushBlocks {choose inv l r} {s : State} (hr : flushBlocks choose inv l s = r) (h : s.canon) : r.1.canon := by
  subst hr
  exact List.foldlRecOn (motive := fun p : State × Bool => p.1.canon) _ _ h fun p hp ik _ =>
    canon_flushBlock (r := flushBlock choose inv ik.1 ik.2 p.1) rfl hp

theorem canon_evictBlock {b fails} {s : State} (h : s.canon) : State.canon (evictBlock b fails s) :=
  .ite (.ite (canon_dropBlock (canon_writeBack rfl h)) (canon_touchBlock (canon_writeBack rfl h))) (canon_dropBlock h)

/-! ### Accesses of devices: walkers, ports, the pool, the Syarri, engines (R14, R135, R144, R193) -/

theorem canon_devRead1 {pol a n r} {s : State} (hr : devRead1 pol a n s = r) (h : s.canon) : AccCanon (fun b => b.2.canon) r := by
  subst hr
  unfold devRead1
  split
  · exact canon_codedRead rfl h
  · split
    · exact canon_classify h
    · exact canon_l2Touch h

theorem canon_devReads {pol ps r} {s : State} (hr : devReads pol ps s = r) (h : s.canon) : AccCanon (fun b => b.2.canon) r := by
  subst hr
  induction ps generalizing s with
  | nil => exact h
  | cons p ps ih =>
    rw [devReads]
    split
    · next he => exact canon_devRead1 he h
    · next he =>
      have h1 := ih (canon_devRead1 he h)
      split
      · next he2 => exact (he2 ▸ h1 :)
      · next he2 => rw [he2] at h1; exact h1

theorem canon_devRead {pol a n r} {s : State} (hr : devRead pol a n s = r) (h : s.canon) : AccCanon (fun b => b.2.canon) r := by
  subst hr
  exact canon_devReads rfl h

end Sys2Proof.Machine
end

section
/-! CANONICAL FORM. Vector destinations and causes. -/

namespace Sys2Proof.Machine

/-! ### Format table (R114) -/

theorem canon_advCctr {b} {s : State} (h : s.canon) : State.canon (advCctr b s) := .ite h h

/-! ### Vector operands (R105, R111, R279, R314) -/

theorem canon_vecWrite {lat f v val} {s : State} (h : s.canon) : State.canon (vecWrite lat f v val s) := canon_putMany h

/-! ### Slots and causes of a V operation -/

theorem canon_notEnabled {event} : Res.canon (notEnabled event) := trivial

theorem canon_fromHost {event r} {s : State} (hr : Res.canon r) : Res.canon (fromHost event s r) := .ite hr canon_notEnabled

theorem canon_guarded {slot cs k} {s : State} (hk : ∀ x1, State.canon x1 → State.canon (k x1)) (h : s.canon) :
    Res.canon (guarded slot cs k s) := canon_orRaise (fun _ h1 => hk _ h1) h

end Sys2Proof.Machine
end

section
/-! CANONICAL FORM. Translation, L1, home reads and writes, remote requests. -/

namespace Sys2Proof.Machine

/-! ### Translation (R136–R141) -/

theorem canon_resolve {slot space wr extra vas more k} {s : State} (hk : ∀ x1 x2, State.canon x2 → State.canon (k x1 x2))
    (h : s.canon) :
    State.canon (resolve slot space wr extra vas more k s) := by
  unfold resolve
  split
  · extract_lets a
    split
    · exact canon_raise h
    · next s1 _ _ =>
        have hs1 : State.canon s1 := canon_spend h
        split
        · exact canon_raiseWalk hs1
        · exact hk _ _ hs1
  · extract_lets good parts
    split
    · exact canon_raise h
    · exact hk _ _ h

/-! ### Bindings (R149–R151) -/

theorem canon_discardBound {o} {s : State} (h : s.canon) : State.canon (discardBound o s) :=
  h.setCore (Core.Ok.canon { h.core.ok with l1 := mwf_filter _ h.core.ok.l1 })

/-! ### Text windows (R76, R96, R413) -/

theorem canon_keepUnfetched {l n} {s : State} (h : s.canon) : State.canon (keepUnfetched l n s) := by
  unfold keepUnfetched
  split
  · exact canon_modCore (fun _ h1 => Core.Ok.canon
      { h1.ok with unfetched := mwf_foldl (fun _ _ hm => mwf_ite hm (mwf_mset hm _ _)) h1.ok.unfetched }) h
  · exact h

/-! ### Home reads and writes -/

theorem mwf_l1Drop {ls m} (hm : mwf none m = true) : mwf none (l1Drop ls m) = true := mwf_filter _ hm

theorem canon_l1Room {line} {s : State} (h : s.canon) : State.canon (l1Room line s) := by
  unfold l1Room
  extract_lets held victim
  exact .ite h (canon_spend (h.setCore (Core.Ok.canon { h.core.ok with l1 := mwf_l1Drop h.core.ok.l1 })))

theorem canon_l1Fill {sec bs} {s : State} (h : s.canon) : State.canon (l1Fill sec bs s) := by
  unfold l1Fill
  extract_lets s1
  have hs1 : State.canon s1 := canon_l1Room h
  exact hs1.setCore (Core.Ok.canon { hs1.core.ok with l1 := mwf_mset hs1.core.ok.l1 _ _ })

theorem canon_l1FillBlock {ga bs} {s : State} (h : s.canon) : State.canon (l1FillBlock ga bs s) :=
  .foldl (fun _ _ h1 => h1.setCore (Core.Ok.canon { h1.core.ok with l1 := mwf_mset h1.core.ok.l1 _ _ }))
    (canon_l1Room (canon_l1Room h))

/-- R128. A sector of L1 fetched again is still held, or none is. -/
theorem mwf_refreshL1 {s : State} {m} (hm : mwf none m = true) : mwf none (refreshL1 s m) = true := by
  refine mwf_filterMap (fun p q _ hq => ?_) hm
  obtain ⟨b, _, rfl⟩ := Option.map_eq_some_iff.1 hq
  exact ⟨rfl, Option.some_ne_none _⟩

theorem Core.canon.refreshL1 {s : State} {c : Core} (h : c.canon) : Core.canon { c with l1 := refreshL1 s c.l1 } :=
  Core.Ok.canon { h.ok with l1 := mwf_refreshL1 h.ok.l1 }

theorem canon_readL1 {l n r} {s : State} (hr : readL1 l n s = r) (h : s.canon) : r.2.canon := by
  subst hr
  unfold readL1
  extract_lets sec fill
  split
  · exact canon_l1Fill (canon_l2Touch h)
  · split
    · exact h
    · split
      · exact canon_spend h
      · exact canon_l1Fill (canon_l2Touch (canon_spend h))

theorem canon_codedLoad {l1 l n r} {s : State} (hr : codedLoad l1 l n s = r) (h : s.canon) : AccCanon (fun b => b.2.canon) r := by
  subst hr
  unfold codedLoad
  extract_lets b ga fetch held
  have hfetch : ∀ s, State.canon s → AccCanon (fun b => b.2.canon) (fetch s) := by
    intro s h
    unfold fetch
    split
    · next he => exact canon_codedBlockRead he h
    · next he =>
      have hs1 := canon_codedBlockRead he h
      exact State.canon.ite (canon_l1FillBlock hs1) hs1
  split
  · split
    · next he => exact canon_codedEntry he h
    · split
      · exact canon_spend h
      · exact hfetch _ (canon_spend h)
  · exact hfetch _ h

/-! ### Units of a write (R146, R208, R398) -/

theorem State.canon.setL1 {s : State} {m} (h : s.canon) (hm : mwf none m = true) :
    State.canon { s with core := { s.core with l1 := m } } := h.setCore (Core.Ok.canon { h.core.ok with l1 := hm })

theorem canon_agentUnit {own pol u r} {s : State} (hr : agentUnit own pol u s = r) (h : s.canon) : r.2.canon := by
  subst hr
  unfold agentUnit
  extract_lets hit
  have hhit : ∀ s, State.canon s → State.canon (hit s) := fun s h =>
    .ite (h.setL1 (mwf_foldl (fun _ _ hm => mwf_l1Store hm) h.core.ok.l1)) h
  split
  · exact h
  · split
    · split
      · next he => exact canon_codedWrites he h
      · next he => exact hhit _ (canon_codedWrites he h)
    · split
      · exact canon_classify h
      · split
        · exact h
        · exact hhit _ (h.foldl fun _ _ h => canon_memWrite (canon_keepUnfetched h))

/-! ### What a core's release covers and waits for (R152–R155, R164) -/

theorem canon_noteRelease {core o} {s : State} (h : s.canon) : State.canon (noteRelease core o s) :=
  canon_mapVers (State.Ok.canon { h.ok with relObjs := mwf_mset h.ok.relObjs _ _ })

theorem canon_dropMessage {id} {s : State} (h : s.canon) : State.canon (dropMessage id s) := h

theorem canon_landPiece {id p} {s : State} (h : s.canon) : State.canon (landPiece id p s) :=
  .ite (canon_agentUnit rfl h) (canon_dropMessage (canon_agentUnit rfl h))

theorem canon_landPayload {id} {s : State} (h : s.canon) : State.canon (landPayload id s) := by
  unfold landPayload
  split
  · exact h
  · exact .foldl (fun _ _ h1 => .ite (canon_landPiece h1) h1) h

theorem canon_flushPayload {o} {s : State} (h : s.canon) : State.canon (flushPayload o s) :=
  .foldl (fun _ _ h1 => canon_landPayload h1) h

/-! ### Transaction barriers (R158–R162) -/

theorem canon_postUpdateOf {u} {s : State} (h : s.canon) : State.canon (postUpdateOf u s) := h

theorem canon_takeUpdate {u} {s : State} (h : s.canon) : State.canon (takeUpdate u s) := by
  unfold takeUpdate
  extract_lets s1
  have hs1 : State.canon s1 := .foldl (fun _ _ h2 => canon_landPayload h2) h
  split
  · exact hs1
  · next s1' s2 _ =>
      have hs1' : State.canon s1' := hs1
      have hs2 : State.canon s2 := canon_memWrite hs1'
      split
      · extract_lets s2'
        have hs2' : State.canon s2' := canon_classify hs1'
        split
        · exact canon_modCore (fun _ h1 => canon_Core_meetError h1) hs2'
        · exact hs2'
      · exact .ite hs2 (canon_noteRelease hs2)

theorem canon_ownUpdates {l n} {s : State} (h : s.canon) : State.canon (ownUpdates l n s) :=
  .foldl (fun _ _ h1 => canon_takeUpdate h1) h

/-! ### Reads and writes of parts -/

theorem canon_readPart {atHome p r} {s : State} (hr : readPart atHome p s = r) (h : s.canon) :
    AccCanon (fun b => b.2.canon) r := by
  subst hr
  unfold readPart
  split
  · exact canon_classify h
  · split
    · exact canon_classify h
    · extract_lets s1
      have hs1 : State.canon s1 := canon_ownUpdates h
      split
      · exact canon_l2Touch hs1
      · split
        · exact canon_readL1 rfl hs1
        · exact canon_l2Touch hs1

theorem canon_writePart {l1 due p bs r} {s : State} (hr : writePart l1 due p bs s = r) (h : s.canon) :
    AccCanon (fun b => b.canon) r := by
  subst hr
  unfold writePart
  split
  · exact canon_classify h
  · split
    · exact canon_classify h
    · exact State.canon.ite (canon_storeBytes (canon_keepUnfetched (canon_ownUpdates h)))
        (canon_homeWrite (canon_keepUnfetched (canon_ownUpdates h)))

theorem canon_recordErr {slot e} {s : State} (h : s.canon) : State.canon (recordErr slot e s) := by
  unfold recordErr
  split
  · exact canon_taskError h
  · exact canon_taskError h

theorem canon_readBlocks {atHome gs r} {s : State} (hr : readBlocks atHome gs s = r) (h : s.canon) :
    AccCanon (fun b => b.2.canon) r := by
  subst hr
  induction gs generalizing s with
  | nil => exact h
  | cons g gs ih =>
    rw [readBlocks]
    split
    · next he => exact canon_codedLoad he h
    · next he =>
      have h2 := ih (canon_codedLoad he h)
      split
      · next he2 => exact (he2 ▸ h2 :)
      · next he2 => rw [he2] at h2; exact h2

theorem canon_readEach {atHome vs ps r} {s : State} (hr : readEach atHome vs ps s = r) (h : s.canon) :
    AccCanon (fun b => b.2.canon) r := by
  subst hr
  induction ps generalizing s with
  | nil => exact h
  | cons p ps ih =>
    rw [readEach]
    split
    · next he =>
      split at he
      · exact canon_readPart he h
      · exact absurd he (by simp)
    · next bs s1 he =>
      have hs1 : State.canon s1 := by
        split at he
        · exact canon_readPart he h
        · obtain ⟨_, rfl⟩ := Prod.mk.inj (Except.ok.inj he)
          exact h
      have h2 := ih hs1
      split
      · next he2 => exact (he2 ▸ h2 :)
      · next he2 => rw [he2] at h2; exact h2

theorem canon_readParts {atHome ps r} {s : State} (hr : readParts atHome ps s = r) (h : s.canon) :
    AccCanon (fun b => b.2.canon) r := by
  subst hr
  unfold readParts
  split
  · next he => exact canon_readBlocks he h
  · next he => exact canon_readEach rfl (canon_readBlocks he h)

theorem canon_writeBlock {l1 ws r} {s : State} (hr : writeBlock l1 ws s = r) (h : s.canon) : AccCanon (fun b => b.canon) r := by
  subst hr
  unfold writeBlock
  split
  · next he => exact canon_codedWrites he h
  · next he =>
      exact .ite (.foldl (fun _ _ h2 => h2.setCore (Core.Ok.canon { h2.core.ok with l1 := mwf_l1Store h2.core.ok.l1 }))
        (canon_codedWrites he h)) (canon_codedWrites he h)

theorem canon_writeParts {slot l1 due ws} {s : State} (h : s.canon) : State.canon (writeParts slot l1 due ws s) := by
  unfold writeParts
  refine .foldl (fun s1 _ h1 => ?_) (.foldl (fun s2 _ h2 => ?_) h)
  · dsimp only
    split
    · next he => exact canon_recordErr (canon_writeBlock he h1)
    · next he => exact canon_writeBlock he h1
  · dsimp only
    split
    · next he => exact canon_recordErr (canon_writePart he h2)
    · next he => exact canon_writePart he h2

/-! ### What a placed access still has to pass (R47, R96, R198) -/

theorem canon_markCoded {b bound} {s : State} (h : s.canon) : State.canon (markCoded b bound s) := .ite h h

/-! ### Remote requests (R34, R47) -/

theorem canon_queueRequest {r} {s : State} (h : s.canon) : State.canon (queueRequest r s) := by
  unfold queueRequest
  split
  · exact .ite (canon_modCore (fun _ h2 => h2) h) h
  · split
    · exact h
    · exact canon_modCore (fun _ h1 => canon_Core_meetError h1) (canon_classify h)

theorem canon_submitRequest {r} {s : State} (h : s.canon) : State.canon (submitRequest r s) := .ite h (canon_queueRequest h)

theorem canon_sendRequest {slot extra ga op dst wr waits} {s : State} (h : s.canon) :
    State.canon (sendRequest slot extra ga op dst wr waits s) := canon_submitRequest h

theorem canon_remoteError {a} {s : State} (h : s.canon) : State.canon (remoteError a s) := by
  unfold remoteError
  split
  · exact h
  · exact canon_taskErrorAt h

end Sys2Proof.Machine
end

section
/-! CANONICAL FORM. What the engines of a core share. -/

namespace Sys2Proof.Machine

theorem canon_pickFor {far mu g cur r} {s : State} (hr : pickFor far mu g cur s = r) (h : s.canon) : r.2.canon := by
  subst hr
  unfold pickFor
  extract_lets vs own alive cand
  split
  · exact h
  · exact canon_spend (canon_mapVers h)

theorem canon_engPick {mu g cur r} {s : State} (hr : engPick mu g cur s = r) (h : s.canon) : r.2.canon := by
  subst hr
  exact canon_pickFor rfl h

theorem canon_viewFor {far mu rs r} {s : State} (hr : viewFor far mu rs s = r) (h : s.canon) : r.1.canon ∧ r.2.canon := by
  subst hr
  unfold viewFor
  extract_lets ks x
  have hx : x.1.wf = true ∧ x.2.canon :=
    List.foldlRecOn (motive := fun a : Memory × State => a.1.wf = true ∧ a.2.canon) _ _ ⟨h.ok.mem, h⟩ fun a ha _ _ =>
      ⟨Memory.writeBytes_wf ha.1 _ _, canon_pickFor rfl ha.2⟩
  exact ⟨hx.2.setMem hx.1, hx.2⟩

theorem canon_engView {mu rs r} {s : State} (hr : engView mu rs s = r) (h : s.canon) : r.1.canon ∧ r.2.canon := canon_viewFor hr h

theorem canon_engBytes {mu a n r} {s : State} (hr : engBytes mu a n s = r) (h : s.canon) : r.2.canon := by
  subst hr
  exact (canon_engView rfl h).2

theorem canon_engWrite {pol a bs} {s : State} (h : s.canon) : State.canon (engWrite pol a bs s) := by
  unfold engWrite
  extract_lets s1
  have hs1 : State.canon s1 := canon_memWrite h
  exact hs1.setCore (Core.Ok.canon { hs1.core.ok with l1 := mwf_l1Store hs1.core.ok.l1 })

theorem canon_engWrites {ws} {s : State} (h : s.canon) : State.canon (engWrites ws s) :=
  .foldl (fun _ _ h1 => canon_engWrite h1) h

theorem canon_engBlock {mu b lo hi r} {s : State} (hr : engBlock mu b lo hi s = r) (h : s.canon) :
    AccCanon (fun b => b.2.canon) r := by
  subst hr
  unfold engBlock
  split
  · next he => exact canon_codedBlockRead he h
  · next he => exact canon_codedBlockRead he h
  · next he => exact canon_engPick rfl (canon_codedBlockRead he h)

theorem canon_engPart {pol mu all c p r} {s : State} (hr : engPart pol mu all c p s = r) (h : s.canon) :
    AccCanon (fun b => b.2.2.canon) r := by
  subst hr
  unfold engPart
  split
  · split
    · exact canon_spend h
    · exact canon_classify h
  · split
    · extract_lets b cut
      split
      · exact h
      · split
        · next he => exact canon_engBlock he h
        · next he => exact canon_engBlock he h
    · split
      · exact canon_classify h
      · exact canon_engBytes rfl (canon_l2Touch h)

theorem canon_engPartsIn {pol mu all c ps r} {s : State} (hr : engPartsIn pol mu all c ps s = r) (h : s.canon) :
    AccCanon (fun b => b.2.2.canon) r := by
  subst hr
  induction ps generalizing c s with
  | nil => exact h
  | cons p ps ih =>
    rw [engPartsIn]
    split
    · next he => exact canon_engPart he h
    · next c1 s1 he =>
      have h2 := ih (c := c1) (canon_engPart he h)
      split
      · next he2 => exact (he2 ▸ h2 :)
      · next he2 => rw [he2] at h2; exact h2

theorem canon_engParts {pol mu ps r} {s : State} (hr : engParts pol mu ps s = r) (h : s.canon) :
    AccCanon (fun b => b.2.canon) r := by
  subst hr
  unfold engParts
  split
  · next he => exact canon_engPartsIn he h
  · next he => exact canon_engPartsIn he h

theorem canon_muViewFor {far rs r} {s : State} (hr : muViewFor far rs s = r) (h : s.canon) :
    AccCanon (fun b => b.1.canon ∧ b.2.canon) r := by
  subst hr
  unfold muViewFor
  split
  · exact canon_classify h
  · exact canon_viewFor rfl h

theorem canon_muView {rs r} {s : State} (hr : muView rs s = r) (h : s.canon) :
    AccCanon (fun b => b.1.canon ∧ b.2.canon) r := canon_muViewFor hr h

theorem canon_spadRows {rows r} {s : State} (hr : spadRows rows s = r) (h : s.canon) : AccCanon (fun b => b.2.canon) r := by
  subst hr
  unfold spadRows
  split
  · next he => exact canon_muView he h
  · next he => exact (canon_muView he h).2

theorem canon_globalRows {owner rows r} {s : State} (hr : globalRows owner rows s = r) (h : s.canon) : r.2.2.canon := by
  subst hr
  unfold globalRows
  extract_lets a ws s1
  have hs1 : State.canon s1 := canon_spend h
  split
  · exact hs1
  · exact hs1
  · split
    · next he => exact canon_engParts he hs1
    · next he => exact canon_engParts he hs1

theorem canon_addWalks {ws} {s : State} (h : s.canon) : State.canon (addWalks ws s) := h

end Sys2Proof.Machine
end

section
/-! CANONICAL FORM. V slots. -/

namespace Sys2Proof.Machine

/-! ### Element-wise arithmetic (R319–R321) -/

theorem canon_vArith {acc rmax useB lf li fop iop v} {s : State} (h : s.canon) :
    Res.canon (vArith acc rmax useB lf li fop iop v s) := canon_guarded (fun _ h1 => canon_advCctr (canon_vecWrite h1)) h

theorem canon_vPlain {useB op v} {s : State} (h : s.canon) : Res.canon (vPlain useB op v s) :=
  canon_guarded (fun _ h1 => canon_vecWrite h1) h

/-! ### Reductions (R189, R190, R322, R334) -/

theorem canon_execVred {v} {s : State} (h : s.canon) : Res.canon (execVred v s) := by
  unfold execVred
  extract_lets f kd
  split
  · split
    · clear_value f kd
      split
      · exact canon_guarded (fun _ h1 => canon_putS (canon_putMany h1)) h
      · exact canon_guarded (fun _ h1 => canon_putMany (canon_putMany h1)) h
    · clear_value f kd
      split
      · exact canon_guarded (fun _ h1 => canon_putS (canon_putMany h1)) h
      · exact canon_guarded (fun _ h1 => canon_putMany (canon_putMany h1)) h
  · split
    · clear_value f kd
      split
      · exact canon_guarded (fun _ h1 => canon_putS (canon_putMany h1)) h
      · exact canon_guarded (fun _ h1 => canon_putMany (canon_putMany h1)) h
    · clear_value f kd
      split
      · exact canon_guarded (fun _ h1 => canon_putS (canon_putMany h1)) h
      · exact canon_guarded (fun _ h1 => canon_putMany (canon_putMany h1)) h

theorem canon_execVsqacc {v} {s : State} (h : s.canon) : Res.canon (execVsqacc v s) :=
  canon_guarded (fun _ h1 => canon_putMany (canon_putMany h1)) h

/-! ### Complex (R170, R323) -/

theorem canon_vCplx {add v} {s : State} (h : s.canon) : Res.canon (vCplx add v s) :=
  canon_guarded (fun _ h1 => canon_advCctr (canon_vecWrite h1)) h

theorem canon_execVconj {v} {s : State} (h : s.canon) : Res.canon (execVconj v s) :=
  canon_guarded (fun _ h1 => canon_vecWrite h1) h

/-! ### Logic and shifts (R324) -/

theorem canon_vLogic {op v} {s : State} (h : s.canon) : Res.canon (vLogic op v s) :=
  canon_guarded (fun _ h1 => canon_vecWrite h1) h

/-! ### Conversion (R325–R329) -/

theorem canon_execVcvt {v} {s : State} (h : s.canon) : Res.canon (execVcvt v s) :=
  canon_guarded (fun _ h1 => canon_advCctr (canon_vecWrite h1)) h

theorem canon_execVqnt {v} {s : State} (h : s.canon) : Res.canon (execVqnt v s) :=
  canon_guarded (fun _ h1 => canon_advCctr (canon_putMany h1)) h

theorem canon_execVdqnt {v} {s : State} (h : s.canon) : Res.canon (execVdqnt v s) :=
  canon_guarded (fun _ h1 => canon_vecWrite h1) h

theorem canon_execVmxq {v} {s : State} (h : s.canon) : Res.canon (execVmxq v s) :=
  canon_guarded (fun _ h1 => canon_advCctr (canon_putMany h1)) h

theorem canon_execVmxd {v} {s : State} (h : s.canon) : Res.canon (execVmxd v s) :=
  canon_guarded (fun _ h1 => canon_advCctr (canon_vecWrite h1)) h

/-! ### Data movement (R330–R333) -/

theorem canon_execVmov {v} {s : State} (h : s.canon) : Res.canon (execVmov v s) := canon_guarded (fun _ h1 => canon_vecWrite h1) h

theorem canon_execVbcast {v} {s : State} (h : s.canon) : Res.canon (execVbcast v s) :=
  canon_guarded (fun _ h1 => canon_vecWrite h1) h

theorem canon_execVperm {v} {s : State} (h : s.canon) : Res.canon (execVperm v s) :=
  canon_guarded (fun _ h1 => canon_vecWrite h1) h

theorem canon_execVbitx {v} {s : State} (h : s.canon) : Res.canon (execVbitx v s) :=
  canon_guarded (fun _ h1 => canon_vecWrite h1) h

theorem canon_execVlane {v} {s : State} (h : s.canon) : Res.canon (execVlane v s) :=
  canon_guarded (fun _ h1 => canon_vecWrite h1) h

theorem canon_execVextr {v} {s : State} (h : s.canon) : Res.canon (execVextr v s) := by
  unfold execVextr
  extract_lets f kd
  clear_value kd f
  split
  · exact canon_guarded (fun _ h1 => .ite (canon_putS h1) h1) h
  · exact canon_guarded (fun _ h1 => .ite h1 h1) h

theorem canon_execVins {v} {s : State} (h : s.canon) : Res.canon (execVins v s) := canon_guarded (fun _ h1 => canon_putMany h1) h

/-! ### Compare, select, flags and random values (R335–R338) -/

theorem canon_execVcmp {v} {s : State} (h : s.canon) : Res.canon (execVcmp v s) := canon_guarded (fun _ h1 => canon_putMany h1) h

theorem canon_execVsel {v} {s : State} (h : s.canon) : Res.canon (execVsel v s) := canon_guarded (fun _ h1 => canon_putMany h1) h

theorem canon_execVflag {v} {s : State} (h : s.canon) : Res.canon (execVflag v s) :=
  canon_guarded (fun _ h1 => .ite (canon_putMany h1) (canon_putMany (canon_putMany h1))) h

theorem canon_execVrnd {v} {s : State} (h : s.canon) : Res.canon (execVrnd v s) :=
  canon_guarded (fun _ h1 => canon_advCctr (canon_putMany h1)) h

end Sys2Proof.Machine
end

section
/-! CANONICAL FORM. Calling a matrix routine. -/

namespace Sys2Proof.Machine

theorem canon_mcall {rtn specOk comp plan m} {s : State} (h : s.canon) : Res.canon (mcall rtn specOk comp plan m s) := by
  unfold mcall
  extract_lets p
  split
  · exact canon_raise h
  · next s1 _ _ _ =>
      have hs1 : State.canon s1 := canon_advCctr (canon_produceTok h)
      exact hs1

theorem canon_mcallSeen {rs rtn specOk plan m} {s : State} (h : s.canon) : Res.canon (mcallSeen rs rtn specOk plan m s) := by
  unfold mcallSeen
  split
  · next he => exact State.Ok.canon { (he ▸ canon_mcall ((canon_viewFor rfl h).1)).ok with mem := h.ok.mem }
  · exact canon_mcall ((canon_viewFor rfl h).1)

theorem canon_clearM {i} {c : Core} (h : c.canon) : Core.canon (clearM i c) :=
  Core.Ok.canon { h.ok with
    macc := mwf_filter _ h.ok.macc
    mfull := mwf_mset h.ok.mfull _ _
    mtag := mwf_mset h.ok.mtag _ _
    mf64 := mwf_mset h.ok.mf64 _ _ }

end Sys2Proof.Machine
end

section
/-! CANONICAL FORM. The dense routines. -/

namespace Sys2Proof.Machine

/-! ### Products (R183, R185, R188) -/

theorem canon_gemmRun {r res} {s : State} (hr : gemmRun r s = res) (h : s.canon) : res.2.2.canon := by
  subst hr
  unfold gemmRun
  extract_lets g aIn scales
  split
  · next he => exact canon_muView he h
  · next he =>
      extract_lets a
      split
      · next x _ =>
          have hx : State.canon x.2.2 := canon_globalRows rfl ((canon_muView he h).2)
          split
          · exact hx
          · exact hx
      · exact (canon_muView he h).2

/-! ### GATE (R361) -/

theorem canon_gateRun {r res} {s : State} (hr : gateRun r s = res) (h : s.canon) : res.2.2.canon := by
  subst hr
  unfold gateRun
  extract_lets x
  split
  · next he => exact canon_muView he h
  · next he => exact (canon_muView he h).2

/-! ### Readout (R362, R363) -/

theorem canon_accrdRun {r res} {s : State} (hr : accrdRun r s = res) (h : s.canon) : res.2.2.canon := by
  subst hr
  exact canon_spend h

theorem canon_accclrRun {r res} {s : State} (hr : accclrRun r s = res) (h : s.canon) : res.2.2.canon := by
  subst hr
  exact h

end Sys2Proof.Machine
end

section
/-! CANONICAL FORM. Sketch accumulators. -/

namespace Sys2Proof.Machine

/-! ### SKINIT (R217) -/

theorem canon_skinitRun {r res} {s : State} (hr : skinitRun r s = res) (h : s.canon) : res.2.2.canon := by
  subst hr
  unfold skinitRun
  extract_lets mp
  split
  · exact canon_classify h
  · exact h

/-! ### SKFOLD (R218) -/

theorem canon_skfoldRun {r res} {s : State} (hr : skfoldRun r s = res) (h : s.canon) : res.2.2.canon := by
  subst hr
  unfold skfoldRun
  extract_lets f d g ins shr used outs
  split
  · next he => exact canon_muView he h
  · exact canon_classify h
  · next he _ => exact (canon_muView he h).2

/-! ### SKSHRINK (R219) -/

theorem canon_skshrinkRun {r res} {s : State} (hr : skshrinkRun r s = res) (h : s.canon) : res.2.2.canon := by
  subst hr
  unfold skshrinkRun
  extract_lets k d
  split
  · exact h
  · split
    · next he => exact canon_muView he h
    · exact canon_classify h
    · next he _ => exact (canon_muView he h).2

/-! ### SKMERGE (R220) -/

theorem canon_skmergeRun {r res} {s : State} (hr : skmergeRun r s = res) (h : s.canon) : res.2.2.canon := by
  subst hr
  unfold skmergeRun
  split
  · next he => exact canon_muViewFor he h
  · exact canon_classify h
  · next he _ => exact (canon_muViewFor he h).2

/-! ### SKRD, SKWR (R221) -/

theorem canon_skrdRun {r res} {s : State} (hr : skrdRun r s = res) (h : s.canon) : res.2.2.canon := by
  subst hr
  unfold skrdRun
  extract_lets x d g
  split
  · exact h
  · split
    · next he => exact canon_muView he h
    · next he => exact (canon_muView he h).2

theorem canon_skwrRun {r res} {s : State} (hr : skwrRun r s = res) (h : s.canon) : res.2.2.canon := by
  subst hr
  exact h

end Sys2Proof.Machine
end

section
/-! CANONICAL FORM. User routines of the matrix unit. -/

namespace Sys2Proof.Machine

/-! ### Calling and loading (R366) -/

theorem canon_loadRun {r res} {s : State} (hr : loadRun r s = res) (h : s.canon) : res.2.2.canon := by
  subst hr
  unfold loadRun
  extract_lets o h1 first n
  split
  · next he => exact canon_muView he h
  · next he =>
      extract_lets ws ok
      split
      · exact (canon_muView he h).2
      · exact (canon_muView he h).2

theorem canon_setLoaded {rtn first n} {c : Core} (h : c.canon) : Core.canon (setLoaded rtn first n c) :=
  Core.Ok.canon { h.ok with user := mwf_mset (mwf_filter _ h.ok.user) _ _ }

/-! ### One microword (R367, R368) -/

theorem canon_uFetch {seq glob rows n fmt passes r} {s : State} (hr : uFetch seq glob rows n fmt passes s = r) (h : s.canon) :
    r.2.2.canon := by
  subst hr
  unfold uFetch
  extract_lets w rs cut
  split
  · next x _ =>
      have hx : State.canon x.2.2 := canon_globalRows rfl h
      split
      · exact h
      · exact hx
  · split
    · exact h
    · split
      · exact h
      · split
        · next he => exact canon_spadRows he h
        · next he => exact canon_spadRows he h

theorem canon_setMacc {l} {s : State} (h : s.canon) : State.canon (setMacc l s) :=
  h.setCore (Core.Ok.canon { h.core.ok with macc := mwf_msetMany h.core.ok.macc _ })

theorem canon_uWrite {ws u r} {s : State} (hr : uWrite ws u s = r) (h : s.canon) : r.2.canon := by
  subst hr
  exact canon_spend (canon_engWrites h)

theorem canon_uVec {o n r} {s : State} (hr : uVec o n s = r) (h : s.canon) : AccCanon (fun b => b.2.canon) r := by
  subst hr
  unfold uVec
  split
  · next he =>
      show State.canon _
      exact canon_spadRows he h
  · next he =>
      show State.canon _
      exact canon_spadRows he h

/-- The state that a microword leaves is canonical. -/
def UStep.canon : UStep → Prop
  | .go _ t => t.canon
  | .ended _ t => t.canon
  | .stop _ _ t => t.canon

theorem canon_uMma {u g} {s : State} (h : s.canon) : (uMma u g s).canon := by
  unfold uMma
  extract_lets acc comp clear fa fb f64 regs stated s0 put nb el els s1 s2
  split
  · exact h
  · have hs0 : State.canon s0 := .ite (h.setCore (h.core.foldl fun _ _ hc => canon_clearM hc)) h
    have hs1 : State.canon s1 := canon_setMacc (.ite hs0 (canon_spend hs0))
    clear_value s1
    exact hs1.setCore (Core.Ok.canon { hs1.core.ok with mf64 := mwf_mset hs1.core.ok.mf64 _ _ })

theorem canon_uElems {u d f} {s : State} (h : s.canon) : (uElems u d f s).canon := canon_setMacc h

theorem canon_uExec {seq u w} {s : State} (h : s.canon) : (uExec seq u w s).canon := by
  unfold uExec
  extract_lets +onlyGivenNames a b g n fm
  split
  · exact h
  · exact h
  · exact h
  · exact h
  · exact h
  · extract_lets rows x
    have hx : x.2.2.canon := canon_uFetch rfl h
    split
    · exact hx
    · exact hx
  · extract_lets cols tr rows x
    have hx : x.2.2.canon := canon_uFetch rfl h
    split
    · exact hx
    · exact canon_addWalks hx
  · exact canon_uMma h
  · exact canon_uElems h
  · extract_lets f nb vs x
    split
    · exact h
    · exact canon_uWrite rfl h
  · exact canon_uElems h
  · split
    · exact h
    · split
      · next he => exact canon_uVec he h
      · next he =>
        have hs1 := canon_uVec he h
        split
        · next he2 => exact canon_uVec he2 hs1
        · next he2 => exact canon_uVec he2 hs1
  · split
    · exact h
    · split
      · next he => exact canon_uVec he h
      · next he => exact canon_uVec he h
  · split
    · exact h
    · split
      · next he => exact canon_uVec he h
      · next he =>
        have hs1 := canon_uVec he h
        split
        · next he2 => exact canon_uVec he2 hs1
        · next he2 => exact canon_uWrite rfl (canon_uVec he2 hs1)
  · exact canon_spend (canon_engWrites h)
  · exact h

end Sys2Proof.Machine
end

section
/-! CANONICAL FORM. Starting, ending and rescaling a routine. -/

namespace Sys2Proof.Machine

/-! ### Ending a routine (R354, R355) -/

theorem canon_removeRtn {r} {s : State} (h : s.canon) : State.canon (removeRtn r s) := h

theorem canon_setRtn {r} {s : State} (h : s.canon) : State.canon (setRtn r s) := h

theorem canon_clearK {k} {c : Core} (h : c.canon) : Core.canon (clearK c k) :=
  Core.Ok.canon { h.ok with sk := mwf_mset h.ok.sk _ _ }

theorem canon_dropRtn {r} {s : State} (h : s.canon) : State.canon (dropRtn r s) := by
  unfold dropRtn
  extract_lets s1
  have hs1 : State.canon s1 := canon_setTok (canon_removeRtn h)
  exact hs1.setCore (.foldl (fun _ _ h2 => canon_clearK h2) (.foldl (fun _ _ h3 => canon_clearM h3) hs1.core))

theorem canon_someWrites {k x} {s : State} (h : s.canon) : State.canon (someWrites k x s) := by
  unfold someWrites
  extract_lets ts s1
  have hs1 : State.canon s1 := canon_engWrites h
  clear_value s1
  exact hs1.setCore (Core.Ok.canon { hs1.core.ok with tile := mwf_msetMany hs1.core.ok.tile _ })

theorem canon_stopRoutine {t} {s : State} (h : s.canon) : State.canon (stopRoutine t s) := by
  unfold stopRoutine
  split
  · exact h
  · exact canon_dropRtn (.ite (canon_spend (canon_someWrites h)) h)

theorem canon_applyResult {r x} {s : State} (h : s.canon) : State.canon (applyResult r x s) := by
  unfold applyResult
  extract_lets c c1 c2
  have hc : Core.canon c := .foldl (fun _ _ h2 => canon_clearM h2) h.core
  have hc1 : Core.canon c1 := Core.Ok.canon { hc.ok with
    tile := mwf_msetMany hc.ok.tile _
    macc := mwf_msetMany hc.ok.macc _
    mfull := mwf_foldl_mset hc.ok.mfull
    mtag := mwf_foldl_mset hc.ok.mtag
    mf64 := mwf_foldl_mset (mwf_ite hc.ok.mf64 (mwf_foldl_mset hc.ok.mf64))
    sk := mwf_msetMany hc.ok.sk _
    micro := mwf_msetMany hc.ok.micro _ }
  have hc2 : Core.canon c2 := by
    unfold c2
    split
    · exact canon_setLoaded hc1
    · exact hc1
  exact canon_engWrites (h.setCore hc2)

/-! ### Starting (R353) -/

/-- One of two runs, each of which leaves a canonical state. -/
theorem run_ite {α β : Type} {p : Prop} {_ : Decidable p} {x y : α × β × State} (hx : x.2.2.canon) (hy : y.2.2.canon) :
    (if p then x else y).2.2.canon := by
  split
  · exact hx
  · exact hy

theorem canon_runOf {r res} {s : State} (hr : runOf r s = res) (h : s.canon) : res.2.2.canon := by
  subst hr
  unfold runOf
  refine run_ite (canon_gemmRun rfl h) (run_ite (canon_gateRun rfl h) (run_ite (canon_accrdRun rfl h) ?_))
  refine run_ite (canon_accclrRun rfl h) (run_ite (canon_skinitRun rfl h) (run_ite (canon_skfoldRun rfl h) ?_))
  refine run_ite (canon_skshrinkRun rfl h) (run_ite (canon_skmergeRun rfl h) (run_ite (canon_skrdRun rfl h) ?_))
  exact run_ite (canon_skwrRun rfl h) (canon_loadRun rfl h)

theorem canon_timingRep {slot tok} {s : State} (h : s.canon) : State.canon (timingRep slot tok s) := h

theorem canon_splitWrites {x r} {s : State} (hr : splitWrites x s = r) (h : s.canon) : r.2.canon := by
  subst hr
  exact canon_engWrites h

theorem canon_startRtn {r} {s : State} (h : s.canon) : State.canon (startRtn r s) := by
  unfold startRtn
  split
  · exact canon_setRtn h
  · refine canon_spend ?_
    split
    · refine canon_someWrites (canon_setRtn ?_)
      split
      · exact canon_splitWrites rfl (canon_addWalks (canon_runOf rfl h))
      · exact canon_addWalks (canon_runOf rfl h)
    · refine canon_setRtn ?_
      split
      · exact canon_splitWrites rfl (canon_addWalks (canon_runOf rfl h))
      · exact canon_addWalks (canon_runOf rfl h)

theorem canon_microStep {r u} {s : State} (h : s.canon) : State.canon (microStep r u s) := by
  unfold microStep
  extract_lets fin
  have hfin : ∀ x d s, State.canon s → State.canon (fin x d s) := fun _ _ _ h => canon_setRtn h
  split
  · exact hfin _ _ _ h
  · next w _ =>
    have hu := canon_uExec (seq := r.seq) (u := { u with pc := u.pc + 1 }) (w := w) h
    split
    · next he => rw [he] at hu; exact canon_spend (canon_setRtn hu)
    · next he => rw [he] at hu; exact hfin _ _ _ hu
    · next he => rw [he] at hu; exact canon_spend (hfin _ _ _ (canon_addWalks hu))

theorem canon_execRoutineStart {core} {s : State} (h : s.canon) : Res.canon (execRoutineStart core s) := by
  unfold execRoutineStart
  extract_lets s1
  have hs1 : State.canon s1 := canon_select h
  split
  · exact canon_notEnabled
  · exact canon_startRtn hs1
  · exact canon_timingRep (canon_setTok (canon_removeRtn hs1))
  · exact canon_microStep hs1

/-! ### Completing (R354, R365) -/

theorem canon_execRoutineComplete {core} {s : State} (h : s.canon) : Res.canon (execRoutineComplete core s) := by
  unfold execRoutineComplete
  extract_lets s1
  have hs1 : State.canon s1 := canon_select h
  split
  · exact canon_notEnabled
  · extract_lets x
    split
    · exact canon_setTok (canon_removeRtn (canon_applyResult (canon_spend hs1)))
    · next s1' _ _ =>
        have hs1' : State.canon s1' := canon_dropRtn hs1
        exact hs1'

/-! ### MSTOP, MSTAT (R355, R356) -/

theorem canon_execMstat {mp clr} {s : State} (h : s.canon) : Res.canon (execMstat mp clr s) := by
  unfold execMstat
  extract_lets s1
  have hs1 : State.canon s1 := canon_put h
  exact State.canon.ite hs1 hs1

theorem canon_execMnop {s : State} (h : s.canon) : Res.canon (execMnop s) := h

/-! ### The loss scale (R191, R192) -/

theorem canon_execMtsLsc {g a} {s : State} (h : s.canon) : Res.canon (execMtsLsc g a s) :=
  .ite (canon_guarded (fun _ h2 => canon_put h2) h) h

theorem canon_rescale {v} {s : State} (h : s.canon) : State.canon (rescale v s) := by
  unfold rescale
  extract_lets +onlyGivenNames c k ms ks mx seen ux dx fl sk ws lat c1
  have hseen : State.canon seen.2 := (canon_engView rfl h).2
  have hsk : mwf 0 sk = true := mwf_foldl_mset h.core.ok.sk
  have hc1 : Core.canon c1 := Core.Ok.canon { h.core.ok with
    macc := mwf_msetMany h.core.ok.macc _
    mtag := mwf_foldl_mset h.core.ok.mtag
    sk := hsk }
  exact canon_put (canon_put (canon_engWrites (canon_spend (hseen.setCore hc1))))

theorem canon_execMtsLscr {g a} {s : State} (h : s.canon) : Res.canon (execMtsLscr g a s) :=
  .ite (canon_guarded (fun _ h2 => canon_rescale h2) h) h

theorem canon_execRescaleComplete {core} {s : State} (h : s.canon) : Res.canon (execRescaleComplete core s) := by
  unfold execRescaleComplete
  extract_lets s1
  have hs1 : State.canon s1 := canon_select h
  clear_value s1
  split
  · exact canon_notEnabled
  · exact .ite canon_notEnabled (canon_engWrites hs1)

end Sys2Proof.Machine
end

section
/-! CANONICAL FORM. S slot: arithmetic, compare, select, floating point. -/

namespace Sys2Proof.Machine

theorem canon_whenG {g k} {s : State} (hk : ∀ x1, State.canon x1 → State.canon (k x1)) (h : s.canon) :
    State.canon (whenG g k s) := .ite (hk _ h) h

theorem canon_sop2 {lat f g d a b} {s : State} (h : s.canon) : State.canon (sop2 lat f g d a b s) :=
  canon_whenG (fun _ h1 => canon_putS h1) h

theorem canon_sop1 {lat f g d a} {s : State} (h : s.canon) : State.canon (sop1 lat f g d a s) :=
  canon_whenG (fun _ h1 => canon_putS h1) h

/-! ### Integer arithmetic and logic (R291–R294) -/

theorem canon_execLui {g d v} {s : State} (h : s.canon) : Res.canon (execLui g d v s) := canon_whenG (fun _ h1 => canon_putS h1) h

/-! ### Compare, select and uniform predicates (R295–R298) -/

theorem canon_execCmp {g d a b cc} {s : State} (h : s.canon) : Res.canon (execCmp g d a b cc s) :=
  canon_whenG (fun _ h1 => canon_putG h1) h

theorem canon_execCmpi {g d a cc imm} {s : State} (h : s.canon) : Res.canon (execCmpi g d a cc imm s) :=
  canon_whenG (fun _ h1 => canon_putG h1) h

theorem canon_execSel {g d a b sel} {s : State} (h : s.canon) : Res.canon (execSel g d a b sel s) :=
  canon_whenG (fun _ h1 => canon_putS h1) h

theorem canon_execGlog {g d a b op} {s : State} (h : s.canon) : Res.canon (execGlog g d a b op s) :=
  canon_whenG (fun _ h1 => canon_putG h1) h

theorem canon_execPuni {g d p} {s : State} (h : s.canon) : Res.canon (execPuni g d p s) :=
  canon_whenG (fun _ h1 => .ite (canon_putG h1) (.ite (canon_putG h1) (canon_raise h1))) h

/-! ### Scalar floating point (R299–R302) -/

theorem canon_putSflg {lat f} {s : State} (h : s.canon) : State.canon (putSflg lat f s) := .ite h (canon_put h)

theorem canon_sfp {lat op g d rnd fmt} {s : State} (h : s.canon) : Res.canon (sfp lat op g d rnd fmt s) :=
  canon_guarded (fun _ h1 => canon_whenG (fun _ h3 => canon_advCctr (canon_putSflg (canon_putS h3))) h1) h

theorem canon_sMinMax {mx g d a b fmt} {s : State} (h : s.canon) : Res.canon (sMinMax mx g d a b fmt s) :=
  canon_guarded (fun _ h1 => canon_whenG (fun _ h3 => canon_putSflg (canon_putS h3)) h1) h

theorem canon_execFcvt {g d a rnd dfmt sfmt sat} {s : State} (h : s.canon) : Res.canon (execFcvt g d a rnd dfmt sfmt sat s) :=
  canon_guarded (fun _ h1 => canon_whenG (fun _ h3 => canon_advCctr (canon_putSflg (canon_putS h3))) h1) h

theorem canon_execFcmp {g d a b cc fmt} {s : State} (h : s.canon) : Res.canon (execFcmp g d a b cc fmt s) :=
  canon_guarded (fun _ h1 => canon_whenG (fun _ h3 => canon_putSflg (canon_putG h3)) h1) h

/-! ### Parameters and descriptors (R311, R312) -/

theorem canon_execMpset {g m a imm} {s : State} (h : s.canon) : Res.canon (execMpset g m a imm s) :=
  canon_whenG (fun _ h1 => canon_put h1) h

theorem canon_execCdset {g n w a} {s : State} (h : s.canon) : Res.canon (execCdset g n w a s) :=
  canon_whenG (fun _ h1 => canon_put h1) h

end Sys2Proof.Machine
end

section
/-! CANONICAL FORM. S slot: loads, stores, atomics, prefetches. -/

namespace Sys2Proof.Machine

theorem canon_prefetchParts {ps} {s : State} (h : s.canon) : State.canon (prefetchParts ps s) := by
  unfold prefetchParts
  extract_lets own s1
  have hs1 : State.canon s1 := canon_markCoded h
  split
  · exact h
  · next he =>
      extract_lets s3
      have hs3 : State.canon s3 := .foldl
        (fun _ _ h2 => .ite (.foldl (fun _ _ h5 => canon_l1Fill h5) (canon_l2Touch h2)) (canon_l2Touch h2))
          (canon_readBlocks he hs1)
      exact .foldl (fun _ _ h1 => canon_sendRequest h1) hs3

theorem canon_prefetch {rs} {s : State} (h : s.canon) : State.canon (prefetch rs s) := by
  unfold prefetch
  split
  · exact h
  · exact .ite (canon_prefetchParts h) h

theorem canon_putSMem {space fixed bound d v} {s : State} (h : s.canon) : State.canon (putSMem space fixed bound d v s) :=
  .ite (canon_putS h) (.ite (canon_put h) (canon_putBounded h))

theorem canon_scalarAccess {space wr va n k} {s : State} (hk : ∀ x1 x2, State.canon x2 → State.canon (k x1 x2)) (h : s.canon) :
    State.canon (scalarAccess space wr va n k s) := by
  unfold scalarAccess
  refine canon_resolve (fun _ s1 h1 => ?_) h
  split
  · exact hk _ _ (canon_markCoded h1)
  · exact h1

theorem canon_ldPart {d width space p} {s : State} (h : s.canon) : State.canon (ldPart d width space p s) := by
  unfold ldPart
  split
  · exact canon_sendRequest h
  · split
    · next he => exact canon_recordErr (canon_readParts he h)
    · next he => exact canon_putSMem (canon_readParts he h)

theorem canon_execLd {g d m off} {s : State} (h : s.canon) : Res.canon (execLd g d m off s) :=
  canon_whenG (fun _ h1 => .ite (.ite (canon_prefetch h1) h1) (canon_scalarAccess (fun _ _ h4 => canon_ldPart h4) h1)) h

theorem canon_stPart {bs p} {s : State} (h : s.canon) : State.canon (stPart bs p s) :=
  .ite (canon_sendRequest h) (canon_writeParts h)

theorem canon_execSt {g b m off} {s : State} (h : s.canon) : Res.canon (execSt g b m off s) :=
  canon_whenG (fun _ h1 => canon_scalarAccess (fun _ _ h3 => canon_stPart h3) h1) h

theorem canon_atomicAt {p f r} {s : State} (hr : atomicAt p f s = r) (h : s.canon) : AccCanon (fun b => b.2.canon) r := by
  subst hr
  unfold atomicAt
  split
  · next he => exact canon_readParts he h
  · next bs s1 he =>
    have hs1 : State.canon s1 := canon_readParts he h
    extract_lets old
    split
    · exact hs1
    · next v _ =>
      extract_lets new
      have hw : AccCanon State.canon (if (codedPart s p).isSome then writeBlock false [(p, new)] s1
          else writePart false none p new s1) := by
        split
        · exact canon_writeBlock rfl hs1
        · exact canon_writePart rfl hs1
      split
      · next he2 => rw [he2] at hw; exact hw
      · next he2 => rw [he2] at hw; exact hw

theorem canon_amoPart {d op f space p} {s : State} (h : s.canon) : State.canon (amoPart d op f space p s) := by
  unfold amoPart
  split
  · exact canon_sendRequest h
  · split
    · next he => exact canon_recordErr (canon_atomicAt he h)
    · next he => exact canon_putSMem (canon_atomicAt he h)

theorem canon_execAmo {g d b m op off} {s : State} (h : s.canon) : Res.canon (execAmo g d b m op off s) :=
  canon_whenG (fun _ h1 => canon_scalarAccess (fun _ _ h3 => canon_amoPart h3) h1) h

theorem canon_execCas {g d b m off} {s : State} (h : s.canon) : Res.canon (execCas g d b m off s) :=
  canon_whenG (fun _ h1 => canon_scalarAccess (fun _ _ h3 => canon_amoPart h3) h1) h

end Sys2Proof.Machine
end

section
/-! CANONICAL FORM. C slots. -/

namespace Sys2Proof.Machine

theorem canon_classifyLane {k} {s : State} (h : s.canon) : State.canon (classifyLane k s) := by
  unfold classifyLane
  extract_lets g
  exact .ite (canon_faultLog (canon_fenceUnit h))
    (canon_faultLog (h.setCore (Core.Ok.canon { h.core.ok with lanePoison := mwf_mset h.core.ok.lanePoison _ _ })))

theorem canon_sliceRead {slot ks k} {s : State} (hk : ∀ x1, State.canon x1 → State.canon (k x1)) (h : s.canon) :
    State.canon (sliceRead slot ks k s) := by
  unfold sliceRead
  split
  · exact canon_recordErr (canon_classifyLane h)
  · exact hk _ h

theorem canon_sliceStore {slot due es} {s : State} (h : s.canon) : State.canon (sliceStore slot due es s) := by
  unfold sliceStore
  refine canon_putMany ?_
  split
  · exact h
  · exact canon_recordErr (canon_classifyLane h)

theorem canon_checked' {slot cs k} {s : State} (hk : ∀ x1, State.canon x1 → State.canon (k x1)) (h : s.canon) :
    State.canon (checked' slot cs k s) := by
  unfold checked'
  split
  · exact canon_raise h
  · exact hk _ h

theorem canon_landLoad {space fixed bound es} {s : State} (h : s.canon) : State.canon (landLoad space fixed bound es s) :=
  .ite (canon_putMany h) (canon_putBounded h)

theorem canon_loadPlaced {c1 space fixed extra eff dstOf ps} {s : State} (h : s.canon) :
    State.canon (loadPlaced c1 space fixed extra eff dstOf ps s) := by
  unfold loadPlaced
  extract_lets slot b offs rem own s1
  have hs1 : State.canon s1 := .foldl (fun _ _ h2 => canon_sendRequest h2) (canon_markCoded h)
  split
  · exact hs1
  · split
    · next he => exact canon_recordErr (canon_readParts he hs1)
    · next he =>
        exact .ite (canon_landLoad (canon_readParts he hs1)) (.foldl (fun _ _ h2 => canon_putBounded h2) (canon_readParts he hs1))

theorem canon_freeOrder {α : Type} {l : List α} {s : State} (h : s.canon) : State.canon (freeOrder l s).2 := canon_spend h

theorem canon_storePlaced {due c1 space data ps} {s : State} (h : s.canon) :
    State.canon (storePlaced due c1 space data ps s) := by
  unfold storePlaced
  extract_lets slot withData rem own s1 o
  have hs1 : State.canon s1 := (canon_markCoded h).foldl fun _ _ h => canon_sendRequest h
  exact canon_writeParts (canon_freeOrder hs1)

theorem canon_transfer {c1 space wr extra vas k} {s : State} (hk : ∀ x1 x2, State.canon x2 → State.canon (k x1 x2))
    (h : s.canon) :
    State.canon (transfer c1 space wr extra vas k s) := canon_resolve (fun _ _ h1 => hk _ _ h1) h

/-! ### LDV, STV -/

theorem canon_execLdv {c1 v b off space} {s : State} (h : s.canon) : Res.canon (execLdv c1 v b off space s) := by
  unfold execLdv
  extract_lets k va
  clear_value k va
  split
  · exact State.canon.ite (.ite (canon_prefetch h) h)
      (.ite (canon_checked' (fun _ h3 => h3) h) (canon_transfer (fun _ _ h3 => canon_loadPlaced h3) h))
  · exact State.canon.ite (canon_checked' (fun _ h2 => canon_sliceRead (fun _ h4 => canon_putMany h4) h2) h)
      (canon_transfer (fun _ _ h2 => canon_loadPlaced h2) h)

theorem canon_execStv {c1 v b off space} {s : State} (h : s.canon) : Res.canon (execStv c1 v b off space s) :=
  State.canon.ite (canon_checked' (fun _ h2 => canon_sliceStore h2) h) (canon_transfer (fun _ _ h2 => canon_storePlaced h2) h)

/-! ### LDVS, STVS, LDX, STX: one element a lane -/

theorem canon_loadLanes {c1 v space fixed tag bad extra addr} {s : State} (h : s.canon) :
    State.canon (loadLanes c1 v space fixed tag bad extra addr s) := by
  unfold loadLanes
  extract_lets k offs
  clear_value k offs
  split
  · exact .ite (.ite (canon_prefetch h) h)
      (.ite (canon_checked' (fun _ h3 => h3) h) (canon_transfer (fun _ _ h3 => canon_loadPlaced h3) h))
  · exact .ite (canon_checked' (fun _ h2 => canon_sliceRead (fun _ h4 => canon_putMany h4) h2) h)
      (canon_transfer (fun _ _ h2 => canon_loadPlaced h2) h)

theorem canon_storeLanes {c1 v space extra addr} {s : State} (h : s.canon) : State.canon (storeLanes c1 v space extra addr s) :=
  .ite (canon_checked' (fun _ h2 => canon_sliceStore h2) h) (canon_transfer (fun _ _ h2 => canon_storePlaced h2) h)

/-! ### LDT, STT: a whole tile -/

theorem canon_execLdt {c1 t b p tag cols space} {s : State} (h : s.canon) : Res.canon (execLdt c1 t b p tag cols space s) := by
  unfold execLdt
  extract_lets adr keys
  exact State.canon.ite (canon_checked' (fun _ h2 => canon_sliceRead (fun _ h4 => canon_putMany h4) h2) h)
    (canon_transfer (fun _ _ h2 => canon_loadPlaced h2) h)

theorem canon_execStt {c1 t b p cols space} {s : State} (h : s.canon) : Res.canon (execStt c1 t b p cols space s) :=
  State.canon.ite (canon_checked' (fun _ h2 => canon_put (canon_sliceStore h2)) h)
    (canon_transfer (fun _ _ h2 => canon_put (canon_storePlaced h2)) h)

/-! ### ARRIVE, EXPECT, TOKCLR -/

theorem canon_onBarrier {slot space wr va k} {s : State} (hk : ∀ x1 x2, State.canon x2 → State.canon (k x1 x2)) (h : s.canon) :
    State.canon (onBarrier slot space wr va k s) := by
  unfold onBarrier
  refine canon_resolve (fun _ s1 h1 => ?_) h
  split
  · exact h1
  · exact hk _ _ h1

theorem canon_barrierOp {c1 a space kind n op} {s : State} (h : s.canon) : State.canon (barrierOp c1 a space kind n op s) := by
  unfold barrierOp
  refine canon_onBarrier (fun _ s1 h1 => ?_) h
  extract_lets waits
  split
  · exact canon_sendRequest h1
  · split
    · exact canon_recordErr (canon_classify h1)
    · exact canon_postUpdateOf (canon_spend h1)

theorem canon_execTokclr {c1 t} {s : State} (h : s.canon) : Res.canon (execTokclr c1 t s) :=
  State.canon.ite h (canon_orRaise (fun _ h2 => canon_put h2) h)

end Sys2Proof.Machine
end

section
/-! CANONICAL FORM. The block-transfer engine. -/

namespace Sys2Proof.Machine

/-! ### Issue (R374, R384) -/

theorem canon_submit {c stoch} {s : State} (h : s.canon) : State.canon (submit c stoch s) := by
  unfold submit
  extract_lets s1
  have hs1 : State.canon s1 := canon_advCctr (canon_produceTok h)
  exact hs1

theorem canon_execCopy {c1 cd time produce k1 k2 k3} {s : State} (h : s.canon) :
    Res.canon (execCopy c1 cd time produce k1 k2 k3 s) := canon_checked' (fun _ h1 => canon_submit h1) h

theorem canon_execCflush {c1 a l inv produce} {s : State} (h : s.canon) : Res.canon (execCflush c1 a l inv produce s) :=
  canon_checked' (fun _ h1 => canon_submit h1) h

theorem canon_execCnop {s : State} (h : s.canon) : Res.canon (execCnop s) := h

/-! ### Starting and writing (R375, R377, R381) -/

theorem canon_engUnits {pol us r} {s : State} (hr : engUnits pol us s = r) (h : s.canon) : r.2.canon := by
  subst hr
  induction us generalizing s with
  | nil => exact h
  | cons u us ih =>
    rw [engUnits]
    split
    · next he => exact canon_agentUnit he h
    · next he => exact ih (canon_agentUnit he h)

theorem canon_tagFrames {fs tag} {s : State} (h : s.canon) : State.canon (tagFrames fs tag s) :=
  State.Ok.canon { h.ok with frameTag := mwf_foldl_mset h.ok.frameTag }

theorem canon_leaveBuffer {c} {s : State} (h : s.canon) : State.canon (leaveBuffer c s) := h

theorem canon_runCmd {r} {s : State} (h : s.canon) : State.canon (runCmd r s) := h

theorem canon_readRows {pol all c rs r} {s : State} (hr : readRows pol all c rs s = r) (h : s.canon) : r.2.canon := by
  subst hr
  induction rs generalizing c s with
  | nil => exact h
  | cons r rs ih =>
    rw [readRows]
    split
    · next he => exact canon_engPartsIn he h
    · next he => exact ih (canon_engPartsIn he h)

theorem canon_startLocal {x whole bound base} {s : State} (h : s.canon) : State.canon (startLocal x whole bound base s) :=
  canon_runCmd (canon_spend h)

theorem canon_startRemote {x whole dest base} {s : State} (h : s.canon) : State.canon (startRemote x whole dest base s) :=
  canon_runCmd h

theorem canon_startCopy {cmd} {s : State} (h : s.canon) : State.canon (startCopy cmd s) := by
  unfold startCopy
  extract_lets c s1 barA lock badSide scA badScale
  have hbarA : State.canon barA := canon_leaveBuffer h
  split
  · exact canon_setTok hbarA
  · next s1' _ _ _ _ =>
      have hs1' : State.canon s1' := canon_addWalks (canon_spend hbarA)
      split
      · exact canon_runCmd hs1'
      · exact .ite (.ite (canon_setTok hs1') (canon_runCmd hs1'))
          (.ite (canon_startRemote (canon_readRows rfl hs1')) (canon_startLocal (canon_readRows rfl hs1')))

/-! ### Landing (R124, R381) -/

theorem canon_landWrite {g r w} {s : State} (h : s.canon) : State.canon (landWrite g r w s) := by
  unfold landWrite
  extract_lets s1 upd left
  have hs1 : State.canon s1 := canon_select h
  split
  · next he => exact canon_agentUnit he hs1
  · next he => exact canon_tagFrames (canon_agentUnit he hs1)

/-! ### CFLUSH (R207, R384, R421) -/

theorem canon_flushLine {inv ln} {s : State} (h : s.canon) : State.canon (flushLine inv ln s) := by
  unfold flushLine
  extract_lets die s1 c k x
  have hs1 : State.canon s1 := canon_l2Drop h
  split
  · exact hs1.setCore (Core.Ok.canon { hs1.core.ok with l1 := mwf_filter _ hs1.core.ok.l1 })
  · split
    · exact h
    · exact h.setL2 (mwf_mset (ways_wf h _) _ _)

theorem canon_discardL1 {i k} {s : State} (h : s.canon) : State.canon (discardL1 s i k) :=
  h.setCore (Core.Ok.canon { h.core.ok with l1 := mwf_filter _ h.core.ok.l1 })

theorem canon_flushSome {inv bs ls r} {s : State} (hr : flushSome inv bs ls s = r) (h : s.canon) : r.2.canon := by
  subst hr
  exact .foldl (fun _ _ h1 => canon_flushLine h1)
    (.ite (.foldl (fun _ _ h3 => canon_discardL1 h3) (canon_flushBlocks rfl h)) (canon_flushBlocks rfl h))

theorem canon_startFlush {cmd} {s : State} (h : s.canon) : State.canon (startFlush cmd s) :=
  .ite (canon_setTok (canon_leaveBuffer h))
    (canon_runCmd (canon_flushSome rfl (canon_spend (canon_addWalks (canon_spend (canon_leaveBuffer h))))))

/-! ### The buffer (R375) -/

theorem canon_pushBack {c} {s : State} (h : s.canon) : State.canon (pushBack c s) := h

theorem canon_execCopyStart {core} {s : State} (h : s.canon) : Res.canon (execCopyStart core s) := by
  unfold execCopyStart
  extract_lets s1
  have hs1 : State.canon s1 := canon_select h
  split
  · exact canon_notEnabled
  · exact State.canon.ite (canon_startFlush (canon_pushBack hs1)) (canon_startCopy (canon_pushBack hs1))
  · exact canon_timingRep (canon_setTok (canon_leaveBuffer hs1))

/-! ### Completing (R161, R380, R381) -/

theorem canon_removeCmd {r} {s : State} (h : s.canon) : State.canon (removeCmd r s) := h

theorem canon_putCrc {r v} {s : State} (h : s.canon) : State.canon (putCrc r v s) :=
  .ite h (h.setCore (Core.Ok.canon { h.core.ok with sreg := mwf_mset h.core.ok.sreg _ _ }))

theorem canon_execCopyComplete {core} {s : State} (h : s.canon) : Res.canon (execCopyComplete core s) := by
  unfold execCopyComplete
  extract_lets s1
  have hs1 : State.canon s1 := canon_select h
  split
  · exact canon_notEnabled
  · refine canon_setTok (canon_removeCmd ?_)
    split
    · split
      · split
        · split
          · split
            · refine canon_putCrc ?_
              split
              · exact canon_classify hs1
              · exact hs1
              · exact hs1
            · split
              · exact canon_classify hs1
              · exact hs1
              · exact hs1
          · split
            · refine canon_putCrc ?_
              split
              · exact canon_classify hs1
              · exact canon_postUpdateOf hs1
              · exact hs1
            · split
              · exact canon_classify hs1
              · exact canon_postUpdateOf hs1
              · exact hs1
        · split
          · split
            · refine canon_putCrc ?_
              split
              · exact canon_classify hs1
              · exact hs1
              · exact hs1
            · split
              · exact canon_classify hs1
              · exact hs1
              · exact hs1
          · split
            · refine canon_putCrc ?_
              split
              · exact canon_classify hs1
              · exact canon_postUpdateOf hs1
              · exact hs1
            · split
              · exact canon_classify hs1
              · exact canon_postUpdateOf hs1
              · exact hs1
      · split
        · split
          · split
            · refine canon_putCrc ?_
              split
              · exact canon_classify hs1
              · exact hs1
              · exact hs1
            · split
              · exact canon_classify hs1
              · exact hs1
              · exact hs1
          · split
            · refine canon_putCrc ?_
              split
              · exact canon_classify hs1
              · exact canon_postUpdateOf hs1
              · exact hs1
            · split
              · exact canon_classify hs1
              · exact canon_postUpdateOf hs1
              · exact hs1
        · split
          · split
            · refine canon_putCrc ?_
              split
              · exact canon_classify hs1
              · exact hs1
              · exact hs1
            · split
              · exact canon_classify hs1
              · exact hs1
              · exact hs1
          · split
            · refine canon_putCrc ?_
              split
              · exact canon_classify hs1
              · exact canon_postUpdateOf hs1
              · exact hs1
            · split
              · exact canon_classify hs1
              · exact canon_postUpdateOf hs1
              · exact hs1
    · split
      · exact canon_classify hs1
      · exact .ite hs1 (canon_postUpdateOf hs1)
      · exact hs1

theorem canon_execCflushComplete {core} {s : State} (h : s.canon) : Res.canon (execCflushComplete core s) := by
  unfold execCflushComplete
  extract_lets s1
  have hs1 : State.canon s1 := canon_select h
  split
  · exact canon_notEnabled
  · exact canon_setTok (canon_removeCmd (canon_flushSome rfl hs1))

/-! ### Barriers (R160) -/

theorem canon_execBarrierUpdate {s : State} (h : s.canon) : Res.canon (execBarrierUpdate s) := by
  unfold execBarrierUpdate
  extract_lets us
  split
  · exact canon_notEnabled
  · exact canon_takeUpdate (canon_spend h)

end Sys2Proof.Machine
end

section
/-! CANONICAL FORM. System registers. -/

namespace Sys2Proof.Machine

theorem canon_execMfs {g d sr} {s : State} (h : s.canon) : Res.canon (execMfs g d sr s) :=
  canon_guarded (fun _ h1 => canon_whenG (fun _ h3 => canon_putS h3) h1) h

theorem canon_execMts {g a sr} {s : State} (h : s.canon) : Res.canon (execMts g a sr s) :=
  canon_guarded (fun _ h1 => canon_whenG (fun _ h3 => canon_put h3) h1) h

theorem canon_execMtsTemp {g a} {s : State} (h : s.canon) : Res.canon (execMtsTemp g a s) :=
  canon_whenG (fun _ h1 => canon_orRaise (fun _ h3 => canon_putMany h3) h1) h

theorem canon_execMtsTripKix {g a kix} {s : State} (h : s.canon) : Res.canon (execMtsTripKix g a kix s) :=
  canon_whenG (fun _ h1 => canon_put h1) h

theorem canon_execMtsHot {g a n} {s : State} (h : s.canon) : Res.canon (execMtsHot g a n s) :=
  canon_whenG (fun _ h1 => canon_put h1) h

theorem canon_execMtsRslim {g a} {s : State} (h : s.canon) : Res.canon (execMtsRslim g a s) :=
  canon_whenG (fun _ h1 => canon_orRaise (fun _ h3 => canon_put h3) h1) h

theorem canon_execMtsTcause {g a} {s : State} (h : s.canon) : Res.canon (execMtsTcause g a s) :=
  canon_whenG (fun _ h1 => canon_put h1) h

theorem canon_execMtsCctr {g a} {s : State} (h : s.canon) : Res.canon (execMtsCctr g a s) :=
  canon_whenG (fun _ h1 => canon_put h1) h

end Sys2Proof.Machine
end

section
/-! CANONICAL FORM. B slot. -/

namespace Sys2Proof.Machine

/-! ### Branches (R394–R396) -/

theorem canon_branchTo {d t} {s : State} (h : s.canon) : State.canon (branchTo d t s) := h

theorem canon_condBranch {g t} {s : State} (h : s.canon) : State.canon (condBranch g t s) := canon_branchTo h

theorem canon_spill {j p} {s : State} (h : s.canon) : State.canon (spill j p s) := canon_homeWrite h

/-- `unspill` is unfolded as a function: with its arguments, the kernel would evaluate the search in `badAddr`. -/
theorem canon_unspill {j r} {s : State} (hr : unspill j s = r) (h : s.canon) : r.2.canon := by
  generalize hf : unspill = f at hr
  delta unspill at hf
  subst hf
  beta_reduce at hr
  extract_lets a at hr
  generalize badAddr s a 8 = o at hr
  cases o with
  | some b => subst hr; exact canon_recordErr (canon_classify h)
  | none => subst hr; exact h

theorem canon_push {p} {s : State} (h : s.canon) : State.canon (push p s) := by
  unfold push
  extract_lets c s1
  have hs1 : State.canon s1 := .ite (canon_spill h) h
  clear_value s1
  exact hs1

theorem canon_execCall {g target} {s : State} (h : s.canon) : Res.canon (execCall g target s) :=
  State.canon.ite (canon_orRaise (fun _ h2 => canon_branchTo (canon_push h2)) h) (canon_branchTo h)

theorem State.canon.setRs {t : State} {rs n} (h : t.canon) :
    State.canon { t with core := { t.core with rs := rs, rsdepth := n } } := h.setCore h.core

theorem canon_pop {r} {s : State} (hr : pop s = r) (h : s.canon) : r.2.canon := by
  subst hr
  unfold pop
  extract_lets +onlyGivenNames c n
  split
  · exact (canon_unspill rfl h).setRs
  · split
    · exact (canon_unspill rfl h).setRs
    · exact h.setRs

theorem canon_execRet {g} {s : State} (h : s.canon) : Res.canon (execRet g s) :=
  State.canon.ite (canon_orRaise (fun _ h2 => canon_branchTo (canon_pop rfl h2)) h) (canon_branchTo h)

/-! ### Hardware loops (R112, R397) -/

theorem canon_execLoop {target} {s : State} (h : s.canon) : Res.canon (execLoop target s) :=
  canon_orRaise (fun _ h1 => canon_branchTo (.ite h1 (canon_put h1))) h

theorem canon_execLoopr {target d} {s : State} (h : s.canon) : Res.canon (execLoopr target d s) :=
  canon_orRaise (fun _ h1 => canon_branchTo (canon_putMany h1)) h

/-! ### BSWAP, IFENCE (R398, R399) -/

theorem canon_execBswap {g target} {s : State} (h : s.canon) : Res.canon (execBswap g target s) :=
  State.canon.ite (canon_orRaise (fun _ h2 => canon_branchTo (canon_spend h2)) h) (canon_branchTo h)

theorem canon_execIfence {g} {s : State} (h : s.canon) : Res.canon (execIfence g s) :=
  State.canon.ite (h.setCore (Core.Ok.canon { h.core.ok with unfetched := mwf_filter _ h.core.ok.unfetched })) h

/-! ### Waits (R401–R405) -/

theorem canon_beginWait {k i} {s : State} (h : s.canon) : State.canon (beginWait k i s) := h

theorem canon_acquire {ga} {s : State} (h : s.canon) : State.canon (acquire ga s) := by
  unfold acquire
  extract_lets s1
  have hs1 : State.canon s1 := canon_discardBound h
  exact .ite hs1 (canon_mapVers (hs1.setCore hs1.core.refreshL1))

theorem canon_seenAt {x bound r} {s : State} (hr : seenAt s x bound = r) (h : s.canon) : r.2.canon := by
  subst hr
  unfold seenAt
  split
  · exact h
  · exact canon_spend h

theorem canon_execWaitb {g a gen space} {s : State} (h : s.canon) : Res.canon (execWaitb g a gen space s) := by
  unfold execWaitb
  split
  · refine canon_onBarrier (fun _ s1 h1 => ?_) h
    split
    · exact canon_beginWait (canon_sendRequest h1)
    · split
      · exact canon_recordErr (canon_classify h1)
      · exact .ite (canon_beginWait (canon_seenAt rfl h1)) (canon_beginWait h1)
  · exact h

theorem canon_execWaitt {g t} {s : State} (h : s.canon) : Res.canon (execWaitt g t s) := State.canon.ite (canon_beginWait h) h

theorem canon_execWaitc {g a n} {s : State} (h : s.canon) : Res.canon (execWaitc g a n s) := State.canon.ite (canon_beginWait h) h

theorem canon_execHold {g a n} {s : State} (h : s.canon) : Res.canon (execHold g a n s) :=
  State.canon.ite (canon_orRaise (fun _ h2 => canon_put h2) h) h

/-! ### Endings and traps (R246, R249, R258, R407) -/

theorem canon_execDone {g} {s : State} (h : s.canon) : Res.canon (execDone g s) := State.canon.ite (canon_endTask h) h

theorem canon_execTrap {g e} {s : State} (h : s.canon) : Res.canon (execTrap g e s) :=
  canon_orRaise (fun _ h1 => .ite h1 (.ite (canon_endTask h1) (canon_raise h1))) h

theorem canon_execEbreak {g e} {s : State} (h : s.canon) : Res.canon (execEbreak g e s) :=
  canon_orRaise (fun _ h1 => .ite (canon_raise h1) h1) h

theorem canon_suspend {stub} {s : State} (h : s.canon) : State.canon (suspend stub s) := by
  unfold suspend
  split
  · exact h
  · exact h

theorem canon_yieldEnds {stub} {s : State} (h : s.canon) : State.canon (yieldEnds stub s) := by
  unfold yieldEnds
  split
  · exact canon_endTask h
  · exact canon_endTask h
  · exact canon_suspend (canon_discardBte h)
  · exact .ite (canon_endTask h) (canon_suspend (canon_discardBte h))

theorem canon_execYield {g target} {s : State} (h : s.canon) : Res.canon (execYield g target s) :=
  canon_orRaise (fun _ h1 => .ite h1 (canon_orRaise (fun _ h4 => canon_yieldEnds h4) h1)) h

/-! ### SAVEX, RESTX (R256, R257, R408, R409) -/

theorem canon_spillAll {s : State} (h : s.canon) : State.canon (spillAll s) := by
  unfold spillAll
  extract_lets c h1 s1
  have hs1 : State.canon s1 := .foldl (fun _ _ h2 => canon_spill h2) h
  clear_value s1
  exact hs1

theorem canon_execSavex {g a} {s : State} (h : s.canon) : Res.canon (execSavex g a s) := by
  unfold execSavex
  split
  · refine canon_orRaise (fun s1 h1 => ?_) h
    split
    · exact canon_recordErr (canon_classify h1)
    · exact canon_put (canon_homeWrite (canon_spillAll (canon_spend h1)))
  · exact h

theorem canon_execRestx {g a} {s : State} (h : s.canon) : Res.canon (execRestx g a s) := by
  unfold execRestx
  split
  · refine canon_orRaise (fun s1 h1 => ?_) h
    split
    · exact canon_recordErr (canon_classify h1)
    · exact canon_orRaise (fun _ h2 => canon_branchTo (canon_putMany h2)) h1
  · exact canon_branchTo h

/-! ### ACQ, REL, FENCE (R152–R156, R410, R411) -/

theorem canon_objectOp {a space k} {s : State} (hk : ∀ x1 x2, State.canon x2 → State.canon (k x1 x2)) (h : s.canon) :
    State.canon (objectOp a space k s) := by
  unfold objectOp
  refine canon_resolve (fun _ s1 h1 => ?_) h
  split
  · exact h1
  · exact hk _ _ h1

theorem canon_execAcq {g a space} {s : State} (h : s.canon) : Res.canon (execAcq g a space s) :=
  State.canon.ite (canon_objectOp (fun _ _ h2 => canon_acquire h2) h) h

theorem canon_releaseObj {o} {s : State} (h : s.canon) : State.canon (releaseObj o s) := by
  unfold releaseObj
  refine canon_noteRelease (.foldl (fun s2 _ h2 => ?_) (canon_flushPayload h))
  split
  · exact canon_ownUpdates h2
  · exact h2

theorem canon_execRel {g a space} {s : State} (h : s.canon) : Res.canon (execRel g a space s) :=
  State.canon.ite (canon_objectOp (fun _ _ h2 => canon_releaseObj h2) h) h

theorem canon_fenceEngines {s : State} (h : s.canon) : State.canon (fenceEngines s) := by
  unfold fenceEngines
  extract_lets dead s1
  have hs1 : State.canon s1 := canon_mapVers h
  exact hs1

theorem canon_fenceScope {scope} {s : State} (h : s.canon) : State.canon (fenceScope scope s) := by
  unfold fenceScope
  extract_lets s1
  have hs1 : State.canon s1 := canon_ownUpdates (canon_flushPayload h)
  clear_value s1
  exact .ite hs1 (canon_mapVers (hs1.setCore (Core.Ok.canon { hs1.core.ok with l1 := rfl })))

theorem canon_execFence {g scope} {s : State} (h : s.canon) : Res.canon (execFence g scope s) :=
  State.canon.ite (.ite (canon_fenceEngines h) (canon_fenceScope h)) h

theorem canon_execBnop {s : State} (h : s.canon) : Res.canon (execBnop s) := h

end Sys2Proof.Machine
end

section
/-! CANONICAL FORM. N slot. -/

namespace Sys2Proof.Machine

/-! ### Ports and slots (R385) -/

theorem canon_bumpCursor {key} {s : State} (h : s.canon) : State.canon (bumpCursor key s) :=
  h.setCore (Core.Ok.canon { h.core.ok with cursor := mwf_mset h.core.ok.cursor _ _ })

/-! ### SEND (R386) -/

theorem canon_execSend {port v x} {s : State} (h : s.canon) : Res.canon (execSend port v x s) := by
  unfold execSend
  extract_lets k pl
  refine canon_checked' (fun s1 h1 => ?_) h
  clear_value pl k
  split
  · exact h1
  · exact canon_bumpCursor h1

/-! ### RECV, RECVADD, RECVSQ (R387) -/

theorem canon_recvWith {lat f port v x} {s : State} (h : s.canon) : State.canon (recvWith lat f port v x s) := by
  unfold recvWith
  extract_lets k pl
  refine canon_checked' (fun s1 h1 => ?_) h
  clear_value pl k
  split
  · exact h1
  · exact .ite (canon_spend (canon_recordErr (canon_bumpCursor h1))) (canon_putMany (canon_bumpCursor h1))

/-! ### PUTSIG (R48, R68, R388) -/

theorem canon_launchSig {c d bytes pay sg} {s : State} (h : s.canon) : State.canon (launchSig c d bytes pay sg s) :=
  .ite (canon_postUpdateOf (canon_spend h)) (canon_spend h)

theorem canon_execPutsig {chan v q} {s : State} (h : s.canon) : Res.canon (execPutsig chan v q s) := by
  unfold execPutsig
  extract_lets +onlyGivenNames o c k first
  split
  · exact canon_checked' (fun _ h1 => h1) h
  · extract_lets +onlyGivenNames l
    generalize badAddr s l 32 = o
    cases o with
    | some b => exact canon_checked' (fun _ h1 => canon_recordErr (canon_classify h1)) h
    | none =>
      refine canon_resolve (fun _ s1 h1 => ?_) h
      split
      · exact h1
      · exact canon_launchSig h1

/-! ### NCOLL (R389) -/

theorem canon_execNcoll {q produce} {s : State} (h : s.canon) : Res.canon (execNcoll q produce s) := by
  unfold execNcoll
  refine canon_checked' (fun s1 h1 => ?_) h
  extract_lets +onlyGivenNames l
  generalize badAddr s1 l 64 = o
  cases o with
  | some b => exact canon_recordErr (canon_classify h1)
  | none => exact canon_produceTok h1

/-! ### NWAIT (R286) -/

theorem canon_execNwait {x} {s : State} (h : s.canon) : Res.canon (execNwait x s) := by
  unfold execNwait
  extract_lets n
  refine canon_checked' (fun s1 h1 => ?_) h
  clear_value n
  split
  · exact h1
  · exact canon_put h1

theorem canon_execNnop {s : State} (h : s.canon) : Res.canon (execNnop s) := h

end Sys2Proof.Machine
end

section
/-! CANONICAL FORM. The fabric. -/

namespace Sys2Proof.Machine

/-! ### Counters and writes from outside a core -/

theorem canon_bumpPort {port i} {s : State} (h : s.canon) : State.canon (bumpPort port i s) :=
  State.Ok.canon { h.ok with ctr := mwf_mset h.ok.ctr _ _ }

theorem canon_homeUnit {w r} {s : State} (hr : homeUnit w s = r) (h : s.canon) : r.2.canon := by
  subst hr
  exact canon_agentUnit rfl h

theorem canon_homeRuns {runs r} {s : State} (hr : homeRuns runs s = r) (h : s.canon) : r.2.canon := by
  subst hr
  exact List.foldlRecOn (motive := fun st : Bool × State => st.2.canon) _ _ h fun st hst u _ =>
    canon_agentUnit (r := agentUnit false 0 u st.2) rfl hst

theorem canon_homeRead {a n r} {s : State} (hr : homeRead a n s = r) (h : s.canon) : r.2.2.canon := by
  subst hr
  unfold homeRead
  split
  · next he => exact canon_devRead he h
  · next he => exact canon_devRead he h

/-! ### Reports (R41, R51, R52) -/

theorem canon_fencePort {p} {s : State} (h : s.canon) : State.canon (fencePort p s) := canon_faultLog (canon_fenceUnit h)

theorem canon_finalFlit {x ok use_} {s : State} (h : s.canon) : State.canon (finalFlit x ok use_ s) := by
  unfold finalFlit
  extract_lets s1 s2
  have hs1 : State.canon s1 := by
    unfold s1
    split
    · exact canon_modCore (fun _ h1 => h1) h
    · exact h
  split
  · next s2' _ _ _ =>
      have hs2' : State.canon s2' := by
        unfold s2'
        split
        · exact hs1
        · exact hs1
      exact hs2'
  · next s2' _ _ =>
      have hs2' : State.canon s2' := by
        unfold s2'
        split
        · exact hs1
        · exact hs1
      exact hs2'

theorem canon_settle {m x} {s : State} (h : s.canon) : State.canon (settle m x s) := by
  unfold settle
  extract_lets use_ pass
  split
  · next pass2 _ _ _ =>
      have hpass2 : State.canon pass2 := by
        unfold pass2
        split
        · exact h
        · exact h
      exact canon_finalFlit hpass2
  · next pass2 _ _ _ =>
      have hpass2 : State.canon pass2 := by
        unfold pass2
        split
        · exact h
        · exact h
      split
      · exact canon_finalFlit hpass2
      · split
        · exact .ite (canon_finalFlit hpass2) hpass2
        · exact canon_finalFlit (.ite (canon_fencePort hpass2) hpass2)
  · next pass2 _ _ _ _ _ =>
      have hpass2 : State.canon pass2 := by
        unfold pass2
        split
        · exact h
        · exact h
      exact canon_finalFlit hpass2

/-! ### SLOT_SEND (R40, R41, R44, R45, R422) -/

theorem canon_emit {x} {s : State} (h : s.canon) : State.canon (emit x s) := h

theorem canon_sendSend {t n e} {s : State} (h : s.canon) : State.canon (sendSend t n e s) :=
  .foldl (fun _ _ h2 => canon_emit h2) h

theorem canon_sendCopy {t n e} {s : State} (h : s.canon) : State.canon (sendCopy t n e s) := by
  unfold sendCopy
  split
  · exact h
  · exact canon_modCore (fun _ h1 => h1) (.foldl (fun _ _ h2 => canon_emit h2) h)

theorem canon_sendSig {t n e} {s : State} (h : s.canon) : State.canon (sendSig t n e s) := by
  unfold sendSig
  extract_lets may
  split
  · exact h
  · extract_lets put1 s1
    have hs1 : State.canon s1 := canon_emit (canon_emit h)
    exact hs1

theorem canon_sendColl {t n e} {s : State} (h : s.canon) : State.canon (sendColl t n e s) := by
  unfold sendColl
  split
  · exact h
  · extract_lets k s1
    have hs1 : State.canon s1 := .foldl (fun _ _ h2 => canon_spend (canon_emit h2)) h
    exact hs1

theorem canon_sendFwd {t n e} {s : State} (h : s.canon) : State.canon (sendFwd t n e s) := by
  unfold sendFwd
  split
  · exact h
  · exact .foldl (fun _ _ h1 => canon_emit h1) h

theorem canon_dropHeld {t n} {s : State} (h : s.canon) : State.canon (dropHeld t n s) := h

theorem canon_sendServ {t n e} {s : State} (h : s.canon) : State.canon (sendServ t n e s) :=
  .foldl (fun _ _ h1 => canon_emit h1) h

theorem canon_sendReplay {t n e} {s : State} (h : s.canon) : State.canon (sendReplay t n e s) :=
  .foldl (fun _ _ h1 => canon_finalFlit h1) (.foldl (fun _ _ h2 => canon_emit h2) h)

theorem canon_sendEntry {t n e} {s : State} (h : s.canon) : State.canon (sendEntry t n e s) := by
  unfold sendEntry
  extract_lets k
  exact .ite h (.ite (canon_sendSend h)
    (.ite (canon_sendCopy h)
      (.ite (canon_sendColl h) (.ite (canon_sendFwd h) (.ite (canon_sendServ h) (.ite (canon_sendSig h) (canon_sendReplay h)))))))

theorem canon_sendHeader {n port} {s : State} (h : s.canon) : State.canon (sendHeader n port s) := canon_spend h

theorem canon_turnInjection {n} {s : State} (h : s.canon) : State.canon (turnInjection n s) := h

theorem canon_failStranded {g} {s : State} (h : s.canon) : State.canon (failStranded g s) := by
  unfold failStranded
  split
  · exact h
  · exact .ite h (canon_modCore (fun _ h2 => h2) h)

theorem canon_dropStrandedSigs {s : State} (h : s.canon) : State.canon (dropStrandedSigs s) := h

theorem canon_execSlotSend {s : State} (h : s.canon) : Res.canon (execSlotSend s) := by
  unfold execSlotSend
  split
  · exact canon_notEnabled
  · refine canon_dropStrandedSigs (.foldl (fun _ _ h2 => canon_failStranded h2) ?_)
    split
    · exact .foldl (fun _ _ h2 => canon_sendHeader h2) (canon_turnInjection h)
    · exact .ite (.foldl (fun _ _ h3 => canon_sendHeader h3) (canon_turnInjection h))
        (canon_dropHeld (.foldl (fun _ _ h4 => canon_sendEntry h4)
          (.foldl (fun _ _ h5 => canon_sendHeader h5) (canon_turnInjection h))))

/-! ### SLOT_HEADER_RECEIVE, FLIT_RECEIVE (R39, R41, R42, R46, R50, R51) -/

theorem canon_noteSlot {port n} {s : State} (h : s.canon) : State.canon (noteSlot port n s) := .ite h h

theorem canon_keepSend {f st data} {s : State} (h : s.canon) : State.canon (keepSend f st data s) := h

theorem canon_noteOffset {port ptp} {s : State} (h : s.canon) : State.canon (noteOffset port ptp s) := .ite h h

theorem canon_execSlotHeaderReceive {port slot skew ptp status late} {s : State} (h : s.canon) :
    Res.canon (execSlotHeaderReceive port slot skew ptp status late s) := by
  unfold execSlotHeaderReceive
  split
  · exact canon_notEnabled
  · extract_lets s0 bumped fab s1 fails report mine sent isDone fab' s2
    have hs0 : State.canon s0 := canon_noteSlot (canon_noteOffset h)
    have hbumped : State.canon bumped := canon_bumpPort hs0
    have hs1 : State.canon s1 := .ite hbumped hs0
    have hs2 : State.canon s2 := hs1
    exact State.canon.foldl (fun _ _ h => canon_settle h) hs2

theorem canon_modRxSig {x f} {s : State} (h : s.canon) : State.canon (modRxSig x f s) := h

theorem canon_noteFrames {src runs t} {s : State} (h : s.canon) : State.canon (noteFrames src runs t s) :=
  .foldl (fun _ _ h1 => .ite (canon_tagFrames h1) h1) h

theorem canon_hearColl {port src fields} {s : State} (h : s.canon) : State.canon (hearColl port src fields s) := by
  unfold hearColl
  extract_lets dies
  split
  · exact h
  · exact h

theorem canon_deliver {f} {s : State} (h : s.canon) : State.canon (deliver f s) := by
  unfold deliver
  split
  · extract_lets r
    have hr : State.canon r.2 := canon_homeRuns rfl h
    split
    · exact .ite (canon_noteFrames hr) hr
    · exact hr
  · exact .ite (canon_modRxSig (canon_homeRuns rfl h)) (canon_homeRuns rfl h)
  · exact canon_modRxSig h
  · exact canon_hearColl h
  · exact h

theorem canon_noteVisible {n} {s : State} (h : s.canon) : State.canon (noteVisible n s) := h

theorem canon_noteArrival {f} {s : State} (h : s.canon) : State.canon (noteArrival f s) := by
  unfold noteArrival
  extract_lets st s1 met s2
  have hs1 : State.canon s1 := canon_noteSlot (.ite (canon_bumpPort h) h)
  clear_value s1 st
  split
  · next s2' s3 _ =>
      have hs2' : State.canon s2' := hs1
      clear_value s2'
      have hs3 : State.canon s3 := canon_bumpPort hs2'
      clear_value s3
      exact .ite (canon_fencePort (canon_bumpPort hs3)) hs3
  · next s2' _ _ =>
      have hs2' : State.canon s2' := hs1
      clear_value s2'
      exact hs2'
  · next s2' _ _ =>
      have hs2' : State.canon s2' := hs1
      clear_value s2'
      exact .ite (canon_bumpPort hs2') hs2'

theorem canon_execFlitReceive {f} {s : State} (h : s.canon) : Res.canon (execFlitReceive f s) := by
  unfold execFlitReceive
  extract_lets here
  split
  · exact canon_notEnabled
  · next s1 s2 s3 _ _ =>
      have hs1 : State.canon s1 := canon_noteArrival h
      have hs2 : State.canon s2 := by
        unfold s2
        split
        · exact .ite (canon_keepSend hs1) hs1
        · exact hs1
      have hs3 : State.canon s3 := canon_noteVisible hs2
      exact State.canon.ite (.ite (canon_deliver hs3) hs3) (.ite hs2 hs2)

/-! ### Remote accesses (R47) -/

theorem canon_performRemote {src a op r} {s : State} (hr : performRemote src a op s = r) (h : s.canon) : r.2.2.canon := by
  subst hr
  unfold performRemote
  extract_lets swap stores loads updates
  have hswap : ∀ n f, (swap n f).2.2.canon := by
    intro n f
    unfold swap
    extract_lets x
    have hx : x.2.2.canon := canon_homeRead rfl h
    split
    · exact hx
    · split
      · exact hx
      · exact canon_homeUnit rfl hx
  have hstores : ∀ runs, (stores runs).2.2.canon := fun runs => canon_homeRuns rfl h
  have hloads : ∀ runs, (loads runs).2.2.canon := fun runs =>
    List.foldlRecOn (motive := fun x : Bool × List Byte × State => x.2.2.canon) _ _ h fun x hx r _ => by
      dsimp only
      split
      · exact hx
      · exact canon_homeRead (r := homeRead r.1 r.2 x.2.2) rfl hx
  have hupdates : ∀ kind n, (updates kind n).2.2.canon := by
    intro kind n
    unfold updates
    split
    · exact canon_classify h
    · exact canon_postUpdateOf h
  clear_value swap stores loads updates
  split
  · exact canon_homeRead rfl h
  · exact hloads _
  · exact hstores _
  · exact hstores _
  · exact hswap _ _
  · exact hswap _ _
  · exact hupdates _ _
  · exact hupdates _ _

theorem canon_respond {n port dst id ok data} {s : State} (h : s.canon) : State.canon (respond n port dst id ok data s) := by
  unfold respond
  split
  · exact h
  · exact h

theorem canon_passOn {n port src id addr op} {s : State} (h : s.canon) : State.canon (passOn n port src id addr op s) := by
  unfold passOn
  split
  · exact .ite (canon_respond h) h
  · exact canon_respond h

theorem canon_execRemoteRequest {f id addr op} {s : State} (h : s.canon) : Res.canon (execRemoteRequest f id addr op s) := by
  unfold execRemoteRequest
  extract_lets here
  split
  · exact canon_notEnabled
  · next s1 _ =>
      have hs1 : State.canon s1 := canon_noteArrival h
      split
      · exact hs1
      · split
        · exact canon_respond (canon_performRemote rfl (canon_noteVisible hs1))
        · exact canon_passOn hs1

theorem canon_answerWait {id done next_} {s : State} (h : s.canon) : State.canon (answerWait id done next_ s) := by
  unfold answerWait
  split
  · exact .ite h h
  · exact h

theorem canon_queueHeld {r} {s : State} (h : s.canon) : State.canon (queueHeld r s) := by
  unfold queueHeld
  extract_lets s1
  split
  · next s1' _ _ _ =>
      have hs1' : State.canon s1' := h
      exact .ite (canon_queueRequest hs1') hs1'
  · next s1' _ _ =>
      have hs1' : State.canon s1' := h
      exact canon_queueRequest hs1'

theorem canon_landRemote {a data} {s : State} (h : s.canon) : State.canon (landRemote a data s) := by
  unfold landRemote
  split
  · split
    · exact canon_answerWait h
    · split
      · exact h
      · exact canon_answerWait h
  · exact h

theorem canon_takeResponse {n id ok data} {s : State} (h : s.canon) : State.canon (takeResponse n id ok data s) := by
  unfold takeResponse
  split
  · exact canon_respond h
  · split
    · exact h
    · exact .ite (canon_landRemote (canon_select h)) (.ite (canon_remoteError (canon_select h)) (canon_select h))

theorem canon_execRemoteResponse {f id answer} {s : State} (h : s.canon) : Res.canon (execRemoteResponse f id answer s) := by
  unfold execRemoteResponse
  extract_lets here
  exact .ite canon_notEnabled
    (State.canon.ite (canon_takeResponse (.ite (canon_noteVisible (canon_noteArrival h)) (canon_noteArrival h)))
      (.ite (canon_noteVisible (canon_noteArrival h)) (canon_noteArrival h)))

/-! ### Link timetables (R43, R44, R425) -/

theorem canon_execLtarm {a} {s : State} (h : s.canon) : Res.canon (execLtarm a s) := by
  unfold execLtarm
  refine canon_fromHost ?_
  split
  · exact h
  · exact h

theorem canon_execLtstop {v} {s : State} (h : s.canon) : Res.canon (execLtstop v s) := canon_fromHost (State.canon.ite h h)

theorem canon_endNwait {t detail} {c : Core} (h : c.canon) : Core.canon (endNwait t detail c) := by
  unfold endNwait
  split
  · exact h
  · exact .ite h h

theorem canon_cutCommands {a} {c : Core} (h : c.canon) : Core.canon (cutCommands a c) := h

theorem canon_endTable {s : State} (h : s.canon) : State.canon (endTable s) :=
  .foldl (fun _ _ h1 => canon_spend (canon_modCore (fun _ h4 => canon_endNwait (canon_cutCommands h4)) h1))
    (.foldl (fun _ _ h2 => canon_finalFlit h2) h)

theorem canon_execLinkTimetableStart {s : State} (h : s.canon) : Res.canon (execLinkTimetableStart s) := by
  unfold execLinkTimetableStart
  split
  · exact canon_notEnabled
  · extract_lets s1
    have hs1 : State.canon s1 := .ite (canon_endTable h) h
    exact hs1

theorem canon_execLinkTimetableEnd {s : State} (h : s.canon) : Res.canon (execLinkTimetableEnd s) :=
  .ite canon_notEnabled (canon_endTable h)

theorem canon_execGroupActivate {g v} {s : State} (h : s.canon) : Res.canon (execGroupActivate g v s) :=
  canon_fromHost (State.Ok.canon { h.ok with
    groupActive := mwf_mset h.ok.groupActive _ _
    groupGen := mwf_mset h.ok.groupGen _ _ })

/-! ### Signals (R48, R164, R388) -/

theorem canon_applyFar {src a flag} {s : State} (h : s.canon) : State.canon (applyFar src a flag s) := by
  unfold applyFar
  extract_lets agent
  split
  · exact canon_postUpdateOf h
  · exact canon_noteRelease (canon_homeUnit rfl h)

theorem canon_applyOwn {m} {s : State} (h : s.canon) : State.canon (applyOwn m s) := by
  unfold applyOwn
  split
  · exact canon_takeUpdate h
  · exact h
  · exact canon_noteRelease (canon_homeUnit rfl h)

theorem canon_execSignalApply {s : State} (h : s.canon) : Res.canon (execSignalApply s) := by
  unfold execSignalApply
  split
  · exact canon_notEnabled
  · exact canon_landPiece h
  · exact canon_applyOwn h
  · exact canon_applyFar h

/-! ### Collectives (R389–R392) -/

theorem canon_endColl {c ok} {s : State} (h : s.canon) : State.canon (endColl c ok s) := canon_setTok (canon_select h)

theorem canon_execCollectiveStart {die} {s : State} (h : s.canon) : Res.canon (execCollectiveStart die s) := by
  unfold execCollectiveStart
  split
  · exact canon_notEnabled
  · extract_lets d s0
    have hs0 : State.canon s0 := canon_select h
    split
    · exact canon_endColl hs0
    · next s1 _ s2 _ _ _ _ _ =>
        have hs1 : State.canon s1 := canon_addWalks (canon_spend hs0)
        have hs2 : State.canon s2 := canon_addWalks (canon_spend hs1)
        split
        · next he =>
            split
            · exact canon_endColl (canon_engParts he hs2)
            · extract_lets c'
              exact canon_spend (canon_engParts he hs2)
        · next he => exact canon_endColl (canon_engParts he hs2)
        · exact canon_endColl hs2

theorem canon_execCollectiveComplete {die ok contrib} {s : State} (h : s.canon) :
    Res.canon (execCollectiveComplete die ok contrib s) := by
  unfold execCollectiveComplete
  split
  · exact canon_endColl h
  · exact canon_notEnabled
  · exact .ite canon_notEnabled (canon_endColl (canon_engUnits rfl (canon_spend (canon_select h))))

end Sys2Proof.Machine
end

section
/-! CANONICAL FORM. The task scheduler. -/

namespace Sys2Proof.Machine

/-! ### Global physical memory as the walker and the pool reach it (R135, R193) -/

theorem canon_walkReads {rs r} {s : State} (hr : walkReads rs s = r) (h : s.canon) : r.2.canon := by
  subst hr
  induction rs generalizing s with
  | nil => exact h
  | cons r rs ih =>
    rw [walkReads]
    generalize hx : (if r.2 = 0 then _ else _ : Option (List Byte) × State) = x
    have hx : x.2.canon := by
      subst hx
      split
      · exact h
      · split
        · exact canon_classify h
        · split
          · next he => exact canon_devRead he h
          · next he => exact canon_devRead he h
    split
    · exact hx
    · have h1 := ih hx
      split
      · next he => rw [he] at h1; exact h1
      · next he => rw [he] at h1; exact h1

theorem canon_walkRead {ga n r} {s : State} (hr : walkRead ga n s = r) (h : s.canon) : r.2.canon := by
  subst hr
  exact canon_walkReads rfl h

theorem canon_writeRecord {ga bs} {s : State} (h : s.canon) : State.canon (writeRecord ga bs s) := by
  unfold writeRecord
  split
  · exact h
  · refine .foldl (fun s1 _ h1 => ?_) h
    extract_lets x b
    split
    · split
      · exact h1
      · split
        · next he => exact canon_codedWrite he h1
        · next he => exact canon_codedWrite he h1
    · exact .ite (canon_memWrite h1) (.ite (canon_classify h1) h1)

/-! ### Timetable entries (R60) -/

theorem sel_wf {d} {s : State} (h : s.canon) : mwf none (ttOf s d).sel = true :=
  mget_keeps (P := fun t : Timetable => mwf none t.sel = true) rfl h.ok.sel d

theorem canon_setTt {d t} {s : State} (ht : mwf none t.sel = true) (h : s.canon) : State.canon (setTt d t s) :=
  State.Ok.canon { h.ok with
    tt := mwf_mset h.ok.tt _ _
    sel := forall_mem_mset (P := fun t : Timetable => mwf none t.sel = true) h.ok.sel d ht }

theorem canon_noteSelected {d i pass e} {s : State} (h : s.canon) : State.canon (noteSelected d i pass e s) :=
  .ite h (canon_setTt (mwf_foldl_mset (sel_wf h)) h)

/-! ### Entry runs and their records (R64, R87) -/

theorem canon_modRun {die entry pass f} {s : State} (h : s.canon) : State.canon (modRun die entry pass f s) := h

theorem canon_refreshNext {d} {s : State} (h : s.canon) : State.canon (refreshNext d s) := .ite (canon_setTt (sel_wf h) h) h

theorem canon_endTimetable {d} {s : State} (h : s.canon) : State.canon (endTimetable d s) :=
  .ite (canon_sendIrq (canon_setTt (sel_wf h) h)) h

theorem canon_closeRun {die entry pass} {s : State} (h : s.canon) : State.canon (closeRun die entry pass s) := by
  unfold closeRun
  split
  · exact h
  · exact .ite h (canon_endTimetable (canon_refreshNext (.ite (canon_sendIrq (canon_writeRecord h)) (canon_writeRecord h))))

theorem canon_skipBit {die entry pass b} {s : State} (h : s.canon) : State.canon (skipBit die entry pass b s) :=
  canon_closeRun (canon_modRun h)

/-! ### The pool (R70, R71, R88–R92) -/

theorem canon_setPool {i e} {s : State} (h : s.canon) : State.canon (setPool i e s) :=
  State.Ok.canon { h.ok with entries := mwf_mset h.ok.entries _ _ }

theorem canon_postImage {img parent r} {s : State} (hr : postImage img parent s = r) (h : s.canon) : r.2.canon := by
  subst hr
  unfold postImage
  split
  · exact h
  · exact canon_setPool h

theorem canon_freePoolEntry {i die rep rcd} {s : State} (h : s.canon) : State.canon (freePoolEntry i die rep rcd s) :=
  .ite (canon_sendIrq (.ite (canon_writeRecord (canon_setPool h)) (canon_setPool h)))
    (.ite (canon_writeRecord (canon_setPool h)) (canon_setPool h))

theorem canon_skipPool {i} {s : State} (h : s.canon) : State.canon (skipPool i s) := by
  unfold skipPool
  extract_lets e own s1
  have hs1 : State.canon s1 := canon_freePoolEntry h
  clear_value s1 own
  split
  · exact canon_skipBit hs1
  · exact hs1

theorem canon_poolResult {i} {s : State} (h : s.canon) : State.canon (poolResult i s) := canon_spend h

theorem canon_execPoolPost {v} {s : State} (h : s.canon) : Res.canon (execPoolPost v s) :=
  canon_fromHost (State.canon.ite (canon_poolResult (canon_postImage rfl h)) h)

theorem canon_execPoolCancel {v} {s : State} (h : s.canon) : Res.canon (execPoolCancel v s) := by
  unfold execPoolCancel
  refine canon_fromHost ?_
  split
  · exact h
  · split
    · extract_lets own s1 s2
      have hs1 : State.canon s1 := canon_setPool h
      clear_value s1 own
      split
      · next s2' _ _ =>
          have hs2' : State.canon s2' := canon_poolResult hs1
          clear_value s2'
          exact canon_skipBit hs2'
      · next s2' _ =>
          have hs2' : State.canon s2' := canon_poolResult hs1
          clear_value s2'
          exact hs2'
    · exact canon_poolResult h

theorem canon_execLaunch {g d a} {s : State} (h : s.canon) : Res.canon (execLaunch g d a s) := by
  unfold execLaunch
  refine canon_whenG (fun s1 h1 => canon_orRaise (fun s2 h2 => ?_) h1) h
  extract_lets +onlyGivenNames l
  generalize badAddr s2 l 64 = o
  cases o with
  | some b => exact canon_recordErr (canon_classify h2)
  | none =>
    extract_lets r
    have hr : State.canon r.2 := canon_postImage rfl h2
    exact .ite (canon_put hr) (canon_putBounded hr)

/-! ### Loading (R61, R75, R78, R124) -/

theorem canon_loadCode {g l r} {s : State} (hr : loadCode g l s = r) (h : s.canon) : r.2.canon := by
  subst hr
  unfold loadCode
  extract_lets h1
  split
  · next he =>
      extract_lets s1 s2
      have hs1 : State.canon s1 := canon_memWrite (canon_walkReads he h)
      have hs2 : State.canon s2 := canon_memWrite hs1
      exact canon_modCore (fun _ h2 => Core.Ok.canon { h2.ok with unfetched := mwf_filter _ h2.ok.unfetched }) hs2
  · next he => exact canon_walkReads he h

theorem canon_loadSpad {g l r} {s : State} (hr : loadSpad g l s = r) (h : s.canon) : r.2.canon := by
  subst hr
  unfold loadSpad
  extract_lets copy
  have hcopy : ∀ dst bs s, State.canon s → State.canon (copy dst bs s) := by
    intro dst bs s h
    unfold copy
    extract_lets frames s1
    have hs1 : State.canon s1 := canon_memWrite h
    clear_value frames s1
    exact State.Ok.canon { hs1.ok with frameTag := mwf_foldl_mset hs1.ok.frameTag }
  clear_value copy
  split
  · next he => exact hcopy _ _ _ (hcopy _ _ _ (canon_walkReads he h))
  · next he => exact canon_walkReads he h

theorem canon_loadAll {g l r} {s : State} (hr : loadAll g l s = r) (h : s.canon) : r.2.canon := by
  subst hr
  unfold loadAll
  split
  · next he => exact canon_loadCode he h
  · next he => exact canon_loadSpad rfl (canon_loadCode he h)

theorem canon_setQueued {g i q} {s : State} (h : s.canon) : State.canon (setQueued g i q s) := canon_modCore (fun _ h1 => h1) h

theorem canon_dropQueue {g i} {s : State} (h : s.canon) : State.canon (dropQueue g i s) := canon_modCore (fun _ h1 => h1) h

theorem canon_execCodePreload {core} {s : State} (h : s.canon) : Res.canon (execCodePreload core s) := by
  unfold execCodePreload
  extract_lets c
  split
  · exact canon_notEnabled
  · exact canon_setQueued (canon_loadCode rfl h)

theorem canon_noteEnd {g l ok} {s : State} (h : s.canon) : State.canon (noteEnd g l ok s) :=
  .ite h (canon_modCore (fun _ h2 => h2) h)

theorem canon_overrunPreloads {g h} {s : State} (hs : s.canon) : State.canon (overrunPreloads g h s) :=
  canon_modCore (fun _ h1 => h1) hs

theorem canon_execScratchpadLoad {core} {s : State} (h : s.canon) : Res.canon (execScratchpadLoad core s) := by
  unfold execScratchpadLoad
  extract_lets c
  split
  · exact canon_notEnabled
  · exact .ite canon_notEnabled
      (.ite (canon_skipBit (canon_dropQueue h))
        (.ite (canon_setQueued (canon_loadSpad rfl h)) (canon_setQueued (canon_loadAll rfl (canon_overrunPreloads h)))))

/-! ### Start state (R62, R77, R115) -/

theorem canon_startCore {g l cyc pc} {c : Core} (h : c.canon) : Core.canon (startCore g l cyc pc c) := by
  unfold startCore
  extract_lets c0
  have hidle : Core.canon c0 := canon_Core_idle
  exact Core.Ok.canon { hidle.ok with
    sreg := mwf_msetMany rfl _
    lane := h.ok.lane
    micro := h.ok.micro
    l1 := h.ok.l1
    unfetched := h.ok.unfetched
    lanePoison := h.ok.lanePoison
    cursor := h.ok.cursor }

theorem canon_applyInit {x} {c : Core} (h : c.canon) : Core.canon (applyInit x c) := .ite h (.ite (.ite h h) (canon_applySys h))

theorem canon_acquireAll {g} {s : State} (h : s.canon) : State.canon (acquireAll g s) :=
  canon_modCore (fun _ hc => hc.refreshL1) (State.Ok.canon { h.ok with
    vers := mwf_map_filter (fun _ l => l.filter _) h.ok.vers
    slow := mwf_map_filter (fun _ l => l.filter _) h.ok.slow })

theorem canon_beginTask {g l isRerun first budget inits pc} {s : State} (h : s.canon) :
    State.canon (beginTask g l isRerun first budget inits pc s) :=
  canon_modCore (fun _ h1 => .foldl (fun _ _ h4 => canon_applyInit h4) (canon_startCore h1)) (canon_acquireAll h)

theorem canon_noteStart {l} {s : State} (h : s.canon) : State.canon (noteStart l s) :=
  canon_refreshNext (.ite h (canon_setTt (sel_wf h) h))

theorem canon_markStart {l late} {s : State} (h : s.canon) : State.canon (markStart l late s) := canon_modRun h

theorem canon_execTaskStart {core} {s : State} (h : s.canon) : Res.canon (execTaskStart core s) := by
  unfold execTaskStart
  extract_lets c
  split
  · exact canon_notEnabled
  · exact .ite canon_notEnabled
      (canon_beginTask (.ite (canon_noteStart (canon_markStart (canon_dropQueue h))) (canon_markStart (canon_dropQueue h))))

theorem canon_execTaskRerun {core} {s : State} (h : s.canon) : Res.canon (execTaskRerun core s) := by
  unfold execTaskRerun
  extract_lets c
  split
  · exact canon_notEnabled
  · exact .ite canon_notEnabled (canon_beginTask (canon_modRun (canon_dropQueue h)))

theorem canon_overrunLoads {c : Core} (h : c.canon) : Core.canon (overrunLoads c) := h

theorem canon_execTaskResume {core} {s : State} (h : s.canon) : Res.canon (execTaskResume core s) := by
  unfold execTaskResume
  extract_lets c
  split
  · exact canon_notEnabled
  · split
    · exact .ite canon_notEnabled
        (canon_modCore (fun _ h2 => h2)
          (canon_loadAll rfl (canon_overrunPreloads (canon_modCore (fun _ h5 => canon_overrunLoads h5) h))))
    · exact .ite canon_notEnabled (canon_beginTask (canon_modCore (fun _ h3 => h3) h))

/-! ### Reading entries (R57, R59, R63, R73, R82, R92) -/

theorem canon_stopTimetable {d} {s : State} (h : s.canon) : State.canon (stopTimetable d s) := by
  unfold stopTimetable
  extract_lets t gone keepQ s1 s2 left next
  have hs1 : State.canon s1 := .foldl (fun _ _ h2 => .ite h2 (canon_modCore (fun _ h5 => h5) h2)) h
  clear_value s1
  have hs2 : State.canon s2 := hs1
  clear_value s2
  exact canon_endTimetable (canon_setTt (sel_wf h) hs2)

theorem canon_execTtStop {die v} {s : State} (h : s.canon) : Res.canon (execTtStop die v s) :=
  .ite canon_notEnabled (canon_fromHost (State.canon.ite (canon_stopTimetable h) h))

theorem canon_forgetEnds {d} {s : State} (h : s.canon) : State.canon (forgetEnds d s) :=
  .foldl (fun _ _ h1 => .ite h1 (canon_modCore (fun _ h4 => h4) h1)) h

theorem canon_execTtArm {die tick} {s : State} (h : s.canon) : Res.canon (execTtArm die tick s) :=
  .ite canon_notEnabled
    (canon_fromHost (State.canon.ite
      (.ite (canon_stopTimetable (canon_setTt rfl (canon_forgetEnds h))) (canon_setTt rfl (canon_forgetEnds h)))
        (canon_setTt (sel_wf h) h)))

theorem advanceRead_sel (t : Timetable) : (advanceRead t).sel = t.sel := by
  unfold advanceRead
  split
  · rfl
  · split <;> rfl

theorem canon_checkTask {l r} {s : State} (hr : checkTask l s = r) (h : s.canon) : r.2.canon := by
  subst hr
  unfold checkTask
  extract_lets r
  have hr : State.canon r.2 := canon_walkRead rfl h
  split
  · exact hr
  · split
    · exact hr
    · split
      · exact canon_walkReads rfl hr
      · exact hr

theorem canon_readForCore {d i pass tick b e} {s : State} (h : s.canon) : State.canon (readForCore d i pass tick b e s) := by
  unfold readForCore
  extract_lets cl g taskId
  split
  · exact canon_modRun h
  · next r s1 _ =>
      have hr : State.canon r.2 := by
        unfold r
        split
        · exact canon_checkTask rfl h
        · exact h
      have hs1 : State.canon s1 := canon_modRun hr
      exact .ite (canon_modCore (fun _ h2 => h2) hr) (canon_faultLog hs1)

theorem canon_readBackground {d i pass e} {s : State} (h : s.canon) : State.canon (readBackground d i pass e s) :=
  .ite h (.foldl (fun _ _ h2 => canon_faultLog (canon_modRun h2)) h)

theorem canon_setTt_advanceRead {d t} {s : State} (ht : mwf none t.sel = true) (h : s.canon) :
    State.canon (setTt d (advanceRead t) s) := canon_setTt ((congrArg (mwf none) (advanceRead_sel t)).trans ht) h

theorem canon_execTtEntryRead {die} {s : State} (h : s.canon) : Res.canon (execTtEntryRead die s) := by
  unfold execTtEntryRead
  extract_lets +onlyGivenNames t i pass
  have ht : mwf none t.sel = true := sel_wf h
  split
  · exact trivial
  · split
    · next he =>
      exact canon_endTimetable (canon_refreshNext (canon_faultLog (canon_setTt_advanceRead ht (canon_walkRead he h))))
    · next x s0 he =>
      have hs0 : State.canon s0 := canon_walkRead he h
      extract_lets +onlyGivenNames e off bad tick run t1 s1 s2
      have hs1 : State.canon s1 := canon_setTt_advanceRead (t := { t with lastTick := some off }) ht hs0
      have hs2 : State.canon s2 := by
        refine .ite (canon_faultLog (canon_modRun hs1)) (.ite (canon_readBackground hs1) ?_)
        exact hs1.foldl fun _ _ h => canon_readForCore h
      split
      · exact canon_faultLog (canon_stopTimetable (canon_setTt ht hs0))
      · exact canon_closeRun (canon_refreshNext (canon_noteSelected hs2))

/-! ### Background posts and takes (R60, R89, R92) -/

theorem canon_execBackgroundPost {die} {s : State} (h : s.canon) : Res.canon (execBackgroundPost die s) := by
  unfold execBackgroundPost
  split
  · exact canon_notEnabled
  · refine canon_closeRun (canon_noteStart (canon_modRun (.foldl (fun s4 _ h4 => ?_) h)))
    extract_lets g
    split
    · dsimp only
      exact canon_modRun h4
    · split
      · next he => exact canon_postImage he h4
      · next he => exact canon_faultLog (canon_modRun (canon_postImage he h4))

theorem canon_execPoolTake {s : State} (h : s.canon) : Res.canon (execPoolTake s) := by
  unfold execPoolTake
  split
  · exact canon_notEnabled
  · split
    · exact canon_notEnabled
    · split
      · exact canon_notEnabled
      · extract_lets l s0 r
        have hr : State.canon r := h
        clear_value r
        split
        · next r2 _ _ _ _ _ =>
            have hr2 : State.canon r2.2 := by
              unfold r2
              split
              · exact canon_checkTask rfl hr
              · exact hr
            clear_value r2
            exact canon_faultLog (canon_skipPool hr2)
        · next r2 s1 _ x _ _ =>
            have hr2 : State.canon r2.2 := by
              unfold r2
              split
              · exact canon_checkTask rfl hr
              · exact hr
            clear_value r2
            have hs1 : State.canon s1 := canon_setPool hr2
            clear_value s1
            have hx : State.canon x.2 := canon_loadAll rfl hs1
            clear_value x
            exact canon_modCore (fun _ h1 => h1) hx

/-! ### Late policy, pre-emption, overrun (R79, R80, R85, R90, R93) -/

theorem canon_requestDrain {g cause why} {s : State} (h : s.canon) : State.canon (requestDrain g cause why s) := by
  unfold requestDrain
  refine canon_modCore (fun c1 h1 => ?_) h
  split
  · exact .ite h1 h1
  · split
    · exact h1
    · split
      · exact h1
      · exact .ite h1 h1

theorem canon_execLatePolicy {core} {s : State} (h : s.canon) : Res.canon (execLatePolicy core s) := by
  unfold execLatePolicy
  extract_lets c
  split
  · exact canon_notEnabled
  · split
    · exact canon_notEnabled
    · exact .ite (canon_skipBit (canon_dropQueue h))
        (State.canon.ite (canon_requestDrain (canon_setQueued h)) (canon_setQueued h))

theorem canon_execPoolPreempt {core} {s : State} (h : s.canon) : Res.canon (execPoolPreempt core s) :=
  .ite canon_notEnabled (canon_requestDrain h)

theorem canon_execOverrun {core} {s : State} (h : s.canon) : Res.canon (execOverrun core s) :=
  .ite canon_notEnabled (canon_requestDrain h)

/-! ### Retirement (R64, R84, R86, R87, R91) -/

theorem canon_reportEnd {g t ok cause c} {s : State} (h : s.canon) : State.canon (reportEnd g t ok cause c s) := by
  unfold reportEnd
  extract_lets l s1
  have hs1 : State.canon s1 := canon_closeRun (canon_modRun h)
  split
  · exact hs1
  · exact canon_freePoolEntry hs1

theorem canon_execTaskRetire {core} {s : State} (h : s.canon) : Res.canon (execTaskRetire core s) := by
  unfold execTaskRetire
  extract_lets c
  split
  · split
    · exact canon_notEnabled
    · extract_lets ok
      split
      · extract_lets s1 seen mine free
        have hs1 : State.canon s1 := .ite h (canon_faultLogAt h)
        clear_value s1
        have hseen : State.canon seen := canon_mapVers hs1
        clear_value seen
        have hfree : State.canon free := hseen
        clear_value free
        exact .ite (canon_modCore (fun _ h2 => h2)
          (canon_loadAll rfl (canon_overrunPreloads (canon_modRun (canon_modCore (fun _ h8 => h8) hfree)))))
            (canon_reportEnd (canon_noteEnd (canon_modCore (fun _ h5 => h5) hfree)))
  · exact canon_notEnabled

theorem canon_execLoadFailure {core} {s : State} (h : s.canon) : Res.canon (execLoadFailure core s) := by
  unfold execLoadFailure
  extract_lets c
  split
  · extract_lets l s1 entry s2
    have hs1 : State.canon s1 := canon_modCore (fun _ h2 => h2) h
    have hs2 : State.canon s2 := canon_faultLog hs1
    split
    · exact canon_closeRun (canon_modRun (canon_noteEnd hs2))
    · split
      · exact canon_skipPool hs2
      · exact canon_skipBit hs2
  · exact .ite canon_notEnabled (canon_reportEnd (canon_faultLog (canon_noteEnd (canon_modCore (fun _ h5 => h5) h))))
  · exact canon_notEnabled

end Sys2Proof.Machine
end

section
/-! CANONICAL FORM. Bring-up and thermal protection. -/

namespace Sys2Proof.Machine

/-! ### BOOTSTAT (R27, R28) -/

theorem canon_failStart {reason} {s : State} (h : s.canon) : State.canon (failStart reason s) := h

theorem canon_toStage {n} {s : State} (h : s.canon) : State.canon (toStage n s) := h

/-! ### Reset and the stages (R20–R28) -/

theorem canon_execModuleReset {s : State} : Res.canon (execModuleReset s) := by
  unfold execModuleReset
  extract_lets b
  split
  · exact trivial
  · exact canon_State_reset

theorem canon_measure {x} {s : State} (h : s.canon) : State.canon (measure x s) := h

theorem canon_startImage {slot} {s : State} (h : s.canon) : State.canon (startImage slot s) := canon_toStage h

theorem canon_execRonilorStart {a b key} {s : State} (h : s.canon) : Res.canon (execRonilorStart a b key s) := by
  unfold execRonilorStart
  split
  · exact canon_notEnabled
  · extract_lets s1
    have hs1 : State.canon s1 := canon_measure h
    split
    · exact canon_startImage hs1
    · next s2 _ _ =>
        have hs2 : State.canon s2 := canon_measure hs1
        exact State.canon.ite (canon_startImage hs2) (canon_failStart hs2)

theorem canon_retryUnits {kind us} {s : State} (h : s.canon) : State.canon (retryUnits kind us s) :=
  .foldl (fun _ _ h1 => .ite h1 (.ite h1 (canon_fenceUnit h1))) h

theorem canon_execLinkTraining {ucieOk edge01Ok selfTest01Ok units} {s : State} (h : s.canon) :
    Res.canon (execLinkTraining ucieOk edge01Ok selfTest01Ok units s) :=
  .ite canon_notEnabled
    (State.canon.ite (canon_failStart h)
      (.ite (canon_failStart h) (.ite (canon_failStart h) (canon_toStage (canon_retryUnits h)))))

theorem canon_execHbmTraining {units} {s : State} (h : s.canon) : Res.canon (execHbmTraining units s) :=
  .ite canon_notEnabled (canon_toStage (canon_retryUnits h))

theorem canon_verifyAll {key xs r} {s : State} (hr : verifyAll key xs s = r) (h : s.canon) : r.2.canon := by
  subst hr
  induction xs generalizing s with
  | nil => exact h
  | cons x xs ih =>
    rw [verifyAll]
    split
    · exact ih (canon_measure h)
    · exact canon_measure h

theorem canon_execFirmwareLoad {images key} {s : State} (h : s.canon) : Res.canon (execFirmwareLoad images key s) :=
  .ite canon_notEnabled (State.canon.ite (canon_toStage (canon_verifyAll rfl h)) (canon_failStart (canon_verifyAll rfl h)))

theorem canon_execSetModuleId {id d ptp time} {s : State} (h : s.canon) : Res.canon (execSetModuleId id d ptp time s) :=
  .ite canon_notEnabled h

theorem canon_setClock {t parent} {s : State} (h : s.canon) : State.canon (setClock t parent s) := h

theorem canon_trainCxl {sizes} {s : State} (h : s.canon) : State.canon (trainCxl sizes s) :=
  State.Ok.canon { h.ok with cxlBytes := mwf_foldl_mset rfl }

theorem canon_execPtpLock {elected parent units cxl} {s : State} (h : s.canon) :
    Res.canon (execPtpLock elected parent units cxl s) := by
  unfold execPtpLock
  split
  · exact canon_notEnabled
  · extract_lets host s1
    have hs1 : State.canon s1 := canon_toStage (canon_trainCxl (canon_retryUnits h))
    split
    · exact canon_setClock hs1
    · split
      · exact canon_setClock hs1
      · exact canon_notEnabled

theorem canon_execPtpLockTimeout {s : State} (h : s.canon) : Res.canon (execPtpLockTimeout s) :=
  .ite canon_notEnabled (canon_failStart h)

theorem canon_execBringUpWatchdog {s : State} (h : s.canon) : Res.canon (execBringUpWatchdog s) :=
  .ite canon_notEnabled (canon_failStart h)

theorem publishedMaps_cxlBytes (s : State) : (publishedMaps s).cxlBytes = s.maps.cxlBytes := by
  have hfold : ∀ (l : List HwUnit) (m : Maps), (l.foldl clearUnit m).cxlBytes = m.cxlBytes := by
    intro l
    induction l with
    | nil => exact fun _ => rfl
    | cons u l ih => exact fun m => (ih _).trans (clearUnit_cxlBytes m u)
  unfold publishedMaps
  extract_lets m full fenced
  have hfenced : fenced.cxlBytes = s.maps.cxlBytes := hfold _ _
  split
  · exact hfenced
  · exact hfenced

theorem canon_execMapPublish {s : State} (h : s.canon) : Res.canon (execMapPublish s) :=
  .ite trivial (canon_toStage
    (State.Ok.canon { h.ok with cxlBytes := (congrArg (mwf 0) (publishedMaps_cxlBytes s)).trans h.ok.cxlBytes }))

/-! ### Requests to Ronilor (R23, R26, R27) -/

theorem canon_execAttestationRequest {nonce} {s : State} (h : s.canon) : Res.canon (execAttestationRequest nonce s) :=
  .ite canon_notEnabled h

theorem canon_execFenceListClear {s : State} (h : s.canon) : Res.canon (execFenceListClear s) := .ite canon_notEnabled h

theorem canon_execBootstatFailsWrite {v} {s : State} (h : s.canon) : Res.canon (execBootstatFailsWrite v s) :=
  canon_fromHost (State.canon.ite h h)

/-! ### Thermal and power protection (R18, R20, R58, R93) -/

theorem canon_execThermalWarning {die} {s : State} (h : s.canon) : Res.canon (execThermalWarning die s) :=
  .ite canon_notEnabled (canon_sendIrq h)

theorem canon_dropQueued {g q} {s : State} (h : s.canon) : State.canon (dropQueued g q s) := by
  unfold dropQueued
  extract_lets l s1
  have hs1 : State.canon s1 := canon_modCore (fun _ h2 => h2) h
  split
  · exact canon_closeRun (canon_modRun hs1)
  · split
    · exact canon_skipPool hs1
    · exact canon_skipBit hs1

theorem canon_stopCore {g} {s : State} (h : s.canon) : State.canon (stopCore s g) := by
  unfold stopCore
  refine canon_requestDrain ?_
  split
  · exact .foldl (fun _ _ h1 => canon_dropQueued h1) h
  · exact canon_reportEnd (canon_modCore (fun _ h2 => h2) (.foldl (fun _ _ h3 => canon_dropQueued h3) h))

theorem canon_dropPosts {s : State} (h : s.canon) : State.canon (dropPosts s) := .foldl (fun _ _ h1 => canon_skipPool h1) h

theorem canon_thermalHold {s : State} (h : s.canon) : State.canon (thermalHold s) :=
  .ite (canon_failStart h)
    (canon_dropPosts (.foldl (fun _ _ h3 => canon_stopCore h3)
      (.foldl (fun _ _ h4 => .ite (canon_stopTimetable h4) h4) (canon_faultLog (canon_spend h)))))

/-! ### Loss of lock (R37) -/

theorem canon_execLossOfLock {portDown} {s : State} (h : s.canon) : Res.canon (execLossOfLock portDown s) :=
  .ite (canon_sendIrq (canon_spend h)) canon_notEnabled

theorem canon_execLeaveHoldover {port} {s : State} (h : s.canon) : Res.canon (execLeaveHoldover port s) := .ite h canon_notEnabled

end Sys2Proof.Machine
end

section
/-! CANONICAL FORM. Register writes, slices, regions. -/

namespace Sys2Proof.Machine

/-! ### REGISTER_WRITE (R9, R54) -/

theorem canon_writeTt {d off v r} {s : State} (hr : writeTt d off v s = r) (h : s.canon) : OptCanon r := by
  subst hr
  unfold writeTt
  extract_lets t cfg
  split
  · exact State.canon.ite h (canon_setTt (sel_wf h) h)
  · exact State.canon.ite h (canon_setTt (sel_wf h) h)
  · exact State.canon.ite h (canon_setTt (sel_wf h) h)
  · exact State.canon.ite h (canon_setTt (sel_wf h) h)
  · exact State.canon.ite h (canon_setTt (sel_wf h) h)
  · exact canon_setTt (sel_wf h) h
  · exact trivial

theorem canon_writeFabric {off v r} {s : State} (hr : writeFabric off v s = r) (h : s.canon) : OptCanon r := by
  subst hr
  unfold writeFabric
  extract_lets f
  split
  · exact h
  · split
    · exact h
    · split
      · exact h
      · split
        · exact h
        · split
          · exact h
          · split
            · exact State.Ok.canon { h.ok with ctr := mwf_mset h.ok.ctr _ _ }
            · exact trivial

theorem canon_writeBinding {i w v} {s : State} (h : s.canon) : State.canon (writeBinding i w v s) :=
  State.Ok.canon { h.ok with bind := mwf_mset h.ok.bind _ _ }

theorem canon_writeRegion {i w v} {s : State} (h : s.canon) : State.canon (writeRegion i w v s) :=
  State.Ok.canon { h.ok with region := mwf_mset h.ok.region _ _ }

theorem canon_writeCodedCtr {sl i w v} {s : State} (h : s.canon) : State.canon (writeCodedCtr sl i w v s) :=
  State.Ok.canon { h.ok with cctrs := mwf_mset h.ok.cctrs _ _ }

theorem canon_writeFlog {off v r} {s : State} (hr : writeFlog off v s = r) (h : s.canon) : OptCanon r := by
  subst hr
  unfold writeFlog
  split
  · exact h
  · exact h
  · exact h
  · exact trivial

theorem canon_writeSigcap {k v} {s : State} (h : s.canon) : State.canon (writeSigcap k v s) :=
  State.Ok.canon { h.ok with sigcap := mwf_mset h.ok.sigcap _ _ }

theorem canon_writePoolImg {i v} {s : State} (h : s.canon) : State.canon (writePoolImg i v s) := h

theorem canon_writeXlat {off v r} {s : State} (hr : writeXlat off v s = r) (h : s.canon) : OptCanon r := by
  subst hr
  unfold writeXlat
  split
  · exact h
  · exact h
  · exact h
  · exact trivial

theorem canon_storeRegister {o v} {s : State} (h : s.canon) : State.canon (storeRegister o v s) := by
  unfold storeRegister
  have hflog : ∀ k, ((writeFlog k v s).getD s).canon := fun _ => canon_getD (canon_writeFlog rfl h) h
  have htt : ∀ d k, ((writeTt d k v s).getD s).canon := fun _ _ => canon_getD (canon_writeTt rfl h) h
  have hfabric : ∀ k, ((writeFabric k v s).getD s).canon := fun _ => canon_getD (canon_writeFabric rfl h) h
  have hxlat : ∀ k, ((writeXlat k v s).getD s).canon := fun _ => canon_getD (canon_writeXlat rfl h) h
  refine .ite (canon_writeSigcap h) ?_
  refine .ite (hflog _) ?_
  refine .ite (canon_writePoolImg h) ?_
  refine .ite (htt _ _) ?_
  refine .ite (hfabric _) ?_
  refine .ite (hxlat _) ?_
  refine .ite (canon_writeBinding h) ?_
  refine .ite (canon_writeRegion h) ?_
  exact .ite (canon_writeCodedCtr h) h

theorem canon_execRegisterWrite {addr v} {s : State} (h : s.canon) : Res.canon (execRegisterWrite addr v s) :=
  .ite canon_notEnabled (canon_fromHost (canon_storeRegister h))

/-! ### Evictions (R130, R204, R205) -/

theorem canon_execL2Eviction {line} {s : State} (h : s.canon) : Res.canon (execL2Eviction line s) := by
  unfold execL2Eviction
  split
  · exact .ite h canon_notEnabled
  · exact canon_notEnabled

theorem canon_execCodedWriteback {block fails} {s : State} (h : s.canon) : Res.canon (execCodedWriteback block fails s) := by
  unfold execCodedWriteback
  split
  · exact .ite (canon_evictBlock h) canon_notEnabled
  · exact canon_notEnabled

/-! ### Slice configuration (R131, R133) -/

theorem canon_clearStaged {slice} {s : State} (h : s.canon) : State.canon (clearStaged slice s) := by
  unfold clearStaged
  refine .foldl (fun s1 _ h1 => ?_) h
  split
  · exact canon_evictBlock h1
  · exact canon_l2Drop h1

theorem canon_execSlcfgWrite {slice v} {s : State} (h : s.canon) : Res.canon (execSlcfgWrite slice v s) :=
  .ite canon_notEnabled (canon_fromHost (.ite h (canon_clearStaged (canon_spend h))))

theorem canon_execWmodeChangeComplete {slice} {s : State} (h : s.canon) : Res.canon (execWmodeChangeComplete slice s) := by
  unfold execWmodeChangeComplete
  split
  · exact canon_notEnabled
  · extract_lets lo keep s1
    have hs1 : State.canon s1 := canon_clearStaged h
    exact State.Ok.canon { hs1.ok with mem := mwf_ite (mwf_filter _ hs1.ok.mem) hs1.ok.mem, wmode := mwf_mset hs1.ok.wmode _ _ }

/-! ### Coded regions (R207, R208) -/

theorem canon_discardRegionL1 {i} {s : State} (h : s.canon) : State.canon (discardRegionL1 i s) :=
  .foldl (fun _ _ h1 => canon_modCore (fun _ h3 => Core.Ok.canon { h3.ok with l1 := mwf_filter _ h3.ok.l1 }) h1) h

theorem canon_execRegionFlush {w} {s : State} (h : s.canon) : Res.canon (execRegionFlush w s) := by
  unfold execRegionFlush
  extract_lets entry v
  split
  · exact canon_notEnabled
  · next s1 _ s2 _ =>
      have hs1 : State.canon s1 := canon_writeRegion h
      have hs2 : State.canon s2 := State.Ok.canon { hs1.ok with region := mwf_mset hs1.ok.region _ _ }
      exact canon_fromHost (canon_flushBlocks rfl (canon_spend hs2))

theorem canon_execRegionFlushComplete {entry} {s : State} (h : s.canon) : Res.canon (execRegionFlushComplete entry s) := by
  unfold execRegionFlushComplete
  split
  · exact canon_notEnabled
  · extract_lets s1
    have hs1 : State.canon s1 := canon_discardRegionL1 (canon_flushBlocks rfl h)
    clear_value s1
    exact State.Ok.canon { hs1.ok with region := mwf_mset hs1.ok.region _ _ }

theorem canon_execCodedAccess {addr len write} {s : State} (h : s.canon) : Res.canon (execCodedAccess addr len write s) := by
  unfold execCodedAccess
  split
  · exact canon_notEnabled
  · split
    · split
      · next he => exact canon_codedRead he h
      · next he => exact canon_codedRead he h
    · split
      · exact canon_notEnabled
      · split
        · next he => exact canon_codedWrite he h
        · next he => exact canon_codedWrite he h

end Sys2Proof.Machine
end

section
/-! CANONICAL FORM. Reads of the MMIO range. -/

namespace Sys2Proof.Machine

/-! ### The Syarri's accesses to storage (R14, R144) and what goes bad there (R252, R253) -/

theorem canon_hostLoad {a n r} {s : State} (hr : hostLoad a n s = r) (h : s.canon) : r.2.canon := by
  subst hr
  unfold hostLoad
  split
  · exact h
  · split
    · exact h
    · split
      · next he => exact canon_devRead1 he h
      · next he => exact canon_devRead1 he h

theorem canon_hostStore {a bs} {s : State} (h : s.canon) : State.canon (hostStore a bs s) := .ite h (canon_homeUnit rfl h)

theorem canon_badRegister {g lasting} {s : State} (h : s.canon) : State.canon (badRegister g lasting s) := by
  unfold badRegister
  extract_lets a c hit s1
  have hhit : State.canon hit := canon_modCore (fun _ h2 => canon_Core_meetError h2) h
  clear_value hit
  have hs1 : State.canon s1 := canon_spend (.ite hhit h)
  clear_value s1
  exact .ite (canon_faultLog (canon_fenceUnit hs1)) (canon_faultLog hs1)

theorem canon_hostAct {x} {s : State} (h : s.canon) : State.canon (hostAct x s) := by
  unfold hostAct
  split
  · extract_lets r c0
    have hr : State.canon r.2 := canon_hostLoad rfl h
    exact hr
  · exact canon_hostStore h
  · exact State.Ok.canon { h.ok with poison := mwf_mset h.ok.poison _ _ }
  · exact canon_modCore (fun _ h1 => Core.Ok.canon { h1.ok with lanePoison := mwf_mset h1.ok.lanePoison _ _ }) h
  · exact canon_badRegister h
  · exact h

end Sys2Proof.Machine
end

section
/-! CANONICAL FORM. Lane and probability predicates. -/

namespace Sys2Proof.Machine

/-! ### Operands (R339) and writes (R340) -/

theorem canon_writeP {lat v val} {s : State} (h : s.canon) : State.canon (writeP lat v val s) := .ite h (canon_putMany h)

theorem canon_writeQ {lat v val lin} {s : State} (h : s.canon) : State.canon (writeQ lat v val lin s) := canon_putMany h

/-! ### Lane predicates (R342, R343) -/

theorem canon_execPlog {v} {s : State} (h : s.canon) : Res.canon (execPlog v s) := canon_guarded (fun _ h1 => canon_writeP h1) h

theorem canon_execPmov {v} {s : State} (h : s.canon) : Res.canon (execPmov v s) :=
  .ite (canon_writeP h) (.ite (canon_guarded (fun _ h3 => canon_writeP h3) h) (canon_guarded (fun _ h3 => canon_vecWrite h3) h))

/-! ### Soft comparison (R233, R344) -/

theorem canon_execScmp {v} {s : State} (h : s.canon) : Res.canon (execScmp v s) := canon_guarded (fun _ h1 => canon_writeQ h1) h

/-! ### Combination (R235, R345) -/

theorem canon_execQlog {v} {s : State} (h : s.canon) : Res.canon (execQlog v s) := canon_guarded (fun _ h1 => canon_writeQ h1) h

theorem canon_execQnot {v} {s : State} (h : s.canon) : Res.canon (execQnot v s) := canon_guarded (fun _ h1 => canon_writeQ h1) h

/-! ### Blend, collapse and hard decision (R236–R240, R346, R347) -/

theorem canon_execQblend {v} {s : State} (h : s.canon) : Res.canon (execQblend v s) :=
  canon_guarded (fun _ h1 => canon_vecWrite h1) h

theorem canon_execQcol {v} {s : State} (h : s.canon) : Res.canon (execQcol v s) :=
  canon_guarded (fun _ h1 => canon_advCctr (canon_writeP h1)) h

theorem canon_execQhard {v} {s : State} (h : s.canon) : Res.canon (execQhard v s) := canon_guarded (fun _ h1 => canon_writeP h1) h

/-! ### Moves between classes (R348) -/

theorem canon_execQmov {v} {s : State} (h : s.canon) : Res.canon (execQmov v s) := by
  unfold execQmov
  extract_lets kd ka
  exact .ite (.ite (canon_guarded (fun _ h3 => canon_writeQ h3) h)
    (.ite (canon_guarded (fun _ h4 => canon_writeQ h4) h) (canon_guarded (fun _ h4 => canon_writeQ h4) h)))
      (canon_guarded (fun _ h2 => canon_vecWrite h2) h)

/-! ### Gradients (R241, R242, R349) -/

theorem canon_execQgrad {v} {s : State} (h : s.canon) : Res.canon (execQgrad v s) :=
  canon_guarded (fun _ h1 => canon_vecWrite h1) h

theorem canon_execQbgrad {v} {s : State} (h : s.canon) : Res.canon (execQbgrad v s) :=
  canon_guarded (fun _ h1 => canon_vecWrite h1) h

theorem canon_execQpgrad {v} {s : State} (h : s.canon) : Res.canon (execQpgrad v s) :=
  canon_guarded (fun _ h1 => canon_vecWrite h1) h

end Sys2Proof.Machine
end

section
/-! CANONICAL FORM. The sequencer's events. -/

namespace Sys2Proof.Machine

/-! ### Walks (R139–R141) -/

theorem canon_delayOwner {o n} {c : Core} (h : c.canon) : Core.canon (delayOwner o n c) := by
  unfold delayOwner
  split
  · exact h
  · exact h
  · exact h

theorem canon_execTranslationMiss {core} {s : State} (h : s.canon) : Res.canon (execTranslationMiss core s) := by
  unfold execTranslationMiss
  extract_lets s1
  have hs1 : State.canon s1 := canon_select h
  split
  · next s1' _ _ _ _ _ _ =>
      have hs1' : State.canon s1' := hs1
      extract_lets c
      have hc : Core.canon c := canon_delayOwner hs1'.core
      exact canon_spend (hs1'.setCore hc)
  · exact canon_notEnabled

theorem canon_lapse {s : State} (h : s.canon) : State.canon (lapse s) := by
  unfold lapse
  split
  · exact .ite h h
  · exact h

theorem canon_execWalkComplete {core} {s : State} (h : s.canon) : Res.canon (execWalkComplete core s) := by
  unfold execWalkComplete
  extract_lets s1
  have hs1 : State.canon s1 := canon_select h
  split
  · exact canon_notEnabled
  · split
    · exact canon_notEnabled
    · extract_lets found s1' s2
      have hs1' : State.canon s1' := canon_spend hs1
      have hs2 : State.canon s2 := by
        unfold s2
        split
        · exact canon_classify hs1'
        · exact hs1'
      split
      · exact canon_takeCauseAt (canon_lapse hs2)
      · exact hs2

theorem canon_execXinv {v} {s : State} (h : s.canon) : Res.canon (execXinv v s) :=
  canon_fromHost (State.canon.ite (canon_spend h) h)

theorem canon_execInvalidationComplete {die} {s : State} (h : s.canon) : Res.canon (execInvalidationComplete die s) :=
  .ite canon_notEnabled h

/-! ### Landing and errors -/

theorem canon_execResultLand {core} {s : State} (h : s.canon) : Res.canon (execResultLand core s) :=
  .ite canon_notEnabled (State.canon.foldl (fun _ _ h2 => canon_stopRoutine h2) (canon_landAll (canon_select h)))

theorem canon_execMemerr {core} {s : State} (h : s.canon) : Res.canon (execMemerr core s) := by
  unfold execMemerr
  extract_lets s1
  have hs1 : State.canon s1 := canon_select h
  clear_value s1
  split
  · exact canon_notEnabled
  · exact .ite (canon_endTask hs1) hs1

/-! ### Drain table and boundaries (R254, R255) -/

theorem canon_drainError {a} {s : State} (h : s.canon) : State.canon (drainError a s) := canon_taskErrorAt (canon_classify h)

theorem canon_execDrainDiversion {core} {s : State} (h : s.canon) : Res.canon (execDrainDiversion core s) := by
  unfold execDrainDiversion
  extract_lets s1
  have hs1 : State.canon s1 := canon_select h
  split
  · exact hs1
  · exact canon_notEnabled

theorem canon_execDrainDeferralKill {core} {s : State} (h : s.canon) : Res.canon (execDrainDeferralKill core s) := by
  unfold execDrainDeferralKill
  extract_lets s1
  have hs1 : State.canon s1 := canon_select h
  split
  · exact canon_notEnabled
  · exact .ite canon_notEnabled (canon_endTask hs1)

theorem canon_execStubTimeoutKill {core} {s : State} (h : s.canon) : Res.canon (execStubTimeoutKill core s) :=
  .ite canon_notEnabled (canon_endTask (canon_select h))

/-! ### Waits (R401–R405) -/

theorem canon_noteSeen {s : State} (h : s.canon) : State.canon (noteSeen s) := by
  unfold noteSeen
  split
  · split
    · extract_lets r c0
      have hr : State.canon r.2 := canon_seenAt rfl h
      exact hr
    · exact h
  · exact h

theorem canon_execWaitRelease {core} {s : State} (h : s.canon) : Res.canon (execWaitRelease core s) := by
  unfold execWaitRelease
  extract_lets s1
  have hs1 : State.canon s1 := canon_select h
  clear_value s1
  split
  · exact canon_notEnabled
  · next s1' _ _ _ =>
      have hs1' : State.canon s1' := hs1
      clear_value s1'
      split
      · split
        · exact canon_acquire hs1'
        · exact canon_acquire hs1'
        · exact hs1'
      · exact .ite hs1 canon_notEnabled

/-! ### Traps and reports -/

theorem canon_execTrapEntry {core} {s : State} (h : s.canon) : Res.canon (execTrapEntry core s) := by
  unfold execTrapEntry
  extract_lets s1
  have hs1 : State.canon s1 := canon_select h
  split
  · exact canon_notEnabled
  · exact .ite canon_notEnabled (canon_enterHandler hs1)

theorem canon_execTimingReport {core} {s : State} (h : s.canon) : Res.canon (execTimingReport core s) := by
  unfold execTimingReport
  extract_lets s1
  have hs1 : State.canon s1 := canon_select h
  clear_value s1
  split
  · exact canon_notEnabled
  · next s1' _ _ _ _ =>
      have hs1' : State.canon s1' := canon_lapse hs1
      clear_value s1'
      split
      · exact canon_notEnabled
      · extract_lets s2
        have hs2 : State.canon s2 := canon_takeCause hs1'
        clear_value s2
        exact hs2

/-! ### After a bundle (R97–R99) -/

theorem canon_swapHalf {s : State} (h : s.canon) : State.canon (swapHalf s) := by
  unfold swapHalf
  extract_lets c shown
  have hshown : mwf [] shown = true := by
    refine mwf_filterMap (fun p q hp hq => ?_) h.core.ok.unfetched
    split at hq
    · obtain rfl := Option.some.inj hq
      exact ⟨rfl, hp⟩
    · obtain ⟨b, _, rfl⟩ := Option.map_eq_some_iff.1 hq
      exact ⟨rfl, List.cons_ne_nil _ _⟩
  exact h.setCore (Core.Ok.canon { h.core.ok with unfetched := hshown })

theorem canon_goTo {n} {s : State} (h : s.canon) : State.canon (goTo n s) := h

theorem canon_afterBundle {n} {s : State} (h : s.canon) : State.canon (afterBundle n s) := by
  unfold afterBundle
  extract_lets c s1
  have hs1 : State.canon s1 := by
    unfold s1
    split
    · exact canon_goTo h
    · exact h
  exact hs1

theorem canon_cycleDone {s : State} (h : s.canon) : State.canon (cycleDone s) := h

theorem canon_execPause {n} {s : State} (h : s.canon) : Res.canon (execPause n s) :=
  canon_cycleDone (.ite (canon_afterBundle h) (.ite (canon_afterBundle h) h))

end Sys2Proof.Machine
end

section
/-! CANONICAL FORM. Every instruction. -/

namespace Sys2Proof.Machine

theorem canon_exec {i} {s : State} (h : s.canon) : Res.canon (exec i s) := by
  unfold exec
  split
  · exact canon_execRonilorStart h
  · exact canon_execLinkTraining h
  · exact canon_execHbmTraining h
  · exact canon_execFirmwareLoad h
  · exact canon_execPtpLock h
  · exact canon_execAttestationRequest h
  · exact canon_execModuleReset
  · exact canon_execSetModuleId h
  · exact canon_execBootstatFailsWrite h
  · exact canon_execThermalWarning h
  · exact canon_execLossOfLock h
  · exact canon_execSlotHeaderReceive h
  · exact canon_execFlitReceive h
  · exact canon_execRemoteRequest h
  · exact canon_execRemoteResponse h
  · exact canon_execLtarm h
  · exact canon_execLtstop h
  · exact canon_execGroupActivate h
  · exact canon_fromHost h -- finjWrite
  · exact canon_execTtArm h
  · exact canon_execTtStop h
  · exact canon_execTtEntryRead h
  · exact canon_execCodePreload h
  · exact canon_execScratchpadLoad h
  · exact canon_execTaskStart h
  · exact canon_execLoadFailure h
  · exact canon_execLatePolicy h
  · exact canon_execPoolPreempt h
  · exact canon_execTaskResume h
  · exact canon_execTaskRerun h
  · exact canon_execOverrun h
  · exact canon_execTaskRetire h
  · exact canon_fromHost h -- faultLogConfig
  · exact canon_execPoolPost h
  · exact canon_execPoolCancel h
  · exact canon_execBackgroundPost h
  · exact canon_execRegisterWrite h
  · exact canon_execXinv h
  · exact canon_execTranslationMiss h
  · exact canon_execWalkComplete h
  · exact canon_execSlcfgWrite h
  · exact canon_execWmodeChangeComplete h
  · exact canon_execL2Eviction h
  · exact canon_execRegionFlush h
  · exact canon_execRegionFlushComplete h
  · exact canon_execCodedAccess h
  · exact canon_execCodedWriteback h
  · exact canon_execMemerr h
  · exact canon_execResultLand h
  · exact canon_execWaitRelease h
  · exact canon_execTrapEntry h
  · exact canon_execTimingReport h
  · exact canon_execDrainDiversion h
  · exact canon_execDrainDeferralKill h
  · exact canon_execStubTimeoutKill h
  · exact canon_execCopyStart h
  · exact canon_execCopyComplete h
  · exact canon_execCflushComplete h
  · exact canon_execRoutineStart h
  · exact canon_execRoutineComplete h
  · exact canon_execRescaleComplete h
  · exact canon_execCollectiveStart h
  · exact canon_execCollectiveComplete h
  · exact canon_execPause h
  -- add, sub, mul, mulh, mulhu, div, divu, rem, remu, and, or, xor, andn, shl, shr, sar, rol, min, max, minu, maxu
  iterate 21 · exact canon_sop2 h
  -- clz, popc
  iterate 2 · exact canon_sop1 h
  -- pdep, pext
  iterate 2 · exact canon_sop2 h
  -- addi, andi, ori, xori, shli, shri, sari
  iterate 7 · exact canon_sop1 h
  · exact canon_execLui h
  · exact canon_execCmp h
  · exact canon_execCmpi h
  · exact canon_execSel h
  · exact canon_execGlog h
  · exact canon_execPuni h
  -- fadd, fsub, fmul, ffma, fdiv, fsqrt
  iterate 6 · exact canon_sfp h
  -- fmin, fmax
  iterate 2 · exact canon_sMinMax h
  · exact canon_execFcvt h
  · exact canon_execFcmp h
  · exact canon_execLd h
  · exact canon_execSt h
  · exact canon_execAmo h
  · exact canon_execCas h
  · exact canon_execMfs h
  · exact canon_execMts h
  · exact canon_execMtsTemp h
  · exact canon_execMtsLsc h
  · exact canon_execMtsLscr h
  · exact canon_execMtsTripKix h
  · exact canon_execMtsHot h
  · exact canon_execMtsRslim h
  · exact canon_execMtsTcause h
  · exact canon_execMtsCctr h
  · exact canon_execMpset h
  · exact canon_execCdset h
  · exact canon_execLaunch h
  -- vadd, vsub, vmul, vfma, vfms, vfnma, vdiv, vsqrt
  iterate 8 · exact canon_vArith h
  -- vmin, vmax, vabs, vneg
  iterate 4 · exact canon_vPlain h
  -- vexp2, vlog2
  iterate 2 · exact canon_vArith h
  · exact canon_execVsqacc h
  -- vcmul, vcfma
  iterate 2 · exact canon_vCplx h
  · exact canon_execVconj h
  -- vand, vor, vxor, vshl, vshr, vsar
  iterate 6 · exact canon_vLogic h
  · exact canon_execVcvt h
  · exact canon_execVqnt h
  · exact canon_execVdqnt h
  · exact canon_execVmxq h
  · exact canon_execVmxd h
  · exact canon_execVmov h
  · exact canon_execVbcast h
  · exact canon_execVperm h
  · exact canon_execVbitx h
  · exact canon_execVlane h
  · exact canon_execVred h
  · exact canon_execVextr h
  · exact canon_execVins h
  · exact canon_execVcmp h
  · exact canon_execVsel h
  · exact canon_execVflag h
  · exact canon_execVrnd h
  · exact canon_execPlog h
  · exact canon_execPmov h
  · exact canon_execScmp h
  · exact canon_execQlog h
  · exact canon_execQnot h
  · exact canon_execQblend h
  · exact canon_execQcol h
  · exact canon_execQhard h
  · exact canon_execQmov h
  · exact canon_execQgrad h
  · exact canon_execQbgrad h
  · exact canon_execQpgrad h
  -- gemm, gemmt, conv, cgemm, gate, accrd, accclr
  iterate 7 · exact canon_mcall h
  · exact canon_mcallSeen h -- skinit
  -- skfold, skshrink, skmerge, skrd, skwr, userRoutineCall
  iterate 6 · exact canon_mcall h
  · exact canon_mcallSeen h -- userRoutineLoad
  · exact canon_put h -- mstop
  · exact canon_execMstat h
  · exact canon_execLdv h
  · exact canon_execStv h
  · exact canon_loadLanes h -- ldvs
  · exact canon_storeLanes h -- stvs
  · exact canon_loadLanes h -- ldx
  · exact canon_storeLanes h -- stx
  · exact canon_execLdt h
  · exact canon_execStt h
  · exact canon_execCopy h
  -- arrive, expect
  iterate 2 · exact canon_barrierOp h
  · exact canon_execTokclr h
  · exact canon_execCflush h
  · exact canon_execSend h
  -- recv, recvadd, recvsq
  iterate 3 · exact canon_recvWith h
  · exact canon_execPutsig h
  · exact canon_execNcoll h
  · exact canon_execNwait h
  -- br, brc
  iterate 2 · exact canon_condBranch h
  · exact canon_execCall h
  · exact canon_execRet h
  · exact canon_execLoop h
  · exact canon_execLoopr h
  · exact canon_execBswap h
  · exact canon_execIfence h
  · exact canon_execWaitb h
  · exact canon_execWaitt h
  · exact canon_execWaitc h
  · exact canon_execHold h
  · exact canon_execDone h
  · exact canon_execYield h
  · exact canon_execTrap h
  · exact canon_execEbreak h
  · exact canon_execSavex h
  · exact canon_execRestx h
  · exact canon_execAcq h
  · exact canon_execRel h
  · exact canon_execFence h
  · exact canon_execInvalidationComplete h
  · exact canon_execLeaveHoldover h
  · exact canon_execMapPublish h
  · exact canon_execBringUpWatchdog h
  · exact canon_execPtpLockTimeout h
  · exact canon_execFenceListClear h
  -- thermalStop, powerOverloadStop
  iterate 2 · exact canon_thermalHold h
  · exact canon_execSlotSend h
  · exact canon_execSignalApply h
  · exact canon_execLinkTimetableStart h
  · exact canon_execLinkTimetableEnd h
  · exact canon_execPoolTake h
  · exact canon_execBarrierUpdate h
  · exact canon_cycleDone h -- quote
  · exact canon_execMnop h
  · exact canon_execCnop h
  · exact canon_execNnop h
  · exact canon_execBnop h

end Sys2Proof.Machine
end

section
/-! CANONICAL FORM. What happens next. -/

namespace Sys2Proof.Machine

/-! ### A bundle's operations and causes (R94, R250, R278) -/

theorem canon_countLanding {x i b} {s : State} (h : s.canon) : State.canon (countLanding b x i s) := by
  unfold countLanding
  split
  · exact .ite (canon_put h) h
  · exact h

/-- The state that the operations of a bundle leave so far is canonical, and so is what stopped them. -/
structure Issuing.Canon (a : Issuing) : Prop where
  st : a.st.canon
  stop : ∀ o, a.stop = some o → Res.canon o

theorem canon_issueSlot {trap b a x} (ha : Issuing.Canon a) : (issueSlot trap b a x).Canon := by
  unfold issueSlot
  split
  · next i hstop _ _ =>
    have hi := canon_exec (i := i) ha.st
    split
    · next t he =>
      rw [he] at hi
      have ht : State.canon t := hi
      split
      · exact ⟨canon_countLanding ht, ha.stop⟩
      · extract_lets c t1
        have ht1 : State.canon t1 := ht
        split
        · exact ⟨ht1, ha.stop⟩
        · split
          · exact ha
          · split
            · exact ⟨ht1, ha.stop⟩
            · exact ⟨ha.st, ha.stop⟩
    · next o _ => exact ⟨ha.st, fun o ho => Option.some.inj ho ▸ hi⟩
  · exact ha

theorem canon_startBundle {s : State} (h : s.canon) : State.canon (startBundle s) :=
  h.setCore (Core.Ok.canon { h.core.ok with bold := rfl })

theorem canon_faulted {t pos} {b : State} (h : b.canon) : State.canon (faulted t pos b) :=
  canon_cycleDone (canon_takeCauseAt (canon_lapse (canon_spend h)))

theorem canon_ownTrap {t n b} {s : State} (h : s.canon) : State.canon (ownTrap t n b s) := by
  unfold ownTrap
  extract_lets pos clean s1
  have hs1 : State.canon s1 := canon_lapse (canon_spend h)
  clear_value s1
  exact canon_cycleDone (.ite (canon_endTask hs1) hs1)

theorem canon_settleEnd {s : State} (h : s.canon) : State.canon (settleEnd s) := by
  unfold settleEnd
  split
  · exact h
  · exact canon_discardBte h
  · extract_lets s1
    have hs1 : State.canon s1 := canon_discardBte h
    exact hs1
  · exact h

theorem canon_issueBundle {w n} {s : State} (h : s.canon) : Res.canon (issueBundle w n s) := by
  unfold issueBundle
  extract_lets b ops a
  have hb : State.canon b := canon_startBundle h
  split
  · exact canon_faulted hb
  · have ha : Issuing.Canon a := List.foldlRecOn (motive := Issuing.Canon) _ _
      ⟨hb, fun _ ho => absurd ho (Option.some_ne_none _).symm⟩ fun _ ha _ _ => canon_issueSlot ha
    split
    · exact ha.stop _ ‹a.stop = some _›
    · exact canon_faulted hb
    · exact canon_cycleDone (canon_lapse (canon_spend hb))
    · exact canon_ownTrap ha.st
    · exact canon_cycleDone (canon_afterBundle (canon_settleEnd ha.st))

/-! ### Fetch (R95–R98) -/

theorem canon_illegalIndex {detail pos} {s : State} (h : s.canon) : State.canon (illegalIndex detail pos s) := canon_faulted h

theorem canon_fetch {s : State} (h : s.canon) : Res.canon (fetch s) := by
  unfold fetch
  extract_lets c p
  split
  · exact canon_illegalIndex h
  · split
    · exact .ite (canon_illegalIndex h) (canon_issueBundle h)
    · split
      · exact .ite (canon_illegalIndex h) (canon_issueBundle h)
      · exact canon_exec h
      · exact canon_illegalIndex h

theorem canon_arrive {s : State} (h : s.canon) : State.canon (arrive s) := .ite (canon_swapHalf h) h

theorem canon_issueNext {s : State} (h : s.canon) : Res.canon (issueNext s) := by
  unfold issueNext
  extract_lets c
  split
  · exact canon_issueBundle h
  · next clear _ _ s1 _ _ _ =>
      have hclear : State.canon clear := h
      have hs1 : State.canon s1 := hclear
      exact .ite (canon_cycleDone h)
        (.ite (canon_cycleDone (.ite (canon_afterBundle hs1) hs1)) (canon_fetch (canon_arrive hclear)))

/-! ### A core's turn (R103, R245, R251–R255, R401–R405) -/

theorem canon_frozen {s : State} (h : s.canon) : State.canon (frozen s) := h

theorem canon_divertOr {g} {s : State} (h : s.canon) : Res.canon (divertOr g s) := by
  unfold divertOr
  extract_lets now
  split
  · split
    · next he => exact .ite (he ▸ canon_issueNext h) (canon_exec h)
    · exact canon_issueNext h
  · exact canon_exec h

theorem canon_boundary {g} {s : State} (h : s.canon) : Res.canon (boundary g s) := by
  unfold boundary
  extract_lets report
  split
  · exact .ite (canon_exec h) (.ite (canon_exec (canon_arrive h)) (canon_drainError h))
  · exact .ite (.ite (canon_exec h) (.ite (canon_exec h) (canon_frozen h)))
      (.ite (canon_exec (canon_arrive h)) (.ite (canon_divertOr h) (canon_issueNext h)))

theorem canon_resumeAt {w} {s : State} (h : s.canon) : State.canon (resumeAt w s) := h

theorem canon_walkTurn {g r} {s : State} (hr : walkTurn g s = some r) (h : s.canon) : Res.canon r := by
  unfold walkTurn at hr
  split at hr
  · obtain rfl := Option.some.inj hr
    exact .ite (canon_exec h) (canon_frozen h)
  · split at hr
    · obtain rfl := Option.some.inj hr
      exact canon_exec h
    · exact absurd hr (Option.some_ne_none _).symm

theorem canon_coreTurn {g} {s : State} (h : s.canon) : Res.canon (coreTurn g s) := by
  unfold coreTurn
  extract_lets s1 c
  have hs1 : State.canon s1 := canon_select h
  split
  · extract_lets s2
    have hs2 : State.canon s2 := hs1
    exact State.canon.ite (canon_remoteError hs2) hs2
  · next hw => exact canon_walkTurn hw hs1
  · refine .ite (canon_exec hs1) (.ite (canon_boundary hs1) (.ite (canon_exec hs1) (.ite (canon_cycleDone hs1) ?_)))
    split
    · exact .ite (canon_cycleDone hs1) (canon_exec hs1)
    · exact canon_resumeAt hs1
    · exact canon_boundary hs1

/-! ### The step (logs 2, 3) -/

theorem canon_noteAll {s : State} (h : s.canon) : State.canon (noteAll s) :=
  .foldl (fun _ _ h1 => .ite (canon_noteSeen (canon_select h1)) h1) h

theorem canon_tick {s : State} (h : s.canon) : State.canon (tick s) := by
  unfold tick
  split
  · extract_lets s1
    have hs1 : State.canon s1 := canon_noteAll h
    exact hs1
  · exact h

theorem canon_internal {s : State} (h : s.canon) : Res.canon (internal s) := by
  unfold internal
  split
  · exact canon_landWrite h
  · exact canon_queueHeld h
  · split
    · exact canon_exec h
    · split
      · exact canon_coreTurn h
      · split
        · exact canon_exec h
        · exact canon_tick h

theorem canon_noInput {s : State} (h : s.canon) : Res.canon (noInput s) := by
  unfold noInput
  split
  · exact canon_hostAct h
  · exact canon_internal h

theorem canon_nextStep {s : State} (h : s.canon) : Res.canon (nextStep s) := by
  unfold nextStep
  split
  · exact .ite (canon_exec h) (canon_noInput h)
  · exact canon_noInput h

end Sys2Proof.Machine
end

section
/-! CANONICAL FORM. One step. -/

namespace Sys2Proof.Machine

theorem canon_step {s : State} (h : s.canon) : Res.canon (step s) := canon_nextStep h

/-- Settles O58: every function that a step calls keeps the canonical form, and so does the step (R8, R134, log 4). -/
theorem stepKeepsCanonical : Obligations.StepKeepsCanonical := by
  unfold Obligations.StepKeepsCanonical
  intro s t h hs
  have hr : Res.canon (step s) := canon_step h
  rw [hs] at hr
  exact hr

end Sys2Proof.Machine
end

section
/-! SUPPORT. What the device-level operations leave of the cores: their writes reach memory, L2, the fault log and the
maps, and no core (R17, R66, R130, R205, R253). -/

namespace Sys2Proof.Machine

/-- What the cores see of a state: which one is current, what each holds, and whether the thermal stop is in force. -/
def coresOf (s : State) : Nat × Core × SMap Core × Bool := (s.coreNo, s.core, s.others, s.boot.tstop)

theorem coresOf_ite {p : Prop} {_ : Decidable p} {s t u : State} (hs : coresOf s = coresOf u) (ht : coresOf t = coresOf u) :
    coresOf (if p then s else t) = coresOf u := by
  split
  · exact hs
  · exact ht

theorem coresOf_foldl {ι : Type} {f : State → ι → State} (hf : ∀ s i, coresOf (f s i) = coresOf s) (l : List ι)
    (s : State) : coresOf (l.foldl f s) = coresOf s := by
  induction l generalizing s with
  | nil => rfl
  | cons i l ih => exact (ih _).trans (hf s i)

/-- An access leaves the cores of `s` alone, whether it fails with a state or answers one (`g` of its answer). -/
def AccLeavesCores {ε β : Type} (s : State) (g : β → State) : Except (ε × State) β → Prop
  | .error e => coresOf e.2 = coresOf s
  | .ok b => coresOf (g b) = coresOf s

/-! ### Memory and L2 (R130, R147) -/

@[simp] theorem coresOf_spend (k : Nat) (s : State) : coresOf (spend k s) = coresOf s := rfl

@[simp] theorem coresOf_l2Drop (die line : Nat) (s : State) : coresOf (l2Drop die line s) = coresOf s := by
  unfold l2Drop
  extract_lets k x
  split
  · rfl
  · rfl

@[simp] theorem coresOf_l2Twin (die line : Nat) (s : State) : coresOf (l2Twin die line s) = coresOf s :=
  coresOf_ite (coresOf_l2Drop ..) rfl

@[simp] theorem coresOf_l2Line (pol : Nat) (wr : Bool) (die line : Nat) (mask : BitVec 4) (s : State) :
    coresOf (l2Line pol wr die line mask s) = coresOf s := by
  unfold l2Line
  extract_lets k x ws put d
  have hput : ∀ w l s, coresOf (put w l s) = coresOf s := fun _ _ _ => rfl
  split
  · exact hput ..
  · split
    · rfl
    · split
      · exact hput ..
      · rw [hput, coresOf_l2Twin]
        exact coresOf_ite rfl rfl

@[simp] theorem coresOf_nextAccess (s : State) : coresOf (nextAccess s) = coresOf s := coresOf_ite rfl rfl

@[simp] theorem coresOf_l2Touch (pol : Nat) (wr : Bool) (a n : Nat) (s : State) : coresOf (l2Touch pol wr a n s) = coresOf s := by
  unfold l2Touch
  rw [coresOf_nextAccess]
  exact coresOf_ite rfl (coresOf_foldl (fun _ _ => coresOf_l2Line ..) _ _)

@[simp] theorem coresOf_freshen (a n : Nat) (s : State) : coresOf (freshen a n s) = coresOf s := rfl

@[simp] theorem coresOf_memWrite (pol a : Nat) (bs : List Byte) (s : State) : coresOf (memWrite pol a bs s) = coresOf s :=
  coresOf_l2Touch pol true a bs.length s

/-! ### The fault log, fencing and errors (R26, R66, R253) -/

@[simp] theorem coresOf_sendIrq (die kind entry rep : Nat) (s : State) : coresOf (sendIrq die kind entry rep s) = coresOf s := rfl

@[simp] theorem coresOf_fenceUnit (u : HwUnit) (s : State) : coresOf (fenceUnit u s) = coresOf s := rfl

@[simp] theorem coresOf_passRetry (a : Nat) (s : State) : coresOf (passRetry a s) = coresOf s := rfl

theorem coresOf_faultLogN (fuel cyc kind die core cause taskId entry tepc info addr : Nat) (s : State) :
    coresOf (faultLogN fuel cyc kind die core cause taskId entry tepc info addr s) = coresOf s := by
  induction fuel using Nat.strong_induction_on generalizing cyc kind die core cause taskId entry tepc info addr s with
  | _ fuel ih =>
    unfold faultLogN
    extract_lets f lost
    have hlost : coresOf lost = coresOf s := rfl
    refine coresOf_ite rfl (coresOf_ite hlost ?_)
    split
    · exact hlost
    · split
      · extract_lets s1
        have hs1 : coresOf s1 = coresOf s := (coresOf_memWrite ..).trans rfl
        exact coresOf_ite ((coresOf_sendIrq ..).trans hs1) hs1
      · refine coresOf_ite hlost ?_
        split
        · exact hlost
        · extract_lets b
          split
          · exact hlost
          · split
            · exact hlost
            · next u _ _ _ =>
              have hfence : coresOf (fenceUnit u lost) = coresOf s := (coresOf_fenceUnit u lost).trans hlost
              have hretry : coresOf (passRetry b lost) = coresOf s := (coresOf_passRetry b lost).trans hlost
              exact coresOf_ite ((ih _ (Nat.lt_succ_self _) ..).trans hfence) ((ih _ (Nat.lt_succ_self _) ..).trans hretry)

@[simp] theorem coresOf_faultLog (kind die core cause taskId entry tepc info addr : Nat) (s : State) :
    coresOf (faultLog kind die core cause taskId entry tepc info addr s) = coresOf s := coresOf_faultLogN ..

@[simp] theorem coresOf_classify (a : Nat) (s : State) : coresOf (classify a s) = coresOf s := by
  unfold classify
  extract_lets p
  split
  · exact coresOf_faultLog ..
  · next u info die _ =>
    have hfence : coresOf (if present s a then fenceUnit u s else s) = coresOf s := coresOf_ite (coresOf_fenceUnit u s) rfl
    exact coresOf_ite ((coresOf_faultLog ..).trans hfence) ((coresOf_faultLog ..).trans (coresOf_passRetry a s))

/-! ### Coded blocks (R204–R208) -/

@[simp] theorem coresOf_putBlock (b : CodedBlock) (s : State) : coresOf (putBlock b s) = coresOf s := rfl

@[simp] theorem coresOf_touchBlock (i k : Nat) (install : Bool) (read dirty : Byte) (s : State) :
    coresOf (touchBlock i k install read dirty s) = coresOf s := by
  unfold touchBlock
  extract_lets die ln line
  have hline : ∀ j s, coresOf (line j s) = coresOf s := by
    intro j s
    unfold line
    extract_lets d r s1
    have hs1 : coresOf s1 = coresOf s := coresOf_ite (coresOf_l2Line ..) (coresOf_ite (coresOf_l2Line ..) rfl)
    exact coresOf_ite ((coresOf_l2Line ..).trans hs1) hs1
  rw [coresOf_nextAccess, hline, hline]

theorem fetchBlock_leavesCores (i k la : Nat) (s : State) : AccLeavesCores s (fun b => b.2.2) (fetchBlock i k la s) := by
  unfold fetchBlock
  split
  · rfl
  · extract_lets r a
    split
    · exact coresOf_classify ..
    · split
      · exact coresOf_l2Touch ..
      · exact coresOf_l2Touch ..

theorem codedEntry_leavesCores (a : Nat) (s : State) : AccLeavesCores s (fun _ => s) (codedEntry a s) := by
  unfold codedEntry
  split
  · exact coresOf_classify ..
  · split
    · rfl
    · rfl

theorem codedWrites_leavesCores (own : Bool) (ws : List (Nat × List Byte)) (s : State) :
    AccLeavesCores s id (codedWrites own ws s) := by
  unfold codedWrites
  extract_lets a
  split
  · next he => exact (he ▸ codedEntry_leavesCores a s :)
  · next i k _ =>
    extract_lets note
    have hnote : ∀ old u, coresOf (note old u) = coresOf u := by
      intro old u
      unfold note
      split
      · rfl
      · rfl
    split
    · next s1 _ =>
      have hs1 : coresOf s1 = coresOf s := hnote _ _
      exact (coresOf_touchBlock ..).trans ((coresOf_putBlock _ s1).trans hs1)
    · have hfetch := fetchBlock_leavesCores i k a s
      split
      · next he => exact (he ▸ hfetch :)
      · next b _ s1 he =>
        rw [he] at hfetch
        have hs1 : coresOf (note (some b.bytes) s1) = coresOf s := (hnote _ _).trans hfetch
        exact (coresOf_touchBlock ..).trans ((coresOf_putBlock _ _).trans hs1)

/-! ### Records, runs, the pool (R55, R64, R70, R91) -/

@[simp] theorem coresOf_setTt (d : Nat) (t : Timetable) (s : State) : coresOf (setTt d t s) = coresOf s := rfl

@[simp] theorem coresOf_writeRecord (ga : Nat) (bs : List Byte) (s : State) : coresOf (writeRecord ga bs s) = coresOf s := by
  unfold writeRecord
  split
  · rfl
  · refine coresOf_foldl (fun u i => ?_) _ _
    extract_lets x b
    split
    · have hw : AccLeavesCores u id (codedWrite x b u) := codedWrites_leavesCores ..
      split
      · rfl
      · split
        · next he => exact (he ▸ hw :)
        · next he => exact (he ▸ hw :)
    · exact coresOf_ite (coresOf_memWrite ..) (coresOf_ite (coresOf_classify ..) rfl)

@[simp] theorem coresOf_modRun (die entry pass : Nat) (f : EntryRun → EntryRun) (s : State) :
    coresOf (modRun die entry pass f s) = coresOf s := rfl

@[simp] theorem coresOf_refreshNext (d : Nat) (s : State) : coresOf (refreshNext d s) = coresOf s := coresOf_ite rfl rfl

@[simp] theorem coresOf_endTimetable (d : Nat) (s : State) : coresOf (endTimetable d s) = coresOf s := coresOf_ite rfl rfl

@[simp] theorem coresOf_closeRun (die entry pass : Nat) (s : State) : coresOf (closeRun die entry pass s) = coresOf s := by
  unfold closeRun
  split
  · rfl
  · refine coresOf_ite rfl ?_
    extract_lets s1
    have hs1 : coresOf s1 = coresOf s := coresOf_writeRecord ..
    rw [coresOf_endTimetable, coresOf_refreshNext]
    exact coresOf_ite hs1 hs1

@[simp] theorem coresOf_skipBit (die entry pass b : Nat) (s : State) : coresOf (skipBit die entry pass b s) = coresOf s :=
  coresOf_closeRun ..

@[simp] theorem coresOf_freePoolEntry (i die rep : Nat) (rcd : List Byte) (s : State) :
    coresOf (freePoolEntry i die rep rcd s) = coresOf s := by
  unfold freePoolEntry
  extract_lets e cr s1 p s2 s3
  have hs2 : coresOf s2 = coresOf s := rfl
  have hs3 : coresOf s3 = coresOf s := coresOf_ite ((coresOf_writeRecord ..).trans hs2) hs2
  exact coresOf_ite ((coresOf_sendIrq ..).trans hs3) hs3

@[simp] theorem coresOf_skipPool (i : Nat) (s : State) : coresOf (skipPool i s) = coresOf s := by
  unfold skipPool
  extract_lets e own s1
  have hs1 : coresOf s1 = coresOf s := coresOf_freePoolEntry ..
  clear_value s1 own
  split
  · exact (coresOf_skipBit ..).trans hs1
  · exact hs1

@[simp] theorem coresOf_reportEnd (g : Nat) (t : Task) (ok : Bool) (cause : Nat) (c : Core) (s : State) :
    coresOf (reportEnd g t ok cause c s) = coresOf s := by
  unfold reportEnd
  extract_lets l s1
  have hs1 : coresOf s1 = coresOf s := coresOf_closeRun ..
  split
  · exact hs1
  · exact (coresOf_freePoolEntry ..).trans hs1

end Sys2Proof.Machine
end

section
/-! SUPPORT. The thermal stop on the current core (R20, R58, R93): whatever else it does, the core keeps its phase until a drain
is requested of it, and the request stays. -/

namespace Sys2Proof.Machine

/-- From `s` to `t` the current core is the same and in the same phase, a drain requested of it stays requested, and the thermal
stop is in force as before. -/
structure KeepsTask (s t : State) : Prop where
  coreNo : t.coreNo = s.coreNo
  phase : t.core.phase = s.core.phase
  drainReq : s.core.drainReq.isSome = true → t.core.drainReq.isSome = true
  tstop : t.boot.tstop = s.boot.tstop

theorem KeepsTask.of_cores {s t : State} (h : coresOf t = coresOf s) : KeepsTask s t := by
  simp only [coresOf, Prod.mk.injEq] at h
  obtain ⟨hno, hcore, -, hstop⟩ := h
  exact ⟨hno, by rw [hcore], by rw [hcore]; exact id, hstop⟩

theorem KeepsTask.refl (s : State) : KeepsTask s s := .of_cores rfl

theorem KeepsTask.trans {s t u : State} (h : KeepsTask s t) (h' : KeepsTask t u) : KeepsTask s u :=
  ⟨h'.coreNo.trans h.coreNo, h'.phase.trans h.phase, fun hd => h'.drainReq (h.drainReq hd), h'.tstop.trans h.tstop⟩

theorem KeepsTask.ite {p : Prop} {_ : Decidable p} {s t u : State} (ht : KeepsTask s t) (hu : KeepsTask s u) :
    KeepsTask s (if p then t else u) := by
  split
  · exact ht
  · exact hu

theorem KeepsTask.foldl {ι : Type} {f : State → ι → State} (hf : ∀ s i, KeepsTask s (f s i)) (l : List ι) (s : State) :
    KeepsTask s (l.foldl f s) := by
  induction l generalizing s with
  | nil => exact .refl s
  | cons i l ih => exact (hf s i).trans (ih _)

/-- A change of any core that keeps its phase and its drain request. -/
theorem modCore_keepsTask {f : Core → Core} (hphase : ∀ c, (f c).phase = c.phase)
    (hdrain : ∀ c, c.drainReq.isSome = true → (f c).drainReq.isSome = true) (g : Nat) (s : State) :
    KeepsTask s (modCore g f s) := by
  unfold modCore
  split
  · exact ⟨rfl, hphase _, hdrain _, rfl⟩
  · exact ⟨rfl, rfl, id, rfl⟩

theorem modQueue_keepsTask (f : Core → List Incoming) (g : Nat) (s : State) :
    KeepsTask s (modCore g (fun c => { c with queue := f c }) s) := modCore_keepsTask (fun _ => by rfl) (fun _ h => by exact h) g s

theorem dropSusp_keepsTask (g : Nat) (s : State) : KeepsTask s (modCore g (fun c => { c with susp := none }) s) :=
  modCore_keepsTask (fun _ => by rfl) (fun _ h => by exact h) g s

/-! ### Requests for a drain (R85, R254) -/

theorem requestDrain_keepsTask (g cause : Nat) (why : DrainWhy) (s : State) : KeepsTask s (requestDrain g cause why s) := by
  refine modCore_keepsTask (fun c => ?_) (fun c hc => ?_) g s
  · split
    · split <;> rfl
    · split
      · rfl
      · split
        · rfl
        · split <;> rfl
  · split
    · split <;> exact hc
    · split
      · exact hc
      · split
        · rfl
        · split
          · rfl
          · exact hc

/-- After a request the running current core has one pending. -/
theorem requestDrain_isSome (cause : Nat) (why : DrainWhy) {s : State} (h : s.core.phase = .run) :
    (requestDrain s.coreNo cause why s).core.drainReq.isSome = true := by
  have hdrain : ¬s.core.phase = .drain := by rw [h]; decide
  unfold requestDrain modCore
  rw [if_pos rfl]
  dsimp only
  rw [if_neg hdrain, if_neg (not_not.2 h)]
  split
  · rfl
  · next r hr =>
    split
    · rfl
    · exact hr ▸ rfl

/-! ### The stop of a timetable and of a core (R58) -/

theorem stopTimetable_keepsTask (d : Nat) (s : State) : KeepsTask s (stopTimetable d s) := by
  unfold stopTimetable
  extract_lets t gone keepQ s1 s2 left next
  have hkeepQ : ∀ i u, KeepsTask u (modCore i keepQ u) := modQueue_keepsTask _
  have hs1 : KeepsTask s s1 := .foldl (fun u i => .ite (.refl u) (hkeepQ _ u)) _ s
  clear_value s1
  have hs2 : coresOf s2 = coresOf s1 := rfl
  clear_value s2
  exact (hs1.trans (.of_cores hs2)).trans (.of_cores ((coresOf_endTimetable ..).trans (coresOf_setTt ..)))

theorem dropQueued_keepsTask (g : Nat) (q : Incoming) (s : State) : KeepsTask s (dropQueued g q s) := by
  unfold dropQueued
  extract_lets l s1
  have hs1 : KeepsTask s s1 := modQueue_keepsTask _ g s
  clear_value s1
  refine hs1.trans ?_
  split
  · exact .of_cores ((coresOf_closeRun ..).trans (coresOf_modRun ..))
  · split
    · exact .of_cores (coresOf_skipPool ..)
    · exact .of_cores (coresOf_skipBit ..)

/-- What `stopCore` does before it requests the drain. -/
theorem stopCore_eq (s : State) (g : Nat) : ∃ u, KeepsTask s u ∧ stopCore s g = requestDrain g cPreempt .thermal u := by
  unfold stopCore
  extract_lets s1 c s2
  have hs1 : KeepsTask s s1 := .foldl (fun _ _ => dropQueued_keepsTask ..) _ s
  refine ⟨s2, hs1.trans ?_, rfl⟩
  unfold s2
  clear_value s1
  split
  · exact .refl s1
  · exact (dropSusp_keepsTask g s1).trans (.of_cores (coresOf_reportEnd ..))

theorem stopCore_keepsTask (s : State) (g : Nat) : KeepsTask s (stopCore s g) := by
  obtain ⟨u, hu, he⟩ := stopCore_eq s g
  exact he ▸ hu.trans (requestDrain_keepsTask ..)

theorem stopCore_isSome {s : State} (h : s.core.phase = .run) : (stopCore s s.coreNo).core.drainReq.isSome = true := by
  obtain ⟨u, hu, he⟩ := stopCore_eq s s.coreNo
  rw [he, ← hu.coreNo]
  exact requestDrain_isSome _ _ (hu.phase.trans h)

/-- Every live core is stopped, the current one among them. -/
theorem stopCores_isSome {s : State} (h : s.core.phase = .run) :
    ((liveCores s).foldl stopCore s).core.drainReq.isSome = true := by
  simp only [liveCores, List.foldl_append, List.foldl_cons, List.foldl_nil]
  generalize (s.others.map Prod.fst).filter _ = low
  have hlow : KeepsTask s (low.foldl stopCore s) := .foldl (fun _ _ => stopCore_keepsTask ..) _ s
  refine (KeepsTask.foldl (fun _ _ => stopCore_keepsTask ..) _ _).drainReq ?_
  rw [← hlow.coreNo]
  exact stopCore_isSome (hlow.phase.trans h)

theorem dropPosts_keepsTask (s : State) : KeepsTask s (dropPosts s) :=
  .foldl (fun _ _ => .of_cores (coresOf_skipPool ..)) _ s

/-! ### The stop of the module (R20) -/

/-- Outside stage 2 the thermal stop comes into force, and a task that the current core runs is to be drained. -/
theorem thermalHold_stops {s : State} (h : inStage s 2 = false) :
    (thermalHold s).boot.tstop = true ∧ (s.core.phase = .run → (thermalHold s).core.drainReq.isSome = true) := by
  unfold thermalHold
  rw [if_neg (by rw [h]; exact Bool.false_ne_true)]
  extract_lets b s0 s1 s2
  have hb : coresOf (spend 1 { s with boot := { b with tstop := true, overheat := true } }) = (s.coreNo, s.core, s.others, true) :=
    rfl
  have hs0 : coresOf s0 = (s.coreNo, s.core, s.others, true) := (coresOf_faultLog ..).trans hb
  have hs1 : KeepsTask s0 s1 := .foldl (fun u d => .ite (stopTimetable_keepsTask d u) (.refl u)) _ s0
  clear_value s0 s1
  have hs2 : KeepsTask s1 s2 := .foldl (fun _ _ => stopCore_keepsTask ..) _ s1
  have hstopped : s1.core.phase = .run → s2.core.drainReq.isSome = true := stopCores_isSome
  clear_value s2
  obtain ⟨-, hcore, -, hstop⟩ : _ ∧ s0.core = s.core ∧ _ ∧ s0.boot.tstop = true := by
    simpa only [coresOf, Prod.mk.injEq] using hs0
  have hposts : KeepsTask s2 (dropPosts s2) := dropPosts_keepsTask s2
  refine ⟨hposts.tstop.trans (hs2.tstop.trans (hs1.tstop.trans hstop)), fun hrun => hposts.drainReq (hstopped ?_)⟩
  rw [hs1.phase, hcore, hrun]

/-- In stage 2 the thermal stop fails the start, REASON 6. -/
theorem thermalHold_stage2 {s : State} (h : inStage s 2 = true) :
    thermalHold s = failStart 6 { s with boot := { s.boot with tstop := true, overheat := true } } := if_pos h

end Sys2Proof.Machine
end

section
/-! SUPPORT. The module after MODULE_RESET (R20, R27): its state by its fields, and what every register above the maps reads. -/

namespace Sys2Proof.Machine

/-- The module that MODULE_RESET leaves: the reset state, with what lies outside the module, BOOTSTAT's kept fields, Ronilor's own
records and the fuses as they were (R27). -/
def resetOf (s : State) : State :=
  { State.reset with
    free := s.free, inputs := s.inputs, hostq := s.hostq, hostRead := s.hostRead, outbox := s.outbox, irqs := s.irqs
    boot := { Boot.reset with
      reason := s.boot.reason, fails := s.boot.fails, minimal := s.boot.minimal, fenced := s.boot.fenced, afail := s.boot.afail
      fence := s.boot.fence, transient := s.boot.transient, reports := s.boot.reports }
    maps := { Maps.reset with
      core := s.maps.fuseCore, stack := s.maps.fuseStack, csp := s.maps.fuseCsp, slice := s.maps.fuseSlice
      fuseCore := s.maps.fuseCore, fuseStack := s.maps.fuseStack, fuseCsp := s.maps.fuseCsp
      fuseSlice := s.maps.fuseSlice } }

theorem exec_moduleReset {s : State} (h : s.boot.tstop = false ∨ s.boot.overheat = false) :
    exec .moduleReset s = .next (resetOf s) := by
  have hcool : ¬(s.boot.tstop && s.boot.overheat) = true := by
    rcases h with h | h <;> simp [h]
  exact if_neg hcool

theorem exec_moduleReset_hot {s : State} (h : s.boot.tstop = true) (h' : s.boot.overheat = true) :
    exec .moduleReset s = notEnabled "MODULE_RESET" := if_pos (by rw [h, h']; rfl)

/-! ### Its registers (R9, R54) -/

theorem readHostBlock_resetOf (o : Nat) (s : State) : readHostBlock o (resetOf s) = if o = 0x0550 then 0x1FFFF else 0 := by
  have hsig : (resetOf s).sigcap = [] := rfl
  have himg : (resetOf s).pool.img = 0 := rfl
  unfold readHostBlock
  split
  · next h =>
    rw [hsig, if_neg (show ¬o = 0x0550 by omega)]
    rfl
  · split
    · next h =>
      rw [himg, if_neg (show ¬o = 0x0550 by omega), BitVec.ofNat_eq_ofNat, BitVec.toNat_zero, Nat.zero_div, Nat.zero_mod]
    · split <;> simp_all [resetOf, State.reset, Finj.reset, FaultLog.reset, Pool.reset, poolDone, fieldAt]

theorem readTt_resetOf (d off : Nat) (s : State) : readTt d off (resetOf s) = 0 := by
  have htt : ttOf (resetOf s) d = Timetable.idle := rfl
  unfold readTt
  rw [htt]
  split <;> rfl

theorem readFabric_resetOf (off : Nat) (s : State) : readFabric off (resetOf s) = 0 := by
  have hgroup : ∀ i, readGroup i (resetOf s) = 0 := fun _ => rfl
  have hfab : (resetOf s).fab = Fabric.reset := rfl
  unfold readFabric
  simp only [hgroup, hfab]
  split
  · rfl
  · split
    · exact ite_self 0
    · split <;> rfl

theorem readXlat_resetOf (off : Nat) (s : State) : readXlat off (resetOf s) = 0 := by
  unfold readXlat
  split <;> rfl

theorem readBinding_resetOf (i w : Nat) (s : State) : readBinding i w (resetOf s) = 0 := by
  unfold readBinding
  split <;> rfl

/-- R195. No region is in force. -/
theorem inForce_resetOf (i : Nat) (s : State) : inForce (resetOf s) i = false := by
  simp only [inForce, show (regionOf (resetOf s) i).v = false from rfl, Bool.false_and]

theorem readRegion_resetOf (i w : Nat) (s : State) : readRegion i w (resetOf s) = 0 := by
  unfold readRegion
  rw [inForce_resetOf]
  split <;> rfl

theorem readCodedCtr_resetOf (sl i w : Nat) (s : State) : readCodedCtr sl i w (resetOf s) = 0 := by
  unfold readCodedCtr
  split <;> rfl

/-- Every register above the maps reads its reset value: POOL_STATUS INDEX 0xFFFF and DONE, every other one 0. -/
theorem readRegister_resetOf {o : Nat} (ho : 0x0200 ≤ o) (s : State) :
    readRegister o (resetOf s) = if o = 0x0550 then 0x1FFFF else 0 := by
  have hslcfg : ∀ sl, readSlcfg sl (resetOf s) = 0 := fun _ => rfl
  have hpool : ∀ k j, (mget 0 (resetOf s).pool.entries k).toNat / 2 ^ j % 2 ^ 64 = 0 := fun k j => by
    rw [show (resetOf s).pool.entries = [] from rfl, mget_nil, BitVec.ofNat_eq_ofNat, BitVec.toNat_zero, Nat.zero_div,
      Nat.zero_mod]
  unfold readRegister
  rw [if_neg (show ¬o < 0x0200 by omega)]
  simp only [readHostBlock_resetOf, readTt_resetOf, hpool, readFabric_resetOf, readXlat_resetOf, hslcfg, readBinding_resetOf,
    readRegion_resetOf, readCodedCtr_resetOf, ite_self]
  by_cases hstatus : o = 0x0550
  · subst hstatus; rfl
  · simp only [if_neg hstatus, ite_self]
    rfl

/-! ### The module right after reset (R21, R27) -/

/-- Settles O57: each field as `State.reset` has it, and the canonical form of the reset state. -/
theorem resetState : Obligations.ResetState := by
  have hS : ∀ n : SReg, rdS State.reset n = 0 := fun n => ite_self 0
  have hG : ∀ n : GReg, rdG State.reset n = decide (n = 0) := fun n => by
    by_cases h : n = 0
    · rw [rdG, if_pos h, decide_eq_true h]
    · rw [rdG, if_neg h, decide_eq_false h]; rfl
  have hTok : ∀ n : Tok, rdTok State.reset n = .ok := fun n => ite_self TokState.ok
  exact ⟨rfl, rfl, rfl, rfl, rfl, rfl, rfl, rfl, rfl, rfl, rfl, hS, hG, hTok, rfl, rfl, rfl, rfl, rfl, rfl,
    fun _ _ => BitVec.getLsbD_zero, fun _ _ => rfl, canon_State_reset⟩

end Sys2Proof.Machine
end

section
/-! SUPPORT. The stages of the start (R20–R28, R34–R38): what each does when its conditions hold, and how it fails. -/

namespace Sys2Proof.Machine

/-! ### Stages and failed starts (R21, R24) -/

theorem inStage_iff {s : State} {n : Nat} (hn : n < 16) :
    inStage s n = true ↔ s.boot.stage = BitVec.ofNat 4 n ∧ s.boot.failed = false := by
  simp only [inStage, Bool.and_eq_true, decide_eq_true_eq, Bool.not_eq_true', BitVec.toNat_eq, BitVec.toNat_ofNat,
    Nat.mod_eq_of_lt hn]

/-- A stage's operation in its stage. -/
theorem ite_notInStage {s : State} {n : Nat} {r q : Res} (h : inStage s n = true) : (if !inStage s n then r else q) = q :=
  if_neg (by rw [h]; exact Bool.false_ne_true)

/-- `u` is `s` as far as a failed start reads it: the cores, memory, the stage and the count of failed starts are as before. -/
structure SameStart (s u : State) : Prop where
  core : u.core = s.core
  mem : u.mem = s.mem
  stage : u.boot.stage = s.boot.stage
  fails : u.boot.fails = s.boot.fails

theorem SameStart.refl (s : State) : SameStart s s := ⟨rfl, rfl, rfl, rfl⟩

/-- R24. The start fails with REASON `n` in its stage, counted up to three. -/
def StartFails (s : State) (i : Instr) (n : BitVec 4) : Prop :=
  Completes i s fun t => t.boot.failed = true ∧ t.boot.reason = n
    ∧ t.boot.fails = (if s.boot.fails = 3 then 3 else s.boot.fails + 1) ∧ t.boot.stage = s.boot.stage ∧ t.core = s.core
    ∧ t.mem = s.mem

theorem startFails_of_exec {s u : State} {i : Instr} {n : Nat} (hu : SameStart s u) (h : exec i s = .next (failStart n u)) :
    StartFails s i (BitVec.ofNat 4 n) :=
  ⟨_, h, rfl, rfl, by rw [← hu.fails]; rfl, hu.stage, hu.core, hu.mem⟩

/-! ### Stage 1: the image of a slot (R22, R25) -/

theorem imageOk_iff (key : List Byte) (x : Image) : imageOk key x = true ↔ Config.shake256 key = Config.keyDigest
    ∧ Config.mlDsaVerify key (Config.shake256 x.bytes) x.sig = true := by
  rw [imageOk, Bool.and_eq_true, beq_iff_eq]

theorem exec_ronilorStart_slotA {s : State} {a b : Image} {key : List Byte} (h : inStage s 1 = true) (ha : imageOk key a = true) :
    exec (.ronilorStart a b key) s = .next (startImage false (measure a s)) :=
  (ite_notInStage h).trans (if_pos ha)

theorem exec_ronilorStart_slotB {s : State} {a b : Image} {key : List Byte} (h : inStage s 1 = true) (ha : imageOk key a = false)
    (hb : imageOk key b = true) : exec (.ronilorStart a b key) s = .next (startImage true (measure b (measure a s))) :=
  (ite_notInStage h).trans ((if_neg (Bool.eq_false_iff.1 ha)).trans (congrArg _ (if_pos hb)))

theorem ronilorStart_fails {s : State} {a b : Image} {key : List Byte} (h : inStage s 1 = true) (ha : imageOk key a = false)
    (hb : imageOk key b = false) : StartFails s (.ronilorStart a b key) 1 := by
  have hu : SameStart s { measure b (measure a s) with boot := { (measure b (measure a s)).boot with romOnly := true } } :=
    ⟨rfl, rfl, rfl, rfl⟩
  exact startFails_of_exec hu
    ((ite_notInStage h).trans ((if_neg (Bool.eq_false_iff.1 ha)).trans (congrArg _ (if_neg (Bool.eq_false_iff.1 hb)))))

/-! ### Stages 2 and 3: units that fail their retry (R21, R26) -/

/-- R26. The retry of one unit. -/
def retryUnit (kind : HwUnit → Bool) (s : State) (u : UnitRetry) : State :=
  if !kind u.unit || s.boot.fence.contains u.unit then s
  else if u.retryOk then { s with boot := { s.boot with transient := s.boot.transient + 1 } }
  else fenceUnit u.unit s

theorem retryUnits_cons (kind : HwUnit → Bool) (u : UnitRetry) (us : List UnitRetry) (s : State) :
    retryUnits kind (u :: us) s = retryUnits kind us (retryUnit kind s u) := rfl

theorem mem_fence_fenceUnit (u : HwUnit) (s : State) : u ∈ (fenceUnit u s).boot.fence := by
  show u ∈ if s.boot.fence.contains u then s.boot.fence else s.boot.fence ++ [u]
  split
  · next h => exact List.contains_iff_mem.1 h
  · exact List.mem_append_right _ (List.mem_singleton.2 rfl)

theorem fence_subset_fenceUnit (u : HwUnit) (s : State) : s.boot.fence ⊆ (fenceUnit u s).boot.fence := by
  show s.boot.fence ⊆ if s.boot.fence.contains u then s.boot.fence else s.boot.fence ++ [u]
  split
  · exact List.Subset.refl _
  · exact List.subset_append_left ..

theorem fence_subset_retryUnit (kind : HwUnit → Bool) (s : State) (u : UnitRetry) :
    s.boot.fence ⊆ (retryUnit kind s u).boot.fence := by
  unfold retryUnit
  split
  · exact List.Subset.refl _
  · split
    · exact List.Subset.refl _
    · exact fence_subset_fenceUnit ..

theorem mem_fence_retryUnit {kind : HwUnit → Bool} {u : UnitRetry} (hk : kind u.unit = true) (hr : u.retryOk = false)
    (s : State) : u.unit ∈ (retryUnit kind s u).boot.fence := by
  simp only [retryUnit, hk, hr, Bool.not_true, Bool.false_or, Bool.false_eq_true, if_false]
  split
  · next h => exact List.contains_iff_mem.1 h
  · exact mem_fence_fenceUnit ..

theorem fence_subset_retryUnits (kind : HwUnit → Bool) (us : List UnitRetry) (s : State) :
    s.boot.fence ⊆ (retryUnits kind us s).boot.fence := by
  induction us generalizing s with
  | nil => exact List.Subset.refl _
  | cons u us ih => exact List.Subset.trans (fence_subset_retryUnit kind s u) (ih _)

/-- Every unit of the kind that fails its retry is fenced. -/
theorem mem_fence_retryUnits {kind : HwUnit → Bool} {us : List UnitRetry} {u : UnitRetry} (hu : u ∈ us)
    (hk : kind u.unit = true) (hr : u.retryOk = false) (s : State) : u.unit ∈ (retryUnits kind us s).boot.fence := by
  induction us generalizing s with
  | nil => exact absurd hu List.not_mem_nil
  | cons v us ih =>
    rw [retryUnits_cons]
    rcases List.mem_cons.1 hu with rfl | hu
    · exact fence_subset_retryUnits kind us _ (mem_fence_retryUnit hk hr s)
    · exact ih hu _

theorem exec_linkTraining {s : State} {a b c : Bool} {us : List UnitRetry} (h : inStage s 2 = true) :
    exec (.linkTraining a b c us) s = .next (if !a then failStart 3 s else if !b then failStart 4 s
      else if !c then failStart 5 s else toStage 3 (retryUnits stage2Unit us s)) := ite_notInStage h

theorem exec_hbmTraining {s : State} {us : List UnitRetry} (h : inStage s 3 = true) :
    exec (.hbmTraining us) s = .next (toStage 4 (retryUnits stackUnit us s)) := ite_notInStage h

/-! ### Stage 4: the firmware (R22) -/

theorem verifyAll_fst (key : List Byte) (xs : List Image) (s : State) : (verifyAll key xs s).1 = xs.all (imageOk key) := by
  induction xs generalizing s with
  | nil => rfl
  | cons x xs ih =>
    rw [verifyAll, List.all_cons]
    split
    · next hx => rw [ih, hx, Bool.true_and]
    · next hx => rw [Bool.eq_false_iff.2 hx, Bool.false_and]

/-- Images that all verify are all measured, in order. -/
theorem verifyAll_log {key : List Byte} {xs : List Image} (h : xs.all (imageOk key) = true) (s : State) :
    (verifyAll key xs s).2.boot.log = s.boot.log ++ xs.map fun x => Config.shake256 x.bytes := by
  induction xs generalizing s with
  | nil => exact (List.append_nil _).symm
  | cons x xs ih =>
    rw [List.all_cons, Bool.and_eq_true] at h
    rw [verifyAll, if_pos h.1, ih h.2, List.map_cons]
    exact List.append_assoc ..

theorem verifyAll_sameStart (key : List Byte) (xs : List Image) {s u : State} (h : SameStart s u) :
    SameStart s (verifyAll key xs u).2 := by
  induction xs generalizing u with
  | nil => exact h
  | cons x xs ih =>
    have hx : SameStart s (measure x u) := ⟨h.core, h.mem, h.stage, h.fails⟩
    rw [verifyAll]
    split
    · exact ih hx
    · exact hx

/-- FIRMWARE_LOAD, by whether its three images verify. -/
theorem exec_firmwareLoad {s : State} {x y z : Image} {key : List Byte} (h : inStage s 4 = true) :
    exec (.firmwareLoad ⟨x, y, z⟩ key) s = .next (if [x, y, z].all (imageOk key)
      then toStage 5 (verifyAll key [x, y, z] s).2 else failStart 2 (verifyAll key [x, y, z] s).2) := by
  rw [← verifyAll_fst key [x, y, z] s]
  exact ite_notInStage h

/-! ### SET_MODULE_ID, stages 5 and 6 (R32–R38) -/

theorem exec_setModuleId {s : State} {id : BitVec 12} {d : BitVec 4} {ptp : PtpSettings} {tm : Option Word64}
    (h2 : 2 ≤ s.boot.stage.toNat) (h5 : s.boot.stage.toNat < 5) (hd : d.toNat ≤ 12) (hid : id.toNat < 2 ^ d.toNat) :
    exec (.setModuleId id d ptp tm) s = .next { s with
      boot := { s.boot with id := id, d := d, domain := ptp.domain, eligible := ptp.eligible, hostTime := tm }
      fab := { s.fab with id := id, d := d } } := by
  refine if_neg ?_
  rw [ronilorRuns, decide_eq_true h2]
  simp only [Bool.not_true, Bool.false_eq_true, false_or, not_or, not_le]
  exact ⟨h5, Nat.not_lt.2 hd, hid⟩

/-- R36, R38. The time that the host has given Ronilor, else 0. -/
def hostClock (s : State) : Nat := (s.boot.hostTime.map BitVec.toNat).getD 0

/-- Stage 5 once its links are trained. -/
def linksTrained (us : List UnitRetry) (cxl : List Nat) (s : State) : State :=
  toStage 6 (trainCxl cxl (retryUnits linkUnit us s))

theorem exec_ptpLock_grandmaster {s : State} {el : Bool} (h : inStage s 5 = true)
    (hgm : (aloneClock s || (el && s.boot.eligible)) = true) (par : Option (Nat × Word64)) (us : List UnitRetry) (cxl : List Nat) :
    exec (.ptpLock el par us cxl) s = .next (setClock (hostClock s) none (linksTrained us cxl s)) := by
  refine (ite_notInStage h).trans ((if_pos hgm).trans ?_)
  unfold hostClock
  cases s.boot.hostTime <;> rfl

theorem exec_ptpLock_follower {s : State} {el : Bool} (h : inStage s 5 = true)
    (hgm : (aloneClock s || (el && s.boot.eligible)) = false) (p : Nat) (x : Word64) (us : List UnitRetry) (cxl : List Nat) :
    exec (.ptpLock el (some (p, x)) us cxl) s = .next (setClock x.toNat (some p) (linksTrained us cxl s)) :=
  (ite_notInStage h).trans (if_neg (Bool.eq_false_iff.1 hgm))

theorem ptpLockTimeout_fails {s : State} (h : inStage s 5 = true) (ha : aloneClock s = false) : StartFails s .ptpLockTimeout 8 :=
  startFails_of_exec (.refl s) (if_neg (by rw [h, ha]; exact Bool.false_ne_true))

theorem bringUpWatchdog_fails {s : State} (h : s.boot.stage ≠ 15) (hf : s.boot.failed = false) :
    StartFails s .bringUpWatchdog 7 :=
  startFails_of_exec (.refl s) (if_neg (by rw [hf]; exact fun hor => hor.elim h Bool.false_ne_true))

theorem exec_mapPublish {s : State} (h : inStage s 6 = true) : exec .mapPublish s = .next (toStage 15 { s with
    maps := publishedMaps s
    boot := { s.boot with fails := if s.boot.minimal then s.boot.fails else 0, degraded := isDegraded s } }) := ite_notInStage h

/-! ### Requests to Ronilor (R23, R26, R27) -/

theorem ite_ronilorRuns {s : State} {r q : Res} (h : 2 ≤ s.boot.stage.toNat) : (if !ronilorRuns s then r else q) = q :=
  if_neg (by rw [ronilorRuns, decide_eq_true h]; exact Bool.false_ne_true)

theorem attestationRequest_reports {s : State} (n : BitVec 256) (h : 2 ≤ s.boot.stage.toNat) :
    Completes (.attestationRequest n) s fun t => ∃ f, t.boot.reports = s.boot.reports ++ [f]
      ∧ f.1.take 3 = [Config.serial, s.boot.id.toNat, n.toNat] ∧ f.2 = Config.signature f.1 :=
  ⟨_, ite_ronilorRuns h, _, rfl, rfl, rfl⟩

theorem exec_fenceListClear {s : State} (h : 2 ≤ s.boot.stage.toNat) :
    exec .fenceListClear s = .next { s with boot := { s.boot with fence := [], fenced := false } } := ite_ronilorRuns h

/-- The two bits of FAILS in a value written to BOOTSTAT. -/
theorem failsField_eq_zero_iff (v : Word32) : v.extractLsb' 8 2 = 0 ↔ (v.getLsbD 8 || v.getLsbD 9) = false := by
  rw [Bool.or_eq_false_iff]
  constructor
  · intro h
    have hbit : ∀ i, i < 2 → v.getLsbD (8 + i) = false := fun i hi => by
      have := congrArg (fun x : BitVec 2 => x.getLsbD i) h
      simpa [hi] using this
    exact ⟨hbit 0 (by omega), hbit 1 (by omega)⟩
  · rintro ⟨h8, h9⟩
    refine BitVec.eq_of_getLsbD_eq fun i hi => ?_
    rcases (show i = 0 ∨ i = 1 by omega) with rfl | rfl
    · simpa using h8
    · simpa using h9

theorem exec_bootstatFailsWrite {s : State} (h : released s = true) (v : Word32) : exec (.bootstatFailsWrite v) s =
    .next (if v.extractLsb' 8 2 = 0 then s else { s with boot := { s.boot with fails := 0 } }) := by
  refine (if_pos h).trans (congrArg _ ?_)
  by_cases hv : v.extractLsb' 8 2 = 0
  · rw [if_pos hv, (failsField_eq_zero_iff v).1 hv]
    rfl
  · rw [if_neg hv, Bool.eq_true_of_not_eq_false (mt (failsField_eq_zero_iff v).2 hv)]
    rfl

/-! ### Thermal and power protection (R18, R20) -/

theorem exec_thermalWarning {d : Nat} (h : d < 9) (s : State) :
    exec (.thermalWarning d) s = .next { s with irqs := s.irqs ++ [BitVec.ofNat 64 (d + 2 * 16)] } := if_neg (by omega)

/-- The two causes of a stop do the same (R20). -/
theorem exec_stop {i : Instr} (h : i ∈ [Instr.thermalStop, .powerOverloadStop]) (s : State) :
    exec i s = .next (thermalHold s) := by
  simp only [List.mem_cons, List.not_mem_nil, or_false] at h
  rcases h with rfl | rfl
  · rfl
  · rfl

/-! ### Loss of lock (R37) -/

theorem lockLost_eq {s : State} {p : Nat} (hl : s.fab.lock = true) (hp : s.fab.parent = some p) :
    lockLost s = ((released s && !s.maps.port.getLsbD p) || decide (16 ≤ s.fab.badOffs)) := by
  rw [lockLost, hl, hp]
  rfl

theorem exec_lossOfLock {s : State} {down : Bool} {p : Nat} (hl : s.fab.lock = true) (hp : s.fab.parent = some p)
    (h : down = true ∨ (released s = true ∧ s.maps.port.getLsbD p = false) ∨ 16 ≤ s.fab.badOffs) :
    exec (.lossOfLock down) s = .next (sendIrq (freeBelow s 0 9) 3 0 0 (spend 1 { s with fab := { s.fab with
      lock := false, hold := true, badOffs := 0, backIn := false } })) := by
  refine if_pos ?_
  rw [lockLost_eq hl hp, hl, hp]
  rcases h with h | ⟨hr, hm⟩ | h
  · simp [h]
  · simp [hr, hm]
  · simp [h]

theorem exec_lossOfLock_locked {s : State} {p : Nat} (hl : s.fab.lock = true) (hp : s.fab.parent = some p)
    (hm : s.maps.port.getLsbD p = true ∨ released s = false) (hb : s.fab.badOffs < 16) :
    exec (.lossOfLock false) s = notEnabled "LOSS_OF_LOCK" := by
  refine if_neg ?_
  rw [lockLost_eq hl hp]
  rcases hm with hm | hm
  · simp [hm, hb]
  · simp [hm, hb]

theorem exec_leaveHoldover {s : State} {p : Nat} (hh : s.fab.hold = true) (hb : s.fab.backIn = true) (hp : s.fab.parent = some p) :
    exec (.leaveHoldover p) s = .next { s with fab := { s.fab with lock := true, hold := false, badOffs := 0, backIn := false } } :=
  if_pos (by rw [hh, hb, decide_eq_true hp]; rfl)

end Sys2Proof.Machine
end

section
/-! BRING-UP. The clauses of O48, and the statement from them. -/

namespace Sys2Proof.Machine

/-- R22, R25. Stage 1 goes on from slot A, else from slot B, else fails. -/
theorem ronilorStart_spec {s : State} (h : inStage s 1 = true) (a b : Image) (key : List Byte) :
    if imageOk key a = true then Completes (.ronilorStart a b key) s fun t => t.boot.stage = 2 ∧ t.boot.slot = false
        ∧ t.boot.minimal = decide (s.boot.fails = 3) ∧ t.boot.log = s.boot.log ++ [Config.shake256 a.bytes]
    else if imageOk key b = true then Completes (.ronilorStart a b key) s fun t => t.boot.stage = 2
        ∧ t.boot.slot = true ∧ t.boot.afail = true ∧ t.boot.minimal = decide (s.boot.fails = 3)
        ∧ t.boot.log = s.boot.log ++ [Config.shake256 a.bytes, Config.shake256 b.bytes]
    else StartFails s (.ronilorStart a b key) 1 := by
  split
  · next ha => exact ⟨_, exec_ronilorStart_slotA h ha, rfl, rfl, rfl, rfl⟩
  · next ha =>
    have ha : imageOk key a = false := Bool.eq_false_iff.2 ha
    split
    · next hb => exact ⟨_, exec_ronilorStart_slotB h ha hb, rfl, rfl, rfl, rfl, List.append_assoc ..⟩
    · next hb => exact ronilorStart_fails h ha (Bool.eq_false_iff.2 hb)

/-- R21, R24, R26. Stage 2 fails at the first of its three tests that fails, else fences the units that do. -/
theorem linkTraining_spec {s : State} (h : inStage s 2 = true) (a b c : Bool) (us : List UnitRetry) :
    (a = false → StartFails s (.linkTraining a b c us) 3) ∧ (a = true → b = false → StartFails s (.linkTraining a b c us) 4)
    ∧ (a = true → b = true → c = false → StartFails s (.linkTraining a b c us) 5)
    ∧ (a = true → b = true → c = true → Completes (.linkTraining a b c us) s fun t => t.boot.stage = 3
        ∧ ∀ u ∈ us, stage2Unit u.unit = true → u.retryOk = false → u.unit ∈ t.boot.fence) := by
  refine ⟨?_, ?_, ?_, ?_⟩
  · rintro rfl
    exact startFails_of_exec (.refl s) (exec_linkTraining h)
  · rintro rfl rfl
    exact startFails_of_exec (.refl s) (exec_linkTraining h)
  · rintro rfl rfl rfl
    exact startFails_of_exec (.refl s) (exec_linkTraining h)
  · rintro rfl rfl rfl
    exact ⟨_, exec_linkTraining h, rfl, fun u hu hk hr => mem_fence_retryUnits hu hk hr s⟩

/-- R22. Stage 4 goes on when its three images verify, else fails. -/
theorem firmwareLoad_spec {s : State} (h : inStage s 4 = true) (x y z : Image) (key : List Byte) :
    if imageOk key x = true ∧ imageOk key y = true ∧ imageOk key z = true then
      Completes (.firmwareLoad ⟨x, y, z⟩ key) s fun t => t.boot.stage = 5
        ∧ t.boot.log = s.boot.log ++ [Config.shake256 x.bytes, Config.shake256 y.bytes, Config.shake256 z.bytes]
    else StartFails s (.firmwareLoad ⟨x, y, z⟩ key) 2 := by
  have hall : [x, y, z].all (imageOk key) = true ↔ imageOk key x = true ∧ imageOk key y = true ∧ imageOk key z = true := by
    simp only [List.all_cons, List.all_nil, Bool.and_true, Bool.and_eq_true]
  split
  · next hok =>
    have hok := hall.2 hok
    exact ⟨_, (exec_firmwareLoad h).trans (congrArg _ (if_pos hok)), rfl, verifyAll_log hok s⟩
  · next hbad =>
    exact startFails_of_exec (verifyAll_sameStart key [x, y, z] (.refl s))
      ((exec_firmwareLoad h).trans (congrArg _ (if_neg (mt hall.1 hbad))))

/-- R36, R38. Stage 5 sets the clock from the host on a grandmaster, else from the parent port, and fails when it gets none. -/
theorem ptpLock_spec {s : State} (h : inStage s 5 = true) (el : Bool) (par : Option (Nat × Word64)) (us : List UnitRetry)
    (cxl : List Nat) :
    (aloneClock s = true ∨ (el = true ∧ s.boot.eligible = true) → Completes (.ptpLock el par us cxl) s fun t =>
      t.boot.stage = 6 ∧ t.fab.lock = true ∧ t.fab.gm = true ∧ t.fab.parent = none
      ∧ t.cyc = (s.boot.hostTime.map BitVec.toNat).getD 0)
    ∧ (∀ p x, aloneClock s = false → (el = false ∨ s.boot.eligible = false) → par = some (p, x) →
      Completes (.ptpLock el par us cxl) s fun t => t.boot.stage = 6 ∧ t.fab.lock = true ∧ t.fab.gm = false
        ∧ t.fab.parent = some p ∧ t.cyc = x.toNat)
    ∧ (aloneClock s = false → StartFails s .ptpLockTimeout 8) := by
  refine ⟨fun hgm => ?_, fun p x ha hel hpar => ?_, ptpLockTimeout_fails h⟩
  · have hgm : (aloneClock s || (el && s.boot.eligible)) = true := by rwa [Bool.or_eq_true, Bool.and_eq_true]
    exact ⟨_, exec_ptpLock_grandmaster h hgm par us cxl, rfl, rfl, rfl, rfl, rfl⟩
  · have hgm : (aloneClock s || (el && s.boot.eligible)) = false := by
      rw [Bool.or_eq_false_iff, Bool.and_eq_false_iff]
      exact ⟨ha, hel⟩
    subst hpar
    exact ⟨_, exec_ptpLock_follower h hgm p x us cxl, rfl, rfl, rfl, rfl, rfl⟩

/-- R20, R24, R93. The thermal and the power stop fail stage 2, and elsewhere have the running task drained. -/
theorem stop_spec (s : State) : ∀ i ∈ [Instr.thermalStop, .powerOverloadStop],
    (inStage s 2 = true → Completes i s fun t => t.boot.tstop = true ∧ t.boot.failed = true ∧ t.boot.reason = 6)
    ∧ (inStage s 2 = false → Completes i s fun t => t.boot.tstop = true
        ∧ (s.core.phase = .run → t.core.drainReq.isSome = true)) := by
  intro i hi
  refine ⟨fun h => ⟨_, exec_stop hi s, ?_⟩, fun h => ⟨_, exec_stop hi s, thermalHold_stops h⟩⟩
  rw [thermalHold_stage2 h]
  exact ⟨rfl, rfl, rfl⟩

/-- Settles O48: the reset by its fields, each stage by its own law, the thermal stop by what it keeps of the current core. -/
theorem bringUpAndProtection : Obligations.BringUpAndProtection := by
  intro s fails at_
  have hat : ∀ n, n < 16 → at_ (BitVec.ofNat 4 n) → inStage s n = true := fun n hn => (inStage_iff hn).2
  refine ⟨fun h => ⟨_, exec_moduleReset h, ?_⟩, fun h h' => ⟨_, exec_moduleReset_hot h h'⟩,
    fun a b key h => ronilorStart_spec (hat 1 (by decide) h) a b key,
    fun a b c us h => linkTraining_spec (hat 2 (by decide) h) a b c us,
    fun us h => ⟨_, exec_hbmTraining (hat 3 (by decide) h), rfl, fun u hu hk hr => mem_fence_retryUnits hu hk hr s⟩,
    fun x y z key h => firmwareLoad_spec (hat 4 (by decide) h) x y z key,
    fun x key => imageOk_iff key x,
    fun id d dom el tm h2 h5 hd hid => ⟨_, exec_setModuleId h2 h5 hd hid, rfl, rfl, rfl, rfl, rfl⟩,
    fun el par us cxl h => ptpLock_spec (hat 5 (by decide) h) el par us cxl,
    bringUpWatchdog_fails,
    fun h => ⟨_, exec_mapPublish (hat 6 (by decide) h), rfl, rfl, rfl⟩,
    attestationRequest_reports, exec_fenceListClear,
    fun h v => ⟨fun hv => (exec_bootstatFailsWrite h v).trans (congrArg _ (if_pos hv)),
      fun hv => (exec_bootstatFailsWrite h v).trans (congrArg _ (if_neg hv))⟩,
    fun d hd => exec_thermalWarning hd s,
    fun i hi => ⟨fun h => (stop_spec s i hi).1 (hat 2 (by decide) h),
      fun h => (stop_spec s i hi).2 (Bool.eq_false_iff.2 (mt (inStage_iff (by decide)).1 h))⟩,
    fun down p hl hp => ⟨fun h => ⟨_, exec_lossOfLock hl hp h, rfl, rfl, rfl, rfl, rfl, rfl, _, rfl⟩, ?_⟩,
    fun p hh hb hp => exec_leaveHoldover hh hb hp⟩
  · exact ⟨rfl, rfl, rfl, rfl, rfl, rfl, rfl, rfl, rfl, rfl, rfl, rfl, rfl, rfl, rfl, rfl, rfl, rfl, rfl, rfl, rfl,
      ⟨rfl, rfl, rfl, rfl, rfl, rfl⟩,
      ⟨rfl, rfl, rfl, rfl, rfl, rfl, rfl, rfl, rfl, rfl, rfl, rfl, rfl, rfl, rfl, rfl, rfl⟩,
      fun o ho => readRegister_resetOf ho s, rfl⟩
  · rintro rfl hm hb
    exact ⟨_, exec_lossOfLock_locked hl hp hm hb⟩

end Sys2Proof.Machine
end

section
/-! CYC (R36). State operations: landings, memory writes, L2, traps, cores, the fault log. -/

namespace Sys2Proof.Machine

/-- The next state, where there is one, is in cycle `c`. -/
def Res.CycIs (c : Nat) : Res → Prop
  | .next t => t.cyc = c
  | .fault _ => True
  | .refused _ => True

/-- What an access answers, and the state that a failing one leaves, are in cycle `c`. -/
def AccCyc {ε β : Type} (P : Nat → β → Prop) (c : Nat) : Except (ε × State) β → Prop
  | .error e => e.2.cyc = c
  | .ok b => P c b

@[simp] theorem Res.cycIs_next {c : Nat} {t : State} : Res.CycIs c (.next t) ↔ t.cyc = c := Iff.rfl
@[simp] theorem Res.cycIs_notEnabled {c : Nat} {e : String} : Res.CycIs c (notEnabled e) := trivial

@[simp] theorem Res.cycIs_ite {c : Nat} {p : Prop} {_ : Decidable p} {r q : Res} :
    Res.CycIs c (if p then r else q) ↔ if p then Res.CycIs c r else Res.CycIs c q := by
  split <;> rfl

@[simp] theorem cyc_ite {p : Prop} {_ : Decidable p} {s t : State} : (if p then s else t).cyc = if p then s.cyc else t.cyc :=
  apply_ite State.cyc p s t

@[simp] theorem foldl_cyc {ι : Type} {f : State → ι → State} (hf : ∀ s i, (f s i).cyc = s.cyc) {l : List ι} {s : State} :
    (l.foldl f s).cyc = s.cyc := by
  induction l generalizing s with
  | nil => rfl
  | cons i l ih => exact ih.trans (hf s i)

theorem AccCyc.error {ε β : Type} {P : Nat → β → Prop} {c : Nat} {r : Except (ε × State) β} (h : AccCyc P c r)
    {e : ε × State} (he : r = .error e) : e.2.cyc = c := by
  subst he
  exact h

theorem AccCyc.ok {ε β : Type} {P : Nat → β → Prop} {c : Nat} {r : Except (ε × State) β} (h : AccCyc P c r) {b : β}
    (he : r = .ok b) : P c b := by
  subst he
  exact h

/-- The state that an instruction of a loaded routine leaves is in cycle `c` (R369). -/
def UStep.CycIs (c : Nat) : UStep → Prop
  | .go _ s => s.cyc = c
  | .ended _ s => s.cyc = c
  | .stop _ _ s => s.cyc = c

/-- The state is in cycle `c`. Where a lemma about `State.cyc` would make the kernel compare two projections of a state that
depends on a range of memory, it compares this predicate's arguments instead. -/
def State.CycIs (c : Nat) (t : State) : Prop := t.cyc = c

theorem State.CycIs.next {c : Nat} {t : State} (h : t.CycIs c) : Res.CycIs c (.next t) := h

theorem State.CycIs.ite {c : Nat} {p : Prop} {_ : Decidable p} {t u : State} (ht : t.CycIs c) (hu : u.CycIs c) :
    State.CycIs c (if p then t else u) := by
  split
  · exact ht
  · exact hu

/-- The state that the operations of a bundle leave so far is in cycle `c`, and so is what stopped them. -/
structure Issuing.CycIs (c : Nat) (a : Issuing) : Prop where
  st : a.st.cyc = c
  stop : ∀ o, a.stop = some o → Res.CycIs c o

/-! ### Registers (R108, R111) -/

@[simp] theorem produceTok_cyc {n} {s : State} : (produceTok n s).cyc = s.cyc := by
  simp [produceTok]

/-! ### Results in flight (R99–R102) -/

@[simp] theorem putBounded_cyc {b es} {s : State} : (putBounded b es s).cyc = s.cyc := by
  unfold putBounded
  rfl

/-! ### Memory writes and landing (R99–R101, R123, R128) -/

@[simp] theorem l2Drop_cyc {die line} {s : State} : (l2Drop die line s).cyc = s.cyc := by
  unfold l2Drop
  dsimp only
  (repeat' split) <;> simp

@[simp] theorem l2Twin_cyc {die line} {s : State} : (l2Twin die line s).cyc = s.cyc := by
  simp [l2Twin]

@[simp] theorem l2Line_cyc {pol wr die line mask} {s : State} : (l2Line pol wr die line mask s).cyc = s.cyc := by
  unfold l2Line
  dsimp only
  (repeat' split) <;> simp

@[simp] theorem nextAccess_cyc {s : State} : (nextAccess s).cyc = s.cyc := by
  simp [nextAccess]

@[simp] theorem l2Touch_cyc {pol wr a n} {s : State} : (l2Touch pol wr a n s).cyc = s.cyc := by
  simp [l2Touch]

@[simp] theorem freshen_cyc {a n} {s : State} : (freshen a n s).cyc = s.cyc := by
  unfold freshen
  rfl

@[simp] theorem noteStore_cyc {due g old dirty runs} {s : State} : (noteStore due g old dirty runs s).cyc = s.cyc := by
  unfold noteStore
  rfl

@[simp] theorem mapVers_cyc {f} {s : State} : (mapVers f s).cyc = s.cyc := by
  unfold mapVers
  rfl

@[simp] theorem keepBold_cyc {a n} {s : State} : (keepBold a n s).cyc = s.cyc := by
  unfold keepBold
  rfl

@[simp] theorem memWrite_cyc {pol a bs} {s : State} : (memWrite pol a bs s).cyc = s.cyc := by
  simp [memWrite]

@[simp] theorem homeWrite_cyc {due a bs} {s : State} : (homeWrite due a bs s).cyc = s.cyc := by
  simp [homeWrite]

@[simp] theorem storeBytes_cyc {due a bs} {s : State} : (storeBytes due a bs s).cyc = s.cyc := by
  simp [storeBytes]

@[simp] theorem applyEffect_cyc {e} {s : State} : (applyEffect e s).cyc = s.cyc := by
  unfold applyEffect
  split <;> simp

@[simp] theorem applyFlag_cyc {e} {s : State} : (applyFlag e s).cyc = s.cyc := by
  unfold applyFlag
  split <;> simp

@[simp] theorem landAll_cyc {s : State} : (landAll s).cyc = s.cyc := by
  simp [landAll]

/-! ### Traps (R245–R252) -/

@[simp] theorem raiseWalk_cyc {code slot detail} {s : State} : (raiseWalk code slot detail s).cyc = s.cyc := by
  unfold raiseWalk
  rfl

@[simp] theorem orRaise_cyc {slot cs k} {s : State} (hk : ∀ x1, (k x1).cyc = x1.cyc) : (orRaise slot cs k s).cyc = s.cyc := by
  unfold orRaise
  split <;> simp [hk]

@[simp] theorem discardBte_cyc {s : State} : (discardBte s).cyc = s.cyc := by
  simp [discardBte]

@[simp] theorem endTask_cyc {k} {s : State} : (endTask k s).cyc = s.cyc := by
  simp [endTask]

@[simp] theorem takeCauseAt_cyc {t pos x} {s : State} : (takeCauseAt t pos x s).cyc = s.cyc := by
  simp [takeCauseAt]

@[simp] theorem takeCause_cyc {x} {s : State} : (takeCause x s).cyc = s.cyc := by
  simp [takeCause]

@[simp] theorem enterHandler_cyc {e} {s : State} : (enterHandler e s).cyc = s.cyc := by
  unfold enterHandler
  rfl

@[simp] theorem taskErrorAt_cyc {pos slot code addr} {s : State} : (taskErrorAt pos slot code addr s).cyc = s.cyc := by
  unfold taskErrorAt
  rfl

@[simp] theorem taskError_cyc {slot code addr} {s : State} : (taskError slot code addr s).cyc = s.cyc := by
  unfold taskError
  rfl

/-! ### Current core and the others -/

@[simp] theorem select_cyc {g} {s : State} : (select g s).cyc = s.cyc := by
  simp [select]

@[simp] theorem modCore_cyc {g f} {s : State} : (modCore g f s).cyc = s.cyc := by
  simp [modCore]

/-! ### Interrupt messages and the fault log (R65–R67, R426) -/

@[simp] theorem sendIrq_cyc {die kind entry rep} {s : State} : (sendIrq die kind entry rep s).cyc = s.cyc := by
  unfold sendIrq
  rfl

/-! ### Units and fencing (R26, R29, R253) -/

@[simp] theorem fenceUnit_cyc {u} {s : State} : (fenceUnit u s).cyc = s.cyc := by
  unfold fenceUnit
  rfl

@[simp] theorem passRetry_cyc {a} {s : State} : (passRetry a s).cyc = s.cyc := by
  unfold passRetry
  rfl

@[simp] theorem faultLogN_cyc {fuel cyc kind die core cause taskId entry tepc info addr} {s : State} :
    (faultLogN fuel cyc kind die core cause taskId entry tepc info addr s).cyc = s.cyc := by
  induction fuel generalizing cyc kind die core cause taskId entry tepc info addr s with
  | zero =>
    unfold faultLogN
    dsimp only
    (repeat' split) <;> simp
  | succ fuel ih =>
    unfold faultLogN
    dsimp only
    (repeat' split) <;> simp [ih]

@[simp] theorem faultLogAt_cyc {cyc kind die core cause taskId entry tepc info addr} {s : State} :
    (faultLogAt cyc kind die core cause taskId entry tepc info addr s).cyc = s.cyc := by
  simp [faultLogAt]

@[simp] theorem faultLog_cyc {kind die core cause taskId entry tepc info addr} {s : State} :
    (faultLog kind die core cause taskId entry tepc info addr s).cyc = s.cyc := by
  simp [faultLog]

@[simp] theorem classify_cyc {a} {s : State} : (classify a s).cyc = s.cyc := by
  unfold classify
  dsimp only
  (repeat' split) <;> simp

end Sys2Proof.Machine
end

section
/-! CYC (R36). Uncorrectable errors and coded regions. -/

namespace Sys2Proof.Machine

/-! ### Residency (R204–R208) -/

@[simp] theorem putBlock_cyc {b} {s : State} : (putBlock b s).cyc = s.cyc := by
  unfold putBlock
  rfl

@[simp] theorem dropBlock_cyc {i k} {s : State} : (dropBlock i k s).cyc = s.cyc := by
  simp [dropBlock]

@[simp] theorem touchBlock_cyc {i k install read dirty} {s : State} : (touchBlock i k install read dirty s).cyc = s.cyc := by
  simp [touchBlock]

theorem fetchBlock_cyc {i k la} {s : State} : AccCyc (fun c b => b.2.2.cyc = c) s.cyc (fetchBlock i k la s) := by
  unfold fetchBlock
  split
  · exact rfl
  · dsimp only
    split
    · exact classify_cyc
    · split <;> exact l2Touch_cyc

theorem codedEntry_cyc {a} {s : State} : AccCyc (fun _ _ => True) s.cyc (codedEntry a s) := by
  unfold codedEntry
  split
  · exact classify_cyc
  · split
    · exact rfl
    · trivial

theorem codedBlockRead_cyc {a n} {s : State} : AccCyc (fun c b => b.2.cyc = c) s.cyc (codedBlockRead a n s) := by
  unfold codedBlockRead
  split
  · next he => exact codedEntry_cyc.error he
  · split
    · next he => exact fetchBlock_cyc.error he
    · next he =>
      have h1 := fetchBlock_cyc.ok he
      simpa [AccCyc] using h1

theorem codedRead_cyc {a n} {s : State} : AccCyc (fun c b => b.2.cyc = c) s.cyc (codedRead a n s) := by
  unfold codedRead
  split
  · next he => exact codedBlockRead_cyc.error he
  · next he => exact (codedBlockRead_cyc.ok he :)

theorem codedWrites_cyc {own ws} {s : State} : AccCyc (fun c b => b.cyc = c) s.cyc (codedWrites own ws s) := by
  unfold codedWrites
  extract_lets a
  split
  · next he => exact codedEntry_cyc.error he
  · extract_lets note
    have hnote (old) (s : State) : (note old s).cyc = s.cyc := by
      unfold note
      split <;> simp
    split
    · exact touchBlock_cyc.trans (putBlock_cyc.trans (hnote _ _))
    · split
      · next he => exact fetchBlock_cyc.error he
      · next he => exact touchBlock_cyc.trans (putBlock_cyc.trans ((hnote _ _).trans (fetchBlock_cyc.ok he)))

theorem codedWrite_cyc {a bs} {s : State} : AccCyc (fun c b => b.cyc = c) s.cyc (codedWrite a bs s) := codedWrites_cyc

/-! ### Writeback and counters (R205, R211–R213) -/

@[simp] theorem retryAll_cyc {a n} {s : State} : (retryAll a n s).cyc = s.cyc := by
  refine foldl_cyc fun s i => ?_
  split <;> simp

@[simp] theorem writeBack_cyc {b fails} {s : State} : (writeBack b fails s).1.cyc = s.cyc := by
  unfold writeBack
  dsimp only
  (repeat' split) <;> simp

@[simp] theorem flushAs_cyc {inv b} {s : State} : (flushAs inv b s).1.cyc = s.cyc := by
  unfold flushAs
  dsimp only
  (repeat' split) <;> simp

@[simp] theorem flushBlock_cyc {choose inv i k} {s : State} : (flushBlock choose inv i k s).1.cyc = s.cyc := by
  unfold flushBlock
  split
  · rfl
  · dsimp only
    split
    · simp
    · split
      · simp
      · cases inv
        · simp
        · simp only [if_true]
          split
          · next he => simpa using fetchBlock_cyc.error he
          · next he =>
            have h1 := fetchBlock_cyc.ok he
            simpa using h1

@[simp] theorem flushBlocks_cyc {choose inv l} {s : State} : (flushBlocks choose inv l s).1.cyc = s.cyc :=
  List.foldlRecOn (motive := fun p : State × Bool => p.1.cyc = s.cyc) _ _ rfl fun _ hp _ _ => flushBlock_cyc.trans hp

@[simp] theorem evictBlock_cyc {b fails} {s : State} : (evictBlock b fails s).cyc = s.cyc := by
  simp [evictBlock]

/-! ### Accesses of devices: walkers, ports, the pool, the Syarri, engines (R14, R135, R144, R193) -/

theorem devRead1_cyc {pol a n} {s : State} : AccCyc (fun c b => b.2.cyc = c) s.cyc (devRead1 pol a n s) := by
  unfold devRead1
  split
  · exact codedRead_cyc
  · split
    · exact classify_cyc
    · exact l2Touch_cyc

theorem devReads_cyc {pol ps} {s : State} : AccCyc (fun c b => b.2.cyc = c) s.cyc (devReads pol ps s) := by
  induction ps generalizing s with
  | nil => exact rfl
  | cons p ps ih =>
    unfold devReads
    split
    · next he => exact devRead1_cyc.error he
    · next he =>
      have h1 := devRead1_cyc.ok he
      split
      · next he2 => exact (ih.error he2).trans h1
      · next he2 => exact (ih.ok he2).trans h1

theorem devRead_cyc {pol a n} {s : State} : AccCyc (fun c b => b.2.cyc = c) s.cyc (devRead pol a n s) := devReads_cyc

end Sys2Proof.Machine
end

section
/-! CYC (R36). Vector destinations and causes. -/

namespace Sys2Proof.Machine

/-! ### Vector operands (R105, R111, R279, R314) -/

@[simp] theorem vecWrite_cyc {lat f v val} {s : State} : (vecWrite lat f v val s).cyc = s.cyc := by
  unfold vecWrite
  rfl

/-! ### Slots and causes of a V operation -/

@[simp] theorem fromHost_cyc {event} {r : Res} {s : State} {c : Nat} (hr : Res.CycIs c r) :
    Res.CycIs c (fromHost event s r) := by
  unfold fromHost
  split
  · exact hr
  · exact trivial

@[simp] theorem guarded_cyc {slot cs} {k : State → State} {s : State} {c : Nat} (hc : s.cyc = c)
    (hk : ∀ x1, (k x1).cyc = x1.cyc) : Res.CycIs c (guarded slot cs k s) := by
  simp [guarded, hk, hc]

end Sys2Proof.Machine
end

section
/-! CYC (R36). Translation, L1, home reads and writes, remote requests. -/

namespace Sys2Proof.Machine

/-! ### Translation (R136–R141) -/

@[simp] theorem resolve_cyc {slot space wr extra vas more k} {s : State} (hk : ∀ x1 x2, (k x1 x2).cyc = x2.cyc) :
    (resolve slot space wr extra vas more k s).cyc = s.cyc := by
  unfold resolve
  dsimp only
  (repeat' split) <;> simp [hk]

/-! ### Bindings (R149–R151) -/

@[simp] theorem discardBound_cyc {o} {s : State} : (discardBound o s).cyc = s.cyc := by
  unfold discardBound
  rfl

/-! ### Text windows (R76, R96, R413) -/

@[simp] theorem keepUnfetched_cyc {l n} {s : State} : (keepUnfetched l n s).cyc = s.cyc := by
  unfold keepUnfetched
  split <;> simp

/-! ### Home reads and writes -/

@[simp] theorem l1Room_cyc {line} {s : State} : (l1Room line s).cyc = s.cyc := by
  simp [l1Room]

@[simp] theorem l1Fill_cyc {sec bs} {s : State} : (l1Fill sec bs s).cyc = s.cyc := by
  simp [l1Fill]

@[simp] theorem l1FillBlock_cyc {ga bs} {s : State} : (l1FillBlock ga bs s).cyc = s.cyc := by
  simp [l1FillBlock]

@[simp] theorem readL1_cyc {l n} {s : State} : (readL1 l n s).2.cyc = s.cyc := by
  unfold readL1
  dsimp only
  (repeat' split) <;> simp

theorem codedLoad_cyc {l1 l n} {s : State} : AccCyc (fun c b => b.2.cyc = c) s.cyc (codedLoad l1 l n s) := by
  unfold codedLoad
  extract_lets b ga fetch held
  have hfetch (s : State) : AccCyc (fun c b => b.2.cyc = c) s.cyc (fetch s) := by
    unfold fetch
    split
    · next he => exact codedBlockRead_cyc.error he
    · next he =>
      have h1 := codedBlockRead_cyc.ok he
      simpa [AccCyc] using h1
  split
  · split
    · next he => exact codedEntry_cyc.error he
    · split
      · exact rfl
      · exact hfetch _
  · exact hfetch s

/-! ### Units of a write (R146, R208, R398) -/

@[simp] theorem agentUnit_cyc {own pol u} {s : State} : (agentUnit own pol u s).2.cyc = s.cyc := by
  unfold agentUnit
  dsimp only
  split
  · rfl
  · split
    · split
      · next he => exact codedWrites_cyc.error he
      · next he => simpa using codedWrites_cyc.ok he
    · split
      · exact classify_cyc
      · split
        · rfl
        · simp

/-! ### What a core's release covers and waits for (R152–R155, R164) -/

@[simp] theorem noteRelease_cyc {core o} {s : State} : (noteRelease core o s).cyc = s.cyc := by
  unfold noteRelease
  rfl

@[simp] theorem dropMessage_cyc {id} {s : State} : (dropMessage id s).cyc = s.cyc := by
  unfold dropMessage
  rfl

@[simp] theorem landPiece_cyc {id p} {s : State} : (landPiece id p s).cyc = s.cyc := by
  simp [landPiece]

@[simp] theorem landPayload_cyc {id} {s : State} : (landPayload id s).cyc = s.cyc := by
  unfold landPayload
  split <;> simp

@[simp] theorem flushPayload_cyc {o} {s : State} : (flushPayload o s).cyc = s.cyc := by
  simp [flushPayload]

/-! ### Transaction barriers (R158–R162) -/

@[simp] theorem postUpdateOf_cyc {u} {s : State} : (postUpdateOf u s).cyc = s.cyc := by
  unfold postUpdateOf
  rfl

@[simp] theorem takeUpdate_cyc {u} {s : State} : (takeUpdate u s).cyc = s.cyc := by
  unfold takeUpdate
  extract_lets s0
  have h0 : s0.cyc = s.cyc := foldl_cyc fun _ _ => landPayload_cyc
  clear_value s0
  split
  · exact h0
  · next s1 s2 _ =>
    have h1 : s1.cyc = s.cyc := h0
    have h2 : s2.cyc = s.cyc := memWrite_cyc.trans h1
    clear_value s2 s1
    split
    · dsimp only
      split
      · exact modCore_cyc.trans (classify_cyc.trans h1)
      · exact classify_cyc.trans h1
    · split
      · exact h2
      · exact noteRelease_cyc.trans h2

@[simp] theorem ownUpdates_cyc {l n} {s : State} : (ownUpdates l n s).cyc = s.cyc := foldl_cyc fun _ _ => takeUpdate_cyc

/-! ### Reads and writes of parts -/

theorem readPart_cyc {atHome p} {s : State} : AccCyc (fun c b => b.2.cyc = c) s.cyc (readPart atHome p s) := by
  unfold readPart
  split
  · exact classify_cyc
  · split
    · exact classify_cyc
    · dsimp only
      split
      · simp [AccCyc]
      · split <;> simp [AccCyc]

theorem writePart_cyc {l1 due p bs} {s : State} : AccCyc (fun c b => b.cyc = c) s.cyc (writePart l1 due p bs s) := by
  unfold writePart
  split
  · exact classify_cyc
  · split
    · exact classify_cyc
    · simp [AccCyc]

@[simp] theorem recordErr_cyc {slot e} {s : State} : (recordErr slot e s).cyc = s.cyc := by
  unfold recordErr
  split <;> simp

theorem readBlocks_cyc {atHome gs} {s : State} : AccCyc (fun c b => b.2.cyc = c) s.cyc (readBlocks atHome gs s) := by
  induction gs generalizing s with
  | nil => exact rfl
  | cons g gs ih =>
    unfold readBlocks
    dsimp only
    split
    · next he => exact codedLoad_cyc.error he
    · next he =>
      have h1 := codedLoad_cyc.ok he
      split
      · next he2 => exact (ih.error he2).trans h1
      · next he2 => exact (ih.ok he2).trans h1

theorem readEach_cyc {atHome vs ps} {s : State} : AccCyc (fun c b => b.2.cyc = c) s.cyc (readEach atHome vs ps s) := by
  induction ps generalizing s with
  | nil => exact rfl
  | cons p ps ih =>
    unfold readEach
    extract_lets r
    have hr : AccCyc (fun c b => b.2.cyc = c) s.cyc r := by
      unfold r
      split
      · exact readPart_cyc
      · exact rfl
    clear_value r
    split
    · exact hr
    · have h1 := hr.ok rfl
      split
      · next he2 => exact (ih.error he2).trans h1
      · next he2 => exact (ih.ok he2).trans h1

theorem readParts_cyc {atHome ps} {s : State} : AccCyc (fun c b => b.2.cyc = c) s.cyc (readParts atHome ps s) := by
  unfold readParts
  split
  · next he => exact readBlocks_cyc.error he
  · next he =>
    have h1 := readBlocks_cyc.ok he
    exact h1 ▸ readEach_cyc

theorem writeBlock_cyc {l1 ws} {s : State} : AccCyc (fun c b => b.cyc = c) s.cyc (writeBlock l1 ws s) := by
  unfold writeBlock
  split
  · next he => exact codedWrites_cyc.error he
  · next he => simp [AccCyc, codedWrites_cyc.ok he]

@[simp] theorem writeParts_cyc {slot l1 due ws} {s : State} : (writeParts slot l1 due ws s).cyc = s.cyc := by
  unfold writeParts
  extract_lets keep plain blocks
  have hkeep {c r} (hr : AccCyc (fun c b => b.cyc = c) c r) : (keep r).cyc = c := by
    unfold keep
    split
    · exact recordErr_cyc.trans hr
    · exact hr
  exact (foldl_cyc fun _ _ => hkeep writeBlock_cyc).trans (foldl_cyc fun _ _ => hkeep writePart_cyc)

/-! ### What a placed access still has to pass (R47, R96, R198) -/

@[simp] theorem markCoded_cyc {b bound} {s : State} : (markCoded b bound s).cyc = s.cyc := by
  simp [markCoded]

/-! ### Remote requests (R34, R47) -/

@[simp] theorem queueRequest_cyc {r} {s : State} : (queueRequest r s).cyc = s.cyc := by
  unfold queueRequest
  (repeat' split) <;> simp

@[simp] theorem submitRequest_cyc {r} {s : State} : (submitRequest r s).cyc = s.cyc := by
  simp [submitRequest]

@[simp] theorem sendRequest_cyc {slot extra ga op dst wr waits} {s : State} :
    (sendRequest slot extra ga op dst wr waits s).cyc = s.cyc := by
  simp [sendRequest]

@[simp] theorem remoteError_cyc {a} {s : State} : (remoteError a s).cyc = s.cyc := by
  unfold remoteError
  split <;> simp

end Sys2Proof.Machine
end

section
/-! CYC (R36). What the engines of a core share. -/

namespace Sys2Proof.Machine

@[simp] theorem pickFor_cyc {far mu g cur} {s : State} : (pickFor far mu g cur s).2.cyc = s.cyc := by
  unfold pickFor
  dsimp only
  (repeat' split) <;> simp

@[simp] theorem engPick_cyc {mu g cur} {s : State} : (engPick mu g cur s).2.cyc = s.cyc := by
  simp [engPick]

@[simp] theorem viewFor_cyc {far mu rs} {s : State} :
    (viewFor far mu rs s).1.cyc = s.cyc ∧ (viewFor far mu rs s).2.cyc = s.cyc := by
  unfold viewFor
  extract_lets ks x
  have hx : x.2.cyc = s.cyc :=
    List.foldlRecOn (motive := fun a : Memory × State => a.2.cyc = s.cyc) _ _ rfl fun _ ha _ _ => pickFor_cyc.trans ha
  exact ⟨hx, hx⟩

@[simp] theorem engView_cyc {mu rs} {s : State} : (engView mu rs s).1.cyc = s.cyc ∧ (engView mu rs s).2.cyc = s.cyc := by
  simp [engView]

@[simp] theorem engBytes_cyc {mu a n} {s : State} : (engBytes mu a n s).2.cyc = s.cyc := by
  simp [engBytes]

@[simp] theorem engWrite_cyc {pol a bs} {s : State} : (engWrite pol a bs s).cyc = s.cyc := by
  simp [engWrite]

@[simp] theorem engWrites_cyc {ws} {s : State} : (engWrites ws s).cyc = s.cyc := by
  simp [engWrites]

theorem engBlock_cyc {mu b lo hi} {s : State} : AccCyc (fun c b => b.2.cyc = c) s.cyc (engBlock mu b lo hi s) := by
  unfold engBlock
  split
  · next he => exact (codedBlockRead_cyc.error he :)
  · next he => exact (codedBlockRead_cyc.error he :)
  · next he => exact engPick_cyc.trans (codedBlockRead_cyc.ok he :)

theorem engPart_cyc {pol mu all c p} {s : State} : AccCyc (fun c b => b.2.2.cyc = c) s.cyc (engPart pol mu all c p s) := by
  unfold engPart
  split
  · split
    · exact (spend_cyc _ _)
    · exact classify_cyc
  · dsimp only
    split
    · split
      · exact rfl
      · split
        · next he => exact engBlock_cyc.error he
        · next he => exact (engBlock_cyc.ok he :)
    · split
      · exact classify_cyc
      · exact engBytes_cyc.trans l2Touch_cyc

theorem engPartsIn_cyc {pol mu all c ps} {s : State} :
    AccCyc (fun c b => b.2.2.cyc = c) s.cyc (engPartsIn pol mu all c ps s) := by
  induction ps generalizing c s with
  | nil => exact rfl
  | cons p ps ih =>
    unfold engPartsIn
    split
    · next he => exact engPart_cyc.error he
    · next he =>
      have h1 := engPart_cyc.ok he
      split
      · next he2 => exact (ih.error he2).trans h1
      · next he2 => exact (ih.ok he2).trans h1

theorem engParts_cyc {pol mu ps} {s : State} : AccCyc (fun c b => b.2.cyc = c) s.cyc (engParts pol mu ps s) := by
  unfold engParts
  split
  · next he => exact engPartsIn_cyc.error he
  · next he => exact (engPartsIn_cyc.ok he :)

theorem muViewFor_cyc {far rs} {s : State} : AccCyc (fun c b => b.1.cyc = c ∧ b.2.cyc = c) s.cyc (muViewFor far rs s) := by
  unfold muViewFor
  split
  · exact classify_cyc
  · exact viewFor_cyc

theorem muView_cyc {rs} {s : State} : AccCyc (fun c b => b.1.cyc = c ∧ b.2.cyc = c) s.cyc (muView rs s) := muViewFor_cyc

theorem spadRows_cyc {rows} {s : State} : AccCyc (fun c b => b.2.cyc = c) s.cyc (spadRows rows s) := by
  unfold spadRows
  split
  · next he => exact muView_cyc.error he
  · next he => exact (muView_cyc.ok he).2

@[simp] theorem globalRows_cyc {owner rows} {s : State} : (globalRows owner rows s).2.2.cyc = s.cyc := by
  unfold globalRows
  dsimp only
  split
  · exact (spend_cyc _ _)
  · exact (spend_cyc _ _)
  · split
    · next he => exact (engParts_cyc.error he).trans (spend_cyc _ _)
    · next he => exact (engParts_cyc.ok he).trans (spend_cyc _ _)

@[simp] theorem addWalks_cyc {ws} {s : State} : (addWalks ws s).cyc = s.cyc := by
  unfold addWalks
  rfl

end Sys2Proof.Machine
end

section
/-! CYC (R36). V slots. -/

namespace Sys2Proof.Machine

/-! ### Element-wise arithmetic (R319–R321) -/

@[simp] theorem vArith_cyc {acc rmax useB lf li fop iop v} {s : State} {c : Nat} (hc : s.cyc = c) :
    Res.CycIs c (vArith acc rmax useB lf li fop iop v s) := by
  subst hc
  simp [vArith]

@[simp] theorem vPlain_cyc {useB op v} {s : State} {c : Nat} (hc : s.cyc = c) : Res.CycIs c (vPlain useB op v s) := by
  subst hc
  simp [vPlain]

/-! ### Reductions (R189, R190, R322, R334) -/

@[simp] theorem execVred_cyc {v} {s : State} {c : Nat} (hc : s.cyc = c) : Res.CycIs c (execVred v s) := by
  refine guarded_cyc hc fun s => ?_
  dsimp only
  split <;> simp

@[simp] theorem execVsqacc_cyc {v} {s : State} {c : Nat} (hc : s.cyc = c) : Res.CycIs c (execVsqacc v s) :=
  guarded_cyc hc fun _ => (putMany_cyc _ _ _).trans (putMany_cyc _ _ _)

/-! ### Complex (R170, R323) -/

@[simp] theorem vCplx_cyc {add v} {s : State} {c : Nat} (hc : s.cyc = c) : Res.CycIs c (vCplx add v s) := by
  subst hc
  simp [vCplx]

@[simp] theorem execVconj_cyc {v} {s : State} {c : Nat} (hc : s.cyc = c) : Res.CycIs c (execVconj v s) := by
  subst hc
  simp [execVconj]

/-! ### Logic and shifts (R324) -/

@[simp] theorem vLogic_cyc {op v} {s : State} {c : Nat} (hc : s.cyc = c) : Res.CycIs c (vLogic op v s) := by
  subst hc
  simp [vLogic]

/-! ### Conversion (R325–R329) -/

@[simp] theorem execVcvt_cyc {v} {s : State} {c : Nat} (hc : s.cyc = c) : Res.CycIs c (execVcvt v s) := by
  subst hc
  simp [execVcvt]

@[simp] theorem execVqnt_cyc {v} {s : State} {c : Nat} (hc : s.cyc = c) : Res.CycIs c (execVqnt v s) := by
  subst hc
  simp [execVqnt]

@[simp] theorem execVdqnt_cyc {v} {s : State} {c : Nat} (hc : s.cyc = c) : Res.CycIs c (execVdqnt v s) := by
  subst hc
  simp [execVdqnt]

@[simp] theorem execVmxq_cyc {v} {s : State} {c : Nat} (hc : s.cyc = c) : Res.CycIs c (execVmxq v s) := by
  subst hc
  simp [execVmxq]

@[simp] theorem execVmxd_cyc {v} {s : State} {c : Nat} (hc : s.cyc = c) : Res.CycIs c (execVmxd v s) := by
  subst hc
  simp [execVmxd]

/-! ### Data movement (R330–R333) -/

@[simp] theorem execVmov_cyc {v} {s : State} {c : Nat} (hc : s.cyc = c) : Res.CycIs c (execVmov v s) := by
  subst hc
  simp [execVmov]

@[simp] theorem execVbcast_cyc {v} {s : State} {c : Nat} (hc : s.cyc = c) : Res.CycIs c (execVbcast v s) := by
  subst hc
  simp [execVbcast]

@[simp] theorem execVperm_cyc {v} {s : State} {c : Nat} (hc : s.cyc = c) : Res.CycIs c (execVperm v s) := by
  subst hc
  simp [execVperm]

@[simp] theorem execVbitx_cyc {v} {s : State} {c : Nat} (hc : s.cyc = c) : Res.CycIs c (execVbitx v s) := by
  subst hc
  simp [execVbitx]

@[simp] theorem execVlane_cyc {v} {s : State} {c : Nat} (hc : s.cyc = c) : Res.CycIs c (execVlane v s) := by
  subst hc
  simp [execVlane]

@[simp] theorem execVextr_cyc {v} {s : State} {c : Nat} (hc : s.cyc = c) : Res.CycIs c (execVextr v s) := by
  subst hc
  unfold execVextr
  dsimp only
  (repeat' split) <;> simp

@[simp] theorem execVins_cyc {v} {s : State} {c : Nat} (hc : s.cyc = c) : Res.CycIs c (execVins v s) :=
  guarded_cyc hc fun _ => (putMany_cyc _ _ _)

/-! ### Compare, select, flags and random values (R335–R338) -/

@[simp] theorem execVcmp_cyc {v} {s : State} {c : Nat} (hc : s.cyc = c) : Res.CycIs c (execVcmp v s) :=
  guarded_cyc hc fun _ => (putMany_cyc _ _ _)

@[simp] theorem execVsel_cyc {v} {s : State} {c : Nat} (hc : s.cyc = c) : Res.CycIs c (execVsel v s) :=
  guarded_cyc hc fun _ => (putMany_cyc _ _ _)

@[simp] theorem execVflag_cyc {v} {s : State} {c : Nat} (hc : s.cyc = c) : Res.CycIs c (execVflag v s) := by
  subst hc
  simp [execVflag]

@[simp] theorem execVrnd_cyc {v} {s : State} {c : Nat} (hc : s.cyc = c) : Res.CycIs c (execVrnd v s) := by
  subst hc
  simp [execVrnd]

end Sys2Proof.Machine
end

section
/-! CYC (R36). Calling a matrix routine. -/

namespace Sys2Proof.Machine

@[simp] theorem mcall_cyc {rtn specOk comp plan m} {s : State} {c : Nat} (hc : s.cyc = c) :
    Res.CycIs c (mcall rtn specOk comp plan m s) := by
  subst hc
  unfold mcall
  dsimp only
  (repeat' split) <;> simp

@[simp] theorem mcallSeen_cyc {rs rtn specOk plan m} {s : State} {c : Nat} (hc : s.cyc = c) :
    Res.CycIs c (mcallSeen rs rtn specOk plan m s) := by
  have h : Res.CycIs c (mcall rtn specOk false plan m (viewFor true true rs s).1) := mcall_cyc (viewFor_cyc.1.trans hc)
  unfold mcallSeen
  split
  · next he => exact (he ▸ h :)
  · exact h

end Sys2Proof.Machine
end

section
/-! CYC (R36). The dense routines. -/

namespace Sys2Proof.Machine

/-! ### Products (R183, R185, R188) -/

@[simp] theorem gemmRun_cyc {r} {s : State} : (gemmRun r s).2.2.cyc = s.cyc := by
  unfold gemmRun
  extract_lets g aIn scales
  split
  · next he => exact muView_cyc.error he
  · next he =>
    have h1 := (muView_cyc.ok he).2
    extract_lets a x
    have hx : x.2.2.cyc = s.cyc := globalRows_cyc.trans h1
    clear_value x
    split
    · split <;> exact hx
    · exact h1

/-! ### GATE (R361) -/

@[simp] theorem gateRun_cyc {r} {s : State} : (gateRun r s).2.2.cyc = s.cyc := by
  unfold gateRun
  extract_lets x
  split
  · next he => exact muView_cyc.error he
  · next he => exact (muView_cyc.ok he).2

/-! ### Readout (R362, R363) -/

@[simp] theorem accrdRun_cyc {r} {s : State} : (accrdRun r s).2.2.cyc = s.cyc := by
  unfold accrdRun
  rfl

@[simp] theorem accclrRun_cyc {r} {s : State} : (accclrRun r s).2.2.cyc = s.cyc := by
  unfold accclrRun
  rfl

end Sys2Proof.Machine
end

section
/-! CYC (R36). Sketch accumulators. -/

namespace Sys2Proof.Machine

/-! ### SKINIT (R217) -/

@[simp] theorem skinitRun_cyc {r} {s : State} : (skinitRun r s).2.2.cyc = s.cyc := by
  unfold skinitRun
  split <;> simp

/-! ### SKFOLD (R218) -/

@[simp] theorem skfoldRun_cyc {r} {s : State} : (skfoldRun r s).2.2.cyc = s.cyc := by
  unfold skfoldRun
  dsimp only
  split
  · next he => exact muView_cyc.error he
  · exact classify_cyc
  · next he _ => exact (muView_cyc.ok he).2

/-! ### SKSHRINK (R219) -/

@[simp] theorem skshrinkRun_cyc {r} {s : State} : (skshrinkRun r s).2.2.cyc = s.cyc := by
  unfold skshrinkRun
  dsimp only
  split
  · rfl
  · split
    · next he => exact muView_cyc.error he
    · exact classify_cyc
    · next he _ => exact (muView_cyc.ok he).2

/-! ### SKMERGE (R220) -/

@[simp] theorem skmergeRun_cyc {r} {s : State} : (skmergeRun r s).2.2.cyc = s.cyc := by
  unfold skmergeRun
  split
  · next he => exact muViewFor_cyc.error he
  · exact classify_cyc
  · next he _ => exact (muViewFor_cyc.ok he).2

/-! ### SKRD, SKWR (R221) -/

@[simp] theorem skrdRun_cyc {r} {s : State} : (skrdRun r s).2.2.cyc = s.cyc := by
  unfold skrdRun
  dsimp only
  split
  · rfl
  · split
    · next he => exact muView_cyc.error he
    · next he => exact (muView_cyc.ok he).2

@[simp] theorem skwrRun_cyc {r} {s : State} : (skwrRun r s).2.2.cyc = s.cyc := by
  unfold skwrRun
  rfl

end Sys2Proof.Machine
end

section
/-! CYC (R36). User routines of the matrix unit. -/

namespace Sys2Proof.Machine

/-! ### Calling and loading (R366) -/

@[simp] theorem loadRun_cyc {r} {s : State} : (loadRun r s).2.2.cyc = s.cyc := by
  unfold loadRun
  extract_lets o h first n
  split
  · next he => exact muView_cyc.error he
  · next he =>
    dsimp only
    split <;> exact (muView_cyc.ok he).2

/-! ### One microword (R367, R368) -/

@[simp] theorem uFetch_cyc {seq glob rows n fmt passes} {s : State} :
    (uFetch seq glob rows n fmt passes s).2.2.cyc = s.cyc := by
  unfold uFetch
  extract_lets w rs cut x
  split
  · split
    · rfl
    · exact globalRows_cyc
  · split
    · rfl
    · split
      · rfl
      · split
        · next he => exact spadRows_cyc.error he
        · next he => exact (spadRows_cyc.ok he :)

@[simp] theorem setMacc_cyc {l} {s : State} : (setMacc l s).cyc = s.cyc := by
  unfold setMacc
  rfl

@[simp] theorem uWrite_cyc {ws u} {s : State} : (uWrite ws u s).2.cyc = s.cyc := by
  simp [uWrite]

theorem uVec_cyc {o n} {s : State} : AccCyc (fun c b => b.2.cyc = c) s.cyc (uVec o n s) := by
  unfold uVec
  split
  · next he => exact spadRows_cyc.error he
  · next he => exact (spadRows_cyc.ok he :)

theorem uMma_cyc {u g} {s : State} : (uMma u g s).CycIs s.cyc := by
  unfold uMma
  extract_lets acc comp clear fa fb f64 regs stated s0 put nb el els s1 s2
  split
  · exact rfl
  · have hs0 : s0.cyc = s.cyc := cyc_ite.trans (ite_self _)
    have hs1 : s1.cyc = s.cyc := setMacc_cyc.trans (by split <;> simp [hs0])
    exact hs1

theorem uElems_cyc {u d f} {s : State} : (uElems u d f s).CycIs s.cyc := setMacc_cyc

theorem uExec_cyc {seq u w} {s : State} : (uExec seq u w s).CycIs s.cyc := by
  unfold uExec
  extract_lets +onlyGivenNames a b g n fm
  split
  · exact rfl
  · exact rfl
  · exact rfl
  · exact rfl
  · exact rfl
  · extract_lets rows x
    have hx : x.2.2.cyc = s.cyc := uFetch_cyc
    split <;> exact hx
  · extract_lets cols tr rows x
    have hx : x.2.2.cyc = s.cyc := uFetch_cyc
    split
    · exact hx
    · exact addWalks_cyc.trans hx
  · exact uMma_cyc
  · exact uElems_cyc
  · extract_lets f nb
    split
    · exact rfl
    · exact uWrite_cyc
  · exact uElems_cyc
  · split
    · exact rfl
    · split
      · next he => exact uVec_cyc.error he
      · next he =>
        have h1 := uVec_cyc.ok he
        split
        · next he2 => exact (uVec_cyc.error he2).trans h1
        · next he2 => exact (uVec_cyc.ok he2).trans h1
  · split
    · exact rfl
    · split
      · next he => exact uVec_cyc.error he
      · next he => exact (uVec_cyc.ok he :)
  · split
    · exact rfl
    · split
      · next he => exact uVec_cyc.error he
      · next he =>
        have h1 := uVec_cyc.ok he
        split
        · next he2 => exact (uVec_cyc.error he2).trans h1
        · next he2 => exact uWrite_cyc.trans ((uVec_cyc.ok he2).trans h1)
  · exact (spend_cyc _ _).trans engWrites_cyc
  · exact rfl

end Sys2Proof.Machine
end

section
/-! CYC (R36). Starting, ending and rescaling a routine. -/

namespace Sys2Proof.Machine

/-! ### Ending a routine (R354, R355) -/

@[simp] theorem removeRtn_cyc {r} {s : State} : (removeRtn r s).cyc = s.cyc := by
  unfold removeRtn
  rfl

@[simp] theorem setRtn_cyc {r} {s : State} : (setRtn r s).cyc = s.cyc := by
  unfold setRtn
  rfl

@[simp] theorem dropRtn_cyc {r} {s : State} : (dropRtn r s).cyc = s.cyc := by
  simp [dropRtn]

@[simp] theorem someWrites_cyc {k x} {s : State} : (someWrites k x s).cyc = s.cyc := by
  simp [someWrites]

@[simp] theorem stopRoutine_cyc {t} {s : State} : (stopRoutine t s).cyc = s.cyc := by
  unfold stopRoutine
  split <;> simp

@[simp] theorem applyResult_cyc {r x} {s : State} : (applyResult r x s).cyc = s.cyc := by
  simp [applyResult]

/-! ### Starting (R353) -/

@[simp] theorem runOf_cyc {r} {s : State} : (runOf r s).2.2.cyc = s.cyc := by
  unfold runOf
  (repeat' split) <;> simp

@[simp] theorem timingRep_cyc {slot tok} {s : State} : (timingRep slot tok s).cyc = s.cyc := by
  unfold timingRep
  rfl

@[simp] theorem splitWrites_cyc {x} {s : State} : (splitWrites x s).2.cyc = s.cyc := by
  simp [splitWrites]

@[simp] theorem startRtn_cyc {r} {s : State} : (startRtn r s).cyc = s.cyc := by
  unfold startRtn
  dsimp only
  (repeat' split) <;> simp

@[simp] theorem microStep_cyc {r u} {s : State} : (microStep r u s).cyc = s.cyc := by
  unfold microStep
  dsimp only
  split
  · exact setRtn_cyc
  · next w _ =>
    have h : (uExec r.seq { u with pc := u.pc + 1 } w s).CycIs s.cyc := uExec_cyc
    split
    · next he => exact (spend_cyc _ _).trans (setRtn_cyc.trans (he ▸ h :))
    · next he => exact setRtn_cyc.trans (he ▸ h :)
    · next he => exact (spend_cyc _ _).trans (setRtn_cyc.trans (addWalks_cyc.trans (he ▸ h :)))

@[simp] theorem execRoutineStart_cyc {core} {s : State} {c : Nat} (hc : s.cyc = c) :
    Res.CycIs c (execRoutineStart core s) := by
  subst hc
  unfold execRoutineStart
  dsimp only
  (repeat' split) <;> simp

/-! ### Completing (R354, R365) -/

@[simp] theorem execRoutineComplete_cyc {core} {s : State} {c : Nat} (hc : s.cyc = c) :
    Res.CycIs c (execRoutineComplete core s) := by
  subst hc
  unfold execRoutineComplete
  dsimp only
  (repeat' split) <;> simp

/-! ### MSTOP, MSTAT (R355, R356) -/

@[simp] theorem execMstat_cyc {mp clr} {s : State} {c : Nat} (hc : s.cyc = c) : Res.CycIs c (execMstat mp clr s) := by
  subst hc
  simp [execMstat]

@[simp] theorem execMnop_cyc {s : State} {c : Nat} (hc : s.cyc = c) : Res.CycIs c (execMnop s) := by
  subst hc
  simp [execMnop]

/-! ### The loss scale (R191, R192) -/

@[simp] theorem execMtsLsc_cyc {g a} {s : State} {c : Nat} (hc : s.cyc = c) : Res.CycIs c (execMtsLsc g a s) := by
  unfold execMtsLsc
  split
  · exact guarded_cyc hc fun _ => (put_cyc _ _ _)
  · exact hc

@[simp] theorem rescale_cyc {v} {s : State} : (rescale v s).cyc = s.cyc := by
  simp [rescale]

@[simp] theorem execMtsLscr_cyc {g a} {s : State} {c : Nat} (hc : s.cyc = c) : Res.CycIs c (execMtsLscr g a s) := by
  subst hc
  simp [execMtsLscr]

@[simp] theorem execRescaleComplete_cyc {core} {s : State} {c : Nat} (hc : s.cyc = c) :
    Res.CycIs c (execRescaleComplete core s) := by
  subst hc
  unfold execRescaleComplete
  dsimp only
  (repeat' split) <;> simp

end Sys2Proof.Machine
end

section
/-! CYC (R36). S slot: arithmetic, compare, select, floating point. -/

namespace Sys2Proof.Machine

@[simp] theorem whenG_cyc {g k} {s : State} (hk : ∀ x1, (k x1).cyc = x1.cyc) : (whenG g k s).cyc = s.cyc := by
  simp [whenG, hk]

@[simp] theorem sop2_cyc {lat f g d a b} {s : State} : (sop2 lat f g d a b s).cyc = s.cyc := by
  simp [sop2]

@[simp] theorem sop1_cyc {lat f g d a} {s : State} : (sop1 lat f g d a s).cyc = s.cyc := by
  simp [sop1]

/-! ### Integer arithmetic and logic (R291–R294) -/

@[simp] theorem execLui_cyc {g d v} {s : State} {c : Nat} (hc : s.cyc = c) : Res.CycIs c (execLui g d v s) := by
  subst hc
  simp [execLui]

/-! ### Compare, select and uniform predicates (R295–R298) -/

@[simp] theorem execCmp_cyc {g d a b cc} {s : State} {c : Nat} (hc : s.cyc = c) : Res.CycIs c (execCmp g d a b cc s) := by
  subst hc
  simp [execCmp]

@[simp] theorem execCmpi_cyc {g d a cc imm} {s : State} {c : Nat} (hc : s.cyc = c) :
    Res.CycIs c (execCmpi g d a cc imm s) := by
  subst hc
  simp [execCmpi]

@[simp] theorem execSel_cyc {g d a b sel} {s : State} {c : Nat} (hc : s.cyc = c) : Res.CycIs c (execSel g d a b sel s) := by
  subst hc
  simp [execSel]

@[simp] theorem execGlog_cyc {g d a b op} {s : State} {c : Nat} (hc : s.cyc = c) : Res.CycIs c (execGlog g d a b op s) := by
  subst hc
  simp [execGlog]

@[simp] theorem execPuni_cyc {g d p} {s : State} {c : Nat} (hc : s.cyc = c) : Res.CycIs c (execPuni g d p s) := by
  subst hc
  simp [execPuni]

/-! ### Scalar floating point (R299–R302) -/

@[simp] theorem putSflg_cyc {lat f} {s : State} : (putSflg lat f s).cyc = s.cyc := by
  simp [putSflg]

@[simp] theorem sfp_cyc {lat op g d rnd fmt} {s : State} {c : Nat} (hc : s.cyc = c) :
    Res.CycIs c (sfp lat op g d rnd fmt s) := by
  subst hc
  simp [sfp]

@[simp] theorem sMinMax_cyc {mx g d a b fmt} {s : State} {c : Nat} (hc : s.cyc = c) :
    Res.CycIs c (sMinMax mx g d a b fmt s) := by
  subst hc
  simp [sMinMax]

@[simp] theorem execFcvt_cyc {g d a rnd dfmt sfmt sat} {s : State} {c : Nat} (hc : s.cyc = c) :
    Res.CycIs c (execFcvt g d a rnd dfmt sfmt sat s) := by
  subst hc
  simp [execFcvt]

@[simp] theorem execFcmp_cyc {g d a b cc fmt} {s : State} {c : Nat} (hc : s.cyc = c) :
    Res.CycIs c (execFcmp g d a b cc fmt s) := by
  subst hc
  simp [execFcmp]

/-! ### Parameters and descriptors (R311, R312) -/

@[simp] theorem execMpset_cyc {g m a imm} {s : State} {c : Nat} (hc : s.cyc = c) : Res.CycIs c (execMpset g m a imm s) :=
  (whenG_cyc fun _ => (put_cyc _ _ _)).trans hc

@[simp] theorem execCdset_cyc {g n w a} {s : State} {c : Nat} (hc : s.cyc = c) : Res.CycIs c (execCdset g n w a s) :=
  (whenG_cyc fun _ => (put_cyc _ _ _)).trans hc

end Sys2Proof.Machine
end

section
/-! CYC (R36). S slot: loads, stores, atomics, prefetches. -/

namespace Sys2Proof.Machine

@[simp] theorem prefetchParts_cyc {ps} {s : State} : (prefetchParts ps s).cyc = s.cyc := by
  unfold prefetchParts
  dsimp only
  split
  · rfl
  · next he =>
    have h2 := (readBlocks_cyc.ok he).trans markCoded_cyc
    refine (foldl_cyc fun _ _ => sendRequest_cyc).trans ((foldl_cyc fun s p => ?_).trans h2)
    split <;> simp

@[simp] theorem prefetch_cyc {rs} {s : State} : (prefetch rs s).cyc = s.cyc := by
  unfold prefetch
  split <;> simp

@[simp] theorem putSMem_cyc {space fixed bound d v} {s : State} : (putSMem space fixed bound d v s).cyc = s.cyc := by
  simp [putSMem]

@[simp] theorem scalarAccess_cyc {space wr va n k} {s : State} (hk : ∀ x1 x2, (k x1 x2).cyc = x2.cyc) :
    (scalarAccess space wr va n k s).cyc = s.cyc := by
  refine resolve_cyc fun ps s => ?_
  split
  · exact (hk _ _).trans markCoded_cyc
  · rfl

@[simp] theorem ldPart_cyc {d width space p} {s : State} : (ldPart d width space p s).cyc = s.cyc := by
  unfold ldPart
  split
  · exact sendRequest_cyc
  · split
    · next he => exact recordErr_cyc.trans (readParts_cyc.error he)
    · next he => exact putSMem_cyc.trans (readParts_cyc.ok he)

@[simp] theorem execLd_cyc {g d m off} {s : State} {c : Nat} (hc : s.cyc = c) : Res.CycIs c (execLd g d m off s) := by
  subst hc
  simp [execLd]

@[simp] theorem stPart_cyc {bs p} {s : State} : (stPart bs p s).cyc = s.cyc := by
  simp [stPart]

@[simp] theorem execSt_cyc {g b m off} {s : State} {c : Nat} (hc : s.cyc = c) : Res.CycIs c (execSt g b m off s) := by
  subst hc
  simp [execSt]

theorem atomicAt_cyc {p f} {s : State} : AccCyc (fun c b => b.2.cyc = c) s.cyc (atomicAt p f s) := by
  unfold atomicAt
  split
  · next he => exact readParts_cyc.error he
  · next s1 he =>
    have h1 : s1.cyc = s.cyc := readParts_cyc.ok he
    dsimp only
    split
    · exact h1
    · next v _ =>
      have hw : AccCyc (fun c b => b.cyc = c) s1.cyc (if (codedPart s p).isSome then writeBlock false [(p, natToBytes p.n v)] s1
          else writePart false none p (natToBytes p.n v) s1) := by
        split
        · exact writeBlock_cyc
        · exact writePart_cyc
      split
      · next he2 => exact (hw.error he2).trans h1
      · next he2 => exact (hw.ok he2).trans h1

@[simp] theorem amoPart_cyc {d op f space p} {s : State} : (amoPart d op f space p s).cyc = s.cyc := by
  unfold amoPart
  split
  · exact sendRequest_cyc
  · split
    · next he => exact recordErr_cyc.trans (atomicAt_cyc.error he)
    · next he => exact putSMem_cyc.trans (atomicAt_cyc.ok he)

@[simp] theorem execAmo_cyc {g d b m op off} {s : State} {c : Nat} (hc : s.cyc = c) :
    Res.CycIs c (execAmo g d b m op off s) := by
  subst hc
  simp [execAmo]

@[simp] theorem execCas_cyc {g d b m off} {s : State} {c : Nat} (hc : s.cyc = c) : Res.CycIs c (execCas g d b m off s) := by
  subst hc
  simp [execCas]

end Sys2Proof.Machine
end

section
/-! CYC (R36). C slots. -/

namespace Sys2Proof.Machine

@[simp] theorem classifyLane_cyc {k} {s : State} : (classifyLane k s).cyc = s.cyc := by
  simp [classifyLane]

@[simp] theorem sliceRead_cyc {slot ks k} {s : State} (hk : ∀ x1, (k x1).cyc = x1.cyc) :
    (sliceRead slot ks k s).cyc = s.cyc := by
  unfold sliceRead
  split <;> simp [hk]

@[simp] theorem sliceStore_cyc {slot due es} {s : State} : (sliceStore slot due es s).cyc = s.cyc := by
  unfold sliceStore
  dsimp only
  (repeat' split) <;> simp

@[simp] theorem checked'_cyc {slot cs k} {s : State} (hk : ∀ x1, (k x1).cyc = x1.cyc) :
    (checked' slot cs k s).cyc = s.cyc := by
  unfold checked'
  split <;> simp [hk]

theorem orRaise_cycIs {slot cs} {k : State → State} {s : State} (hk : ∀ x, State.CycIs x.cyc (k x)) :
    State.CycIs s.cyc (orRaise slot cs k s) := orRaise_cyc hk

theorem whenG_cycIs {g} {k : State → State} {s : State} (hk : ∀ x, State.CycIs x.cyc (k x)) :
    State.CycIs s.cyc (whenG g k s) := whenG_cyc hk

theorem checked'_cycIs {slot cs} {k : State → State} {s : State} (hk : ∀ x, State.CycIs x.cyc (k x)) :
    State.CycIs s.cyc (checked' slot cs k s) := checked'_cyc hk

theorem resolve_cycIs {slot space wr extra vas more} {k : List Part → State → State} {s : State}
    (hk : ∀ ps x, State.CycIs x.cyc (k ps x)) : State.CycIs s.cyc (resolve slot space wr extra vas more k s) := resolve_cyc hk

theorem recordErr_cycIs {slot b a} {s : State} : State.CycIs s.cyc (recordErr slot (.memerr b) (classify a s)) :=
  recordErr_cyc.trans classify_cyc

@[simp] theorem landLoad_cyc {space fixed bound es} {s : State} : (landLoad space fixed bound es s).cyc = s.cyc := by
  simp [landLoad]

@[simp] theorem loadPlaced_cyc {c1 space fixed extra eff dstOf ps} {s : State} :
    (loadPlaced c1 space fixed extra eff dstOf ps s).cyc = s.cyc := by
  unfold loadPlaced
  extract_lets slot b offs rem own s1
  have h1 : s1.cyc = s.cyc := (foldl_cyc fun _ _ => sendRequest_cyc).trans markCoded_cyc
  clear_value s1
  split
  · exact h1
  · split
    · next he => exact recordErr_cyc.trans ((readParts_cyc.error he).trans h1)
    · next he =>
      have h2 := (readParts_cyc.ok he).trans h1
      split
      · exact landLoad_cyc.trans h2
      · exact (foldl_cyc fun _ _ => putBounded_cyc).trans h2

@[simp] theorem freeOrder_cyc {α : Type} {l : List α} {s : State} : (freeOrder l s).2.cyc = s.cyc := by
  unfold freeOrder
  rfl

@[simp] theorem storePlaced_cyc {due c1 space data ps} {s : State} : (storePlaced due c1 space data ps s).cyc = s.cyc := by
  simp [storePlaced]

@[simp] theorem transfer_cyc {c1 space wr extra vas k} {s : State} (hk : ∀ x1 x2, (k x1 x2).cyc = x2.cyc) :
    (transfer c1 space wr extra vas k s).cyc = s.cyc := by
  simp [transfer, hk]

/-! ### LDV, STV -/

@[simp] theorem execLdv_cyc {c1 v b off space} {s : State} {c : Nat} (hc : s.cyc = c) :
    Res.CycIs c (execLdv c1 v b off space s) := by
  subst hc
  unfold execLdv
  refine State.CycIs.next ?_
  split
  · exact .ite (.ite prefetch_cyc rfl) (.ite (checked'_cyc fun _ => rfl) (transfer_cyc fun _ _ => loadPlaced_cyc))
  · exact .ite (checked'_cyc fun _ => sliceRead_cyc fun _ => putMany_cyc _ _ _) (transfer_cyc fun _ _ => loadPlaced_cyc)

@[simp] theorem execStv_cyc {c1 v b off space} {s : State} {c : Nat} (hc : s.cyc = c) :
    Res.CycIs c (execStv c1 v b off space s) := by
  subst hc
  simp [execStv]

/-! ### LDVS, STVS, LDX, STX: one element a lane -/

@[simp] theorem loadLanes_cyc {c1 v space fixed tag bad extra addr} {s : State} :
    (loadLanes c1 v space fixed tag bad extra addr s).cyc = s.cyc := by
  refine (?_ : State.CycIs s.cyc _)
  unfold loadLanes
  dsimp only
  split
  · exact .ite (.ite prefetch_cyc rfl) (.ite (checked'_cyc fun _ => rfl) (transfer_cyc fun _ _ => loadPlaced_cyc))
  · exact .ite (checked'_cyc fun _ => sliceRead_cyc fun _ => putMany_cyc _ _ _) (transfer_cyc fun _ _ => loadPlaced_cyc)

@[simp] theorem storeLanes_cyc {c1 v space extra addr} {s : State} : (storeLanes c1 v space extra addr s).cyc = s.cyc := by
  simp [storeLanes]

/-! ### LDT, STT: a whole tile -/

@[simp] theorem execLdt_cyc {c1 t b p tag cols space} {s : State} {c : Nat} (hc : s.cyc = c) :
    Res.CycIs c (execLdt c1 t b p tag cols space s) := by
  subst hc
  exact State.CycIs.next (.ite (checked'_cyc fun _ => sliceRead_cyc fun _ => putMany_cyc _ _ _)
    (transfer_cyc fun _ _ => loadPlaced_cyc))

@[simp] theorem execStt_cyc {c1 t b p cols space} {s : State} {c : Nat} (hc : s.cyc = c) :
    Res.CycIs c (execStt c1 t b p cols space s) := by
  subst hc
  simp [execStt]

/-! ### ARRIVE, EXPECT, TOKCLR -/

@[simp] theorem onBarrier_cyc {slot space wr va k} {s : State} (hk : ∀ x1 x2, (k x1 x2).cyc = x2.cyc) :
    (onBarrier slot space wr va k s).cyc = s.cyc := by
  refine resolve_cyc fun ps s => ?_
  split
  · rfl
  · exact hk _ _

@[simp] theorem barrierOp_cyc {c1 a space kind n op} {s : State} : (barrierOp c1 a space kind n op s).cyc = s.cyc := by
  refine onBarrier_cyc fun p s => ?_
  dsimp only
  split
  · exact sendRequest_cyc
  · split
    · exact recordErr_cyc.trans classify_cyc
    · exact postUpdateOf_cyc.trans (spend_cyc _ _)

@[simp] theorem execTokclr_cyc {c1 t} {s : State} {c : Nat} (hc : s.cyc = c) : Res.CycIs c (execTokclr c1 t s) := by
  subst hc
  exact State.CycIs.next (.ite rfl (orRaise_cyc fun _ => put_cyc _ _ _))

end Sys2Proof.Machine
end

section
/-! CYC (R36). The block-transfer engine. -/

namespace Sys2Proof.Machine

/-! ### Issue (R374, R384) -/

@[simp] theorem submit_cyc {c stoch} {s : State} : (submit c stoch s).cyc = s.cyc := by
  simp [submit]

@[simp] theorem execCopy_cyc {c1 cd time produce k1 k2 k3} {s : State} {c : Nat} (hc : s.cyc = c) :
    Res.CycIs c (execCopy c1 cd time produce k1 k2 k3 s) := by
  subst hc
  simp [execCopy]

@[simp] theorem execCflush_cyc {c1 a l inv produce} {s : State} {c : Nat} (hc : s.cyc = c) :
    Res.CycIs c (execCflush c1 a l inv produce s) := by
  subst hc
  simp [execCflush]

@[simp] theorem execCnop_cyc {s : State} {c : Nat} (hc : s.cyc = c) : Res.CycIs c (execCnop s) := by
  subst hc
  simp [execCnop]

/-! ### Starting and writing (R375, R377, R381) -/

@[simp] theorem engUnits_cyc {pol us} {s : State} : (engUnits pol us s).2.cyc = s.cyc := by
  induction us generalizing s with
  | nil => rfl
  | cons u us ih =>
    have h : (agentUnit true pol u s).2.cyc = s.cyc := agentUnit_cyc
    unfold engUnits
    split
    · next he => exact (he ▸ h :)
    · next he => exact ih.trans (he ▸ h :)

@[simp] theorem tagFrames_cyc {fs tag} {s : State} : (tagFrames fs tag s).cyc = s.cyc := by
  unfold tagFrames
  rfl

@[simp] theorem leaveBuffer_cyc {c} {s : State} : (leaveBuffer c s).cyc = s.cyc := by
  unfold leaveBuffer
  rfl

@[simp] theorem runCmd_cyc {r} {s : State} : (runCmd r s).cyc = s.cyc := by
  unfold runCmd
  rfl

@[simp] theorem readRows_cyc {pol all c rs} {s : State} : (readRows pol all c rs s).2.cyc = s.cyc := by
  induction rs generalizing c s with
  | nil => rfl
  | cons r rs ih =>
    unfold readRows
    split
    · next he => exact engPartsIn_cyc.error he
    · next he => exact ih.trans (engPartsIn_cyc.ok he)

@[simp] theorem startLocal_cyc {x whole bound base} {s : State} : (startLocal x whole bound base s).cyc = s.cyc :=
  runCmd_cyc.trans (spend_cyc _ _)

@[simp] theorem startRemote_cyc {x whole dest base} {s : State} : (startRemote x whole dest base s).cyc = s.cyc := by
  unfold startRemote
  rfl

@[simp] theorem startCopy_cyc {cmd} {s : State} : (startCopy cmd s).cyc = s.cyc := by
  unfold startCopy
  dsimp only
  (repeat' split) <;> simp

/-! ### Landing (R124, R381) -/

@[simp] theorem landWrite_cyc {g r w} {s : State} : (landWrite g r w s).cyc = s.cyc := by
  have h : (agentUnit true (copyOf r.cmd.words).l2pol w.2 (select g s)).2.cyc = s.cyc := agentUnit_cyc.trans select_cyc
  unfold landWrite
  dsimp only
  split
  · next he => exact (he ▸ h :)
  · next he => exact tagFrames_cyc.trans (he ▸ h :)

/-! ### CFLUSH (R207, R384, R421) -/

@[simp] theorem flushLine_cyc {inv ln} {s : State} : (flushLine inv ln s).cyc = s.cyc := by
  unfold flushLine
  dsimp only
  (repeat' split) <;> simp

@[simp] theorem discardL1_cyc {i k} {s : State} : (discardL1 s i k).cyc = s.cyc := by
  unfold discardL1
  rfl

@[simp] theorem flushSome_cyc {inv bs ls} {s : State} : (flushSome inv bs ls s).2.cyc = s.cyc := by
  simp [flushSome]

@[simp] theorem startFlush_cyc {cmd} {s : State} : (startFlush cmd s).cyc = s.cyc := by
  simp [startFlush]

/-! ### The buffer (R375) -/

@[simp] theorem pushBack_cyc {c} {s : State} : (pushBack c s).cyc = s.cyc := by
  unfold pushBack
  rfl

@[simp] theorem execCopyStart_cyc {core} {s : State} {c : Nat} (hc : s.cyc = c) : Res.CycIs c (execCopyStart core s) := by
  subst hc
  unfold execCopyStart
  dsimp only
  (repeat' split) <;> simp

/-! ### Completing (R161, R380, R381) -/

@[simp] theorem removeCmd_cyc {r} {s : State} : (removeCmd r s).cyc = s.cyc := by
  unfold removeCmd
  rfl

@[simp] theorem putCrc_cyc {r v} {s : State} : (putCrc r v s).cyc = s.cyc := by
  simp [putCrc]

@[simp] theorem execCopyComplete_cyc {core} {s : State} {c : Nat} (hc : s.cyc = c) :
    Res.CycIs c (execCopyComplete core s) := by
  subst hc
  unfold execCopyComplete
  dsimp only
  (repeat' split) <;> simp

@[simp] theorem execCflushComplete_cyc {core} {s : State} {c : Nat} (hc : s.cyc = c) :
    Res.CycIs c (execCflushComplete core s) := by
  subst hc
  unfold execCflushComplete
  dsimp only
  (repeat' split) <;> simp

/-! ### Barriers (R160) -/

@[simp] theorem execBarrierUpdate_cyc {s : State} {c : Nat} (hc : s.cyc = c) : Res.CycIs c (execBarrierUpdate s) := by
  subst hc
  unfold execBarrierUpdate
  dsimp only
  (repeat' split) <;> simp

end Sys2Proof.Machine
end

section
/-! CYC (R36). System registers. -/

namespace Sys2Proof.Machine

@[simp] theorem execMfs_cyc {g d sr} {s : State} {c : Nat} (hc : s.cyc = c) : Res.CycIs c (execMfs g d sr s) := by
  subst hc
  simp [execMfs]

@[simp] theorem execMts_cyc {g a sr} {s : State} {c : Nat} (hc : s.cyc = c) : Res.CycIs c (execMts g a sr s) :=
  guarded_cyc hc fun _ => whenG_cyc fun _ => (put_cyc _ _ _)

@[simp] theorem execMtsTemp_cyc {g a} {s : State} {c : Nat} (hc : s.cyc = c) : Res.CycIs c (execMtsTemp g a s) :=
  (whenG_cyc fun _ => orRaise_cyc fun _ => (putMany_cyc _ _ _)).trans hc

@[simp] theorem execMtsTripKix_cyc {g a kix} {s : State} {c : Nat} (hc : s.cyc = c) :
    Res.CycIs c (execMtsTripKix g a kix s) := (whenG_cyc fun _ => (put_cyc _ _ _)).trans hc

@[simp] theorem execMtsHot_cyc {g a n} {s : State} {c : Nat} (hc : s.cyc = c) : Res.CycIs c (execMtsHot g a n s) :=
  (whenG_cyc fun _ => (put_cyc _ _ _)).trans hc

@[simp] theorem execMtsRslim_cyc {g a} {s : State} {c : Nat} (hc : s.cyc = c) : Res.CycIs c (execMtsRslim g a s) :=
  (whenG_cyc fun _ => orRaise_cyc fun _ => (put_cyc _ _ _)).trans hc

@[simp] theorem execMtsTcause_cyc {g a} {s : State} {c : Nat} (hc : s.cyc = c) : Res.CycIs c (execMtsTcause g a s) :=
  (whenG_cyc fun _ => (put_cyc _ _ _)).trans hc

@[simp] theorem execMtsCctr_cyc {g a} {s : State} {c : Nat} (hc : s.cyc = c) : Res.CycIs c (execMtsCctr g a s) :=
  (whenG_cyc fun _ => (put_cyc _ _ _)).trans hc

end Sys2Proof.Machine
end

section
/-! CYC (R36). B slot. -/

namespace Sys2Proof.Machine

/-! ### Branches (R394–R396) -/

@[simp] theorem condBranch_cyc {g t} {s : State} : (condBranch g t s).cyc = s.cyc := by
  unfold condBranch
  rfl

@[simp] theorem spill_cyc {j p} {s : State} : (spill j p s).cyc = s.cyc := by
  simp [spill]

theorem unspill_cyc_of_eq {j r} {s : State} (hr : unspill j s = r) : r.2.cyc = s.cyc := by
  generalize hf : unspill = f at hr
  delta unspill at hf
  subst hf
  beta_reduce at hr
  extract_lets a at hr
  generalize badAddr s a 8 = o at hr
  cases o with
  | some b => subst hr; exact recordErr_cycIs
  | none => subst hr; exact rfl

@[simp] theorem unspill_cyc {j} {s : State} : (unspill j s).2.cyc = s.cyc := unspill_cyc_of_eq rfl

@[simp] theorem push_cyc {p} {s : State} : (push p s).cyc = s.cyc := by
  simp [push]

@[simp] theorem execCall_cyc {g target} {s : State} {c : Nat} (hc : s.cyc = c) : Res.CycIs c (execCall g target s) := by
  subst hc
  simp [execCall]

theorem setRs_cyc {t : State} {rs n} : State.cyc { t with core := { t.core with rs := rs, rsdepth := n } } = t.cyc := rfl

@[simp] theorem pop_cyc {s : State} : (pop s).2.cyc = s.cyc := by
  unfold pop
  extract_lets +onlyGivenNames c n
  split
  · exact setRs_cyc.trans unspill_cyc
  · split
    · exact setRs_cyc.trans unspill_cyc
    · exact setRs_cyc

@[simp] theorem execRet_cyc {g} {s : State} {c : Nat} (hc : s.cyc = c) : Res.CycIs c (execRet g s) := by
  subst hc
  simp [execRet]

/-! ### Hardware loops (R112, R397) -/

@[simp] theorem execLoop_cyc {target} {s : State} {c : Nat} (hc : s.cyc = c) : Res.CycIs c (execLoop target s) := by
  subst hc
  simp [execLoop]

@[simp] theorem execLoopr_cyc {target d} {s : State} {c : Nat} (hc : s.cyc = c) : Res.CycIs c (execLoopr target d s) :=
  (orRaise_cyc fun _ => (branchTo_cyc _ _ _).trans (putMany_cyc _ _ _)).trans hc

/-! ### BSWAP, IFENCE (R398, R399) -/

@[simp] theorem execBswap_cyc {g target} {s : State} {c : Nat} (hc : s.cyc = c) : Res.CycIs c (execBswap g target s) := by
  subst hc
  unfold execBswap
  split
  · exact orRaise_cyc fun _ => (branchTo_cyc _ _ _).trans (spend_cyc _ _)
  · exact (branchTo_cyc _ _ _)

@[simp] theorem execIfence_cyc {g} {s : State} {c : Nat} (hc : s.cyc = c) : Res.CycIs c (execIfence g s) := by
  subst hc
  simp [execIfence]

/-! ### Waits (R401–R405) -/

@[simp] theorem acquire_cyc {ga} {s : State} : (acquire ga s).cyc = s.cyc := by
  simp [acquire]

@[simp] theorem seenAt_cyc {x bound} {s : State} : (seenAt s x bound).2.cyc = s.cyc := by
  unfold seenAt
  split <;> simp

@[simp] theorem execWaitb_cyc {g a gen space} {s : State} {c : Nat} (hc : s.cyc = c) :
    Res.CycIs c (execWaitb g a gen space s) := by
  subst hc
  unfold execWaitb
  split
  · refine onBarrier_cyc fun p s => ?_
    split
    · exact (beginWait_cyc _ _ _).trans sendRequest_cyc
    · split
      · exact recordErr_cyc.trans classify_cyc
      · dsimp only
        split <;> simp
  · exact rfl

@[simp] theorem execWaitt_cyc {g t} {s : State} {c : Nat} (hc : s.cyc = c) : Res.CycIs c (execWaitt g t s) := by
  subst hc
  simp [execWaitt]

@[simp] theorem execWaitc_cyc {g a n} {s : State} {c : Nat} (hc : s.cyc = c) : Res.CycIs c (execWaitc g a n s) := by
  subst hc
  simp [execWaitc]

@[simp] theorem execHold_cyc {g a n} {s : State} {c : Nat} (hc : s.cyc = c) : Res.CycIs c (execHold g a n s) := by
  subst hc
  unfold execHold
  split
  · exact orRaise_cyc fun _ => (put_cyc _ _ _)
  · exact rfl

/-! ### Endings and traps (R246, R249, R258, R407) -/

@[simp] theorem execDone_cyc {g} {s : State} {c : Nat} (hc : s.cyc = c) : Res.CycIs c (execDone g s) := by
  subst hc
  simp [execDone]

@[simp] theorem execTrap_cyc {g e} {s : State} {c : Nat} (hc : s.cyc = c) : Res.CycIs c (execTrap g e s) := by
  subst hc
  simp [execTrap]

@[simp] theorem execEbreak_cyc {g e} {s : State} {c : Nat} (hc : s.cyc = c) : Res.CycIs c (execEbreak g e s) := by
  subst hc
  simp [execEbreak]

@[simp] theorem suspend_cyc {stub} {s : State} : (suspend stub s).cyc = s.cyc := by
  unfold suspend
  split <;> simp

@[simp] theorem yieldEnds_cyc {stub} {s : State} : (yieldEnds stub s).cyc = s.cyc := by
  unfold yieldEnds
  split <;> simp

@[simp] theorem execYield_cyc {g target} {s : State} {c : Nat} (hc : s.cyc = c) : Res.CycIs c (execYield g target s) := by
  subst hc
  simp [execYield]

/-! ### SAVEX, RESTX (R256, R257, R408, R409) -/

@[simp] theorem spillAll_cyc {s : State} : (spillAll s).cyc = s.cyc := by
  unfold spillAll
  extract_lets c h s1
  have h1 : s1.cyc = s.cyc := foldl_cyc fun _ _ => spill_cyc
  exact h1

@[simp] theorem execSavex_cyc {g a} {s : State} {c : Nat} (hc : s.cyc = c) : Res.CycIs c (execSavex g a s) := by
  subst hc
  refine State.CycIs.next (.ite (orRaise_cycIs fun s => ?_) rfl)
  split
  · exact recordErr_cycIs
  · exact (put_cyc _ _ _).trans (homeWrite_cyc.trans (spillAll_cyc.trans (spend_cyc _ _)))

@[simp] theorem execRestx_cyc {g a} {s : State} {c : Nat} (hc : s.cyc = c) : Res.CycIs c (execRestx g a s) := by
  subst hc
  refine State.CycIs.next (.ite (orRaise_cycIs fun s => ?_) (branchTo_cyc _ _ _))
  split
  · exact recordErr_cycIs
  · exact orRaise_cycIs fun _ => (branchTo_cyc _ _ _).trans (putMany_cyc _ _ _)

/-! ### ACQ, REL, FENCE (R152–R156, R410, R411) -/

@[simp] theorem objectOp_cyc {a space k} {s : State} (hk : ∀ x1 x2, (k x1 x2).cyc = x2.cyc) :
    (objectOp a space k s).cyc = s.cyc := by
  refine resolve_cyc fun ps s => ?_
  split
  · rfl
  · exact hk _ _

@[simp] theorem execAcq_cyc {g a space} {s : State} {c : Nat} (hc : s.cyc = c) : Res.CycIs c (execAcq g a space s) := by
  subst hc
  simp [execAcq]

@[simp] theorem releaseObj_cyc {o} {s : State} : (releaseObj o s).cyc = s.cyc := by
  refine noteRelease_cyc.trans ((foldl_cyc fun s b => ?_).trans flushPayload_cyc)
  split
  · exact ownUpdates_cyc
  · rfl

@[simp] theorem execRel_cyc {g a space} {s : State} {c : Nat} (hc : s.cyc = c) : Res.CycIs c (execRel g a space s) := by
  subst hc
  simp [execRel]

@[simp] theorem fenceEngines_cyc {s : State} : (fenceEngines s).cyc = s.cyc := by
  unfold fenceEngines
  rfl

@[simp] theorem fenceScope_cyc {scope} {s : State} : (fenceScope scope s).cyc = s.cyc := by
  simp [fenceScope]

@[simp] theorem execFence_cyc {g scope} {s : State} {c : Nat} (hc : s.cyc = c) : Res.CycIs c (execFence g scope s) := by
  subst hc
  simp [execFence]

@[simp] theorem execBnop_cyc {s : State} {c : Nat} (hc : s.cyc = c) : Res.CycIs c (execBnop s) := by
  subst hc
  simp [execBnop]

end Sys2Proof.Machine
end

section
/-! CYC (R36). N slot. -/

namespace Sys2Proof.Machine

/-! ### Ports and slots (R385) -/

@[simp] theorem bumpCursor_cyc {key} {s : State} : (bumpCursor key s).cyc = s.cyc := by
  unfold bumpCursor
  rfl

/-! ### SEND (R386) -/

@[simp] theorem execSend_cyc {port v x} {s : State} {c : Nat} (hc : s.cyc = c) : Res.CycIs c (execSend port v x s) := by
  subst hc
  unfold execSend
  dsimp only
  (repeat' split) <;> simp

/-! ### RECV, RECVADD, RECVSQ (R387) -/

@[simp] theorem recvWith_cyc {lat f port v x} {s : State} : (recvWith lat f port v x s).cyc = s.cyc := by
  unfold recvWith
  dsimp only
  (repeat' split) <;> simp

/-! ### PUTSIG (R48, R68, R388) -/

@[simp] theorem launchSig_cyc {c d bytes pay sg} {s : State} : (launchSig c d bytes pay sg s).cyc = s.cyc := by
  simp [launchSig]

@[simp] theorem execPutsig_cyc {chan v q} {s : State} {c : Nat} (hc : s.cyc = c) : Res.CycIs c (execPutsig chan v q s) := by
  subst hc
  unfold execPutsig
  extract_lets +onlyGivenNames o c k first
  split
  · exact checked'_cyc fun _ => rfl
  · extract_lets +onlyGivenNames l
    generalize badAddr s l 32 = o
    cases o with
    | some b => exact checked'_cycIs fun _ => recordErr_cycIs
    | none =>
      refine State.CycIs.next (resolve_cycIs fun ps s => ?_)
      split
      · exact rfl
      · exact launchSig_cyc

/-! ### NCOLL (R389) -/

@[simp] theorem execNcoll_cyc {q produce} {s : State} {c : Nat} (hc : s.cyc = c) : Res.CycIs c (execNcoll q produce s) := by
  subst hc
  refine State.CycIs.next (checked'_cycIs fun s => ?_)
  extract_lets +onlyGivenNames l
  generalize badAddr s l 64 = o
  cases o with
  | some b => exact recordErr_cycIs
  | none => exact produceTok_cyc

/-! ### NWAIT (R286) -/

@[simp] theorem execNwait_cyc {x} {s : State} {c : Nat} (hc : s.cyc = c) : Res.CycIs c (execNwait x s) := by
  subst hc
  refine checked'_cyc fun s => ?_
  split
  · rfl
  · exact (put_cyc _ _ _)

@[simp] theorem execNnop_cyc {s : State} {c : Nat} (hc : s.cyc = c) : Res.CycIs c (execNnop s) := by
  subst hc
  simp [execNnop]

end Sys2Proof.Machine
end

section
/-! CYC (R36). The fabric. -/

namespace Sys2Proof.Machine

/-! ### Counters and writes from outside a core -/

@[simp] theorem bumpPort_cyc {port i} {s : State} : (bumpPort port i s).cyc = s.cyc := by
  unfold bumpPort
  rfl

@[simp] theorem homeUnit_cyc {w} {s : State} : (homeUnit w s).2.cyc = s.cyc := by
  simp [homeUnit]

@[simp] theorem homeRuns_cyc {runs} {s : State} : (homeRuns runs s).2.cyc = s.cyc :=
  List.foldlRecOn (motive := fun p : Bool × State => p.2.cyc = s.cyc) _ _ rfl fun _ hp _ _ => agentUnit_cyc.trans hp

@[simp] theorem homeRead_cyc {a n} {s : State} : (homeRead a n s).2.2.cyc = s.cyc := by
  unfold homeRead
  split
  · next he => exact devRead_cyc.error he
  · next he => exact (devRead_cyc.ok he :)

/-! ### Reports (R41, R51, R52) -/

@[simp] theorem fencePort_cyc {p} {s : State} : (fencePort p s).cyc = s.cyc := by
  simp [fencePort]

@[simp] theorem finalFlit_cyc {x ok use_} {s : State} : (finalFlit x ok use_ s).cyc = s.cyc := by
  unfold finalFlit
  (repeat' split) <;> simp

@[simp] theorem settle_cyc {m x} {s : State} : (settle m x s).cyc = s.cyc := by
  unfold settle
  (repeat' split) <;> simp

/-! ### SLOT_SEND (R40, R41, R44, R45, R422) -/

@[simp] theorem emit_cyc {x} {s : State} : (emit x s).cyc = s.cyc := by
  unfold emit
  rfl

@[simp] theorem sendSend_cyc {t n e} {s : State} : (sendSend t n e s).cyc = s.cyc := by
  unfold sendSend
  extract_lets mine s1
  have h1 : s1.cyc = s.cyc := foldl_cyc fun _ _ => emit_cyc
  clear_value s1
  exact h1

@[simp] theorem sendCopy_cyc {t n e} {s : State} : (sendCopy t n e s).cyc = s.cyc := by
  unfold sendCopy
  split <;> simp

@[simp] theorem sendSig_cyc {t n e} {s : State} : (sendSig t n e s).cyc = s.cyc := by
  unfold sendSig
  dsimp only
  (repeat' split) <;> simp

@[simp] theorem sendColl_cyc {t n e} {s : State} : (sendColl t n e s).cyc = s.cyc := by
  unfold sendColl
  split <;> simp

@[simp] theorem sendFwd_cyc {t n e} {s : State} : (sendFwd t n e s).cyc = s.cyc := by
  unfold sendFwd
  split <;> simp

@[simp] theorem dropHeld_cyc {t n} {s : State} : (dropHeld t n s).cyc = s.cyc := by
  unfold dropHeld
  rfl

@[simp] theorem sendServ_cyc {t n e} {s : State} : (sendServ t n e s).cyc = s.cyc := by
  simp [sendServ]

@[simp] theorem sendReplay_cyc {t n e} {s : State} : (sendReplay t n e s).cyc = s.cyc := by
  simp [sendReplay]

@[simp] theorem sendEntry_cyc {t n e} {s : State} : (sendEntry t n e s).cyc = s.cyc := by
  simp [sendEntry]

@[simp] theorem sendHeader_cyc {n port} {s : State} : (sendHeader n port s).cyc = s.cyc := by
  unfold sendHeader
  rfl

@[simp] theorem turnInjection_cyc {n} {s : State} : (turnInjection n s).cyc = s.cyc := by
  unfold turnInjection
  rfl

@[simp] theorem failStranded_cyc {g} {s : State} : (failStranded g s).cyc = s.cyc := by
  unfold failStranded
  split <;> simp

@[simp] theorem dropStrandedSigs_cyc {s : State} : (dropStrandedSigs s).cyc = s.cyc := by
  unfold dropStrandedSigs
  rfl

@[simp] theorem execSlotSend_cyc {s : State} {c : Nat} (hc : s.cyc = c) : Res.CycIs c (execSlotSend s) := by
  subst hc
  unfold execSlotSend
  dsimp only
  (repeat' split) <;> simp

/-! ### SLOT_HEADER_RECEIVE, FLIT_RECEIVE (R39, R41, R42, R46, R50, R51) -/

@[simp] theorem noteSlot_cyc {port n} {s : State} : (noteSlot port n s).cyc = s.cyc := by
  simp [noteSlot]

@[simp] theorem keepSend_cyc {f st data} {s : State} : (keepSend f st data s).cyc = s.cyc := by
  unfold keepSend
  rfl

@[simp] theorem noteOffset_cyc {port ptp} {s : State} : (noteOffset port ptp s).cyc = s.cyc := by
  simp [noteOffset]

@[simp] theorem execSlotHeaderReceive_cyc {port slot skew ptp status late} {s : State} {c : Nat} (hc : s.cyc = c) :
    Res.CycIs c (execSlotHeaderReceive port slot skew ptp status late s) := by
  subst hc
  simp [execSlotHeaderReceive]

@[simp] theorem modRxSig_cyc {x f} {s : State} : (modRxSig x f s).cyc = s.cyc := by
  unfold modRxSig
  rfl

@[simp] theorem noteFrames_cyc {src runs t} {s : State} : (noteFrames src runs t s).cyc = s.cyc := by
  simp [noteFrames]

@[simp] theorem hearColl_cyc {port src fields} {s : State} : (hearColl port src fields s).cyc = s.cyc := by
  unfold hearColl
  dsimp only
  (repeat' split) <;> simp

@[simp] theorem deliver_cyc {f} {s : State} : (deliver f s).cyc = s.cyc := by
  unfold deliver
  (repeat' split) <;> simp

@[simp] theorem noteVisible_cyc {n} {s : State} : (noteVisible n s).cyc = s.cyc := by
  unfold noteVisible
  rfl

@[simp] theorem noteArrival_cyc {f} {s : State} : (noteArrival f s).cyc = s.cyc := by
  unfold noteArrival
  dsimp only
  (repeat' split) <;> simp

@[simp] theorem execFlitReceive_cyc {f} {s : State} {c : Nat} (hc : s.cyc = c) : Res.CycIs c (execFlitReceive f s) := by
  subst hc
  unfold execFlitReceive
  split <;> simp

/-! ### Remote accesses (R47) -/

@[simp] theorem performRemote_cyc {src a op} {s : State} : (performRemote src a op s).2.2.cyc = s.cyc := by
  unfold performRemote
  extract_lets swap stores loads updates
  have hswap (n f) : (swap n f).2.2.cyc = s.cyc := by
    unfold swap
    dsimp only
    split
    · exact homeRead_cyc
    · split
      · exact homeRead_cyc
      · exact homeUnit_cyc.trans homeRead_cyc
  have hloads (runs) : (loads runs).2.2.cyc = s.cyc := by
    refine List.foldlRecOn (motive := fun p : Bool × List Byte × State => p.2.2.cyc = s.cyc) _ _ rfl fun p hp r _ => ?_
    split
    · exact hp
    · exact homeRead_cyc.trans hp
  have hupdates (k n) : (updates k n).2.2.cyc = s.cyc := by
    unfold updates
    split
    · exact classify_cyc
    · rfl
  clear_value swap loads updates
  cases op with
  | load n => exact homeRead_cyc
  | gather runs => exact hloads _
  | store bs => exact homeRuns_cyc
  | scatter runs => exact homeRuns_cyc
  | amo o n v => exact hswap _ _
  | cas n e v => exact hswap _ _
  | arrive => exact hupdates _ _
  | expect k => exact hupdates _ _

@[simp] theorem respond_cyc {n port dst id ok data} {s : State} : (respond n port dst id ok data s).cyc = s.cyc := by
  unfold respond
  split <;> simp

@[simp] theorem passOn_cyc {n port src id addr op} {s : State} : (passOn n port src id addr op s).cyc = s.cyc := by
  unfold passOn
  split <;> simp

@[simp] theorem execRemoteRequest_cyc {f id addr op} {s : State} {c : Nat} (hc : s.cyc = c) :
    Res.CycIs c (execRemoteRequest f id addr op s) := by
  subst hc
  unfold execRemoteRequest
  (repeat' split) <;> simp

@[simp] theorem answerWait_cyc {id done next_} {s : State} : (answerWait id done next_ s).cyc = s.cyc := by
  unfold answerWait
  split <;> simp

@[simp] theorem queueHeld_cyc {r} {s : State} : (queueHeld r s).cyc = s.cyc := by
  unfold queueHeld
  split <;> simp

@[simp] theorem landRemote_cyc {a data} {s : State} : (landRemote a data s).cyc = s.cyc := by
  unfold landRemote
  split <;> simp

@[simp] theorem takeResponse_cyc {n id ok data} {s : State} : (takeResponse n id ok data s).cyc = s.cyc := by
  unfold takeResponse
  (repeat' split) <;> simp

@[simp] theorem execRemoteResponse_cyc {f id answer} {s : State} {c : Nat} (hc : s.cyc = c) :
    Res.CycIs c (execRemoteResponse f id answer s) := by
  subst hc
  simp [execRemoteResponse]

/-! ### Link timetables (R43, R44, R425) -/

@[simp] theorem execLtarm_cyc {a} {s : State} {c : Nat} (hc : s.cyc = c) : Res.CycIs c (execLtarm a s) := by
  subst hc
  refine fromHost_cyc ?_
  dsimp only [Res.cycIs_next]
  split <;> rfl

@[simp] theorem execLtstop_cyc {v} {s : State} {c : Nat} (hc : s.cyc = c) : Res.CycIs c (execLtstop v s) := by
  subst hc
  simp [execLtstop]

@[simp] theorem endTable_cyc {s : State} : (endTable s).cyc = s.cyc := by
  simp [endTable]

@[simp] theorem execLinkTimetableStart_cyc {s : State} {c : Nat} (hc : s.cyc = c) :
    Res.CycIs c (execLinkTimetableStart s) := by
  subst hc
  unfold execLinkTimetableStart
  split <;> simp

@[simp] theorem execLinkTimetableEnd_cyc {s : State} {c : Nat} (hc : s.cyc = c) : Res.CycIs c (execLinkTimetableEnd s) := by
  subst hc
  simp [execLinkTimetableEnd]

@[simp] theorem execGroupActivate_cyc {g v} {s : State} {c : Nat} (hc : s.cyc = c) :
    Res.CycIs c (execGroupActivate g v s) := by
  subst hc
  simp [execGroupActivate]

/-! ### Signals (R48, R164, R388) -/

@[simp] theorem applyFar_cyc {src a flag} {s : State} : (applyFar src a flag s).cyc = s.cyc := by
  unfold applyFar
  split <;> simp

@[simp] theorem applyOwn_cyc {m} {s : State} : (applyOwn m s).cyc = s.cyc := by
  unfold applyOwn
  split <;> simp

@[simp] theorem execSignalApply_cyc {s : State} {c : Nat} (hc : s.cyc = c) : Res.CycIs c (execSignalApply s) := by
  subst hc
  unfold execSignalApply
  split <;> simp

/-! ### Collectives (R389–R392) -/

@[simp] theorem endColl_cyc {c ok} {s : State} : (endColl c ok s).cyc = s.cyc := by
  simp [endColl]

@[simp] theorem execCollectiveStart_cyc {die} {s : State} {c : Nat} (hc : s.cyc = c) :
    Res.CycIs c (execCollectiveStart die s) := by
  subst hc
  unfold execCollectiveStart
  split
  · exact trivial
  · next c _ =>
    extract_lets d s0 reads a s1 b s2 good outs nrm
    have h2 : s2.cyc = s.cyc := addWalks_cyc.trans ((spend_cyc _ _).trans (addWalks_cyc.trans ((spend_cyc _ _).trans select_cyc)))
    have h0 : s0.cyc = s.cyc := select_cyc
    clear_value s2 s0
    split
    · exact endColl_cyc.trans h0
    · split
      · next he =>
        have h3 := (engParts_cyc.ok he).trans h2
        split
        · exact endColl_cyc.trans h3
        · exact (spend_cyc _ _).trans h3
      · next he => exact endColl_cyc.trans ((engParts_cyc.error he).trans h2)
      · exact endColl_cyc.trans h2

@[simp] theorem execCollectiveComplete_cyc {die ok contrib} {s : State} {c : Nat} (hc : s.cyc = c) :
    Res.CycIs c (execCollectiveComplete die ok contrib s) := by
  subst hc
  unfold execCollectiveComplete
  split <;> simp

end Sys2Proof.Machine
end

section
/-! CYC (R36). The task scheduler. -/

namespace Sys2Proof.Machine

/-! ### Global physical memory as the walker and the pool reach it (R135, R193) -/

@[simp] theorem walkReads_cyc {rs} {s : State} : (walkReads rs s).2.cyc = s.cyc := by
  induction rs generalizing s with
  | nil => rfl
  | cons r rs ih =>
    unfold walkReads
    extract_lets x
    have hx : x.2.cyc = s.cyc := by
      unfold x
      split
      · rfl
      · split
        · exact classify_cyc
        · split
          · next he => exact devRead_cyc.error he
          · next he => exact (devRead_cyc.ok he :)
    clear_value x
    split
    · exact hx
    · next s1 =>
      have hr : (walkReads rs s1).2.cyc = s.cyc := ih.trans hx
      split
      · next he => exact (he ▸ hr :)
      · next he => exact (he ▸ hr :)

@[simp] theorem walkRead_cyc {ga n} {s : State} : (walkRead ga n s).2.cyc = s.cyc := by
  simp [walkRead]

@[simp] theorem writeRecord_cyc {ga bs} {s : State} : (writeRecord ga bs s).cyc = s.cyc := by
  unfold writeRecord
  split
  · rfl
  · refine foldl_cyc fun s i => ?_
    dsimp only
    split
    · split
      · rfl
      · split
        · next he => exact codedWrite_cyc.error he
        · next he => exact (codedWrite_cyc.ok he :)
    · split
      · exact memWrite_cyc
      · split
        · exact classify_cyc
        · rfl

/-! ### Timetable entries (R60) -/

@[simp] theorem setTt_cyc {d t} {s : State} : (setTt d t s).cyc = s.cyc := by
  unfold setTt
  rfl

@[simp] theorem noteSelected_cyc {d i pass e} {s : State} : (noteSelected d i pass e s).cyc = s.cyc := by
  simp [noteSelected]

/-! ### Entry runs and their records (R64, R87) -/

@[simp] theorem modRun_cyc {die entry pass f} {s : State} : (modRun die entry pass f s).cyc = s.cyc := by
  unfold modRun
  rfl

@[simp] theorem refreshNext_cyc {d} {s : State} : (refreshNext d s).cyc = s.cyc := by
  simp [refreshNext]

@[simp] theorem endTimetable_cyc {d} {s : State} : (endTimetable d s).cyc = s.cyc := by
  simp [endTimetable]

@[simp] theorem closeRun_cyc {die entry pass} {s : State} : (closeRun die entry pass s).cyc = s.cyc := by
  unfold closeRun
  split <;> simp

@[simp] theorem skipBit_cyc {die entry pass b} {s : State} : (skipBit die entry pass b s).cyc = s.cyc := by
  simp [skipBit]

/-! ### The pool (R70, R71, R88–R92) -/

@[simp] theorem setPool_cyc {i e} {s : State} : (setPool i e s).cyc = s.cyc := by
  unfold setPool
  rfl

@[simp] theorem postImage_cyc {img parent} {s : State} : (postImage img parent s).2.cyc = s.cyc := by
  unfold postImage
  split <;> simp

@[simp] theorem freePoolEntry_cyc {i die rep rcd} {s : State} : (freePoolEntry i die rep rcd s).cyc = s.cyc := by
  simp [freePoolEntry]

@[simp] theorem skipPool_cyc {i} {s : State} : (skipPool i s).cyc = s.cyc := by
  unfold skipPool
  dsimp only
  (repeat' split) <;> simp

@[simp] theorem poolResult_cyc {i} {s : State} : (poolResult i s).cyc = s.cyc := by
  unfold poolResult
  rfl

@[simp] theorem execPoolPost_cyc {v} {s : State} {c : Nat} (hc : s.cyc = c) : Res.CycIs c (execPoolPost v s) := by
  subst hc
  simp [execPoolPost]

@[simp] theorem execPoolCancel_cyc {v} {s : State} {c : Nat} (hc : s.cyc = c) : Res.CycIs c (execPoolCancel v s) := by
  subst hc
  refine fromHost_cyc ?_
  dsimp only [Res.cycIs_next]
  split
  · rfl
  · split
    · split <;> simp
    · simp

@[simp] theorem execLaunch_cyc {g d a} {s : State} {c : Nat} (hc : s.cyc = c) : Res.CycIs c (execLaunch g d a s) := by
  subst hc
  refine State.CycIs.next (whenG_cycIs fun s => orRaise_cycIs fun s => ?_)
  extract_lets +onlyGivenNames l
  generalize badAddr s l 64 = o
  cases o with
  | some b => exact recordErr_cycIs
  | none => exact .ite ((put_cyc _ _ _).trans postImage_cyc) (putBounded_cyc.trans postImage_cyc)

/-! ### Loading (R61, R75, R78, R124) -/

@[simp] theorem loadCode_cyc {g l} {s : State} : (loadCode g l s).2.cyc = s.cyc := by
  have h : (walkReads (codeRanges l) s).2.cyc = s.cyc := walkReads_cyc
  unfold loadCode
  extract_lets b
  split
  · next he => exact modCore_cyc.trans (memWrite_cyc.trans (memWrite_cyc.trans (he ▸ h :)))
  · next he => exact (he ▸ h :)

@[simp] theorem loadSpad_cyc {g l} {s : State} : (loadSpad g l s).2.cyc = s.cyc := by
  have h : (walkReads (dataRanges l) s).2.cyc = s.cyc := walkReads_cyc
  unfold loadSpad
  extract_lets copy
  have hcopy (dst bs) (s : State) : (copy dst bs s).cyc = s.cyc := by
    unfold copy
    extract_lets frames s1
    have h1 : s1.cyc = s.cyc := memWrite_cyc
    clear_value frames s1
    exact h1
  clear_value copy
  split
  · next he => exact (hcopy _ _ _).trans ((hcopy _ _ _).trans (he ▸ h :))
  · next he => exact (he ▸ h :)

@[simp] theorem loadAll_cyc {g l} {s : State} : (loadAll g l s).2.cyc = s.cyc := by
  have h : (loadCode g l s).2.cyc = s.cyc := loadCode_cyc
  unfold loadAll
  split
  · next he => exact (he ▸ h :)
  · next he => exact loadSpad_cyc.trans (he ▸ h :)

@[simp] theorem setQueued_cyc {g i q} {s : State} : (setQueued g i q s).cyc = s.cyc := by
  simp [setQueued]

@[simp] theorem dropQueue_cyc {g i} {s : State} : (dropQueue g i s).cyc = s.cyc := by
  simp [dropQueue]

@[simp] theorem execCodePreload_cyc {core} {s : State} {c : Nat} (hc : s.cyc = c) : Res.CycIs c (execCodePreload core s) := by
  subst hc
  unfold execCodePreload
  dsimp only
  (repeat' split) <;> simp

@[simp] theorem noteEnd_cyc {g l ok} {s : State} : (noteEnd g l ok s).cyc = s.cyc := by
  simp [noteEnd]

@[simp] theorem overrunPreloads_cyc {g h} {s : State} : (overrunPreloads g h s).cyc = s.cyc := by
  simp [overrunPreloads]

@[simp] theorem execScratchpadLoad_cyc {core} {s : State} {c : Nat} (hc : s.cyc = c) :
    Res.CycIs c (execScratchpadLoad core s) := by
  subst hc
  unfold execScratchpadLoad
  dsimp only
  (repeat' split) <;> simp

/-! ### Start state (R62, R77, R115) -/

@[simp] theorem acquireAll_cyc {g} {s : State} : (acquireAll g s).cyc = s.cyc := by
  simp [acquireAll]

@[simp] theorem beginTask_cyc {g l isRerun first budget inits pc} {s : State} :
    (beginTask g l isRerun first budget inits pc s).cyc = s.cyc := by
  simp [beginTask]

@[simp] theorem noteStart_cyc {l} {s : State} : (noteStart l s).cyc = s.cyc := by
  simp [noteStart]

@[simp] theorem markStart_cyc {l late} {s : State} : (markStart l late s).cyc = s.cyc := by
  unfold markStart
  rfl

@[simp] theorem execTaskStart_cyc {core} {s : State} {c : Nat} (hc : s.cyc = c) : Res.CycIs c (execTaskStart core s) := by
  subst hc
  unfold execTaskStart
  dsimp only
  (repeat' split) <;> simp

@[simp] theorem execTaskRerun_cyc {core} {s : State} {c : Nat} (hc : s.cyc = c) : Res.CycIs c (execTaskRerun core s) := by
  subst hc
  unfold execTaskRerun
  dsimp only
  (repeat' split) <;> simp

@[simp] theorem execTaskResume_cyc {core} {s : State} {c : Nat} (hc : s.cyc = c) : Res.CycIs c (execTaskResume core s) := by
  subst hc
  unfold execTaskResume
  dsimp only
  (repeat' split) <;> simp

/-! ### Reading entries (R57, R59, R63, R73, R82, R92) -/

@[simp] theorem stopTimetable_cyc {d} {s : State} : (stopTimetable d s).cyc = s.cyc := by
  unfold stopTimetable
  extract_lets t gone keepQ s1 s2 left next
  have h1 : s1.cyc = s.cyc := foldl_cyc fun s i => by split <;> simp
  clear_value s1
  have h2 : s2.cyc = s.cyc := h1
  clear_value s2
  exact endTimetable_cyc.trans (setTt_cyc.trans h2)

@[simp] theorem execTtStop_cyc {die v} {s : State} {c : Nat} (hc : s.cyc = c) : Res.CycIs c (execTtStop die v s) := by
  subst hc
  simp [execTtStop]

@[simp] theorem forgetEnds_cyc {d} {s : State} : (forgetEnds d s).cyc = s.cyc :=
  foldl_cyc fun s i => by split <;> simp

@[simp] theorem execTtArm_cyc {die tick} {s : State} {c : Nat} (hc : s.cyc = c) : Res.CycIs c (execTtArm die tick s) := by
  subst hc
  simp [execTtArm]

@[simp] theorem checkTask_cyc {l} {s : State} : (checkTask l s).2.cyc = s.cyc := by
  unfold checkTask
  dsimp only
  (repeat' split) <;> simp

@[simp] theorem readForCore_cyc {d i pass tick b e} {s : State} : (readForCore d i pass tick b e s).cyc = s.cyc := by
  unfold readForCore
  split <;> simp

@[simp] theorem readBackground_cyc {d i pass e} {s : State} : (readBackground d i pass e s).cyc = s.cyc := by
  simp [readBackground]

@[simp] theorem execTtEntryRead_cyc {die} {s : State} {c : Nat} (hc : s.cyc = c) : Res.CycIs c (execTtEntryRead die s) := by
  subst hc
  unfold execTtEntryRead
  extract_lets +onlyGivenNames t i pass
  split
  · exact trivial
  · have hw : (walkRead (entAddr t i) 64 s).2.cyc = s.cyc := walkRead_cyc
    split
    · next he =>
      exact endTimetable_cyc.trans (refreshNext_cyc.trans (faultLog_cyc.trans (setTt_cyc.trans (he ▸ hw :))))
    · next x s0 he =>
      have h0 : s0.cyc = s.cyc := (he ▸ hw :)
      extract_lets +onlyGivenNames e off bad tick run t1 s1 s2
      have h1 : s1.cyc = s.cyc := (setTt_cyc (d := die) (t := advanceRead { t with lastTick := some off })).trans h0
      have h2 : s2.cyc = s.cyc := by
        refine (?_ : s2.cyc = s1.cyc).trans h1
        unfold s2
        split
        · exact faultLog_cyc.trans modRun_cyc
        · split
          · exact readBackground_cyc
          · exact foldl_cyc fun _ _ => readForCore_cyc
      split
      · exact faultLog_cyc.trans (stopTimetable_cyc.trans (setTt_cyc.trans h0))
      · exact closeRun_cyc.trans (refreshNext_cyc.trans (noteSelected_cyc.trans h2))

/-! ### Background posts and takes (R60, R89, R92) -/

@[simp] theorem execBackgroundPost_cyc {die} {s : State} {c : Nat} (hc : s.cyc = c) :
    Res.CycIs c (execBackgroundPost die s) := by
  subst hc
  unfold execBackgroundPost
  split
  · exact trivial
  · next r _ =>
    refine closeRun_cyc.trans (noteStart_cyc.trans (modRun_cyc.trans (foldl_cyc fun s b => ?_)))
    extract_lets g
    split
    · exact modRun_cyc
    · have hp : (postImage (backgroundImage r) 0x1FF s).2.cyc = s.cyc := postImage_cyc
      split
      · next he => exact (he ▸ hp :)
      · next he => exact faultLog_cyc.trans (modRun_cyc.trans (he ▸ hp :))

@[simp] theorem execPoolTake_cyc {s : State} {c : Nat} (hc : s.cyc = c) : Res.CycIs c (execPoolTake s) := by
  subst hc
  unfold execPoolTake
  dsimp only
  (repeat' split) <;> simp

/-! ### Late policy, pre-emption, overrun (R79, R80, R85, R90, R93) -/

@[simp] theorem requestDrain_cyc {g cause why} {s : State} : (requestDrain g cause why s).cyc = s.cyc := by
  simp [requestDrain]

@[simp] theorem execLatePolicy_cyc {core} {s : State} {c : Nat} (hc : s.cyc = c) : Res.CycIs c (execLatePolicy core s) := by
  subst hc
  unfold execLatePolicy
  dsimp only
  (repeat' split) <;> simp

@[simp] theorem execPoolPreempt_cyc {core} {s : State} {c : Nat} (hc : s.cyc = c) : Res.CycIs c (execPoolPreempt core s) := by
  subst hc
  simp [execPoolPreempt]

@[simp] theorem execOverrun_cyc {core} {s : State} {c : Nat} (hc : s.cyc = c) : Res.CycIs c (execOverrun core s) := by
  subst hc
  simp [execOverrun]

/-! ### Retirement (R64, R84, R86, R87, R91) -/

@[simp] theorem reportEnd_cyc {g t ok cause c} {s : State} : (reportEnd g t ok cause c s).cyc = s.cyc := by
  unfold reportEnd
  dsimp only
  (repeat' split) <;> simp

@[simp] theorem execTaskRetire_cyc {core} {s : State} {c : Nat} (hc : s.cyc = c) : Res.CycIs c (execTaskRetire core s) := by
  subst hc
  unfold execTaskRetire
  dsimp only
  (repeat' split) <;> simp

@[simp] theorem execLoadFailure_cyc {core} {s : State} {c : Nat} (hc : s.cyc = c) : Res.CycIs c (execLoadFailure core s) := by
  subst hc
  unfold execLoadFailure
  dsimp only
  (repeat' split) <;> simp

end Sys2Proof.Machine
end

section
/-! CYC (R36). Bring-up and thermal protection. -/

namespace Sys2Proof.Machine

/-! ### BOOTSTAT (R27, R28) -/

@[simp] theorem failStart_cyc {reason} {s : State} : (failStart reason s).cyc = s.cyc := by
  unfold failStart
  rfl

@[simp] theorem toStage_cyc {n} {s : State} : (toStage n s).cyc = s.cyc := by
  unfold toStage
  rfl

/-! ### Reset and the stages (R20–R28) -/

@[simp] theorem measure_cyc {x} {s : State} : (measure x s).cyc = s.cyc := by
  unfold measure
  rfl

@[simp] theorem startImage_cyc {slot} {s : State} : (startImage slot s).cyc = s.cyc := by
  unfold startImage
  rfl

@[simp] theorem execRonilorStart_cyc {a b key} {s : State} {c : Nat} (hc : s.cyc = c) :
    Res.CycIs c (execRonilorStart a b key s) := by
  subst hc
  simp [execRonilorStart]

@[simp] theorem retryUnits_cyc {kind us} {s : State} : (retryUnits kind us s).cyc = s.cyc := by
  simp [retryUnits]

@[simp] theorem execLinkTraining_cyc {ucieOk edge01Ok selfTest01Ok units} {s : State} {c : Nat} (hc : s.cyc = c) :
    Res.CycIs c (execLinkTraining ucieOk edge01Ok selfTest01Ok units s) := by
  subst hc
  simp [execLinkTraining]

@[simp] theorem execHbmTraining_cyc {units} {s : State} {c : Nat} (hc : s.cyc = c) :
    Res.CycIs c (execHbmTraining units s) := by
  subst hc
  simp [execHbmTraining]

@[simp] theorem verifyAll_cyc {key xs} {s : State} : (verifyAll key xs s).2.cyc = s.cyc := by
  induction xs generalizing s with
  | nil => rfl
  | cons x xs ih =>
    unfold verifyAll
    split
    · exact ih.trans measure_cyc
    · exact measure_cyc

@[simp] theorem execFirmwareLoad_cyc {images key} {s : State} {c : Nat} (hc : s.cyc = c) :
    Res.CycIs c (execFirmwareLoad images key s) := by
  subst hc
  simp [execFirmwareLoad]

@[simp] theorem execSetModuleId_cyc {id d ptp time} {s : State} {c : Nat} (hc : s.cyc = c) :
    Res.CycIs c (execSetModuleId id d ptp time s) := by
  subst hc
  simp [execSetModuleId]

/-- R36. The events that set CYC: the clock lock of stage 5, and a module reset. -/
def Instr.SetsCyc : Instr → Prop
  | .moduleReset => True
  | .ptpLock .. => True
  | _ => False

theorem execPtpLock_cyc {elected parent units cxl} {s : State} {c : Nat} (h5 : s.boot.stage ≠ 5) :
    Res.CycIs c (execPtpLock elected parent units cxl s) := by
  unfold execPtpLock
  split
  · exact trivial
  · next h =>
    have h : s.boot.stage.toNat = 5 ∧ s.boot.failed = false := by simpa [inStage] using h
    exact absurd (BitVec.eq_of_toNat_eq h.1) h5

@[simp] theorem execPtpLockTimeout_cyc {s : State} {c : Nat} (hc : s.cyc = c) : Res.CycIs c (execPtpLockTimeout s) := by
  subst hc
  simp [execPtpLockTimeout]

@[simp] theorem execBringUpWatchdog_cyc {s : State} {c : Nat} (hc : s.cyc = c) : Res.CycIs c (execBringUpWatchdog s) := by
  subst hc
  simp [execBringUpWatchdog]

@[simp] theorem execMapPublish_cyc {s : State} {c : Nat} (hc : s.cyc = c) : Res.CycIs c (execMapPublish s) := by
  subst hc
  simp [execMapPublish]

/-! ### Requests to Ronilor (R23, R26, R27) -/

@[simp] theorem execAttestationRequest_cyc {nonce} {s : State} {c : Nat} (hc : s.cyc = c) :
    Res.CycIs c (execAttestationRequest nonce s) := by
  subst hc
  simp [execAttestationRequest]

@[simp] theorem execFenceListClear_cyc {s : State} {c : Nat} (hc : s.cyc = c) : Res.CycIs c (execFenceListClear s) := by
  subst hc
  simp [execFenceListClear]

@[simp] theorem execBootstatFailsWrite_cyc {v} {s : State} {c : Nat} (hc : s.cyc = c) :
    Res.CycIs c (execBootstatFailsWrite v s) := by
  subst hc
  simp [execBootstatFailsWrite]

/-! ### Thermal and power protection (R18, R20, R58, R93) -/

@[simp] theorem execThermalWarning_cyc {die} {s : State} {c : Nat} (hc : s.cyc = c) :
    Res.CycIs c (execThermalWarning die s) := by
  subst hc
  simp [execThermalWarning]

@[simp] theorem dropQueued_cyc {g q} {s : State} : (dropQueued g q s).cyc = s.cyc := by
  unfold dropQueued
  dsimp only
  (repeat' split) <;> simp

@[simp] theorem stopCore_cyc {g} {s : State} : (stopCore s g).cyc = s.cyc := by
  unfold stopCore
  dsimp only
  (repeat' split) <;> simp

@[simp] theorem dropPosts_cyc {s : State} : (dropPosts s).cyc = s.cyc := by
  simp [dropPosts]

@[simp] theorem thermalHold_cyc {s : State} : (thermalHold s).cyc = s.cyc := by
  simp [thermalHold]

/-! ### Loss of lock (R37) -/

@[simp] theorem execLossOfLock_cyc {portDown} {s : State} {c : Nat} (hc : s.cyc = c) :
    Res.CycIs c (execLossOfLock portDown s) := by
  subst hc
  simp [execLossOfLock]

@[simp] theorem execLeaveHoldover_cyc {port} {s : State} {c : Nat} (hc : s.cyc = c) :
    Res.CycIs c (execLeaveHoldover port s) := by
  subst hc
  simp [execLeaveHoldover]

end Sys2Proof.Machine
end

section
/-! CYC (R36). Register writes, slices, regions. -/

namespace Sys2Proof.Machine

/-! ### REGISTER_WRITE (R9, R54) -/

/-- What a register write leaves, where there is such a register, is in cycle `c`. -/
def OptCyc (c : Nat) : Option State → Prop
  | some t => t.cyc = c
  | none => True

theorem OptCyc.getD {s : State} {o : Option State} (h : OptCyc s.cyc o) : (o.getD s).cyc = s.cyc := by
  cases o with
  | none => rfl
  | some t => exact h

theorem writeTt_cyc {d off v} {s : State} : OptCyc s.cyc (writeTt d off v s) := by
  unfold writeTt
  extract_lets t cfg
  have hcfg (t' : Timetable) : OptCyc s.cyc (cfg t') := by
    change State.cyc _ = _
    split
    · rfl
    · exact setTt_cyc
  clear_value cfg
  split
  · exact hcfg _
  · exact hcfg _
  · exact hcfg _
  · exact hcfg _
  · exact hcfg _
  · exact setTt_cyc
  · exact trivial

theorem writeFabric_cyc {off v} {s : State} : OptCyc s.cyc (writeFabric off v s) := by
  unfold writeFabric
  extract_lets f
  (repeat' split) <;> trivial

@[simp] theorem writeBinding_cyc {i w v} {s : State} : (writeBinding i w v s).cyc = s.cyc := by
  unfold writeBinding
  rfl

@[simp] theorem writeRegion_cyc {i w v} {s : State} : (writeRegion i w v s).cyc = s.cyc := by
  unfold writeRegion
  rfl

@[simp] theorem writeCodedCtr_cyc {sl i w v} {s : State} : (writeCodedCtr sl i w v s).cyc = s.cyc := by
  unfold writeCodedCtr
  rfl

theorem writeFlog_cyc {off v} {s : State} : OptCyc s.cyc (writeFlog off v s) := by
  unfold writeFlog
  split <;> trivial

@[simp] theorem writeSigcap_cyc {k v} {s : State} : (writeSigcap k v s).cyc = s.cyc := by
  unfold writeSigcap
  rfl

@[simp] theorem writePoolImg_cyc {i v} {s : State} : (writePoolImg i v s).cyc = s.cyc := by
  unfold writePoolImg
  rfl

theorem writeXlat_cyc {off v} {s : State} : OptCyc s.cyc (writeXlat off v s) := by
  unfold writeXlat
  split <;> trivial

@[simp] theorem storeRegister_cyc {o v} {s : State} : (storeRegister o v s).cyc = s.cyc := by
  refine (?_ : State.CycIs s.cyc _)
  unfold storeRegister
  refine .ite writeSigcap_cyc ?_
  refine .ite writeFlog_cyc.getD ?_
  refine .ite writePoolImg_cyc ?_
  refine .ite writeTt_cyc.getD ?_
  refine .ite writeFabric_cyc.getD ?_
  refine .ite writeXlat_cyc.getD ?_
  refine .ite writeBinding_cyc ?_
  refine .ite writeRegion_cyc ?_
  exact .ite writeCodedCtr_cyc rfl

@[simp] theorem execRegisterWrite_cyc {addr v} {s : State} {c : Nat} (hc : s.cyc = c) :
    Res.CycIs c (execRegisterWrite addr v s) := by
  subst hc
  simp [execRegisterWrite]

/-! ### Evictions (R130, R204, R205) -/

@[simp] theorem execL2Eviction_cyc {line} {s : State} {c : Nat} (hc : s.cyc = c) : Res.CycIs c (execL2Eviction line s) := by
  subst hc
  unfold execL2Eviction
  split <;> simp

@[simp] theorem execCodedWriteback_cyc {block fails} {s : State} {c : Nat} (hc : s.cyc = c) :
    Res.CycIs c (execCodedWriteback block fails s) := by
  subst hc
  unfold execCodedWriteback
  split <;> simp

/-! ### Slice configuration (R131, R133) -/

@[simp] theorem clearStaged_cyc {slice} {s : State} : (clearStaged slice s).cyc = s.cyc := by
  refine foldl_cyc fun s line => ?_
  split
  · exact evictBlock_cyc
  · exact l2Drop_cyc

@[simp] theorem execSlcfgWrite_cyc {slice v} {s : State} {c : Nat} (hc : s.cyc = c) :
    Res.CycIs c (execSlcfgWrite slice v s) := by
  subst hc
  simp [execSlcfgWrite]

@[simp] theorem execWmodeChangeComplete_cyc {slice} {s : State} {c : Nat} (hc : s.cyc = c) :
    Res.CycIs c (execWmodeChangeComplete slice s) := by
  subst hc
  unfold execWmodeChangeComplete
  split <;> simp

/-! ### Coded regions (R207, R208) -/

@[simp] theorem discardRegionL1_cyc {i} {s : State} : (discardRegionL1 i s).cyc = s.cyc := by
  simp [discardRegionL1]

@[simp] theorem execRegionFlush_cyc {w} {s : State} {c : Nat} (hc : s.cyc = c) : Res.CycIs c (execRegionFlush w s) := by
  subst hc
  simp [execRegionFlush]

@[simp] theorem execRegionFlushComplete_cyc {entry} {s : State} {c : Nat} (hc : s.cyc = c) :
    Res.CycIs c (execRegionFlushComplete entry s) := by
  subst hc
  simp [execRegionFlushComplete]

@[simp] theorem execCodedAccess_cyc {addr len write} {s : State} {c : Nat} (hc : s.cyc = c) :
    Res.CycIs c (execCodedAccess addr len write s) := by
  subst hc
  unfold execCodedAccess
  split
  · exact trivial
  · split
    · change State.cyc _ = _
      split
      · next he => exact codedRead_cyc.error he
      · next he => exact (codedRead_cyc.ok he :)
    · split
      · exact trivial
      · change State.cyc _ = _
        split
        · next he => exact codedWrite_cyc.error he
        · next he => exact (codedWrite_cyc.ok he :)

end Sys2Proof.Machine
end

section
/-! CYC (R36). Reads of the MMIO range. -/

namespace Sys2Proof.Machine

/-! ### The Syarri's accesses to storage (R14, R144) and what goes bad there (R252, R253) -/

@[simp] theorem hostLoad_cyc {a n} {s : State} : (hostLoad a n s).2.cyc = s.cyc := by
  unfold hostLoad
  split
  · rfl
  · split
    · rfl
    · split
      · next he => exact devRead1_cyc.error he
      · next he => exact (devRead1_cyc.ok he :)

@[simp] theorem hostStore_cyc {a bs} {s : State} : (hostStore a bs s).cyc = s.cyc := by
  simp [hostStore]

@[simp] theorem badRegister_cyc {g lasting} {s : State} : (badRegister g lasting s).cyc = s.cyc := by
  simp [badRegister]

@[simp] theorem hostAct_cyc {x} {s : State} : (hostAct x s).cyc = s.cyc := by
  unfold hostAct
  split <;> simp

end Sys2Proof.Machine
end

section
/-! CYC (R36). Lane and probability predicates. -/

namespace Sys2Proof.Machine

/-! ### Operands (R339) and writes (R340) -/

@[simp] theorem writeP_cyc {lat v val} {s : State} : (writeP lat v val s).cyc = s.cyc := by
  simp [writeP]

@[simp] theorem writeQ_cyc {lat v val lin} {s : State} : (writeQ lat v val lin s).cyc = s.cyc := by
  unfold writeQ
  rfl

/-! ### Lane predicates (R342, R343) -/

@[simp] theorem execPlog_cyc {v} {s : State} {c : Nat} (hc : s.cyc = c) : Res.CycIs c (execPlog v s) := by
  subst hc
  simp [execPlog]

@[simp] theorem execPmov_cyc {v} {s : State} {c : Nat} (hc : s.cyc = c) : Res.CycIs c (execPmov v s) := by
  subst hc
  simp [execPmov]

/-! ### Soft comparison (R233, R344) -/

@[simp] theorem execScmp_cyc {v} {s : State} {c : Nat} (hc : s.cyc = c) : Res.CycIs c (execScmp v s) := by
  subst hc
  simp [execScmp]

/-! ### Combination (R235, R345) -/

@[simp] theorem execQlog_cyc {v} {s : State} {c : Nat} (hc : s.cyc = c) : Res.CycIs c (execQlog v s) := by
  subst hc
  simp [execQlog]

@[simp] theorem execQnot_cyc {v} {s : State} {c : Nat} (hc : s.cyc = c) : Res.CycIs c (execQnot v s) := by
  subst hc
  simp [execQnot]

/-! ### Blend, collapse and hard decision (R236–R240, R346, R347) -/

@[simp] theorem execQblend_cyc {v} {s : State} {c : Nat} (hc : s.cyc = c) : Res.CycIs c (execQblend v s) := by
  subst hc
  simp [execQblend]

@[simp] theorem execQcol_cyc {v} {s : State} {c : Nat} (hc : s.cyc = c) : Res.CycIs c (execQcol v s) := by
  subst hc
  simp [execQcol]

@[simp] theorem execQhard_cyc {v} {s : State} {c : Nat} (hc : s.cyc = c) : Res.CycIs c (execQhard v s) := by
  subst hc
  simp [execQhard]

/-! ### Moves between classes (R348) -/

@[simp] theorem execQmov_cyc {v} {s : State} {c : Nat} (hc : s.cyc = c) : Res.CycIs c (execQmov v s) := by
  subst hc
  simp [execQmov]

/-! ### Gradients (R241, R242, R349) -/

@[simp] theorem execQgrad_cyc {v} {s : State} {c : Nat} (hc : s.cyc = c) : Res.CycIs c (execQgrad v s) := by
  subst hc
  simp [execQgrad]

@[simp] theorem execQbgrad_cyc {v} {s : State} {c : Nat} (hc : s.cyc = c) : Res.CycIs c (execQbgrad v s) := by
  subst hc
  simp [execQbgrad]

@[simp] theorem execQpgrad_cyc {v} {s : State} {c : Nat} (hc : s.cyc = c) : Res.CycIs c (execQpgrad v s) := by
  subst hc
  simp [execQpgrad]

end Sys2Proof.Machine
end

section
/-! CYC (R36). The sequencer's events. -/

namespace Sys2Proof.Machine

/-! ### Walks (R139–R141) -/

@[simp] theorem execTranslationMiss_cyc {core} {s : State} {c : Nat} (hc : s.cyc = c) :
    Res.CycIs c (execTranslationMiss core s) := by
  subst hc
  unfold execTranslationMiss
  dsimp only
  (repeat' split) <;> simp

@[simp] theorem lapse_cyc {s : State} : (lapse s).cyc = s.cyc := by
  unfold lapse
  split <;> simp

@[simp] theorem execWalkComplete_cyc {core} {s : State} {c : Nat} (hc : s.cyc = c) :
    Res.CycIs c (execWalkComplete core s) := by
  subst hc
  unfold execWalkComplete
  dsimp only
  (repeat' split) <;> simp

@[simp] theorem execXinv_cyc {v} {s : State} {c : Nat} (hc : s.cyc = c) : Res.CycIs c (execXinv v s) := by
  subst hc
  simp [execXinv]

@[simp] theorem execInvalidationComplete_cyc {die} {s : State} {c : Nat} (hc : s.cyc = c) :
    Res.CycIs c (execInvalidationComplete die s) := by
  subst hc
  simp [execInvalidationComplete]

/-! ### Landing and errors -/

@[simp] theorem execResultLand_cyc {core} {s : State} {c : Nat} (hc : s.cyc = c) : Res.CycIs c (execResultLand core s) := by
  subst hc
  simp [execResultLand]

@[simp] theorem execMemerr_cyc {core} {s : State} {c : Nat} (hc : s.cyc = c) : Res.CycIs c (execMemerr core s) := by
  subst hc
  unfold execMemerr
  dsimp only
  (repeat' split) <;> simp

/-! ### Drain table and boundaries (R254, R255) -/

@[simp] theorem drainError_cyc {a} {s : State} : (drainError a s).cyc = s.cyc := by
  simp [drainError]

@[simp] theorem execDrainDiversion_cyc {core} {s : State} {c : Nat} (hc : s.cyc = c) :
    Res.CycIs c (execDrainDiversion core s) := by
  subst hc
  unfold execDrainDiversion
  dsimp only
  (repeat' split) <;> simp

@[simp] theorem execDrainDeferralKill_cyc {core} {s : State} {c : Nat} (hc : s.cyc = c) :
    Res.CycIs c (execDrainDeferralKill core s) := by
  subst hc
  unfold execDrainDeferralKill
  dsimp only
  (repeat' split) <;> simp

@[simp] theorem execStubTimeoutKill_cyc {core} {s : State} {c : Nat} (hc : s.cyc = c) :
    Res.CycIs c (execStubTimeoutKill core s) := by
  subst hc
  simp [execStubTimeoutKill]

/-! ### Waits (R401–R405) -/

@[simp] theorem noteSeen_cyc {s : State} : (noteSeen s).cyc = s.cyc := by
  unfold noteSeen
  split <;> simp

@[simp] theorem execWaitRelease_cyc {core} {s : State} {c : Nat} (hc : s.cyc = c) : Res.CycIs c (execWaitRelease core s) := by
  subst hc
  unfold execWaitRelease
  dsimp only
  (repeat' split) <;> simp

/-! ### Traps and reports -/

@[simp] theorem execTrapEntry_cyc {core} {s : State} {c : Nat} (hc : s.cyc = c) : Res.CycIs c (execTrapEntry core s) := by
  subst hc
  unfold execTrapEntry
  dsimp only
  (repeat' split) <;> simp

@[simp] theorem execTimingReport_cyc {core} {s : State} {c : Nat} (hc : s.cyc = c) :
    Res.CycIs c (execTimingReport core s) := by
  subst hc
  unfold execTimingReport
  dsimp only
  (repeat' split) <;> simp

/-! ### After a bundle (R97–R99) -/

@[simp] theorem swapHalf_cyc {s : State} : (swapHalf s).cyc = s.cyc := by
  unfold swapHalf
  rfl

@[simp] theorem goTo_cyc {n} {s : State} : (goTo n s).cyc = s.cyc := by
  unfold goTo
  rfl

@[simp] theorem afterBundle_cyc {n} {s : State} : (afterBundle n s).cyc = s.cyc := by
  unfold afterBundle
  dsimp only
  (repeat' split) <;> simp

@[simp] theorem cycleDone_cyc {s : State} : (cycleDone s).cyc = s.cyc := by
  unfold cycleDone
  rfl

@[simp] theorem execPause_cyc {n} {s : State} {c : Nat} (hc : s.cyc = c) : Res.CycIs c (execPause n s) := by
  subst hc
  refine cycleDone_cyc.trans ?_
  split
  · exact afterBundle_cyc
  · split <;> simp

end Sys2Proof.Machine
end

section
/-! CYC (R36). Every instruction. -/

namespace Sys2Proof.Machine

theorem exec_cyc {i} {s : State} (hi : ¬ Instr.SetsCyc i) : Res.CycIs s.cyc (exec i s) := by
  unfold exec
  split
  · exact execRonilorStart_cyc rfl
  · exact execLinkTraining_cyc rfl
  · exact execHbmTraining_cyc rfl
  · exact execFirmwareLoad_cyc rfl
  · exact absurd trivial hi
  · exact execAttestationRequest_cyc rfl
  · exact absurd trivial hi
  · exact execSetModuleId_cyc rfl
  · exact execBootstatFailsWrite_cyc rfl
  · exact execThermalWarning_cyc rfl
  · exact execLossOfLock_cyc rfl
  · exact execSlotHeaderReceive_cyc rfl
  · exact execFlitReceive_cyc rfl
  · exact execRemoteRequest_cyc rfl
  · exact execRemoteResponse_cyc rfl
  · exact execLtarm_cyc rfl
  · exact execLtstop_cyc rfl
  · exact execGroupActivate_cyc rfl
  · exact fromHost_cyc rfl -- finjWrite
  · exact execTtArm_cyc rfl
  · exact execTtStop_cyc rfl
  · exact execTtEntryRead_cyc rfl
  · exact execCodePreload_cyc rfl
  · exact execScratchpadLoad_cyc rfl
  · exact execTaskStart_cyc rfl
  · exact execLoadFailure_cyc rfl
  · exact execLatePolicy_cyc rfl
  · exact execPoolPreempt_cyc rfl
  · exact execTaskResume_cyc rfl
  · exact execTaskRerun_cyc rfl
  · exact execOverrun_cyc rfl
  · exact execTaskRetire_cyc rfl
  · exact fromHost_cyc rfl -- faultLogConfig
  · exact execPoolPost_cyc rfl
  · exact execPoolCancel_cyc rfl
  · exact execBackgroundPost_cyc rfl
  · exact execRegisterWrite_cyc rfl
  · exact execXinv_cyc rfl
  · exact execTranslationMiss_cyc rfl
  · exact execWalkComplete_cyc rfl
  · exact execSlcfgWrite_cyc rfl
  · exact execWmodeChangeComplete_cyc rfl
  · exact execL2Eviction_cyc rfl
  · exact execRegionFlush_cyc rfl
  · exact execRegionFlushComplete_cyc rfl
  · exact execCodedAccess_cyc rfl
  · exact execCodedWriteback_cyc rfl
  · exact execMemerr_cyc rfl
  · exact execResultLand_cyc rfl
  · exact execWaitRelease_cyc rfl
  · exact execTrapEntry_cyc rfl
  · exact execTimingReport_cyc rfl
  · exact execDrainDiversion_cyc rfl
  · exact execDrainDeferralKill_cyc rfl
  · exact execStubTimeoutKill_cyc rfl
  · exact execCopyStart_cyc rfl
  · exact execCopyComplete_cyc rfl
  · exact execCflushComplete_cyc rfl
  · exact execRoutineStart_cyc rfl
  · exact execRoutineComplete_cyc rfl
  · exact execRescaleComplete_cyc rfl
  · exact execCollectiveStart_cyc rfl
  · exact execCollectiveComplete_cyc rfl
  · exact execPause_cyc rfl
  -- add, sub, mul, mulh, mulhu, div, divu, rem, remu, and, or, xor, andn, shl, shr, sar, rol, min, max, minu, maxu
  iterate 21 · exact sop2_cyc
  -- clz, popc
  iterate 2 · exact sop1_cyc
  -- pdep, pext
  iterate 2 · exact sop2_cyc
  -- addi, andi, ori, xori, shli, shri, sari
  iterate 7 · exact sop1_cyc
  · exact execLui_cyc rfl
  · exact execCmp_cyc rfl
  · exact execCmpi_cyc rfl
  · exact execSel_cyc rfl
  · exact execGlog_cyc rfl
  · exact execPuni_cyc rfl
  -- fadd, fsub, fmul, ffma, fdiv, fsqrt
  iterate 6 · exact sfp_cyc rfl
  -- fmin, fmax
  iterate 2 · exact sMinMax_cyc rfl
  · exact execFcvt_cyc rfl
  · exact execFcmp_cyc rfl
  · exact execLd_cyc rfl
  · exact execSt_cyc rfl
  · exact execAmo_cyc rfl
  · exact execCas_cyc rfl
  · exact execMfs_cyc rfl
  · exact execMts_cyc rfl
  · exact execMtsTemp_cyc rfl
  · exact execMtsLsc_cyc rfl
  · exact execMtsLscr_cyc rfl
  · exact execMtsTripKix_cyc rfl
  · exact execMtsHot_cyc rfl
  · exact execMtsRslim_cyc rfl
  · exact execMtsTcause_cyc rfl
  · exact execMtsCctr_cyc rfl
  · exact execMpset_cyc rfl
  · exact execCdset_cyc rfl
  · exact execLaunch_cyc rfl
  -- vadd, vsub, vmul, vfma, vfms, vfnma, vdiv, vsqrt
  iterate 8 · exact vArith_cyc rfl
  -- vmin, vmax, vabs, vneg
  iterate 4 · exact vPlain_cyc rfl
  -- vexp2, vlog2
  iterate 2 · exact vArith_cyc rfl
  · exact execVsqacc_cyc rfl
  -- vcmul, vcfma
  iterate 2 · exact vCplx_cyc rfl
  · exact execVconj_cyc rfl
  -- vand, vor, vxor, vshl, vshr, vsar
  iterate 6 · exact vLogic_cyc rfl
  · exact execVcvt_cyc rfl
  · exact execVqnt_cyc rfl
  · exact execVdqnt_cyc rfl
  · exact execVmxq_cyc rfl
  · exact execVmxd_cyc rfl
  · exact execVmov_cyc rfl
  · exact execVbcast_cyc rfl
  · exact execVperm_cyc rfl
  · exact execVbitx_cyc rfl
  · exact execVlane_cyc rfl
  · exact execVred_cyc rfl
  · exact execVextr_cyc rfl
  · exact execVins_cyc rfl
  · exact execVcmp_cyc rfl
  · exact execVsel_cyc rfl
  · exact execVflag_cyc rfl
  · exact execVrnd_cyc rfl
  · exact execPlog_cyc rfl
  · exact execPmov_cyc rfl
  · exact execScmp_cyc rfl
  · exact execQlog_cyc rfl
  · exact execQnot_cyc rfl
  · exact execQblend_cyc rfl
  · exact execQcol_cyc rfl
  · exact execQhard_cyc rfl
  · exact execQmov_cyc rfl
  · exact execQgrad_cyc rfl
  · exact execQbgrad_cyc rfl
  · exact execQpgrad_cyc rfl
  -- gemm, gemmt, conv, cgemm, gate, accrd, accclr
  iterate 7 · exact mcall_cyc rfl
  · exact mcallSeen_cyc rfl -- skinit
  -- skfold, skshrink, skmerge, skrd, skwr, userRoutineCall
  iterate 6 · exact mcall_cyc rfl
  · exact mcallSeen_cyc rfl -- userRoutineLoad
  · exact put_cyc _ _ _ -- mstop
  · exact execMstat_cyc rfl
  · exact execLdv_cyc rfl
  · exact execStv_cyc rfl
  · exact loadLanes_cyc -- ldvs
  · exact storeLanes_cyc -- stvs
  · exact loadLanes_cyc -- ldx
  · exact storeLanes_cyc -- stx
  · exact execLdt_cyc rfl
  · exact execStt_cyc rfl
  · exact execCopy_cyc rfl
  -- arrive, expect
  iterate 2 · exact barrierOp_cyc
  · exact execTokclr_cyc rfl
  · exact execCflush_cyc rfl
  · exact execSend_cyc rfl
  -- recv, recvadd, recvsq
  iterate 3 · exact recvWith_cyc
  · exact execPutsig_cyc rfl
  · exact execNcoll_cyc rfl
  · exact execNwait_cyc rfl
  -- br, brc
  iterate 2 · exact condBranch_cyc
  · exact execCall_cyc rfl
  · exact execRet_cyc rfl
  · exact execLoop_cyc rfl
  · exact execLoopr_cyc rfl
  · exact execBswap_cyc rfl
  · exact execIfence_cyc rfl
  · exact execWaitb_cyc rfl
  · exact execWaitt_cyc rfl
  · exact execWaitc_cyc rfl
  · exact execHold_cyc rfl
  · exact execDone_cyc rfl
  · exact execYield_cyc rfl
  · exact execTrap_cyc rfl
  · exact execEbreak_cyc rfl
  · exact execSavex_cyc rfl
  · exact execRestx_cyc rfl
  · exact execAcq_cyc rfl
  · exact execRel_cyc rfl
  · exact execFence_cyc rfl
  · exact execInvalidationComplete_cyc rfl
  · exact execLeaveHoldover_cyc rfl
  · exact execMapPublish_cyc rfl
  · exact execBringUpWatchdog_cyc rfl
  · exact execPtpLockTimeout_cyc rfl
  · exact execFenceListClear_cyc rfl
  -- thermalStop, powerOverloadStop
  iterate 2 · exact thermalHold_cyc
  · exact execSlotSend_cyc rfl
  · exact execSignalApply_cyc rfl
  · exact execLinkTimetableStart_cyc rfl
  · exact execLinkTimetableEnd_cyc rfl
  · exact execPoolTake_cyc rfl
  · exact execBarrierUpdate_cyc rfl
  · exact cycleDone_cyc -- quote
  · exact execMnop_cyc rfl
  · exact execCnop_cyc rfl
  · exact execNnop_cyc rfl
  · exact execBnop_cyc rfl

end Sys2Proof.Machine
end

section
/-! CYC (R36). What happens next. -/

namespace Sys2Proof.Machine

/-! ### A bundle's operations and causes (R94, R250, R278) -/

@[simp] theorem countLanding_cyc {x i b} {s : State} : (countLanding b x i s).cyc = s.cyc := by
  unfold countLanding
  split <;> simp

theorem exec_cyc_of_stage {i} {s : State} (hi : i ≠ .moduleReset) (h5 : s.boot.stage ≠ 5) : Res.CycIs s.cyc (exec i s) := by
  by_cases h : Instr.SetsCyc i
  · cases i with
    | moduleReset => exact absurd rfl hi
    | ptpLock => exact execPtpLock_cyc h5
    | _ => exact absurd h id
  · exact exec_cyc h

theorem encode_of_setsCyc {i : Instr} (h : Instr.SetsCyc i) : encode i = 0 := by
  cases i with
  | moduleReset => rfl
  | ptpLock => rfl
  | _ => exact absurd h id

theorem noop_not_setsCyc {k i} (h : noop k = some i) : ¬ Instr.SetsCyc i := by
  unfold noop at h
  (repeat' split at h) <;> cases h <;> exact id

theorem decodeSlot_not_setsCyc {k w i} (h : decodeSlot k w = some i) : ¬ Instr.SetsCyc i := by
  unfold decodeSlot at h
  split at h
  · exact noop_not_setsCyc h
  · next hw =>
    unfold checked at h
    split at h
    · split at h
      · next hi =>
        obtain rfl := Option.some.inj h
        exact fun hs => hw (hi.1.symm.trans (encode_of_setsCyc hs))
      · exact absurd h (Option.some_ne_none _).symm
    · exact absurd h (Option.some_ne_none _).symm

theorem decodeIndex_not_setsCyc {x i} (h : decodeIndex x = .instr i) : ¬ Instr.SetsCyc i := by
  unfold decodeIndex at h
  (repeat' split at h) <;> cases h <;> exact id

theorem issueSlot_cyc {trap b a x} {c : Nat} (ha : Issuing.CycIs c a) (hx : ∀ i, x.i = some i → ¬ Instr.SetsCyc i) :
    (issueSlot trap b a x).CycIs c := by
  unfold issueSlot
  split
  · next i hstop _ hi =>
    have hr : Res.CycIs c (exec i a.st) := ha.st ▸ exec_cyc (hx i hi)
    split
    · next t he =>
      rw [he] at hr
      have ht : t.cyc = c := hr
      split
      · exact ⟨countLanding_cyc.trans ht, ha.stop⟩
      · dsimp only
        split
        · exact ⟨ht, ha.stop⟩
        · split
          · exact ha
          · split
            · exact ⟨ht, ha.stop⟩
            · exact ⟨ha.st, ha.stop⟩
    · next o _ => exact ⟨ha.st, fun o ho => Option.some.inj ho ▸ hr⟩
  · exact ha

@[simp] theorem startBundle_cyc {s : State} : (startBundle s).cyc = s.cyc := by
  unfold startBundle
  rfl

theorem slotsOf_not_setsCyc {w : Nat} {x : SlotOp} (hx : x ∈ slotsOf w) {i : Instr} (hi : x.i = some i) :
    ¬ Instr.SetsCyc i := by
  obtain ⟨k, _, rfl⟩ := List.mem_map.1 hx
  exact decodeSlot_not_setsCyc hi

@[simp] theorem faulted_cyc {t pos} {b : State} : (faulted t pos b).cyc = b.cyc := by
  simp [faulted]

@[simp] theorem ownTrap_cyc {t n b} {s : State} : (ownTrap t n b s).cyc = s.cyc := by
  simp [ownTrap]

@[simp] theorem settleEnd_cyc {s : State} : (settleEnd s).cyc = s.cyc := by
  unfold settleEnd
  split <;> simp

theorem effectOrder_mem {ops : List SlotOp} {x : SlotOp} (hx : x ∈ effectOrder ops) : x ∈ ops := by
  obtain ⟨_, _, h⟩ := List.mem_flatMap.1 hx
  exact List.mem_of_mem_filter h

@[simp] theorem issueBundle_cyc {w n} {s : State} {c : Nat} (hc : s.cyc = c) : Res.CycIs c (issueBundle w n s) := by
  subst hc
  unfold issueBundle
  extract_lets b ops a
  have hb : b.cyc = s.cyc := startBundle_cyc
  split
  · exact faulted_cyc.trans hb
  · have ha : a.CycIs s.cyc := List.foldlRecOn (motive := Issuing.CycIs s.cyc) _ _
      ⟨hb, fun _ ho => absurd ho (Option.some_ne_none _).symm⟩
      fun _ ha x hx => issueSlot_cyc ha fun i hi => slotsOf_not_setsCyc (effectOrder_mem hx) hi
    clear_value b a
    split
    · exact ha.stop _ ‹a.stop = some _›
    · exact faulted_cyc.trans hb
    · exact cycleDone_cyc.trans (lapse_cyc.trans ((spend_cyc _ _).trans hb))
    · exact ownTrap_cyc.trans ha.st
    · exact cycleDone_cyc.trans (afterBundle_cyc.trans (settleEnd_cyc.trans ha.st))

/-! ### Fetch (R95–R98) -/

@[simp] theorem illegalIndex_cyc {detail pos} {s : State} : (illegalIndex detail pos s).cyc = s.cyc := faulted_cyc

@[simp] theorem fetch_cyc {s : State} {c : Nat} (hc : s.cyc = c) : Res.CycIs c (fetch s) := by
  subst hc
  unfold fetch
  dsimp only
  split
  · exact illegalIndex_cyc
  · split
    · split
      · exact illegalIndex_cyc
      · exact issueBundle_cyc rfl
    · split
      · split
        · exact illegalIndex_cyc
        · exact issueBundle_cyc rfl
      · next he => exact exec_cyc (decodeIndex_not_setsCyc he)
      · exact illegalIndex_cyc

@[simp] theorem arrive_cyc {s : State} : (arrive s).cyc = s.cyc := by
  unfold arrive
  split <;> simp

@[simp] theorem issueNext_cyc {s : State} {c : Nat} (hc : s.cyc = c) : Res.CycIs c (issueNext s) := by
  subst hc
  unfold issueNext
  extract_lets c
  split
  · exact issueBundle_cyc rfl
  · next clear _ _ s1 _ _ _ =>
    split
    · exact cycleDone_cyc
    · split
      · refine cycleDone_cyc.trans ?_
        split
        · exact afterBundle_cyc
        · rfl
      · exact fetch_cyc arrive_cyc

/-! ### A core's turn (R103, R245, R251–R255, R401–R405) -/

@[simp] theorem frozen_cyc {s : State} : (frozen s).cyc = s.cyc := by
  unfold frozen
  rfl

@[simp] theorem divertOr_cyc {g} {s : State} {c : Nat} (hc : s.cyc = c) : Res.CycIs c (divertOr g s) := by
  subst hc
  have hn : Res.CycIs s.cyc (issueNext s) := issueNext_cyc rfl
  unfold divertOr
  extract_lets now
  split
  · split
    · next he =>
      split
      · exact (he ▸ hn :)
      · exact exec_cyc id
    · exact hn
  · exact exec_cyc id

@[simp] theorem boundary_cyc {g} {s : State} {c : Nat} (hc : s.cyc = c) : Res.CycIs c (boundary g s) := by
  subst hc
  unfold boundary
  dsimp only
  split
  · split
    · exact exec_cyc id
    · split
      · exact arrive_cyc (s := s) ▸ exec_cyc id
      · exact drainError_cyc
  · split
    · split
      · exact exec_cyc id
      · split
        · exact exec_cyc id
        · exact frozen_cyc
    · split
      · exact arrive_cyc (s := s) ▸ exec_cyc id
      · split
        · exact divertOr_cyc rfl
        · exact issueNext_cyc rfl

@[simp] theorem resumeAt_cyc {w} {s : State} : (resumeAt w s).cyc = s.cyc := by
  unfold resumeAt
  rfl

theorem walkTurn_cyc {g r} {s : State} (hr : walkTurn g s = some r) : Res.CycIs s.cyc r := by
  unfold walkTurn at hr
  split at hr
  · obtain rfl := Option.some.inj hr
    split
    · exact exec_cyc id
    · exact frozen_cyc
  · split at hr
    · obtain rfl := Option.some.inj hr
      exact exec_cyc id
    · exact absurd hr (Option.some_ne_none _).symm

@[simp] theorem coreTurn_cyc {g} {s : State} {c : Nat} (hc : s.cyc = c) : Res.CycIs c (coreTurn g s) := by
  subst hc
  unfold coreTurn
  extract_lets s1 c
  have h1 : s1.cyc = s.cyc := select_cyc
  rw [← h1]
  clear_value s1
  split
  · change State.cyc _ = _
    split
    · exact remoteError_cyc
    · rfl
  · next hw => exact walkTurn_cyc hw
  · split
    · exact exec_cyc id
    · split
      · exact boundary_cyc rfl
      · split
        · exact exec_cyc id
        · split
          · exact cycleDone_cyc
          · split
            · split
              · exact cycleDone_cyc
              · exact exec_cyc id
            · exact resumeAt_cyc
            · exact boundary_cyc rfl

/-! ### The step (logs 2, 3) -/

@[simp] theorem noteAll_cyc {s : State} : (noteAll s).cyc = s.cyc := by
  refine foldl_cyc fun s g => ?_
  split
  · exact noteSeen_cyc.trans select_cyc
  · rfl

end Sys2Proof.Machine
end

section
/-! CYC (R36). What happens next, and one step. -/

namespace Sys2Proof.Machine

theorem tick_cyc_eq {s : State} : (tick s).cyc = if s.fab.lock = true ∨ s.fab.hold = true then s.cyc + 1 else s.cyc := by
  unfold tick
  simp only [Bool.or_eq_true]
  split
  · exact congrArg (· + 1) noteAll_cyc
  · rfl

/-- Nothing is left to do in this cycle but to tick. -/
structure Idle (s : State) : Prop where
  host : hostDue s = none
  write : writeDue s = none
  held : heldDue s = none
  due : dueEvent s = none
  turn : turnOf s = none
  last : lastEvent s = none

theorem Idle.noInput {s : State} (h : Idle s) : noInput s = .next (tick s) := by
  unfold Machine.noInput internal
  rw [h.host, h.write, h.held, h.due, h.turn, h.last]

/-- An event that is due, if there is one, does not set CYC. -/
def KeepsCyc (o : Option Instr) : Prop := ∀ i, o = some i → ¬ Instr.SetsCyc i

theorem KeepsCyc.orElse {a b : Option Instr} (ha : KeepsCyc a) (hb : KeepsCyc b) : KeepsCyc (a <|> b) := by
  cases a with
  | none => exact hb
  | some i => exact ha

theorem keepsCyc_none : KeepsCyc none := fun _ h => absurd h (Option.some_ne_none _).symm

theorem keepsCyc_some {i : Instr} (hi : ¬ Instr.SetsCyc i) : KeepsCyc (some i) := fun _ h => Option.some.inj h ▸ hi

theorem keepsCyc_eventIf {b i} (hi : ¬ Instr.SetsCyc i) : KeepsCyc (eventIf b i) := by
  unfold eventIf
  split
  · exact keepsCyc_some hi
  · exact keepsCyc_none

theorem keepsCyc_map {α : Type} {f : α → Instr} (hf : ∀ x, ¬ Instr.SetsCyc (f x)) {o : Option α} :
    KeepsCyc (o.map f) := by
  cases o with
  | none => exact keepsCyc_none
  | some x => exact keepsCyc_some (hf x)

theorem keepsCyc_eachDie {p f} (hf : ∀ d, ¬ Instr.SetsCyc (f d)) : KeepsCyc (eachDie p f) := keepsCyc_map hf

theorem keepsCyc_eachCore {f : State → Nat → Option Instr} (hf : ∀ s g, KeepsCyc (f s g)) {s : State} :
    KeepsCyc (eachCore f s) := by
  intro i h
  obtain ⟨_, g, _, _, hg, _⟩ := List.findSome?_eq_some_iff.1 h
  exact hf _ _ i hg

theorem KeepsCyc.ite {p : Prop} {_ : Decidable p} {a b : Option Instr} (ha : KeepsCyc a) (hb : KeepsCyc b) :
    KeepsCyc (if p then a else b) := by
  split
  · exact ha
  · exact hb

theorem keepsCyc_evictionDue {s : State} : KeepsCyc (evictionDue s) :=
  keepsCyc_map fun e => by split <;> exact id

theorem keepsCyc_tableDue {s : State} : KeepsCyc (tableDue s) := (keepsCyc_eventIf id).orElse (keepsCyc_eventIf id)

theorem keepsCyc_completionDue {s : State} {g : Nat} : KeepsCyc (completionDue s g) :=
  .orElse (keepsCyc_eventIf id) (.orElse (keepsCyc_eventIf id) (.orElse (keepsCyc_eventIf id) (keepsCyc_eventIf id)))

theorem keepsCyc_engineDue {s : State} {g : Nat} : KeepsCyc (engineDue s g) :=
  keepsCyc_none.ite ((keepsCyc_eventIf id).orElse (keepsCyc_eventIf id))

theorem keepsCyc_collDue {s : State} : KeepsCyc (collDue s) :=
  keepsCyc_none.ite ((keepsCyc_eachDie fun _ => id).orElse (keepsCyc_eachDie fun _ => id))

theorem keepsCyc_walkerDue {s : State} : KeepsCyc (walkerDue s) := keepsCyc_none.ite (keepsCyc_eachDie fun _ => id)

theorem keepsCyc_schedDue {s : State} {g : Nat} : KeepsCyc (schedDue s g) := by
  unfold schedDue
  extract_lets c fresh
  iterate 11 refine .orElse (keepsCyc_eventIf id) ?_
  exact keepsCyc_eventIf id

theorem keepsCyc_moduleDue {s : State} : KeepsCyc (moduleDue s) := by
  unfold moduleDue
  refine .orElse (keepsCyc_eventIf id) (.orElse ?_ ?_)
  · cases s.fab.parent with
    | none => exact keepsCyc_none
    | some p => exact keepsCyc_eventIf id
  · refine .orElse (keepsCyc_eventIf id) (.orElse (keepsCyc_map fun _ => id) ?_)
    refine .orElse (keepsCyc_none.ite (keepsCyc_eachDie fun _ => id)) (.orElse (keepsCyc_none.ite (keepsCyc_eventIf id)) ?_)
    exact .orElse (keepsCyc_map fun _ => id) (keepsCyc_map fun _ => id)

theorem keepsCyc_startsDue {s : State} {g : Nat} : KeepsCyc (startsDue s g) :=
  (keepsCyc_eventIf id).orElse (keepsCyc_eventIf id)

theorem keepsCyc_dueEvent {s : State} : KeepsCyc (dueEvent s) :=
  .orElse keepsCyc_evictionDue (.orElse keepsCyc_tableDue (.orElse (keepsCyc_eachCore fun _ _ => keepsCyc_completionDue)
    (.orElse (keepsCyc_eachCore fun _ _ => keepsCyc_engineDue) (.orElse keepsCyc_collDue (.orElse (keepsCyc_eventIf id)
      (.orElse keepsCyc_walkerDue (.orElse (keepsCyc_eachCore fun _ _ => keepsCyc_schedDue) keepsCyc_moduleDue)))))))

theorem keepsCyc_lastEvent {s : State} : KeepsCyc (lastEvent s) :=
  (keepsCyc_eachCore fun _ _ => keepsCyc_startsDue).orElse (keepsCyc_eventIf id)

/-- Without an input, a step of a state that is not idle leaves CYC. -/
theorem noInput_cyc {s : State} (h : ¬ Idle s) : Res.CycIs s.cyc (noInput s) := by
  unfold noInput
  split
  · exact hostAct_cyc
  · unfold internal
    split
    · exact landWrite_cyc
    · exact queueHeld_cyc
    · split
      · next he => exact exec_cyc (keepsCyc_dueEvent _ he)
      · split
        · exact coreTurn_cyc rfl
        · split
          · next he => exact exec_cyc (keepsCyc_lastEvent _ he)
          · exact absurd ⟨‹_›, ‹_›, ‹_›, ‹_›, ‹_›, ‹_›⟩ h

/-- An input that is due leaves CYC, outside stage 5 and a module reset. -/
theorem nextStep_cyc_of_due {s : State} {x : Nat} {i : Instr} {rest : List (Nat × Instr)} (hin : s.inputs = (x, i) :: rest)
    (hx : x ≤ s.cyc) (hi : i ≠ .moduleReset) (h5 : s.boot.stage ≠ 5) : Res.CycIs s.cyc (nextStep s) := by
  unfold nextStep
  rw [hin]
  dsimp only
  rw [if_pos hx]
  exact exec_cyc_of_stage (s := { s with inputs := rest }) hi h5

theorem nextStep_of_not_due {s : State} (h : ∀ x i rest, s.inputs = (x, i) :: rest → s.cyc < x) :
    nextStep s = noInput s := by
  unfold nextStep
  split
  · next hin => exact if_neg (Nat.not_le.2 (h _ _ _ hin))
  · rfl

/-- Settles O60: every function that a step calls leaves CYC (R36), save the clock lock of stage 5, a module reset and the tick
of an idle cycle. -/
theorem cycNeverStepsBack : Obligations.CycNeverStepsBack := by
  unfold Obligations.CycNeverStepsBack
  intro s t h5 hreset hstep
  have hidle (hd : ∀ x i rest, s.inputs = (x, i) :: rest → s.cyc < x) (hi : Idle s) :
      t.cyc = if s.fab.lock = true ∨ s.fab.hold = true then s.cyc + 1 else s.cyc := by
    have ht : (.next t : Res) = .next (tick s) := hstep.symm.trans ((nextStep_of_not_due hd).trans hi.noInput)
    injection ht with ht
    exact ht ▸ tick_cyc_eq
  refine ⟨?_, fun hd ⟨hh, hw, hq, he, ht, hl⟩ => hidle hd ⟨hh, hw, hq, he, ht, hl⟩⟩
  have hkeep (hk : Res.CycIs s.cyc (nextStep s)) : t.cyc = s.cyc := (hstep ▸ hk : Res.CycIs s.cyc (.next t))
  by_cases hd : ∀ x i rest, s.inputs = (x, i) :: rest → s.cyc < x
  · by_cases hi : Idle s
    · rw [hidle hd hi]
      split
      · exact .inr ⟨rfl, hi.host, hi.write, hi.held, hi.due, hi.turn, hi.last⟩
      · exact .inl rfl
    · exact .inl (hkeep (nextStep_of_not_due hd ▸ noInput_cyc hi))
  · push Not at hd
    obtain ⟨x, i, rest, hin, hx⟩ := hd
    refine .inl (hkeep (nextStep_cyc_of_due hin hx (fun hi => ?_) h5))
    exact absurd (hreset x rest (hi ▸ hin)) (Nat.not_lt.2 hx)

end Sys2Proof.Machine
end

section
/-! SUPPORT. The slots of a timetable (R43, R44): the next slot of an index, and the latest one that is visible. -/

namespace Sys2Proof.Machine

/-- Numbers that add up to the same residue differ by a residue. -/
theorem mod_eq_of_add_mod {p a j x : Nat} (hx : x < p) (h : (a + j) % p = x) : (x + p - a % p) % p = j % p := by
  have ha : a % p < p := Nat.mod_lt _ (Nat.zero_lt_of_lt hx)
  have h1 : a % p + (x + p - a % p) ≡ a % p + j [MOD p] := by
    rw [Nat.add_sub_cancel' (by omega)]
    calc x + p ≡ x [MOD p] := Nat.add_mod_right x p
      _ ≡ a + j [MOD p] := by rw [← h]; exact Nat.mod_modEq _ _
      _ ≡ a % p + j [MOD p] := ((Nat.mod_modEq a p).add_right j).symm
  exact Nat.ModEq.add_left_cancel' _ h1

theorem add_mod_of_shift {p a x : Nat} (hx : x < p) : (a + (x + p - a % p) % p) % p = x := by
  have ha : a % p < p := Nat.mod_lt _ (Nat.zero_lt_of_lt hx)
  calc (a + (x + p - a % p) % p) % p = (a % p + (x + p - a % p)) % p := by simp [Nat.add_mod]
    _ = (x + p) % p := by rw [Nat.add_sub_cancel' (by omega)]
    _ = x := by rw [Nat.add_mod_right, Nat.mod_eq_of_lt hx]

/-- R44. The first slot of index `x` from slot `m` on. -/
theorem slotFrom_spec {t : LinkTable} {m x : Nat} (hm : t.slotA ≤ m) (hx : x < t.period) :
    ∃ n, slotFrom t m x = some n ∧ m ≤ n ∧ (n - t.slotA) % t.period = x
      ∧ ∀ k, m ≤ k → (k - t.slotA) % t.period = x → n ≤ k := by
  refine ⟨_, if_pos hx, Nat.le_add_right _ _, ?_, fun k hk h => ?_⟩
  · rw [Nat.sub_add_comm hm]
    exact add_mod_of_shift hx
  · obtain ⟨j, rfl⟩ := Nat.exists_eq_add_of_le hk
    rw [Nat.sub_add_comm hm] at h
    rw [ltIndex, mod_eq_of_add_mod hx h]
    exact Nat.add_le_add_left (Nat.mod_le _ _) _

theorem slotFrom_eq_some {t : LinkTable} {m x n : Nat} (hm : t.slotA ≤ m) (hx : x < t.period) (hn : m ≤ n)
    (hi : (n - t.slotA) % t.period = x) (hl : ∀ k, m ≤ k → (k - t.slotA) % t.period = x → n ≤ k) :
    slotFrom t m x = some n := by
  obtain ⟨n', h, hm', hi', hl'⟩ := slotFrom_spec hm hx
  rw [h, Nat.le_antisymm (hl' n hn hi) (hl n' hm' hi')]

theorem slotFrom_eq_none {t : LinkTable} {m x : Nat} (hx : t.period ≤ x) : slotFrom t m x = none := if_neg (Nat.not_lt.2 hx)

theorem ceilDiv_88_le {a n : Nat} : ceilDiv a 88 ≤ n ↔ a ≤ 88 * n := by
  unfold ceilDiv
  omega

/-- R44. Slot `n` is of index `x` in armed timetable `q`, begins 16 cycles later or more, and `q` is in force in it. -/
def UsesSlot (s : State) (x : Nat) (q : LinkTable × Option Nat) (n : Nat) : Prop :=
  q.1.slotA ≤ n ∧ s.cyc + 16 ≤ 88 * n ∧ x < q.1.period ∧ (n - q.1.slotA) % q.1.period = x ∧ ∀ e, q.2 = some e → n < e

/-- What an armed timetable gives SEND: its first slot of index `x`, if it is still in force in it. -/
def slotIn (s : State) (x : Nat) (t : LinkTable × Option Nat) : Option (LinkTable × Nat) :=
  (slotFrom t.1 (Nat.max (ceilDiv (s.cyc + 16) 88) t.1.slotA) x).bind fun n =>
    match t.2 with
    | none => some (t.1, n)
    | some e => if n < e then some (t.1, n) else none

theorem nextSlot_eq (s : State) (x : Nat) : nextSlot s x = (armedTables s).findSome? (slotIn s x) := rfl

theorem slotIn_eq_some {s : State} {x n : Nat} {q : LinkTable × Option Nat} (h : UsesSlot s x q n)
    (hl : ∀ m, UsesSlot s x q m → n ≤ m) : slotIn s x q = some (q.1, n) := by
  obtain ⟨hA, hc, hx, hi, he⟩ := h
  obtain ⟨k, hk, hm, hki, hkl⟩ := slotFrom_spec (Nat.le_max_right (ceilDiv (s.cyc + 16) 88) q.1.slotA) hx
  have hkn : k ≤ n := hkl n (Nat.max_le.2 ⟨ceilDiv_88_le.2 hc, hA⟩) hi
  have hnk : n ≤ k := hl k ⟨(Nat.max_le.1 hm).2, ceilDiv_88_le.1 (Nat.max_le.1 hm).1, hx, hki,
    fun e h => Nat.lt_of_le_of_lt hkn (he e h)⟩
  obtain rfl := Nat.le_antisymm hkn hnk
  unfold slotIn
  rw [hk]
  cases hq : q.2 with
  | none => rfl
  | some e => exact if_pos (he e hq)

theorem slotIn_eq_none {s : State} {x : Nat} {q : LinkTable × Option Nat} (h : ∀ n, ¬UsesSlot s x q n) :
    slotIn s x q = none := by
  unfold slotIn
  by_cases hx : x < q.1.period
  · obtain ⟨k, hk, hm, hki, -⟩ := slotFrom_spec (Nat.le_max_right (ceilDiv (s.cyc + 16) 88) q.1.slotA) hx
    rw [hk]
    have huse (he : ∀ e, q.2 = some e → k < e) : False :=
      h k ⟨(Nat.max_le.1 hm).2, ceilDiv_88_le.1 (Nat.max_le.1 hm).1, hx, hki, he⟩
    cases hq : q.2 with
    | none => exact (huse fun e h => absurd (hq.symm.trans h) (Option.some_ne_none e).symm).elim
    | some e =>
      refine if_neg fun hke => huse fun e' h => ?_
      obtain rfl := Option.some.inj (hq.symm.trans h)
      exact hke
  · rw [slotFrom_eq_none (Nat.not_lt.1 hx)]
    rfl

theorem nextSlot_eq_some {s : State} {x n : Nat} {before after : List (LinkTable × Option Nat)} {q : LinkTable × Option Nat}
    (ha : armedTables s = before ++ q :: after) (hb : ∀ r ∈ before, ∀ m, ¬UsesSlot s x r m) (h : UsesSlot s x q n)
    (hl : ∀ m, UsesSlot s x q m → n ≤ m) : nextSlot s x = some (q.1, n) := by
  have hbn : before.findSome? (slotIn s x) = none :=
    List.findSome?_eq_none_iff.2 fun r hr => slotIn_eq_none (hb r hr)
  rw [nextSlot_eq, ha, List.findSome?_append, hbn, Option.none_or, List.findSome?_cons, slotIn_eq_some h hl]

theorem nextSlot_eq_none {s : State} {x : Nat} (h : ∀ q ∈ armedTables s, ∀ n, ¬UsesSlot s x q n) : nextSlot s x = none :=
  List.findSome?_eq_none_iff.2 fun q hq => slotIn_eq_none (h q hq)

/-- R44. Slot `n` of timetable `t` is of index `x`, and what came in in it is visible. -/
def SeenSlot (s : State) (t : LinkTable) (x n : Nat) : Prop :=
  x < t.period ∧ t.slotA ≤ n ∧ 88 * (n + 1) + 24 ≤ s.cyc ∧ (n - t.slotA) % t.period = x

theorem seenSlot_of_slotSeen {s : State} {t : LinkTable} {x n : Nat} (h : slotSeen s t x = some n) : SeenSlot s t x n := by
  unfold slotSeen at h
  split at h
  · exact absurd h (Option.some_ne_none n).symm
  · next hc =>
    extract_lets m back at h
    obtain ⟨hx, hc, hA⟩ : x < t.period ∧ 112 ≤ s.cyc ∧ t.slotA ≤ m := by omega
    split at h
    · next hb =>
      obtain rfl := Option.some.inj h
      refine ⟨hx, by omega, by omega, ?_⟩
      have hshift : (x + back) % t.period = (m - t.slotA) % t.period := by
        have := add_mod_of_shift (a := x) (Nat.mod_lt (m - t.slotA) (Nat.zero_lt_of_lt hx))
        rwa [Nat.mod_eq_of_lt hx] at this
      have hcancel : (m - back - t.slotA) + back = m - t.slotA := by omega
      have heq : m - back - t.slotA ≡ x [MOD t.period] := Nat.ModEq.add_right_cancel' back (hcancel ▸ hshift.symm)
      exact Eq.trans heq (Nat.mod_eq_of_lt hx)
    · exact absurd h (Option.some_ne_none n).symm

theorem SeenSlot.le_slotSeen {s : State} {t : LinkTable} {x k : Nat} (h : SeenSlot s t x k) :
    ∃ n, slotSeen s t x = some n ∧ k ≤ n := by
  obtain ⟨hx, hA, hc, hi⟩ := h
  have hm : k ≤ (s.cyc - 112) / 88 := by omega
  unfold slotSeen
  rw [if_neg (by omega)]
  extract_lets m back
  have hback : back = (m - k) % t.period := by
    have hsum : (k - t.slotA + (m - k)) % t.period = (m - t.slotA) % t.period := by
      rw [← Nat.sub_add_comm hA, Nat.add_sub_cancel' hm]
    have := mod_eq_of_add_mod (Nat.mod_lt _ (Nat.zero_lt_of_lt hx)) hsum
    rwa [hi] at this
  have hle : back ≤ m - k := hback ▸ Nat.mod_le _ _
  exact ⟨m - back, if_pos (by omega), by omega⟩

theorem slotSeen_eq_some {s : State} {t : LinkTable} {x n : Nat} (h : SeenSlot s t x n)
    (hl : ∀ m, SeenSlot s t x m → m ≤ n) : slotSeen s t x = some n := by
  obtain ⟨k, hk, hnk⟩ := h.le_slotSeen
  rw [hk, Nat.le_antisymm (hl k (seenSlot_of_slotSeen hk)) hnk]

theorem slotSeen_eq_none {s : State} {t : LinkTable} {x : Nat} (h : ∀ n, ¬SeenSlot s t x n) : slotSeen s t x = none :=
  Option.eq_none_iff_forall_ne_some.2 fun n hn => h n (seenSlot_of_slotSeen hn)

/-! ### Causes of the N slot (R385) -/

theorem checked'_nil {slot : Nat} {k : State → State} {s : State} : checked' slot [] k s = k s := rfl

theorem checked'_one {slot : Nat} {c : Nat × Nat} {k : State → State} {s : State} :
    checked' slot [c] k s = raise c.1 slot c.2 s := rfl

/-- SCHEDULE prevails over OPERAND (R247). -/
theorem checked'_schedule {bad : Bool} {v : BitVec 13} {k : State → State} {s : State} :
    checked' nSlot ([portSchedule s] ++ vecCause bad v) k s = raise 0x07 7 (freeDetail s) s := by
  cases bad <;> rfl

/-- The first error of an access that a task meets is noted (R252). -/
theorem recordErr_memerr_first {slot a : Nat} {s : State} (h : s.core.memerr = none) :
    (recordErr slot (.memerr a) s).core.memerr = some (0x18, a, s.core.pc, BitVec.ofNat 3 slot) := by
  change (s.core.meetError _ _ _ _).memerr = _
  unfold Core.meetError
  rw [h]
  rfl

/-- An error of an access changes nothing but what the core notes of it. -/
theorem recordErr_memerr_frame {slot a k : Nat} {s : State} :
    { spend k (recordErr slot (.memerr a) s) with
      free := s.free, core := { (recordErr slot (.memerr a) s).core with memerr := s.core.memerr } } = s := by
  change { s with core := { s.core.meetError _ _ _ _ with memerr := s.core.memerr } } = s
  unfold Core.meetError
  split <;> rfl

/-! ### SEND and the receives (R386, R387) -/

variable {s : State} {port : BitVec 5} {v : BitVec 13} {x : BitVec 15} {t : LinkTable}

theorem portTable_eq (hp : s.maps.port.getLsbD port.toNat = true) (hd : portDie port.toNat = s.coreNo / 48) :
    portTable s port.toNat = s.fab.table := if_pos ⟨port.isLt, hp, hd⟩

/-- SEND of a slot it does not have. -/
theorem exec_send_schedule (h : sendPlace s port.toNat x.toNat = none) :
    Traps (.send port v x) s 0x07 7 (freeDetail s) := by
  change Host.Outcome.next (checked' _ _ _ _) = _
  rw [h]
  exact congrArg _ checked'_schedule

theorem exec_send_operand {p : LinkTable × Nat × Nat} (h : sendPlace s port.toNat x.toNat = some p)
    (hk : nSrcBad (kindOf v) = true) : Traps (.send port v x) s 0x11 7 v.toNat := by
  change Host.Outcome.next (checked' _ _ _ _) = _
  rw [h, hk]
  rfl

theorem exec_send {q : LinkTable} {n i : Nat} (h : sendPlace s port.toNat x.toNat = some (q, n, i))
    (hk : nSrcBad (kindOf v) = false) :
    exec (.send port v x) s = .next (bumpCursor (cursorKey port.toNat n false) { s with fab := { s.fab with
      sends := s.fab.sends ++ [⟨port.toNat, n, i, q.slotA, nSrcBytes s (kindOf v)⟩] } }) := by
  change Host.Outcome.next (checked' _ _ _ _) = _
  rw [h, hk]
  rfl

/-- What a receive does, whichever it is: `lat` and the value of a lane are the operation's own. -/
theorem recvWith_schedule {lat : Nat} {f : Nat → Nat → Nat × Flags} (h : recvPlace s port.toNat x.toNat = none) :
    recvWith lat f port v x s = raise 0x07 7 (freeDetail s) s := by
  unfold recvWith
  rw [h]
  exact checked'_schedule

theorem recvWith_operand {lat : Nat} {f : Nat → Nat → Nat × Flags} {p : Nat × FlitStatus × List Byte}
    (h : recvPlace s port.toNat x.toNat = some p) (hk : (kindOf v).isVec = false) :
    recvWith lat f port v x s = raise 0x11 7 v.toNat s := by
  unfold recvWith
  dsimp only
  rw [h, hk]
  rfl

theorem recvWith_error {lat : Nat} {f : Nat → Nat → Nat × Flags} {n : Nat} {st : FlitStatus} {bs : List Byte}
    (h : recvPlace s port.toNat x.toNat = some (n, st, bs)) (hk : (kindOf v).isVec = true) (hst : st ≠ .ok) :
    recvWith lat f port v x s =
      spend 1 (recordErr nSlot (.memerr (freeDetail s)) (bumpCursor (cursorKey port.toNat n true) s)) := by
  unfold recvWith
  dsimp only
  rw [h, hk]
  exact if_pos hst

theorem recvWith_ok {lat : Nat} {f : Nat → Nat → Nat × Flags} {n : Nat} {bs : List Byte}
    (h : recvPlace s port.toNat x.toNat = some (n, .ok, bs)) (hk : (kindOf v).isVec = true) (hs : LanesOk s) :
    LaneWrites lat false (kindOf v) (fun _ => true) (fun l => f (elAt s (kindOf v) l) (bytesToNat ((bs.drop (4 * l)).take 4)))
      (bumpCursor (cursorKey port.toNat n true) s) (recvWith lat f port v x s) := by
  have hland := lanes_land (lat := lat) (s := bumpCursor (cursorKey port.toNat n true) s) hs
    (v := ⟨false, false, false, 0, 0, 0, 0, 0, 0⟩) hk (fun _ => true)
    (fun l => f (elAt s (kindOf v) l) (bytesToNat ((bs.drop (4 * l)).take 4)))
  rw [vecEffects, List.filter_true] at hland
  unfold recvWith
  dsimp only
  rw [h, hk]
  exact hland

/-! ### Where SEND and a receive take place (R44, R46) -/

theorem sendPlace_none_of_nextSlot (h : nextSlot s x.toNat = none) : sendPlace s port.toNat x.toNat = none := by
  unfold sendPlace
  rw [h]
  split <;> rfl

theorem sendPlace_none_of_entry {q : LinkTable} {n : Nat} (h : nextSlot s x.toNat = some (q, n))
    (he : sendEntryOf q port.toNat x.toNat s.coreNo = none) : sendPlace s port.toNat x.toNat = none := by
  unfold sendPlace
  rw [h, Option.bind_some, he]
  split <;> rfl

theorem sendPlace_of_entry {q : LinkTable} {n : Nat} {e : BitVec 128} (ht : portTable s port.toNat = some t)
    (h : nextSlot s x.toNat = some (q, n)) (he : sendEntryOf q port.toNat x.toNat s.coreNo = some e) :
    sendPlace s port.toNat x.toNat = if cursorAt s (cursorKey port.toNat n false) < ltFlits e then
      some (q, n, cursorAt s (cursorKey port.toNat n false)) else none := by
  unfold sendPlace
  rw [ht, h, Option.bind_some, he]
  rfl

theorem recvPlace_none (ht : portTable s port.toNat = some t) (h : slotSeen s t x.toNat = none) :
    recvPlace s port.toNat x.toNat = none := by
  unfold recvPlace
  rw [ht]
  dsimp only
  rw [h]

theorem recvPlace_eq_some {n : Nat} {r : RxSlot} {fl : RxFlit} (ht : portTable s port.toNat = some t)
    (h : slotSeen s t x.toNat = some n)
    (hr : (s.fab.rx.find? fun r => decide (r.port = port.toNat) && decide (r.slot = n)) = some r)
    (hf : (r.flits.find? fun f => decide (f.idx = cursorAt s (cursorKey port.toNat n true))) = some fl) :
    recvPlace s port.toNat x.toNat = some (n, fl.status, fl.data) := by
  unfold recvPlace
  rw [ht]
  dsimp only
  rw [h]
  dsimp only
  rw [hr]
  dsimp only
  rw [hf]
  rfl

end Sys2Proof.Machine
end

section
/-! SUPPORT. The port operations. -/

namespace Sys2Proof.Machine

/-- A receive is `recvWith` of some latency and lane value. -/
theorem exec_recv_of_mem {s : State} {port : BitVec 5} {v : BitVec 13} {x : BitVec 15} {i : Instr}
    (hi : i ∈ [Instr.recv port v x, .recvadd port v x, .recvsq port v x]) :
    ∃ lat f, exec i s = .next (recvWith lat f port v x s) := by
  simp only [List.mem_cons, List.not_mem_nil, or_false] at hi
  obtain rfl | rfl | rfl := hi
  · exact ⟨6, _, rfl⟩
  · exact ⟨8, _, rfl⟩
  · exact ⟨8, _, rfl⟩

/-- Settles O39: the slots of the timetable by `slotFrom_spec` and `SeenSlot.le_slotSeen`, the operations by their causes. -/
theorem portOperations : Obligations.PortOperations := by
  unfold Obligations.PortOperations
  intro s port v x t ht hp hd k used bumped uses seen
  have hpt : portTable s port.toNat = some t := (portTable_eq hp hd).trans ht
  refine ⟨fun before q after n ha hb hu hl => ?_, fun h => ?_, fun n r fl hn hl hr hf => ?_, fun h => ?_⟩
  · have hnext : nextSlot s x.toNat = some (q.1, n) := nextSlot_eq_some ha hb hu hl
    refine ⟨fun e he => ?_, fun he => ⟨_, exec_send_schedule (sendPlace_none_of_entry hnext he)⟩⟩
    have hplace := sendPlace_of_entry hpt hnext he
    refine ⟨fun hlt hk => ?_, fun hlt hk => ?_, fun hle => ⟨freeDetail s, ?_⟩⟩
    · exact exec_send (hplace.trans (if_pos hlt)) hk
    · exact exec_send_operand (hplace.trans (if_pos hlt)) hk
    · exact exec_send_schedule (hplace.trans (if_neg (Nat.not_lt.2 hle)))
  · exact ⟨_, exec_send_schedule (sendPlace_none_of_nextSlot (nextSlot_eq_none h))⟩
  · have hplace := recvPlace_eq_some hpt (slotSeen_eq_some hn hl) hr hf
    intro y
    refine ⟨fun hk hst hs => ?_, fun hk hst i hi => ?_, fun hk i hi => ?_⟩
    · rw [hst] at hplace
      exact ⟨⟨_, rfl, recvWith_ok hplace hk hs⟩, ⟨_, rfl, recvWith_ok hplace hk hs⟩, ⟨_, rfl, recvWith_ok hplace hk hs⟩⟩
    · obtain ⟨lat, f, hexec⟩ := exec_recv_of_mem (s := s) hi
      exact ⟨_, hexec.trans (congrArg _ (recvWith_error hplace hk hst)), fun hm => ⟨_, recordErr_memerr_first hm⟩,
        recordErr_memerr_frame (s := bumpCursor (cursorKey port.toNat n true) s)⟩
    · obtain ⟨lat, f, hexec⟩ := exec_recv_of_mem (s := s) hi
      exact hexec.trans (congrArg _ (recvWith_operand hplace hk))
  · intro i hi
    obtain ⟨lat, f, hexec⟩ := exec_recv_of_mem (s := s) hi
    exact ⟨_, hexec.trans (congrArg _ (recvWith_schedule (recvPlace_none hpt (slotSeen_eq_none h))))⟩

end Sys2Proof.Machine
end

section
/-! SUPPORT. Translations that are all installed (R136, R138), and the rules of `resolve` for them. -/

namespace Sys2Proof.Machine

/-- R136. The address `va` has a translation that its core holds and that allows a write: to `g`, with `b` for its L1
attribute. -/
def WriteHit (s : State) (va g : Nat) (b : Bool) : Prop :=
  va < 2 ^ 56 ∧ ∃ e, tuFind s .core (s.coreNo / 48) va = some e ∧ tuAllows s e true = true
    ∧ g = e.pa + (va - e.va) ∧ b = e.nl1

/-- Every address met so far had an installed translation: no walk, no cause, nothing drawn. -/
def XlAcc.allHits (ps : List Part) : XlAcc := ⟨ps, ps, [], [], none, 0⟩

variable {s : State}

theorem xlate_hit {va n : Nat} {big : Bool} {p : Part} (h : WriteHit s va p.ga p.nl1) (hn : p.n = n) :
    xlate s .core (myDie s) true false big va n = .hit p := by
  obtain ⟨hva, e, he, ha, hg, hb⟩ := h
  unfold xlate
  rw [if_neg (Nat.not_le.2 hva), if_neg Bool.false_ne_true]
  change (match tuFind s .core (s.coreNo / 48) va with
    | some e => _
    | none => _) = _
  rw [he]
  dsimp only
  rw [if_pos ha, ← hg, ← hb, ← hn]

theorem xlAdd_hit (hi : (s.xlat.inval.any fun p => p.1 == s.coreNo / 48) = false) {ps : List Part} {x : Nat × Nat} {p : Part}
    (h : WriteHit s x.1 p.ga p.nl1) (hn : p.n = x.2) :
    xlAdd s .core (myDie s) true (.allHits ps) x = .allHits (ps ++ [p]) := by
  have hi' : (s.xlat.inval.any fun p => p.1 == myDie s) = false := hi
  unfold xlAdd
  simp only [XlAcc.allHits, List.append_nil, hi', Bool.false_and, xlate_hit h hn]
  rfl

theorem foldl_xlAdd_hits (hi : (s.xlat.inval.any fun p => p.1 == s.coreNo / 48) = false) {ι : Type} {va : ι → Nat × Nat}
    {p : ι → Part} {l : List ι} (h : ∀ i ∈ l, WriteHit s (va i).1 (p i).ga (p i).nl1) (hn : ∀ i, (p i).n = (va i).2)
    (ps : List Part) :
    (l.map va).foldl (xlAdd s .core (myDie s) true) (.allHits ps) = .allHits (ps ++ l.map p) := by
  induction l generalizing ps with
  | nil => simp
  | cons i l ih =>
    rw [List.map_cons, List.foldl_cons, xlAdd_hit hi (h i List.mem_cons_self) (hn i),
      ih fun j hj => h j (List.mem_cons_of_mem i hj)]
    simp

/-- An access of virtual addresses whose translations are all installed, and that nothing stops. -/
theorem resolve_of_hits {slot : Nat} {extra : List (Nat × Nat)} {vas : List (Nat × Nat)} {more : List Part → List (Nat × Nat)}
    {k : List Part → State → State} {ps : List Part} (h : xlAll s .core (myDie s) true vas = .allHits ps)
    (he : extra = []) (hm : more ps = []) : resolve slot 3 true extra vas more k s = k ps s := by
  unfold resolve
  rw [if_pos rfl, h]
  simp [XlAcc.allHits, he, hm, minCause, spend]

/-- The one cause of an access whose translations are all installed. -/
theorem resolve_of_cause {slot c d : Nat} {vas : List (Nat × Nat)} {more : List Part → List (Nat × Nat)}
    {k : List Part → State → State} {ps : List Part} (h : xlAll s .core (myDie s) true vas = .allHits ps)
    (hm : more ps = []) : resolve slot 3 true [(c, d)] vas more k s = raise c slot d s := by
  unfold resolve
  rw [if_pos rfl, h]
  simp [XlAcc.allHits, hm, minCause]

/-! ### Bytes of a vector in blocks -/

theorem withBytes_blocks {ι : Type} {p : ι → Part} {f : ι → List Byte} {l : List ι} (h : ∀ i, (f i).length = (p i).n) :
    withBytes (l.map p) (l.flatMap f) = l.map fun i => ((p i).ga, f i) := by
  induction l with
  | nil => rfl
  | cons i l ih => simp [withBytes, ih, ← h i]

theorem length_flatMap_const {ι α : Type} {f : ι → List α} {n : Nat} (h : ∀ i, (f i).length = n) (l : List ι) :
    (l.flatMap f).length = l.length * n := by
  simp [List.length_flatMap, h]

theorem range_mul_flatMap {α : Type} (f : Nat → List α) (k cnt : Nat) :
    (List.range (k * cnt)).flatMap f = (List.range cnt).flatMap fun i => (List.range k).flatMap fun j => f (k * i + j) := by
  induction cnt with
  | zero => rfl
  | succ cnt ih =>
    rw [Nat.mul_succ, List.range_add, List.flatMap_append, ih, List.range_succ, List.flatMap_append]
    simp [List.flatMap_map]

/-- The first blocks of 16 bytes of a vector. -/
theorem nSrcBytes_take {k : Kind} {cnt : Nat} (hc : cnt ≤ 16) :
    (nSrcBytes s k).take (16 * cnt)
      = (List.range cnt).flatMap fun i => (List.range 4).flatMap fun j => natToBytes 4 (srcVal s 4 k (4 * i + j)) := by
  have hsplit : (64 : Nat) = 4 * cnt + (64 - 4 * cnt) := by omega
  rw [← range_mul_flatMap (fun l => natToBytes 4 (srcVal s 4 k l)), nSrcBytes, hsplit, List.range_add, List.flatMap_append]
  refine List.take_left' ?_
  rw [length_flatMap_const (n := 4) (fun _ => natToBytes_length _ _), List.length_range]
  omega

end Sys2Proof.Machine
end

section
/-! SUPPORT. PUTSIG (R48, R68, R388). -/

namespace Sys2Proof.Machine

variable {s : State}

theorem outstanding_of_mem_waitsFor {far : Bool} {o k : Nat} (h : k ∈ waitsFor far o s) : outstanding s k = true := by
  unfold waitsFor at h
  unfold outstanding
  extract_lets bound at h
  obtain h | h := List.mem_append.1 h
  · obtain ⟨m, hm, rfl⟩ := List.mem_map.1 h
    have hm := (List.mem_filter.1 hm).2
    simp only [Bool.and_eq_true] at hm
    exact hm.1.2
  · split at h
    · obtain h | h := List.mem_append.1 h
      · obtain ⟨a, ha, rfl⟩ := List.mem_map.1 h
        have ha := (List.mem_filter.1 ha).1
        rw [List.any_eq_true.2 ⟨a, ha, decide_eq_true rfl⟩]
        rfl
      · obtain ⟨r, hr, rfl⟩ := List.mem_map.1 h
        have hr := (List.mem_filter.1 hr).1
        rw [List.any_eq_true.2 ⟨r, hr, decide_eq_true rfl⟩]
        simp
    · exact absurd h List.not_mem_nil

theorem sigParts_concat {n saddr : Nat} {pay : List Part} {sg : Part} (hn : (pay ++ [sg]).length = n) :
    sigParts s n saddr (pay ++ [sg]) = (pay, some sg) := by
  unfold sigParts
  rw [List.getLast?_concat, Option.filter_some, decide_eq_true hn, Bool.true_or]
  simp

/-- Equal modules are one module. -/
theorem eraseDups_of_forall_eq {l : List Nat} {m : Nat} (h : ∀ x ∈ l, x = m) : (l ++ [m]).eraseDups = [m] := by
  have hl : l ++ [m] = m :: List.replicate l.length m := by
    rw [List.eq_replicate_of_mem h, List.length_replicate, ← List.replicate_succ', List.replicate_succ]
  rw [hl, List.eraseDups_cons, List.filter_replicate, if_neg (by simp)]
  rfl

/-- R48. Payload and signal in one module, which is this one or has a timetable entry, at a place that is theirs: no cause. -/
theorem sigCauses_eq_nil {c m : Nat} {d : SigDesc} {pay : List Part} {sg : Part}
    (hm : sg.ga / 2 ^ 44 = m) (hpay : ∀ p ∈ pay, p.ga / 2 ^ 44 = m)
    (htext : m = s.fab.id.toNat → ∀ p ∈ pay, textRefused s (p.ga % 2 ^ 44) p.n = none)
    (hplace : ∃ n, place (sg.ga % 2 ^ 44) = .hbm n)
    (hobj : m = s.fab.id.toNat → (if d.isFlag then boundBarrier s sg.ga else boundLock s sg.ga) = false)
    (htab : m ≠ s.fab.id.toNat → (sigTable s c m).isSome = true) : sigCauses s c d pay (some sg) = [] := by
  unfold sigCauses
  have hms : ((pay ++ (some sg).toList).map fun p => p.ga / 2 ^ 44).eraseDups = [m] := by
    rw [List.map_append, Option.toList_some, List.map_singleton, hm]
    exact eraseDups_of_forall_eq fun x hx => by
      obtain ⟨p, hp, rfl⟩ := List.mem_map.1 hx
      exact hpay p hp
  have h1 : (pay.filterMap fun p => (localPart s p.ga).bind fun l => textRefused s l p.n) = [] := by
    refine List.filterMap_eq_nil_iff.2 fun p hp => ?_
    unfold localPart
    split
    · next h => exact htext ((hpay p hp).symm.trans h) p hp
    · rfl
  have h2 : ([m].any fun m => decide (m ≠ s.fab.id.toNat) && (sigTable s c m).isNone) = false := by
    by_cases h : m = s.fab.id.toNat
    · simp [h]
    · simpa [h] using htab h
  have h3 : barrierPlace 3 d.saddr sg = [] := by
    obtain ⟨n, hn⟩ := hplace
    unfold barrierPlace
    rw [if_neg (by decide), hn]
  have h4 : ((localPart s sg.ga).isSome && (if d.isFlag then boundBarrier s sg.ga else boundLock s sg.ga)) = false := by
    by_cases h : m = s.fab.id.toNat
    · rw [hobj h, Bool.and_false]
    · unfold localPart
      rw [if_neg (hm ▸ h)]
      rfl
  extract_lets ms other
  rw [show ms = [m] from hms, h1, h2]
  simp [h3, show other sg = false from h4]

/-- The pieces of a message to this module land after now, and its signal no earlier than each. -/
theorem le_foldl_max {l : List (Nat × WriteUnit)} {b : Nat} :
    b ≤ l.foldl (fun m x => Nat.max m x.1) b ∧ ∀ x ∈ l, x.1 ≤ l.foldl (fun m x => Nat.max m x.1) b := by
  induction l generalizing b with
  | nil => exact ⟨Nat.le_refl b, fun _ h => absurd h List.not_mem_nil⟩
  | cons y l ih =>
    obtain ⟨h1, h2⟩ := ih (b := Nat.max b y.1)
    refine ⟨Nat.le_trans (Nat.le_max_left _ _) h1, fun x hx => ?_⟩
    obtain rfl | hx := List.mem_cons.1 hx
    · exact Nat.le_trans (Nat.le_max_right _ _) h1
    · exact h2 x hx

/-- R48. The pieces that the payload of a message to this module lands in. -/
def sigPieces (s : State) (bytes : List Byte) (pay : List Part) : List (Nat × WriteUnit) :=
  (groupUnits (atHome (withBytes pay bytes))).mapIdx fun i u => (s.cyc + 1 + freeBelow s (i + 1) (partsBound s 3 pay), u)

/-- R48. The message that PUTSIG hands over. -/
def sigMsgOf (c : Nat) (d : SigDesc) (bytes : List Byte) (pay : List Part) (sg : Part) (s : State) : SigMsg :=
  let dest := sg.ga / 2 ^ 44
  let here := decide (dest = s.fab.id.toNat)
  let payEnd := (sigPieces s bytes pay).foldl (fun m x => Nat.max m x.1) (s.cyc + 1)
  { chan := c, id := s.fab.nextId, core := s.coreNo, dest := dest, sigAddr := sg.ga % 2 ^ 44
    flag := if d.isFlag then some d.flag else none
    pay := atHome (withBytes pay bytes), earliest := s.cyc + 16, sent := false
    tab := ((sigTable s c dest).map LinkTable.slotA).getD 0, oks := 0, local_ := here
    pieces := if here then sigPieces s bytes pay else [], waits := waitsFor true sg.ga s
    sigAt := payEnd + freeBelow s 0 (s.cyc + partsBound s 3 pay + partBound s 3 sg - payEnd + 1) }

/-- `s` with a message handed over to be sent. -/
def withMsg (msg : SigMsg) (s : State) : State :=
  { s with fab := { s.fab with nextId := s.fab.nextId + 1, sigs := s.fab.sigs ++ [msg] } }

/-- R160. The arrival that the signal of a message to this module is. -/
def sigArrival (msg : SigMsg) (s : State) : BarrierUpd :=
  { BarrierUpd.plain s s.coreNo false msg.sigAddr 0 1 with sig := some msg.id, waits := msg.waits }

variable {c : Nat} {d : SigDesc} {bytes : List Byte} {pay : List Part} {sg : Part}

theorem launchSig_eq : launchSig c d bytes pay sg s =
    if decide (sg.ga / 2 ^ 44 = s.fab.id.toNat) && !d.isFlag then
      postUpdateOf (sigArrival (sigMsgOf c d bytes pay sg s) s)
        (spend ((groupUnits (atHome (withBytes pay bytes))).length + 1) (withMsg (sigMsgOf c d bytes pay sg s) s))
    else spend ((groupUnits (atHome (withBytes pay bytes))).length + 1) (withMsg (sigMsgOf c d bytes pay sg s) s) := rfl

theorem launchSig_frame : { launchSig c d bytes pay sg s with free := s.free, barq := s.barq }
    = withMsg (sigMsgOf c d bytes pay sg s) s := by
  rw [launchSig_eq]
  split <;> rfl

theorem launchSig_barq_of_arrival (h : sg.ga / 2 ^ 44 = s.fab.id.toNat) (hf : d.isFlag = false) :
    ∃ n, (launchSig c d bytes pay sg s).barq
      = s.barq ++ [{ sigArrival (sigMsgOf c d bytes pay sg s) s with due := n }] := by
  rw [launchSig_eq, decide_eq_true h, hf]
  exact ⟨_, rfl⟩

theorem launchSig_barq_of_no_arrival (h : ¬(sg.ga / 2 ^ 44 = s.fab.id.toNat) ∨ d.isFlag = true) :
    (launchSig c d bytes pay sg s).barq = s.barq := by
  rw [launchSig_eq, if_neg (by simpa [imp_iff_not_or] using h)]
  rfl

theorem sigMsgOf_pieces {x : Nat × WriteUnit} (hx : x ∈ (sigMsgOf c d bytes pay sg s).pieces) :
    s.cyc < x.1 ∧ x.1 ≤ (sigMsgOf c d bytes pay sg s).sigAt := by
  have hx : x ∈ sigPieces s bytes pay := by
    unfold sigMsgOf at hx
    dsimp only at hx
    split at hx
    · exact hx
    · exact absurd hx List.not_mem_nil
  obtain ⟨i, hi, rfl⟩ := List.mem_mapIdx.1 hx
  exact ⟨by dsimp only; omega, Nat.le_trans (le_foldl_max.2 _ hx) (Nat.le_add_right _ _)⟩

theorem wrap64_natCast (n : Nat) : wrap64 (n : Int) = n % 2 ^ 64 := by
  unfold wrap64
  rw [BitVec.toNat_ofInt]
  norm_cast

theorem alignCauses_eq_nil {n a m : Nat} (h : a % n = 0) : alignCauses n [(a, m)] = [] := by
  simp [alignCauses, h]

/-- What PUTSIG does with its descriptor in place and well formed: it resolves the addresses of payload and signal. -/
theorem exec_putsig {chan : BitVec 3} {v : BitVec 13} {q : SReg} {d : SigDesc}
    (ho : (rdS s q).toNat % 16 = 0) (hspad : (rdS s q).toNat + 32 ≤ 0x200000)
    (hbad : badAddr s (spadBase s.coreNo + (rdS s q).toNat) 32 = none) (hk : nSrcBad (kindOf v) = false)
    (hd : sigDescOf (bytesToNat (readHome s (spadBase s.coreNo + (rdS s q).toNat) 32)) = d)
    (hlen : d.plen ≤ 256) (hlen16 : d.plen % 16 = 0) (hres : d.res = false) (hpay : d.plen ≠ 0 → d.paddr % 16 = 0)
    (hsig : d.saddr % (if d.isFlag then 8 else 16) = 0) (hfl : inFlight s chan.toNat < 4) :
    exec (.putsig chan v q) s = .next (resolve nSlot 3 true (if granted s chan.toNat then [] else [(0x12, chan.toNat)])
      ((List.range (d.plen / 16)).map (fun i => ((d.paddr + 16 * i) % 2 ^ 64, 16)) ++ [(d.saddr, if d.isFlag then 8 else 16)])
      (fun ps => sigCauses s chan.toNat d (sigParts s (d.plen / 16 + 1) d.saddr ps).1
        (sigParts s (d.plen / 16 + 1) d.saddr ps).2)
      (fun ps s => match ps.getLast? with
        | none => s
        | some sg => launchSig chan.toNat d ((nSrcBytes s (kindOf v)).take d.plen) ps.dropLast sg s) s) := by
  change execPutsig chan v q s = _
  unfold execPutsig
  extract_lets +onlyGivenNames o c k first
  split
  · next h => exact absurd h (by omega)
  · extract_lets +onlyGivenNames l
    generalize badAddr s l 32 = b at hbad ⊢
    subst hbad
    have hfirst : first = if granted s c then [] else [(0x12, c)] := by
      unfold first
      rw [hk, if_neg (Nat.not_le.2 hfl)]
      exact (List.append_nil _).trans (List.append_nil _)
    have hbadLen : (decide (256 < d.plen) || decide (d.plen % 16 ≠ 0)) = false := by simp [hlen16, hlen]
    dsimp only
    rw [hd, hbadLen, hres, hfirst]
    have hp : (if d.plen ≠ 0 then alignCauses 16 [(d.paddr, 16)] else []) = [] := by
      split
      · exact alignCauses_eq_nil (hpay ‹_›)
      · rfl
    simp only [hp, alignCauses_eq_nil hsig, Bool.or_self, Bool.false_eq_true, if_false, List.append_nil, wrap64_natCast,
      List.length_append, List.length_map, List.length_range, List.length_singleton]
    rfl

end Sys2Proof.Machine
end

section
/-! SUPPORT. PUTSIG, NCOLL and NWAIT. -/

namespace Sys2Proof.Machine

variable {s : State}

/-- The payload of a message by its pieces of 16 bytes. -/
theorem atHome_withBytes_nSrcBytes {k : Kind} {d : SigDesc} {ga : Nat → Nat} {nl : Nat → Bool} (hlen : d.plen ≤ 256)
    (hlen16 : d.plen % 16 = 0) :
    atHome (withBytes ((List.range (d.plen / 16)).map fun i => ⟨ga i, 16, nl i⟩) ((nSrcBytes s k).take d.plen))
      = (List.range (d.plen / 16)).map fun i => (ga i % 2 ^ 44,
          (List.range 4).flatMap fun j => natToBytes 4 (srcVal s 4 k (4 * i + j))) := by
  have hp : d.plen = 16 * (d.plen / 16) := by omega
  rw [show (nSrcBytes s k).take d.plen = (nSrcBytes s k).take (16 * (d.plen / 16)) by rw [← hp],
    nSrcBytes_take (by omega), withBytes_blocks, atHome, List.map_map]
  · rfl
  · exact fun i => length_flatMap_const (fun _ => natToBytes_length _ _) _

/-- PUTSIG to a channel that is not granted: PRIV. -/
theorem exec_putsig_of_refused {chan : BitVec 3} {v : BitVec 13} {q : SReg} {vas : List (Nat × Nat)}
    {more : List Part → List (Nat × Nat)} {k : List Part → State → State} {ps : List Part}
    (he : exec (.putsig chan v q) s
      = .next (resolve nSlot 3 true (if granted s chan.toNat then [] else [(0x12, chan.toNat)]) vas more k s))
    (h : xlAll s .core (myDie s) true vas = .allHits ps) (hm : more ps = []) (hg : granted s chan.toNat = false) :
    Traps (.putsig chan v q) s 0x12 7 chan.toNat := by
  refine he.trans (congrArg _ ?_)
  rw [hg]
  exact resolve_of_cause h hm

theorem exec_putsig_of_granted {chan : BitVec 3} {v : BitVec 13} {q : SReg} {vas : List (Nat × Nat)}
    {more : List Part → List (Nat × Nat)} {k : List Part → State → State} {ps : List Part}
    (he : exec (.putsig chan v q) s
      = .next (resolve nSlot 3 true (if granted s chan.toNat then [] else [(0x12, chan.toNat)]) vas more k s))
    (h : xlAll s .core (myDie s) true vas = .allHits ps) (hm : more ps = []) (hg : granted s chan.toNat = true) :
    exec (.putsig chan v q) s = .next (k ps s) := by
  refine he.trans (congrArg _ (resolve_of_hits h ?_ hm))
  rw [hg]
  rfl

/-! ### NCOLL (R389) -/

/-- R389. The descriptor that NCOLL hands over. -/
def collOf (s : State) (o : Nat) (dt : Tok) : Coll where
  die := s.coreNo / 48
  core := s.coreNo
  id := s.fab.nextId
  words := (List.range 8).map fun i => BitVec.ofNat 64 (bytesToNat (readHome s (spadBase s.coreNo + o + 8 * i) 8))
  produce := dt
  earliest := s.cyc + 64
  start := none
  data := []
  dst := []
  norm := none
  left := 0
  lastEnd := 0
  awaiting := 0
  ok := true
  heard := []
  cut := false

/-- NCOLL has no room: its die's engine is full, or its token pends. -/
def CollFull (s : State) (dt : Tok) : Prop :=
  4 ≤ (s.colls.filter fun c => decide (c.die = s.coreNo / 48)).length ∨ rdTok s dt = .pending

variable {q : SReg} {dt : Tok}

theorem exec_ncoll_full (h : CollFull s dt) : Traps (.ncoll q dt) s 0x07 7 (freeDetail s) := by
  change execNcoll q dt s = _
  unfold execNcoll
  extract_lets +onlyGivenNames o held
  rw [if_pos (show 4 ≤ held ∨ rdTok s dt = .pending from h)]
  refine congrArg _ ?_
  split <;> split <;> rfl

theorem exec_ncoll_protect (h : ¬CollFull s dt) (ho : 0x200000 < (rdS s q).toNat + 64) :
    Traps (.ncoll q dt) s 0x0A 7 (rdS s q).toNat := by
  change execNcoll q dt s = _
  unfold execNcoll
  extract_lets +onlyGivenNames o held
  rw [if_neg (show ¬(4 ≤ held ∨ rdTok s dt = .pending) from h), if_pos ho]
  refine congrArg _ ?_
  split <;> rfl

theorem exec_ncoll_align (h : ¬CollFull s dt) (ho : (rdS s q).toNat + 64 ≤ 0x200000) (ha : (rdS s q).toNat % 16 ≠ 0) :
    Traps (.ncoll q dt) s 0x0B 7 (rdS s q).toNat := by
  change execNcoll q dt s = _
  unfold execNcoll
  extract_lets +onlyGivenNames o held
  rw [if_neg (show ¬(4 ≤ held ∨ rdTok s dt = .pending) from h), if_neg (Nat.not_lt.2 ho), if_pos ha]
  rfl

theorem exec_ncoll (h : ¬CollFull s dt) (ho : (rdS s q).toNat + 64 ≤ 0x200000) (ha : (rdS s q).toNat % 16 = 0)
    (hb : badAddr s (spadBase s.coreNo + (rdS s q).toNat) 64 = none) :
    exec (.ncoll q dt) s = .next (produceTok dt { s with
      colls := s.colls ++ [collOf s (rdS s q).toNat dt], fab := { s.fab with nextId := s.fab.nextId + 1 } }) := by
  change execNcoll q dt s = _
  unfold execNcoll
  extract_lets +onlyGivenNames o held
  rw [if_neg (show ¬(4 ≤ held ∨ rdTok s dt = .pending) from h), if_neg (Nat.not_lt.2 ho), if_neg (not_not.2 ha)]
  refine congrArg _ (checked'_nil.trans ?_)
  extract_lets +onlyGivenNames l
  generalize badAddr s l 64 = b at hb ⊢
  subst hb
  rfl

/-! ### NWAIT (R286) -/

variable {x : BitVec 15}

theorem exec_nwait_schedule (h : (s.fab.table.bind fun t => slotFrom t (s.cyc / 88 + 1) x.toNat) = none) :
    Traps (.nwait x) s 0x07 7 (freeDetail s) := by
  change execNwait x s = _
  unfold execNwait
  rw [h]
  rfl

theorem exec_nwait {n : Nat} (h : (s.fab.table.bind fun t => slotFrom t (s.cyc / 88 + 1) x.toNat) = some n) :
    exec (.nwait x) s = .next (put 1 (.sys 0x014 (BitVec.ofNat 64 (88 * n - s.cyc - 1))) { s with core := { s.core with
      holding := decide (0 < 88 * n - s.cyc - 1), holdPos := textAfter s, nwait := some n } }) := by
  change execNwait x s = _
  unfold execNwait
  rw [h]
  rfl

/-- Settles O40: PUTSIG by the rules of `resolve` for installed translations, NCOLL and NWAIT by their causes. -/
theorem signalsCollectivesWaits : Obligations.SignalsCollectivesWaits := by
  unfold Obligations.SignalsCollectivesWaits
  intro s
  refine ⟨?_, fun q dt => ?_, fun x => ?_⟩
  · intro chan v q ga nl sg o c k d cnt m here hit ho hspad hbad hk hlen hlen16 hres hpay hsig hinv hpayHit hsigHit hplace hobj
      htab hfl
    obtain ⟨b, hb⟩ := hsigHit
    have he := exec_putsig ho hspad hbad hk rfl hlen hlen16 hres hpay hsig hfl (chan := chan)
    let pay : List Part := (List.range cnt).map fun i => ⟨ga i, 16, nl i⟩
    let sgp : Part := ⟨sg, if d.isFlag then 8 else 16, b⟩
    have hx : xlAll s .core (myDie s) true ((List.range cnt).map (fun i => ((d.paddr + 16 * i) % 2 ^ 64, 16))
        ++ [(d.saddr, if d.isFlag then 8 else 16)]) = .allHits (pay ++ [sgp]) := by
      have hpay' := foldl_xlAdd_hits hinv (va := fun i => ((d.paddr + 16 * i) % 2 ^ 64, 16))
        (p := fun i => ⟨ga i, 16, nl i⟩) (fun i hi => (hpayHit i (List.mem_range.1 hi)).1) (fun _ => rfl) []
      rw [xlAll, List.foldl_append]
      exact (congrArg (List.foldl _ · _) hpay').trans (xlAdd_hit hinv (p := sgp) hb rfl)
    have hmem {P : Part → Prop} (h : ∀ i, i < cnt → P ⟨ga i, 16, nl i⟩) : ∀ p ∈ pay, P p := fun p hp => by
      obtain ⟨i, hi, rfl⟩ := List.mem_map.1 hp
      exact h i (List.mem_range.1 hi)
    have hparts : sigParts s (d.plen / 16 + 1) d.saddr (pay ++ [sgp]) = (pay, some sgp) :=
      sigParts_concat (by simp [pay, cnt])
    have hcauses : sigCauses s c d pay (some sgp) = [] :=
      sigCauses_eq_nil (sg := sgp) rfl (hmem fun i hi => (hpayHit i hi).2.1)
        (fun hh => hmem fun i hi => (hpayHit i hi).2.2 hh) hplace hobj htab
    have hmore := (congrArg (fun x => sigCauses s c d x.1 x.2) hparts).trans hcauses
    refine ⟨exec_putsig_of_refused he hx hmore, fun hg => ?_⟩
    have hlaunch : exec (.putsig chan v q) s = .next (launchSig c d ((nSrcBytes s k).take d.plen) pay sgp s) := by
      have h := exec_putsig_of_granted he hx hmore hg
      rw [List.getLast?_concat, List.dropLast_concat] at h
      exact h
    exact ⟨sigMsgOf c d ((nSrcBytes s k).take d.plen) pay sgp s, _, hlaunch, launchSig_frame,
      fun h => (launchSig_barq_of_arrival h.1 h.2).elim fun n hn => ⟨_, hn, rfl, rfl, rfl, rfl, rfl, rfl, rfl, rfl⟩,
      fun h => launchSig_barq_of_no_arrival (sg := sgp) h, fun _ => outstanding_of_mem_waitsFor, rfl, rfl, rfl, rfl, rfl, rfl,
      atHome_withBytes_nSrcBytes hlen hlen16, rfl, rfl, decide_eq_true_iff, fun _ _ => sigMsgOf_pieces⟩
  · intro o full
    exact ⟨fun h => ⟨_, exec_ncoll_full h⟩, exec_ncoll_protect, exec_ncoll_align,
      fun h ho ha hb => ⟨_, exec_ncoll h ho ha hb, rfl, rfl, rfl, rfl, rfl, rfl⟩⟩
  · refine ⟨fun h => ⟨_, exec_nwait_schedule (by rw [h]; rfl)⟩, fun t ht hA => ⟨fun hp => ⟨_, exec_nwait_schedule ?_⟩, ?_⟩⟩
    · rw [ht]
      exact slotFrom_eq_none hp
    · intro n hn hi hx hl
      refine exec_nwait ?_
      rw [ht]
      exact slotFrom_eq_some (by omega) hx (by omega) hi fun k hk hki => hl k (by omega) hki

end Sys2Proof.Machine
end

section
/-! SUPPORT. What the device-level operations leave of the fabric's state: their writes reach memory, L2, the fault log and the
maps (R17, R51, R66, R130, R205, R253). -/

namespace Sys2Proof.Machine

theorem fab_ite {p : Prop} {_ : Decidable p} {s t u : State} (hs : s.fab = u.fab) (ht : t.fab = u.fab) :
    (if p then s else t).fab = u.fab := by
  split
  · exact hs
  · exact ht

theorem fab_foldl {ι : Type} {f : State → ι → State} (hf : ∀ s i, (f s i).fab = s.fab) (l : List ι) (s : State) :
    (l.foldl f s).fab = s.fab := by
  induction l generalizing s with
  | nil => rfl
  | cons i l ih => exact (ih _).trans (hf s i)

/-- An access leaves the fabric of `s` alone, whether it fails with a state or answers one (`g` of its answer). -/
def AccLeavesFab {ε β : Type} (s : State) (g : β → State) : Except (ε × State) β → Prop
  | .error e => e.2.fab = s.fab
  | .ok b => (g b).fab = s.fab

/-! ### Memory and L2 (R130, R147) -/

@[simp] theorem l2Drop_fab {die line : Nat} {s : State} : (l2Drop die line s).fab = s.fab := by
  unfold l2Drop
  extract_lets k x
  split
  · rfl
  · rfl

@[simp] theorem l2Line_fab {pol : Nat} {wr : Bool} {die line : Nat} {mask : BitVec 4} {s : State} :
    (l2Line pol wr die line mask s).fab = s.fab := by
  unfold l2Line
  extract_lets k x ws put d
  have hput : ∀ w l s, (put w l s).fab = s.fab := fun _ _ _ => rfl
  have htwin : ∀ line s, (l2Twin die line s).fab = s.fab := fun _ _ => fab_ite l2Drop_fab rfl
  split
  · exact hput ..
  · split
    · rfl
    · split
      · exact hput ..
      · rw [hput, htwin]
        exact fab_ite rfl rfl

@[simp] theorem nextAccess_fab {s : State} : (nextAccess s).fab = s.fab := fab_ite rfl rfl

@[simp] theorem l2Touch_fab {pol : Nat} {wr : Bool} {a n : Nat} {s : State} : (l2Touch pol wr a n s).fab = s.fab := by
  unfold l2Touch
  rw [nextAccess_fab]
  exact fab_ite rfl (fab_foldl (fun _ _ => l2Line_fab) _ _)

@[simp] theorem memWrite_fab {pol a : Nat} {bs : List Byte} {s : State} : (memWrite pol a bs s).fab = s.fab :=
  l2Touch_fab (s := s)

@[simp] theorem modCore_fab {g : Nat} {f : Core → Core} {s : State} : (modCore g f s).fab = s.fab := fab_ite rfl rfl

@[simp] theorem keepUnfetched_fab {l n : Nat} {s : State} : (keepUnfetched l n s).fab = s.fab := by
  unfold keepUnfetched
  split
  · exact modCore_fab
  · rfl

/-! ### The fault log, fencing and errors (R51, R66, R253) -/

theorem faultLogN_fab {fuel cyc kind die core cause taskId entry tepc info addr : Nat} {s : State} :
    (faultLogN fuel cyc kind die core cause taskId entry tepc info addr s).fab = s.fab := by
  induction fuel using Nat.strong_induction_on generalizing cyc kind die core cause taskId entry tepc info addr s with
  | _ fuel ih =>
    unfold faultLogN
    extract_lets f lost
    have hlost : lost.fab = s.fab := rfl
    refine fab_ite rfl (fab_ite hlost ?_)
    split
    · exact hlost
    · split
      · extract_lets s1
        have hs1 : s1.fab = s.fab := memWrite_fab
        exact fab_ite hs1 hs1
      · refine fab_ite hlost ?_
        split
        · exact hlost
        · extract_lets b
          split
          · exact hlost
          · split
            · exact hlost
            · exact fab_ite (ih _ (Nat.lt_succ_self _)) (ih _ (Nat.lt_succ_self _))

@[simp] theorem faultLog_fab {kind die core cause taskId entry tepc info addr : Nat} {s : State} :
    (faultLog kind die core cause taskId entry tepc info addr s).fab = s.fab := faultLogN_fab

@[simp] theorem classify_fab {a : Nat} {s : State} : (classify a s).fab = s.fab := by
  unfold classify
  extract_lets p
  split
  · exact faultLog_fab
  · exact fab_ite (faultLog_fab.trans (fab_ite rfl rfl)) faultLog_fab

@[simp] theorem fencePort_fab {p : Nat} {s : State} : (fencePort p s).fab = s.fab := faultLog_fab (s := fenceUnit (.port p) s)

/-! ### Coded blocks (R204–R208) -/

@[simp] theorem touchBlock_fab {i k : Nat} {install : Bool} {read dirty : Byte} {s : State} :
    (touchBlock i k install read dirty s).fab = s.fab := by
  unfold touchBlock
  extract_lets die ln line
  have hline : ∀ j s, (line j s).fab = s.fab := by
    intro j s
    unfold line
    extract_lets d r s1
    have hs1 : s1.fab = s.fab := fab_ite l2Line_fab (fab_ite l2Line_fab rfl)
    exact fab_ite (l2Line_fab.trans hs1) hs1
  rw [nextAccess_fab, hline, hline]

theorem fetchBlock_leavesFab (i k la : Nat) (s : State) : AccLeavesFab s (fun b => b.2.2) (fetchBlock i k la s) := by
  unfold fetchBlock
  split
  · rfl
  · extract_lets r a
    split
    · exact classify_fab
    · split
      · exact l2Touch_fab
      · exact l2Touch_fab

theorem codedEntry_leavesFab (a : Nat) (s : State) : AccLeavesFab s (fun _ => s) (codedEntry a s) := by
  unfold codedEntry
  split
  · exact classify_fab
  · split
    · rfl
    · rfl

theorem codedWrites_leavesFab (own : Bool) (ws : List (Nat × List Byte)) (s : State) :
    AccLeavesFab s id (codedWrites own ws s) := by
  unfold codedWrites
  extract_lets a
  split
  · next he => exact (he ▸ codedEntry_leavesFab a s :)
  · next i k _ =>
    extract_lets note
    have hnote : ∀ old u, (note old u).fab = u.fab := by
      intro old u
      unfold note
      split
      · rfl
      · rfl
    split
    · next s1 _ => exact touchBlock_fab.trans (show (putBlock _ s1).fab = _ from hnote _ _)
    · have hfetch := fetchBlock_leavesFab i k a s
      split
      · next he => exact (he ▸ hfetch :)
      · next b _ s1 he =>
        rw [he] at hfetch
        exact touchBlock_fab.trans (show (putBlock _ (note _ s1)).fab = _ from (hnote _ _).trans hfetch)

/-! ### Writes of other agents (R17, R96, R252) -/

@[simp] theorem agentUnit_fab {own : Bool} {pol : Nat} {u : WriteUnit} {s : State} : (agentUnit own pol u s).2.fab = s.fab := by
  unfold agentUnit
  extract_lets hit
  have hhit : ∀ t, (hit t).fab = t.fab := fun _ => fab_ite rfl rfl
  split
  · rfl
  · next w ws =>
    split
    · have hw := codedWrites_leavesFab false (w :: ws) s
      split
      · next he => exact (he ▸ hw :)
      · next he => exact (hhit _).trans (he ▸ hw :)
    · split
      · exact classify_fab
      · split
        · rfl
        · exact (hhit _).trans (fab_foldl (fun _ _ => memWrite_fab.trans keepUnfetched_fab) _ _)

/-- What holds after each write of the units of some runs holds after the writes of the runs. -/
theorem homeRuns_keeps {α : Type} {f : State → α} (hf : ∀ u s, f (agentUnit false 0 u s).2 = f s)
    (runs : List (Nat × List Byte)) (s : State) : f (homeRuns runs s).2 = f s := by
  unfold homeRuns
  suffices h : ∀ (l : List WriteUnit) (st : Bool × State), f (l.foldl (fun st u =>
      let r := agentUnit false 0 u st.2
      (st.1 && r.1, r.2)) st).2 = f st.2 from h _ _
  intro l
  induction l with
  | nil => exact fun _ => rfl
  | cons u l ih => exact fun st => (ih _).trans (hf u st.2)

@[simp] theorem homeRuns_fab {runs : List (Nat × List Byte)} {s : State} : (homeRuns runs s).2.fab = s.fab :=
  homeRuns_keeps (fun _ _ => agentUnit_fab) runs s

/-! ### The registers of the current core -/

theorem modCore_sreg {g : Nat} {f : Core → Core} (hf : ∀ c, (f c).sreg = c.sreg) (s : State) :
    (modCore g f s).core.sreg = s.core.sreg := by
  unfold modCore
  split
  · exact hf s.core
  · rfl

theorem sreg_of_coresOf {s t : State} (h : coresOf t = coresOf s) : t.core.sreg = s.core.sreg :=
  congrArg (fun x => x.2.1.sreg) h

@[simp] theorem keepUnfetched_sreg {l n : Nat} {s : State} : (keepUnfetched l n s).core.sreg = s.core.sreg := by
  unfold keepUnfetched
  split
  · next g _ =>
    extract_lets keep
    exact modCore_sreg (f := fun c => { c with unfetched := keep c.unfetched }) (fun _ => rfl) s
  · rfl

theorem foldl_sreg {ι : Type} {f : State → ι → State} (hf : ∀ s i, (f s i).core.sreg = s.core.sreg) (l : List ι) (s : State) :
    (l.foldl f s).core.sreg = s.core.sreg := by
  induction l generalizing s with
  | nil => rfl
  | cons i l ih => exact (ih _).trans (hf s i)

@[simp] theorem agentUnit_sreg {pol : Nat} {u : WriteUnit} {s : State} :
    (agentUnit false pol u s).2.core.sreg = s.core.sreg := by
  unfold agentUnit
  dsimp only
  split
  · rfl
  · next w ws =>
    split
    · have hw := codedWrites_leavesCores false (w :: ws) s
      split
      · next he => exact sreg_of_coresOf (he ▸ hw :)
      · next he => exact sreg_of_coresOf (he ▸ hw :)
    · split
      · exact sreg_of_coresOf (coresOf_classify ..)
      · split
        · rfl
        · exact foldl_sreg (fun _ _ => (sreg_of_coresOf (coresOf_memWrite ..)).trans keepUnfetched_sreg) _ _

@[simp] theorem homeRuns_sreg {runs : List (Nat × List Byte)} {s : State} : (homeRuns runs s).2.core.sreg = s.core.sreg :=
  homeRuns_keeps (f := fun t => t.core.sreg) (fun _ _ => agentUnit_sreg) runs s

@[simp] theorem coresOf_fencePort (p : Nat) (s : State) : coresOf (fencePort p s) = coresOf s :=
  (coresOf_faultLog ..).trans (coresOf_fenceUnit ..)

end Sys2Proof.Machine
end

section
/-! SUPPORT. The outcome of sent flits (R51, R52, R425) and the header of a slot (R35, R37, R39). -/

namespace Sys2Proof.Machine

variable {s : State}

/-- A state without what the outcome of a sent flit can change: the running commands of its cores, the messages and the
collectives that wait for it. -/
def flightless (s : State) : State :=
  { s with core := { s.core with running := [] }, others := [], colls := [], fab := { s.fab with sigs := [] } }

theorem flightless_modCore_running {g : Nat} {f : List Running → List Running} :
    flightless (modCore g (fun c => { c with running := f c.running }) s) = flightless s := by
  unfold modCore
  split
  · rfl
  · rfl

theorem flightless_finalFlit {x : SentFlit} {ok : Bool} {u : Nat} : flightless (finalFlit x ok u s) = flightless s := by
  unfold finalFlit
  extract_lets +onlyGivenNames s1 fab1 s2
  have h1 : flightless s1 = flightless s := by
    unfold s1
    split
    · exact flightless_modCore_running
    · rfl
  clear_value s1
  have h2 : flightless s2 = flightless s1 := by
    unfold s2
    split
    · rfl
    · rfl
  clear_value s2
  split
  · exact h2.trans h1
  · exact h2.trans h1

/-- What does not depend on those is equal where the rest is. -/
theorem eq_of_flightless {α : Type} {p : State → α} (hp : ∀ u, p (flightless u) = p u) {t : State}
    (h : flightless t = flightless s) : p t = p s := by
  rw [← hp t, h, hp s]

/-- R35, R37, R39, R53. What a header sets by itself, apart from the reports it carries. -/
def headerOf (s : State) : BitVec 8 × Nat × Bool × SMap Word32 × List Nat × SMap Word64 × Nat :=
  (s.fab.offs, s.fab.badOffs, s.fab.backIn, s.fab.ctr, s.fab.skewed, s.core.sreg, s.cyc)

theorem headerOf_fencePort {p : Nat} : headerOf (fencePort p s) = headerOf s := by
  unfold headerOf
  rw [fencePort_fab, sreg_of_coresOf (coresOf_fencePort p s), fencePort_cyc]

theorem headerOf_settle {m : Nat} {x : SentFlit} : headerOf (settle m x s) = headerOf s := by
  have hfinal : ∀ x ok u t, headerOf (finalFlit x ok u t) = headerOf t := fun _ _ _ _ =>
    eq_of_flightless (fun _ => rfl) flightless_finalFlit
  unfold settle
  extract_lets +onlyGivenNames u fab pass
  have hpass : headerOf pass = headerOf s := by
    unfold pass
    split
    · rfl
    · rfl
  clear_value pass
  split
  · exact (hfinal ..).trans hpass
  · split
    · exact (hfinal ..).trans hpass
    · split
      · split
        · exact (hfinal ..).trans hpass
        · exact hpass
      · refine (hfinal ..).trans ?_
        split
        · exact headerOf_fencePort.trans hpass
        · exact hpass
  · exact (hfinal ..).trans hpass

theorem headerOf_foldl_settle {m : Nat} {l : List SentFlit} :
    headerOf (l.foldl (fun s x => settle m x s) s) = headerOf s := by
  induction l generalizing s with
  | nil => rfl
  | cons x l ih => exact ih.trans headerOf_settle

end Sys2Proof.Machine
end

section
/-! SUPPORT. What a header sets (R35, R37, R39, R53). -/

namespace Sys2Proof.Machine

variable {s : State}

/-- R53. A counter of a port advances; it saturates. -/
def satInc (v : Word32) : Word32 := if v = BitVec.allOnes 32 then v else v + 1

theorem bumpPort_eq (p i : Nat) (s : State) : bumpPort p i s = { s with fab := { s.fab with
    ctr := mset 0 s.fab.ctr (8 * p + i) (satInc (mget 0 s.fab.ctr (8 * p + i))) } } := rfl

theorem bumpPort_counter (h : mwf 0 s.fab.ctr = true) (p i : Nat) :
    mget 0 (bumpPort p i s).fab.ctr (8 * p + i) = satInc (mget 0 s.fab.ctr (8 * p + i)) := by
  rw [bumpPort_eq]
  exact mget_mset_self h _ _

theorem bumpPort_counter_of_ne (h : mwf 0 s.fab.ctr = true) {p i k : Nat} (hk : k ≠ 8 * p + i) :
    mget 0 (bumpPort p i s).fab.ctr k = mget 0 s.fab.ctr k := by
  rw [bumpPort_eq]
  exact mget_mset_of_ne h hk _

theorem bumpPort_ctr_wf (h : mwf 0 s.fab.ctr = true) (p i : Nat) : mwf 0 (bumpPort p i s).fab.ctr = true := by
  rw [bumpPort_eq]
  exact mwf_mset h _ _

/-- R387. The record of a slot changes the records of slots alone. -/
theorem noteSlot_eq (p n : Nat) (s : State) :
    noteSlot p n s = { s with fab := { s.fab with rx := (noteSlot p n s).fab.rx } } := by
  unfold noteSlot
  split
  · rfl
  · rfl

/-- R39, R53. What a header's skew changes. -/
def noteSkew (p n : Nat) (sk : Int) (s : State) : State :=
  if sk < -3 ∨ 3 < sk then
    let t := bumpPort p 4 s
    { t with fab := { t.fab with skewed := (t.fab.skewed.filter fun k => decide (n ≤ k / 32 + 8)) ++ [n * 32 + p] } }
  else s

theorem exec_slotHeaderReceive {p n : Nat} {sk : Int} {r : PtpReading} {st : List FlitStatus}
    {late : List (Nat × Nat × FlitStatus)} (hp : p < 32) (hm : s.maps.port.getLsbD p = true) :
    ∃ t, exec (.slotHeaderReceive p n sk r st late) s = .next t
      ∧ headerOf t = headerOf (noteSkew p n sk (noteSlot p n (noteOffset p r s))) :=
  ⟨_, if_neg (by simp [hm]; omega), headerOf_foldl_settle.trans rfl⟩

theorem noteOffset_header (p : Nat) (e : PtpEvent) (o : BitVec 8) (s : State) :
    let mine := s.fab.parent = some p ∧ e.domain = s.boot.domain
    headerOf (noteOffset p ⟨e, o⟩ s) = (if mine then o else s.fab.offs,
      if mine then (if o.toInt < -2 ∨ 2 < o.toInt then s.fab.badOffs + 1 else 0) else s.fab.badOffs,
      if mine then s.fab.hold && (s.fab.backIn || (decide (-1 ≤ o.toInt) && decide (o.toInt ≤ 1))) else s.fab.backIn,
      s.fab.ctr, s.fab.skewed, s.core.sreg, s.cyc) := by
  intro mine
  unfold noteOffset
  by_cases h : mine
  · rw [if_pos h, if_pos h, if_pos h]
    exact if_pos h ▸ rfl
  · rw [if_neg h, if_neg h, if_neg h]
    exact if_neg h ▸ rfl

theorem headerOf_noteSlot {p n : Nat} : headerOf (noteSlot p n s) = headerOf s := by
  rw [noteSlot_eq]
  rfl

/-- The counter of skewed headers, and the slots that arrived skewed. -/
theorem noteSkew_header {p n : Nat} {sk : Int} (hw : mwf 0 s.fab.ctr = true) :
    ∃ C K, headerOf (noteSkew p n sk s) = (s.fab.offs, s.fab.badOffs, s.fab.backIn, C, K, s.core.sreg, s.cyc)
      ∧ mget 0 C (8 * p + 4) = (if sk < -3 ∨ 3 < sk then satInc (mget 0 s.fab.ctr (8 * p + 4)) else mget 0 s.fab.ctr (8 * p + 4))
      ∧ (sk < -3 ∨ 3 < sk → n * 32 + p ∈ K) := by
  unfold noteSkew
  by_cases h : sk < -3 ∨ 3 < sk
  · rw [if_pos h, if_pos h]
    exact ⟨_, _, rfl, bumpPort_counter hw p 4, fun _ => List.mem_append_right _ List.mem_cons_self⟩
  · rw [if_neg h, if_neg h]
    exact ⟨_, _, rfl, rfl, fun hs => absurd hs h⟩

/-- R35, R37, R39, R53. -/
theorem slotHeaderReceive_completes (hw : mwf 0 s.fab.ctr = true) {p n : Nat} {sk : Int} {e : PtpEvent} {o : BitVec 8}
    {st : List FlitStatus} {late : List (Nat × Nat × FlitStatus)} (hp : p < 32) (hm : s.maps.port.getLsbD p = true) :
    let mine := s.fab.parent = some p ∧ e.domain = s.boot.domain
    Completes (.slotHeaderReceive p n sk ⟨e, o⟩ st late) s fun t =>
      t.fab.offs = (if mine then o else s.fab.offs) ∧ t.core.sreg = s.core.sreg ∧ t.cyc = s.cyc
      ∧ t.fab.badOffs = (if mine then (if o.toInt < -2 ∨ 2 < o.toInt then s.fab.badOffs + 1 else 0) else s.fab.badOffs)
      ∧ (mine → s.fab.hold = true → -1 ≤ o.toInt → o.toInt ≤ 1 → t.fab.backIn = true)
      ∧ mget 0 t.fab.ctr (8 * p + 4) =
          (if sk < -3 ∨ 3 < sk then satInc (mget 0 s.fab.ctr (8 * p + 4)) else mget 0 s.fab.ctr (8 * p + 4))
      ∧ (sk < -3 ∨ 3 < sk → n * 32 + p ∈ t.fab.skewed) := by
  intro mine
  have hoff : headerOf (noteSlot p n (noteOffset p ⟨e, o⟩ s)) = _ := headerOf_noteSlot.trans (noteOffset_header p e o s)
  obtain ⟨t, ht, hh⟩ := exec_slotHeaderReceive (n := n) (sk := sk) (r := ⟨e, o⟩) (st := st) (late := late) hp hm
  generalize noteSlot p n (noteOffset p ⟨e, o⟩ s) = u at hoff hh
  simp only [headerOf, Prod.mk.injEq] at hoff
  obtain ⟨ho, hbad, hback, hctr, hskew, hreg, hcyc⟩ := hoff
  obtain ⟨C, K, hu, hC, hK⟩ := noteSkew_header (s := u) (p := p) (n := n) (sk := sk) (hctr ▸ hw)
  rw [hu] at hh
  simp only [headerOf, Prod.mk.injEq] at hh
  obtain ⟨toffs, tbad, tback, rfl, rfl, treg, tcyc⟩ := hh
  refine ⟨t, ht, toffs.trans ho, treg.trans hreg, tcyc.trans hcyc, tbad.trans hbad, ?_, hctr ▸ hC, hK⟩
  intro hmine hhold hlo hhi
  rw [tback, hback, if_pos hmine, hhold, decide_eq_true hlo, decide_eq_true hhi]
  simp

end Sys2Proof.Machine
end

section
/-! SUPPORT. Writes and reads of another module inside one sector (R17, R47, R96, R252). -/

namespace Sys2Proof.Machine

variable {s : State} {a : Nat} {bs : List Byte}

/-- A write inside one sector lies in one unit: the sector, or a row of instruction text. -/
theorem unitBase_covers (hc : place a ≠ .coded) {n : Nat} (h : a % 16 + n ≤ 16) :
    n ≤ (unitBase a).1 + (unitBase a).2 - a := by
  have hsector : n ≤ (granule a).1 + (granule a).2 - a := by
    unfold granule
    rw [if_neg hc]
    omega
  unfold unitBase
  split
  · next g _ =>
    extract_lets o
    split
    · have hb : textBase g % 16 = 0 := by
        unfold textBase
        omega
      dsimp only
      omega
    · exact hsector
  · exact hsector

theorem cutUnits_nil (n a : Nat) : cutUnits n a [] = [] := by
  cases n with
  | zero => rfl
  | succ n => rfl

theorem cutUnits_single (hc : place a ≠ .coded) (hpos : 0 < bs.length) (h : a % 16 + bs.length ≤ 16) (n : Nat) :
    cutUnits (n + 1) a bs = [(a, bs)] := by
  have hk := unitBase_covers hc h
  cases bs with
  | nil => exact absurd hpos (Nat.lt_irrefl 0)
  | cons b bs =>
    unfold cutUnits
    dsimp only
    rw [List.take_of_length_le hk, List.drop_of_length_le hk, cutUnits_nil]

theorem groupUnits_single (hc : place a ≠ .coded) (hpos : 0 < bs.length) (h : a % 16 + bs.length ≤ 16) :
    groupUnits [(a, bs)] = [[(a, bs)]] := by
  unfold groupUnits cutAll
  rw [List.flatMap_singleton, cutUnits_single hc hpos h]
  rfl

/-! ### Which bytes such a write changes -/

theorem mem_ite {p : Prop} {_ : Decidable p} {t u v : State} (ht : t.mem = v.mem) (hu : u.mem = v.mem) :
    (if p then t else u).mem = v.mem := by
  split
  · exact ht
  · exact hu

theorem mem_foldl {ι : Type} {f : State → ι → State} (hf : ∀ s i, (f s i).mem = s.mem) (l : List ι) (s : State) :
    (l.foldl f s).mem = s.mem := by
  induction l generalizing s with
  | nil => rfl
  | cons i l ih => exact (ih _).trans (hf s i)

@[simp] theorem l2Drop_mem {die line : Nat} : (l2Drop die line s).mem = s.mem := by
  unfold l2Drop
  extract_lets k x
  split
  · rfl
  · rfl

@[simp] theorem l2Line_mem {pol : Nat} {wr : Bool} {die line : Nat} {mask : BitVec 4} {s : State} :
    (l2Line pol wr die line mask s).mem = s.mem := by
  unfold l2Line
  extract_lets k x ws put d
  have hput : ∀ w l s, (put w l s).mem = s.mem := fun _ _ _ => rfl
  have htwin : ∀ line s, (l2Twin die line s).mem = s.mem := fun _ _ => mem_ite l2Drop_mem rfl
  split
  · exact hput ..
  · split
    · rfl
    · split
      · exact hput ..
      · rw [hput, htwin]
        exact mem_ite rfl rfl

@[simp] theorem l2Touch_mem {pol : Nat} {wr : Bool} {n : Nat} : (l2Touch pol wr a n s).mem = s.mem := by
  have hnext : ∀ t : State, (nextAccess t).mem = t.mem := fun _ => mem_ite rfl rfl
  unfold l2Touch
  rw [hnext]
  exact mem_ite rfl (mem_foldl (fun _ _ => l2Line_mem) _ _)

@[simp] theorem memWrite_mem {pol : Nat} : (memWrite pol a bs s).mem = s.mem.writeBytes a bs :=
  congrArg (fun m : Memory => m.writeBytes a bs) (l2Touch_mem (s := s) (pol := pol) (wr := true) (a := a) (n := bs.length))

@[simp] theorem modCore_mem {g : Nat} {f : Core → Core} : (modCore g f s).mem = s.mem := mem_ite rfl rfl

@[simp] theorem keepUnfetched_mem {n : Nat} : (keepUnfetched a n s).mem = s.mem := by
  unfold keepUnfetched
  split
  · exact modCore_mem
  · rfl

theorem foldl_memWrite_mem (u : WriteUnit) (s : State) :
    (u.foldl (fun s w => memWrite 0 w.1 w.2 (keepUnfetched w.1 w.2.length s)) s).mem
      = u.foldl (fun m w => m.writeBytes w.1 w.2) s.mem := by
  induction u generalizing s with
  | nil => rfl
  | cons w u ih => rw [List.foldl_cons, ih, memWrite_mem, keepUnfetched_mem, List.foldl_cons]

/-- The bytes that a unit of plain storage changes. -/
theorem agentUnit_stores {u : WriteUnit} (h : ∀ w ∈ u, place w.1 ≠ .coded ∧ Writable s w.1 w.2.length) :
    ∃ t, agentUnit false 0 u s = (true, t) ∧ t.mem = u.foldl (fun m w => m.writeBytes w.1 w.2) s.mem := by
  cases u with
  | nil => exact ⟨s, rfl, rfl⟩
  | cons w ws =>
    have hbad : (w :: ws).findSome? (fun w => badAddr s w.1 w.2.length) = none :=
      List.findSome?_eq_none_iff.2 fun x hx => (h x hx).2.1.2
    have htext : ((w :: ws).any fun w => (textRefused s w.1 w.2.length).isSome) = false := by
      rw [List.any_eq_false]
      intro x hx
      rw [(h x hx).2.2]
      exact Bool.false_ne_true
    refine ⟨_, ?_, foldl_memWrite_mem (w :: ws) s⟩
    unfold agentUnit
    dsimp only
    rw [if_neg (h w List.mem_cons_self).1, hbad, htext]
    rfl

theorem storedBytes_writeBytes {m : Memory} (hm : m.wf = true) : StoredBytes m (m.writeBytes a bs) a bs :=
  ⟨fun _ hi => Memory.read_writeBytes_in hm hi,
    fun _ hx => Memory.read_writeBytes_out hm hx⟩

/-- R17, R96. A write of another module inside one sector of plain storage. -/
theorem homeUnit_stores (hm : s.memOk) (hw : Writable s a bs.length) :
    ∃ t, homeUnit (a, bs) s = (true, t) ∧ StoredBytes s.mem t.mem a bs := by
  obtain ⟨t, ht, hmem⟩ := agentUnit_stores (s := s) (u := [(a, bs)]) (by simpa using ⟨hw.1.1, hw⟩)
  exact ⟨t, ht, hmem ▸ storedBytes_writeBytes hm⟩

theorem homeRuns_stores (hm : s.memOk) (hw : Writable s a bs.length) (hpos : 0 < bs.length) (h : a % 16 + bs.length ≤ 16) :
    ∃ t, homeRuns [(a, bs)] s = (true, t) ∧ StoredBytes s.mem t.mem a bs := by
  obtain ⟨t, ht, hmem⟩ := homeUnit_stores hm hw
  refine ⟨t, ?_, hmem⟩
  unfold homeRuns
  rw [groupUnits_single hw.1.1 hpos h]
  unfold homeUnit at ht
  simp [ht]

/-- R47. A read of another module inside one sector of plain storage. -/
theorem homeRead_stored {n : Nat} (hs : Stored s a n) (hpos : 0 < n) (h : a % 16 + n ≤ 16) :
    homeRead a n s = (true, s.mem.readBytes a n, l2Touch 0 false a n s) := by
  have hpieces : pieces128 a n = [(a, n)] := by
    have hmin : Nat.min n (128 - a % 128) = n := Nat.min_eq_left (by omega)
    have hdiv : n / 128 + 2 = n / 128 + 1 + 1 := rfl
    unfold pieces128
    rw [hdiv, pieces128Aux, if_neg (by omega), hmin]
    simp [pieces128Aux]
  have hread : devRead1 0 a n s = .ok (s.mem.readBytes a n, l2Touch 0 false a n s) := by
    unfold devRead1
    rw [if_neg hs.1, hs.2]
  unfold homeRead devRead
  rw [hpieces]
  unfold devReads
  dsimp only
  rw [hread]
  simp [devReads]

end Sys2Proof.Machine
end

section
/-! SUPPORT. What the arrival of a flit changes (R42, R50–R53, R69). -/

namespace Sys2Proof.Machine

variable {s : State}

/-- R50, R53, R69. What the arrival of a flit of any status changes: the counter of FEC, the record of its slot, the injections
that hit it, its status. -/
def noteFlit (f : Flit) (s : State) : State :=
  let t := noteSlot f.port f.slot (if f.fec then bumpPort f.port 0 s else s)
  let met := fun (x : FinjSlot) =>
    if x.port = f.port ∧ x.flit = f.idx ∧ x.slot = f.slot ∧ !f.replay then { x with hit := true } else x
  { t with
    finj := { t.finj with live := t.finj.live.map met }
    fab := { t.fab with rxStat := t.fab.rxStat ++ [(f.port, f.slot, f.idx, arrivalStatus s f)] } }

/-- R51. A flit that fails where it was sent again fences its port. -/
def fencesPort (s : State) (f : Flit) : Prop := arrivalStatus s f = .unc ∧ f.replay = true ∧ f.marked = false

theorem noteArrival_unc {f : Flit} (h : arrivalStatus s f = .unc) : noteArrival f s =
    if f.replay && !f.marked then fencePort f.port (bumpPort f.port 3 (bumpPort f.port 1 (noteFlit f s)))
    else bumpPort f.port 1 (noteFlit f s) := by
  unfold noteArrival noteFlit
  rw [h]

theorem noteArrival_stale {f : Flit} (h : arrivalStatus s f = .stale) : noteArrival f s =
    { noteFlit f s with fab := { (noteFlit f s).fab with gstale := satInc (noteFlit f s).fab.gstale } } := by
  unfold noteArrival noteFlit
  rw [h]
  rfl

theorem noteArrival_ok {f : Flit} (h : arrivalStatus s f = .ok) :
    noteArrival f s = if f.replay then bumpPort f.port 2 (noteFlit f s) else noteFlit f s := by
  unfold noteArrival noteFlit
  rw [h]

/-- R387. The records of slots, the last four of each port. -/
def recordSlot (p n : Nat) (rx : List RxSlot) : List RxSlot :=
  if rx.any fun r => decide (r.port = p) && decide (r.slot = n) then rx
  else
    let mine := (rx.filter fun r => decide (r.port = p)) ++ [⟨p, n, []⟩]
    let newer := fun (r : RxSlot) => (mine.filter fun q => decide (r.slot < q.slot)).length
    (rx.filter fun r => !decide (r.port = p)) ++ mine.filter fun r => decide (newer r < 4)

theorem noteSlot_rx (p n : Nat) (s : State) : (noteSlot p n s).fab.rx = recordSlot p n s.fab.rx := by
  unfold noteSlot recordSlot
  split
  · rfl
  · rfl

/-- A port's first record. -/
theorem mem_recordSlot {p n : Nat} {rx : List RxSlot} (h : ∀ r ∈ rx, r.port ≠ p) : ⟨p, n, []⟩ ∈ recordSlot p n rx := by
  have hany : ¬(rx.any fun r => decide (r.port = p) && decide (r.slot = n)) = true := by
    rw [List.any_eq_true]
    rintro ⟨r, hr, hp⟩
    exact h r hr (of_decide_eq_true (Bool.and_eq_true_iff.1 hp).1)
  have hmine : rx.filter (fun r => decide (r.port = p)) = [] := List.filter_eq_nil_iff.2 fun r hr => by simpa using h r hr
  unfold recordSlot
  rw [if_neg hany, hmine]
  refine List.mem_append_right _ (List.mem_filter.2 ⟨List.mem_cons_self, ?_⟩)
  simp

/-- The record of the slot stands, the counters of the port are open. -/
theorem noteFlit_eq (f : Flit) (s : State) : ∃ J, noteFlit f s = { s with finj := J, fab := { s.fab with
    rx := (noteSlot f.port f.slot s).fab.rx
    ctr := if f.fec then (bumpPort f.port 0 s).fab.ctr else s.fab.ctr
    rxStat := s.fab.rxStat ++ [(f.port, f.slot, f.idx, arrivalStatus s f)] } } := by
  have hslot : noteSlot f.port f.slot (if f.fec then bumpPort f.port 0 s else s) = { s with fab := { s.fab with
      rx := (noteSlot f.port f.slot s).fab.rx
      ctr := if f.fec then (bumpPort f.port 0 s).fab.ctr else s.fab.ctr } } := by
    have hbump : (noteSlot f.port f.slot (bumpPort f.port 0 s)).fab.rx = (noteSlot f.port f.slot s).fab.rx := by
      rw [noteSlot_rx, noteSlot_rx]
      rfl
    by_cases hf : f.fec
    · rw [if_pos hf, if_pos hf, noteSlot_eq, hbump, bumpPort_eq]
    · rw [if_neg hf, if_neg hf, noteSlot_eq]
  unfold noteFlit
  rw [hslot]
  exact ⟨_, rfl⟩

/-- R42, R50, R53. What an arrival leaves of the fabric's state, whatever its status. -/
theorem noteArrival_fab (f : Flit) (s : State) : ∃ C G, (noteArrival f s).fab = { s.fab with
    rx := (noteSlot f.port f.slot s).fab.rx, ctr := C, gstale := G
    rxStat := s.fab.rxStat ++ [(f.port, f.slot, f.idx, arrivalStatus s f)] } := by
  obtain ⟨J, hJ⟩ := noteFlit_eq f s
  cases h : arrivalStatus s f with
  | unc =>
    rw [noteArrival_unc h, hJ, h]
    split
    · rw [fencePort_fab]
      exact ⟨_, _, rfl⟩
    · exact ⟨_, _, rfl⟩
  | stale =>
    rw [noteArrival_stale h, hJ, h]
    exact ⟨_, _, rfl⟩
  | ok =>
    rw [noteArrival_ok h, hJ, h]
    split
    · exact ⟨_, _, rfl⟩
    · exact ⟨_, _, rfl⟩

/-- An arrival that fences no port changes the fabric and the injections alone. -/
theorem noteArrival_eq {f : Flit} (hf : ¬fencesPort s f) :
    ∃ J, noteArrival f s = { s with finj := J, fab := (noteArrival f s).fab } := by
  obtain ⟨J, hJ⟩ := noteFlit_eq f s
  cases h : arrivalStatus s f with
  | unc =>
    have hr : (f.replay && !f.marked) = false := by
      cases hr : f.replay with
      | false => rfl
      | true =>
        cases hm : f.marked with
        | true => rfl
        | false => exact absurd ⟨h, hr, hm⟩ hf
    rw [noteArrival_unc h, hJ, hr]
    exact ⟨_, rfl⟩
  | stale =>
    rw [noteArrival_stale h, hJ]
    exact ⟨_, rfl⟩
  | ok =>
    rw [noteArrival_ok h, hJ]
    split
    · exact ⟨_, rfl⟩
    · exact ⟨_, rfl⟩

theorem coresOf_noteArrival (f : Flit) (s : State) : coresOf (noteArrival f s) = coresOf s := by
  obtain ⟨J, hJ⟩ := noteFlit_eq f s
  by_cases hf : fencesPort s f
  · obtain ⟨hst, hr, hm⟩ := hf
    rw [noteArrival_unc hst, hr, hm, hJ]
    exact (coresOf_fencePort ..).trans rfl
  · obtain ⟨J, hJ⟩ := noteArrival_eq hf
    rw [hJ]
    rfl

/-- R53. The counter of uncorrectable flits. -/
theorem noteArrival_unc_counter (hw : mwf 0 s.fab.ctr = true) {f : Flit} (h : arrivalStatus s f = .unc) (hr : f.replay = false) :
    mget 0 (noteArrival f s).fab.ctr (8 * f.port + 1) = satInc (mget 0 s.fab.ctr (8 * f.port + 1)) := by
  obtain ⟨J, hJ⟩ := noteFlit_eq f s
  have hctr : (noteFlit f s).fab.ctr = if f.fec then (bumpPort f.port 0 s).fab.ctr else s.fab.ctr := by rw [hJ]
  have hnoted : mwf 0 (noteFlit f s).fab.ctr = true
      ∧ mget 0 (noteFlit f s).fab.ctr (8 * f.port + 1) = mget 0 s.fab.ctr (8 * f.port + 1) := by
    rw [hctr]
    split
    · exact ⟨bumpPort_ctr_wf hw f.port 0, bumpPort_counter_of_ne hw (by omega)⟩
    · exact ⟨hw, rfl⟩
  rw [noteArrival_unc h, hr, Bool.false_and, if_neg Bool.false_ne_true, bumpPort_counter hnoted.1, hnoted.2]

theorem noteArrival_stale_counter {f : Flit} (h : arrivalStatus s f = .stale) :
    (noteArrival f s).fab.gstale = satInc s.fab.gstale := by
  obtain ⟨J, hJ⟩ := noteFlit_eq f s
  rw [noteArrival_stale h, hJ]

/-- R46. The hypotheses of an arrival's event. -/
theorem mayArrive_of {here : Bool} {n : Nat} (hlo : 88 * n ≤ s.cyc + 3) (hhi : s.cyc ≤ 88 * (n + 1) + 24)
    (hin : here = true → s.fab.seenSlot ≤ n) (hout : here = false → s.cyc ≤ 88 * (n + 1)) : mayArrive here n s = true := by
  have hwin : inWindow s n = true := by
    unfold inWindow visCyc
    rw [decide_eq_true hlo, decide_eq_true hhi]
    rfl
  unfold mayArrive
  rw [hwin, Bool.true_and]
  cases here with
  | true => exact decide_eq_true (hin rfl)
  | false => exact decide_eq_true (hout rfl)

end Sys2Proof.Machine
end

section
/-! SUPPORT. FLIT_RECEIVE (R42, R45, R46, R50, R51, R387). -/

namespace Sys2Proof.Machine

variable {s : State} {f : Flit}

/-- R387. A SEND flit that is for this module is kept. -/
def keepArrived (f : Flit) (st : FlitStatus) (s : State) : State :=
  match f.body with
  | .send data => keepSend f st data s
  | _ => s

theorem keepArrived_eq (f : Flit) (st : FlitStatus) (s : State) :
    keepArrived f st s = { s with fab := { s.fab with rx := (keepArrived f st s).fab.rx } } := by
  unfold keepArrived
  cases f.body <;> rfl

theorem keepArrived_rx {st : FlitStatus} {data : List Byte} (hb : f.body = .send data) (hr : f.replay = false)
    (hslot : ⟨f.port, f.slot, []⟩ ∈ s.fab.rx) :
    ∃ r ∈ (keepArrived f st s).fab.rx, r.port = f.port ∧ r.slot = f.slot
      ∧ ⟨f.idx, f.src, f.sport, f.orig, f.oidx, st, data⟩ ∈ r.flits := by
  unfold keepArrived
  rw [hb]
  refine ⟨_, List.mem_map_of_mem hslot, ?_⟩
  simp [hr]

/-- What the taking of an arrival's contents leaves of the fabric, and of the current core. -/
def arrivedOf (s : State) : List (Nat × Nat × Nat × FlitStatus) × Nat × List RxSlot × SMap Word32 × Word32 × SMap Word64 :=
  (s.fab.rxStat, s.fab.seenSlot, s.fab.rx, s.fab.ctr, s.fab.gstale, s.core.sreg)

theorem arrivedOf_homeRuns {runs : List (Nat × List Byte)} : arrivedOf (homeRuns runs s).2 = arrivedOf s := by
  unfold arrivedOf
  rw [homeRuns_fab, homeRuns_sreg]

/-- R124. Tagging changes the tags of frames, and the count of flits written to each. -/
theorem noteFrames_eq (src : Nat) (runs : List (Nat × List Byte)) (t : FrameTags) (s : State) :
    ∃ T X, noteFrames src runs t s = { s with frameTag := T, fab := { s.fab with rxFrames := X } } := by
  unfold noteFrames
  generalize t.frames.filter _ = l
  induction l generalizing s with
  | nil => exact ⟨_, _, rfl⟩
  | cons x l ih =>
    rw [List.foldl_cons]
    obtain ⟨T, X, h⟩ := ih _
    rw [h]
    dsimp only
    split
    · exact ⟨_, _, rfl⟩
    · exact ⟨_, _, rfl⟩

theorem arrivedOf_noteFrames {src : Nat} {runs : List (Nat × List Byte)} {t : FrameTags} :
    arrivedOf (noteFrames src runs t s) = arrivedOf s := by
  obtain ⟨T, X, h⟩ := noteFrames_eq src runs t s
  rw [h]
  rfl

theorem arrivedOf_hearColl {p src : Nat} {ws : List Word64} : arrivedOf (hearColl p src ws s) = arrivedOf s := by
  unfold hearColl
  extract_lets dies
  split
  · rfl
  · rfl

theorem arrivedOf_deliver : arrivedOf (deliver f s) = arrivedOf s := by
  unfold deliver
  split
  · extract_lets r
    split
    · split
      · exact arrivedOf_noteFrames.trans arrivedOf_homeRuns
      · exact arrivedOf_homeRuns
    · exact arrivedOf_homeRuns
  · extract_lets r
    split
    · exact (show arrivedOf (modRxSig f _ r.2) = arrivedOf r.2 from rfl).trans arrivedOf_homeRuns
    · exact arrivedOf_homeRuns
  · rfl
  · exact arrivedOf_hearColl
  · rfl

theorem noteFrames_mem {src : Nat} {runs : List (Nat × List Byte)} {t : FrameTags} :
    (noteFrames src runs t s).mem = s.mem := by
  obtain ⟨T, X, h⟩ := noteFrames_eq src runs t s
  rw [h]

/-- R46, R252. A delivered copy of one run inside a sector is stored. -/
theorem deliver_copy_stores {a : Nat} {bs : List Byte} {tags : Option FrameTags} (hm : s.memOk)
    (hb : f.body = .copy [(a, bs)] tags) (hpos : 0 < bs.length) (h : a % 16 + bs.length ≤ 16) (hw : Writable s a bs.length) :
    StoredBytes s.mem (deliver f s).mem a bs := by
  obtain ⟨t, ht, hst⟩ := homeRuns_stores hm hw hpos h
  unfold deliver
  rw [hb]
  dsimp only
  rw [ht]
  cases tags with
  | none => exact hst
  | some g => exact noteFrames_mem (s := t) ▸ hst

/-! ### The event -/

/-- A flit that is for this module, after its arrival is noted. -/
def seenFlit (f : Flit) (s : State) : State := noteVisible f.slot (keepArrived f (arrivalStatus s f) (noteArrival f s))

theorem exec_flitReceive_here (hp : f.port < 32) (hm : s.maps.port.getLsbD f.port = true) (hserv : isServ f = false)
    (hmay : mayArrive true f.slot s = true) (here : f.dst = s.fab.id.toNat) :
    exec (.flitReceive f) s = .next (if arrivalStatus s f = .ok then deliver f (seenFlit f s) else seenFlit f s) := by
  change execFlitReceive f s = _
  unfold execFlitReceive
  rw [decide_eq_true here, if_neg (by simp [hm, hserv, hmay]; omega)]
  rfl

theorem exec_flitReceive_away (hp : f.port < 32) (hm : s.maps.port.getLsbD f.port = true) (hserv : isServ f = false)
    (hmay : mayArrive false f.slot s = true) (haway : f.dst ≠ s.fab.id.toNat) :
    exec (.flitReceive f) s = .next (if arrivalStatus s f = .stale then noteArrival f s
      else { noteArrival f s with fab := { (noteArrival f s).fab with
        held := (noteArrival f s).fab.held ++ [{ f with marked := decide (arrivalStatus s f = .unc), bad := false }] } }) := by
  change execFlitReceive f s = _
  unfold execFlitReceive
  rw [decide_eq_false haway, if_neg (by simp [hm, hserv, hmay]; omega)]
  cases f.body <;> rfl

/-- What a flit's arrival and keeping leave: everything but the fabric, where no port is fenced. -/
theorem seenFlit_eq (hf : ¬fencesPort s f) : ∃ J F, seenFlit f s = { s with finj := J, fab := F } := by
  obtain ⟨J, hJ⟩ := noteArrival_eq hf
  unfold seenFlit
  rw [keepArrived_eq, hJ]
  exact ⟨_, _, rfl⟩

theorem arrivedOf_seenFlit (f : Flit) (s : State) : arrivedOf (seenFlit f s) =
    (s.fab.rxStat ++ [(f.port, f.slot, f.idx, arrivalStatus s f)], f.slot,
      (keepArrived f (arrivalStatus s f) (noteArrival f s)).fab.rx, (noteArrival f s).fab.ctr, (noteArrival f s).fab.gstale,
      s.core.sreg) := by
  obtain ⟨C, G, hF⟩ := noteArrival_fab f s
  have hreg : (noteArrival f s).core.sreg = s.core.sreg := sreg_of_coresOf (coresOf_noteArrival f s)
  unfold seenFlit
  rw [keepArrived_eq]
  unfold arrivedOf noteVisible
  dsimp only
  rw [hreg, hF]

theorem not_fencesPort_of_stale (h : arrivalStatus s f = .stale) : ¬fencesPort s f := fun hf => nomatch h ▸ hf.1

theorem not_fencesPort_of_first (h : f.replay = false) : ¬fencesPort s f := fun hf => nomatch h ▸ hf.2.1

theorem not_fencesPort_of_ok (h : arrivalStatus s f = .ok) : ¬fencesPort s f := fun hf => by
  exact nomatch h ▸ hf.1

end Sys2Proof.Machine
end
section
/-! SUPPORT. The clauses of FLIT_RECEIVE. -/

namespace Sys2Proof.Machine

variable {s : State} {f : Flit}

/-- R42, R45, R46, R387. A flit that is for this module. -/
theorem flitReceive_here (hw : mwf 0 s.fab.ctr = true) (hok : s.memOk) (hp : f.port < 32)
    (hm : s.maps.port.getLsbD f.port = true) (hserv : isServ f = false) (hmay : mayArrive true f.slot s = true)
    (here : f.dst = s.fab.id.toNat) :
    let st := arrivalStatus s f
    Completes (.flitReceive f) s fun t =>
      t.fab.rxStat = s.fab.rxStat ++ [(f.port, f.slot, f.idx, st)] ∧ t.core.sreg = s.core.sreg
      ∧ (st = .unc → f.replay = false →
        mget 0 t.fab.ctr (8 * f.port + 1) = satInc (mget 0 s.fab.ctr (8 * f.port + 1)) ∧ t.mem = s.mem)
      ∧ (st = .stale → t.fab.gstale = satInc s.fab.gstale ∧ t.mem = s.mem)
      ∧ t.fab.seenSlot = f.slot
      ∧ (∀ a bs tags, st = .ok → f.body = .copy [(a, bs)] tags → 0 < bs.length → a % 16 + bs.length ≤ 16 →
          Writable s a bs.length → StoredBytes s.mem t.mem a bs)
      ∧ (∀ data, f.body = .send data → f.replay = false → (∀ r ∈ s.fab.rx, r.port ≠ f.port) →
          ∃ r ∈ t.fab.rx, r.port = f.port ∧ r.slot = f.slot ∧ ⟨f.idx, f.src, f.sport, f.orig, f.oidx, st, data⟩ ∈ r.flits) := by
  intro st
  refine ⟨_, exec_flitReceive_here hp hm hserv hmay here, ?_⟩
  have hview : arrivedOf (if st = .ok then deliver f (seenFlit f s) else seenFlit f s) = arrivedOf (seenFlit f s) := by
    split
    · exact arrivedOf_deliver
    · rfl
  have hmem : st ≠ .ok → ¬fencesPort s f → (if st = .ok then deliver f (seenFlit f s) else seenFlit f s).mem = s.mem := by
    intro hst hf
    obtain ⟨J, F, hJ⟩ := seenFlit_eq hf
    rw [if_neg hst, hJ]
  have hcopy : ∀ a bs tags, st = .ok → f.body = .copy [(a, bs)] tags → 0 < bs.length → a % 16 + bs.length ≤ 16 →
      Writable s a bs.length →
      StoredBytes s.mem (if st = .ok then deliver f (seenFlit f s) else seenFlit f s).mem a bs := by
    intro a bs tags hst hb hpos hin hwr
    obtain ⟨J, F, hJ⟩ := seenFlit_eq (not_fencesPort_of_ok hst)
    rw [if_pos hst, hJ]
    exact deliver_copy_stores (s := { s with finj := J, fab := F }) hok hb hpos hin hwr
  generalize (if st = .ok then deliver f (seenFlit f s) else seenFlit f s) = t at hview hmem hcopy
  rw [arrivedOf_seenFlit] at hview
  unfold arrivedOf at hview
  simp only [Prod.mk.injEq] at hview
  obtain ⟨hstat, hseen, hrx, hctr, hstale, hreg⟩ := hview
  refine ⟨hstat, hreg, fun hst hr => ⟨?_, hmem (fun h => nomatch hst.symm.trans h) (not_fencesPort_of_first hr)⟩,
    fun hst => ⟨hstale.trans (noteArrival_stale_counter hst),
      hmem (fun h => nomatch hst.symm.trans h) (not_fencesPort_of_stale hst)⟩,
    hseen, hcopy, ?_⟩
  · rw [hctr, noteArrival_unc_counter hw hst hr]
  · intro data hb hr hnone
    obtain ⟨C, G, hF⟩ := noteArrival_fab f s
    rw [hrx]
    refine keepArrived_rx hb hr ?_
    rw [hF]
    exact noteSlot_rx f.port f.slot s ▸ mem_recordSlot hnone

/-- R42, R45, R50, R51. A flit that is for another module. -/
theorem flitReceive_away (hw : mwf 0 s.fab.ctr = true) (hp : f.port < 32) (hm : s.maps.port.getLsbD f.port = true)
    (hserv : isServ f = false) (hmay : mayArrive false f.slot s = true) (haway : f.dst ≠ s.fab.id.toNat) :
    let st := arrivalStatus s f
    Completes (.flitReceive f) s fun t =>
      t.fab.rxStat = s.fab.rxStat ++ [(f.port, f.slot, f.idx, st)] ∧ t.core.sreg = s.core.sreg
      ∧ (st = .unc → f.replay = false →
        mget 0 t.fab.ctr (8 * f.port + 1) = satInc (mget 0 s.fab.ctr (8 * f.port + 1)) ∧ t.mem = s.mem)
      ∧ (st = .stale → t.fab.gstale = satInc s.fab.gstale ∧ t.mem = s.mem)
      ∧ (t.mem = s.mem ∨ st = .unc)
      ∧ (st ≠ .stale → { f with marked := decide (st = .unc), bad := false } ∈ t.fab.held) := by
  intro st
  have hmem : ¬fencesPort s f → (noteArrival f s).mem = s.mem := by
    intro hf
    obtain ⟨J, hJ⟩ := noteArrival_eq hf
    rw [hJ]
  have hreg : (noteArrival f s).core.sreg = s.core.sreg := sreg_of_coresOf (coresOf_noteArrival f s)
  have hstat : (noteArrival f s).fab.rxStat = s.fab.rxStat ++ [(f.port, f.slot, f.idx, st)] := by
    obtain ⟨C, G, hF⟩ := noteArrival_fab f s
    rw [hF]
  refine ⟨_, exec_flitReceive_away hp hm hserv hmay haway, ?_⟩
  have hunc : st = .unc → f.replay = false →
      mget 0 (noteArrival f s).fab.ctr (8 * f.port + 1) = satInc (mget 0 s.fab.ctr (8 * f.port + 1))
        ∧ (noteArrival f s).mem = s.mem :=
    fun hst hr => ⟨noteArrival_unc_counter hw hst hr, hmem (not_fencesPort_of_first hr)⟩
  by_cases hst : arrivalStatus s f = .stale
  · have hsm := hmem (not_fencesPort_of_stale hst)
    rw [if_pos hst]
    exact ⟨hstat, hreg, hunc, fun _ => ⟨noteArrival_stale_counter hst, hsm⟩, .inl hsm, fun h => absurd hst h⟩
  · rw [if_neg hst]
    refine ⟨hstat, hreg, hunc, fun h => absurd h hst, ?_, fun _ => List.mem_append_right _ List.mem_cons_self⟩
    by_cases hu : st = .unc
    · exact .inr hu
    · exact .inl (hmem fun hf => hu hf.1)

end Sys2Proof.Machine
end

section
/-! SUPPORT. REMOTE_REQUEST (R42, R46, R47, R425). -/

namespace Sys2Proof.Machine

variable {s : State} {f : Flit} {id addr : Nat} {op : RemoteOp}

/-- The arrival of a flit that is taken. -/
theorem noteArrival_taken (h : arrivalStatus s f = .ok) : ∃ J C G, noteArrival f s = { s with finj := J, fab := { s.fab with
    rx := (noteSlot f.port f.slot s).fab.rx, ctr := C, gstale := G
    rxStat := s.fab.rxStat ++ [(f.port, f.slot, f.idx, arrivalStatus s f)] } } := by
  obtain ⟨J, hJ⟩ := noteArrival_eq (not_fencesPort_of_ok h)
  obtain ⟨C, G, hF⟩ := noteArrival_fab f s
  rw [hJ, hF]
  exact ⟨J, C, G, rfl⟩

theorem servTab_congr {t : State} (h : t.fab.table = s.fab.table) (n : Nat) : servTab t n = servTab s n := by
  unfold servTab
  rw [h]

/-- R47, R425. A response is queued under the timetable of its request's slot. -/
theorem respond_of_servTab {n p dst : Nat} {ok : Bool} {data : List Byte} {tab : Nat} (h : servTab s n = some tab) :
    respond n p dst id ok data s
      = { s with fab := { s.fab with respq := s.fab.respq ++ [⟨p, dst, .response id ok data, tab⟩] } } := by
  unfold respond
  rw [h]

theorem exec_remoteRequest (hp : f.port < 32) (hm : s.maps.port.getLsbD f.port = true)
    (hmay : mayArrive (localPart s addr).isSome f.slot s = true) :
    exec (.remoteRequest f id addr op) s = .next (if arrivalStatus s f ≠ .ok then noteArrival f s
      else match localPart s addr with
      | some a =>
        let r := performRemote f.src a op (noteVisible f.slot (noteArrival f s))
        respond f.slot f.port f.src id r.1 r.2.1 r.2.2
      | none => passOn f.slot f.port f.src id addr op (noteArrival f s)) :=
  if_neg (by simp [hm, hmay]; omega)

/-- R46, R47. A request that is not taken is neither answered nor passed on. -/
theorem remoteRequest_not_ok (hp : f.port < 32) (hm : s.maps.port.getLsbD f.port = true)
    (hmay : mayArrive (localPart s addr).isSome f.slot s = true) (hst : arrivalStatus s f ≠ .ok) :
    Completes (.remoteRequest f id addr op) s fun t => t.fab.respq = s.fab.respq ∧ t.fab.reqq = s.fab.reqq := by
  obtain ⟨C, G, hF⟩ := noteArrival_fab f s
  refine ⟨_, exec_remoteRequest hp hm hmay, ?_⟩
  rw [if_pos hst]
  dsimp only
  rw [hF]
  exact ⟨rfl, rfl⟩

/-- R47. A request for this module is performed, and its response queued. -/
theorem exec_remoteRequest_local {a tab : Nat} (hp : f.port < 32) (hm : s.maps.port.getLsbD f.port = true)
    (hmay : mayArrive (localPart s addr).isSome f.slot s = true) (hst : arrivalStatus s f = .ok)
    (hl : localPart s addr = some a) {ok : Bool} {data : List Byte} {t : State}
    (ht : performRemote f.src a op (noteVisible f.slot (noteArrival f s)) = (ok, data, t))
    (htab : servTab s f.slot = some tab) (hfab : t.fab = (noteVisible f.slot (noteArrival f s)).fab) :
    exec (.remoteRequest f id addr op) s = .next { t with fab := { t.fab with
      respq := s.fab.respq ++ [⟨f.port, f.src, .response id ok data, tab⟩] } } := by
  obtain ⟨C, G, hF⟩ := noteArrival_fab f s
  have hnoted : t.fab.table = s.fab.table ∧ t.fab.respq = s.fab.respq := by
    rw [hfab]
    unfold noteVisible
    rw [hF]
    exact ⟨rfl, rfl⟩
  rw [exec_remoteRequest hp hm hmay, if_neg (not_not.2 hst), hl]
  dsimp only
  rw [ht, respond_of_servTab ((servTab_congr hnoted.1 _).trans htab), hnoted.2]

theorem remoteRequest_load {a n tab : Nat} (hp : f.port < 32) (hm : s.maps.port.getLsbD f.port = true)
    (hmay : mayArrive (localPart s addr).isSome f.slot s = true) (hst : arrivalStatus s f = .ok)
    (hl : localPart s addr = some a) (htab : servTab s f.slot = some tab) (hs : Stored s a n) (hpos : 0 < n)
    (hin : a % 16 + n ≤ 16) : Completes (.remoteRequest f id addr (.load n)) s fun t =>
      t.fab.respq = s.fab.respq ++ [⟨f.port, f.src, .response id true (s.mem.readBytes a n), tab⟩] ∧ t.mem = s.mem
        ∧ t.fab.seenSlot = f.slot := by
  obtain ⟨J, C, G, hJ⟩ := noteArrival_taken hst
  have hread : performRemote f.src a (.load n) (noteVisible f.slot (noteArrival f s))
      = (true, s.mem.readBytes a n, l2Touch 0 false a n (noteVisible f.slot (noteArrival f s))) := by
    rw [hJ]
    exact homeRead_stored (s := noteVisible f.slot { s with finj := J, fab := _ }) hs hpos hin
  refine ⟨_, exec_remoteRequest_local hp hm hmay hst hl hread htab l2Touch_fab, rfl, ?_, ?_⟩
  · dsimp only
    rw [l2Touch_mem, hJ]
    rfl
  · dsimp only
    rw [l2Touch_fab]
    rfl

theorem remoteRequest_store {a tab : Nat} {bs : List Byte} (hok : s.memOk) (hp : f.port < 32)
    (hm : s.maps.port.getLsbD f.port = true) (hmay : mayArrive (localPart s addr).isSome f.slot s = true)
    (hst : arrivalStatus s f = .ok) (hl : localPart s addr = some a) (htab : servTab s f.slot = some tab)
    (hw : Writable s a bs.length) (hpos : 0 < bs.length) (hin : a % 16 + bs.length ≤ 16) :
    Completes (.remoteRequest f id addr (.store bs)) s fun t =>
      StoredBytes s.mem t.mem a bs ∧ t.fab.respq = s.fab.respq ++ [⟨f.port, f.src, .response id true [], tab⟩] := by
  obtain ⟨J, C, G, hJ⟩ := noteArrival_taken hst
  obtain ⟨t, ht, hmem⟩ : ∃ t, homeRuns [(a, bs)] (noteVisible f.slot (noteArrival f s)) = (true, t)
      ∧ StoredBytes s.mem t.mem a bs := by
    rw [hJ]
    exact homeRuns_stores (s := noteVisible f.slot { s with finj := J, fab := _ }) hok hw hpos hin
  have hperf : performRemote f.src a (.store bs) (noteVisible f.slot (noteArrival f s)) = (true, [], t) := by
    unfold performRemote
    dsimp only
    rw [ht]
  have hfab : t.fab = (noteVisible f.slot (noteArrival f s)).fab := by
    have h := homeRuns_fab (runs := [(a, bs)]) (s := noteVisible f.slot (noteArrival f s))
    rwa [ht] at h
  exact ⟨_, exec_remoteRequest_local hp hm hmay hst hl hperf htab hfab, hmem, rfl⟩

/-- R47. A request that no path takes further is answered as failed. -/
theorem remoteRequest_no_path {tab : Nat} (hp : f.port < 24) (hm : s.maps.port.getLsbD f.port = true)
    (hmay : mayArrive (localPart s addr).isSome f.slot s = true) (hst : arrivalStatus s f = .ok)
    (hl : localPart s addr = none) (htab : servTab s f.slot = some tab) (hpath : remotePath s (addr / 2 ^ 44) = none) :
    Completes (.remoteRequest f id addr op) s fun t =>
      t.fab.respq = s.fab.respq ++ [⟨f.port, f.src, .response id false [], tab⟩] ∧ t.mem = s.mem
        ∧ t.fab.reqq = s.fab.reqq := by
  obtain ⟨J, C, G, hJ⟩ := noteArrival_taken hst
  have hhop : passHop (noteArrival f s) f.port (addr / 2 ^ 44) = none := by
    have hsame : passHop (noteArrival f s) f.port (addr / 2 ^ 44) = passHop s f.port (addr / 2 ^ 44) := by
      rw [hJ]
      rfl
    rw [hsame]
    unfold passHop
    rw [if_neg (by omega), if_neg (by omega), hpath]
    rfl
  have htab' : servTab (noteArrival f s) f.slot = some tab := by
    rw [hJ]
    exact htab
  refine ⟨_, exec_remoteRequest (by omega) hm hmay, ?_⟩
  rw [if_neg (not_not.2 hst), hl]
  unfold passOn
  rw [hhop]
  dsimp only
  rw [respond_of_servTab htab', hJ]
  exact ⟨rfl, rfl, rfl⟩

/-- R47. A request goes one hop further. -/
theorem remoteRequest_passed {tab : Nat} {h : Hop} (hp : f.port < 32) (hm : s.maps.port.getLsbD f.port = true)
    (hmay : mayArrive (localPart s addr).isSome f.slot s = true) (hst : arrivalStatus s f = .ok)
    (hl : localPart s addr = none) (htab : servTab s f.slot = some tab)
    (hhop : passHop s f.port (addr / 2 ^ 44) = some h) (hroom : queued s (servPort s h) < 64) :
    Completes (.remoteRequest f id addr op) s fun t => ∃ m,
      t.fab.reqq = s.fab.reqq ++ [⟨servPort s h, addr / 2 ^ 44, .request m addr op, tab⟩]
        ∧ (m, f.port, f.src, id) ∈ t.fab.transit ∧ t.fab.respq = s.fab.respq ∧ t.mem = s.mem := by
  obtain ⟨J, C, G, hJ⟩ := noteArrival_taken hst
  have hhop' : passHop (noteArrival f s) f.port (addr / 2 ^ 44) = some h := by
    rw [hJ]
    exact hhop
  have htab' : servTab (noteArrival f s) f.slot = some tab := by
    rw [hJ]
    exact htab
  have hport : servPort (noteArrival f s) h = servPort s h := by
    rw [hJ]
    rfl
  have hroom' : ¬64 ≤ queued (noteArrival f s) (servPort s h) := by
    rw [hJ]
    exact Nat.not_le.2 hroom
  refine ⟨_, exec_remoteRequest hp hm hmay, s.fab.nextId, ?_⟩
  rw [if_neg (not_not.2 hst), hl]
  unfold passOn
  rw [hhop', htab']
  dsimp only
  rw [hport, if_neg hroom', hJ]
  exact ⟨rfl, List.mem_append_right _ List.mem_cons_self, rfl, rfl⟩

end Sys2Proof.Machine
end

section
/-! SUPPORT. REMOTE_RESPONSE (R42, R46, R47, R252). -/

namespace Sys2Proof.Machine

variable {s : State} {f : Flit} {id : Nat} {answer : Option (List Byte)} {a : RemoteAcc}

/-- Which core is current does not depend on the fabric. -/
theorem select_wire {g : Nat} {J : Finj} {F : Fabric} :
    select g { s with finj := J, fab := F } = { select g s with finj := J, fab := F } := by
  unfold select
  dsimp only
  split
  · rfl
  · rfl

theorem select_coreNo (g : Nat) (s : State) : (select g s).coreNo = g := by
  unfold select
  split
  · next h => exact h.symm
  · rfl

theorem select_mem (g : Nat) (s : State) : (select g s).mem = s.mem := mem_ite rfl rfl

theorem exec_remoteResponse (hp : f.port < 32) (hm : s.maps.port.getLsbD f.port = true)
    (hmay : mayArrive true f.slot s = true) (hmine : (s.fab.transit.find? fun t => decide (t.1 = id)) = none) :
    exec (.remoteResponse f id answer) s = .next (if arrivalStatus s f = .ok then
      takeResponse f.slot id answer.isSome (answer.getD []) (noteVisible f.slot (noteArrival f s))
    else noteVisible f.slot (noteArrival f s)) := by
  have hany : (s.fab.transit.any fun t => decide (t.1 = id)) = false := by
    rw [List.any_eq_false]
    exact List.find?_eq_none.1 hmine
  change execRemoteResponse f id answer s = _
  unfold execRemoteResponse
  rw [hany]
  exact if_neg (by simp [hm, hmay]; omega)

/-- R46, R50. A response that is not taken. -/
theorem remoteResponse_not_ok (hp : f.port < 32) (hm : s.maps.port.getLsbD f.port = true)
    (hmay : mayArrive true f.slot s = true) (hmine : (s.fab.transit.find? fun t => decide (t.1 = id)) = none)
    (hst : arrivalStatus s f ≠ .ok) :
    Completes (.remoteResponse f id answer) s fun t => t.fab.accs = s.fab.accs ∧ t.core.pend = s.core.pend := by
  obtain ⟨C, G, hF⟩ := noteArrival_fab f s
  refine ⟨_, exec_remoteResponse hp hm hmay hmine, ?_⟩
  rw [if_neg hst]
  unfold noteVisible
  dsimp only
  rw [hF]
  exact ⟨rfl, congrArg (fun x => x.2.1.pend) (coresOf_noteArrival f s)⟩

/-- R47. A response to a request of a core here: `accs` without it, and the core that asked, as it is, current. -/
theorem exec_remoteResponse_taken (hp : f.port < 32) (hm : s.maps.port.getLsbD f.port = true)
    (hmay : mayArrive true f.slot s = true) (hmine : (s.fab.transit.find? fun t => decide (t.1 = id)) = none)
    (ha : (s.fab.accs.find? fun a => decide (a.id = id)) = some a) (hst : arrivalStatus s f = .ok) :
    ∃ J F, F.accs = (s.fab.accs.filter fun x => !decide (x.id = id))
      ∧ exec (.remoteResponse f id answer) s = .next (
        let u : State := { select a.core s with finj := J, fab := F }
        if answer.isSome then landRemote a (answer.getD []) u
        else if isAwaited u.core a.id a.dst then remoteError a u else u) := by
  obtain ⟨J, C, G, hJ⟩ := noteArrival_taken hst
  refine ⟨J, { (noteVisible f.slot (noteArrival f s)).fab with accs := s.fab.accs.filter fun x => !decide (x.id = id) }, rfl, ?_⟩
  rw [exec_remoteResponse hp hm hmay hmine, if_pos hst, hJ]
  unfold takeResponse noteVisible
  dsimp only
  rw [hmine]
  dsimp only
  rw [ha]
  dsimp only
  rw [select_wire]

theorem forall_mem_filter_ne {accs : List RemoteAcc} : ∀ x ∈ accs.filter (fun x => !decide (x.id = id)), x.id ≠ id := by
  intro x hx
  simpa using (List.mem_filter.1 hx).2

/-- R47. The data of a load goes to its register. -/
theorem remoteResponse_data {data : List Byte} {n : Nat} {w : BitVec 3} (hp : f.port < 32)
    (hm : s.maps.port.getLsbD f.port = true)
    (hmay : mayArrive true f.slot s = true) (hmine : (s.fab.transit.find? fun t => decide (t.1 = id)) = none)
    (ha : (s.fab.accs.find? fun a => decide (a.id = id)) = some a) (hst : arrivalStatus s f = .ok)
    (hdata : answer = some data) (hdst : a.dst = .s n w) :
    let u := select a.core s
    Completes (.remoteResponse f id answer) s fun t =>
      t.core = { u.core with
        pend := u.core.pend ++ [⟨u.core.icnt + 1, u.core.icnt + 1, .s n (extendLoad w (bytesToNat data))⟩] }
      ∧ t.coreNo = a.core ∧ t.mem = s.mem ∧ ∀ x ∈ t.fab.accs, x.id ≠ id := by
  intro u
  obtain ⟨J, F, hF, hexec⟩ := exec_remoteResponse_taken (answer := answer) hp hm hmay hmine ha hst
  refine ⟨_, hexec, ?_⟩
  subst hdata
  unfold landRemote
  rw [hdst]
  exact ⟨rfl, select_coreNo a.core s, select_mem a.core s, hF ▸ forall_mem_filter_ne⟩

/-- R47, R252. A failure is an error of the bundle that asked, where something waits for it. -/
theorem remoteResponse_failure (hp : f.port < 32) (hm : s.maps.port.getLsbD f.port = true)
    (hmay : mayArrive true f.slot s = true) (hmine : (s.fab.transit.find? fun t => decide (t.1 = id)) = none)
    (ha : (s.fab.accs.find? fun a => decide (a.id = id)) = some a) (hst : arrivalStatus s f = .ok)
    (hdata : answer = none) :
    let u := select a.core s
    Completes (.remoteResponse f id answer) s fun t => t.coreNo = a.core
      ∧ (∀ x ∈ t.fab.accs, x.id ≠ id)
      ∧ (a.dst = .drop → t.core.memerr = u.core.memerr)
      ∧ (isAwaited u.core a.id a.dst = true → u.core.memerr = none →
          t.core.memerr = some (0x18, a.addr, a.pos, a.slot)) := by
  intro u
  obtain ⟨J, F, hF, hexec⟩ := exec_remoteResponse_taken (answer := answer) hp hm hmay hmine ha hst
  subst hdata
  have hacc : ∀ x ∈ F.accs, x.id ≠ id := hF ▸ forall_mem_filter_ne
  refine ⟨_, hexec, ?_⟩
  dsimp only
  rw [Option.isSome_none, if_neg Bool.false_ne_true]
  by_cases hw : isAwaited u.core a.id a.dst = true
  · have hnd : a.dst ≠ .drop := fun hd => nomatch hd ▸ hw
    have herr : ∀ v, remoteError a v = taskErrorAt a.pos a.slot cMemerr a.addr v := by
      intro v
      unfold remoteError
      split
      · next hd => exact absurd hd hnd
      · rfl
    rw [if_pos hw, herr]
    refine ⟨select_coreNo a.core s, hacc, fun hd => absurd hd hnd, fun _ hnone => ?_⟩
    unfold taskErrorAt Core.meetError
    dsimp only
    rw [hnone]
    rfl
  · rw [if_neg hw]
    exact ⟨select_coreNo a.core s, hacc, fun _ => rfl, fun h => absurd h hw⟩

end Sys2Proof.Machine
end

section
/-! SUPPORT. SLOT_SEND (R35, R40, R45, R386). -/

namespace Sys2Proof.Machine

variable {s t : State} {keep : SendFlit → Bool}

/-- What the sending of a slot reads and leaves as it was. -/
def slotView (s : State) : Memory × SMap Word64 × Maps × Option LinkTable × Nat × Byte :=
  (s.mem, s.core.sreg, s.maps, s.fab.table, s.fab.sentThrough, s.boot.domain)

/-- Sending leaves what it reads, has sent what was sent, and leaves the SEND flits that `keep` names. -/
structure SlotKeeps (keep : SendFlit → Bool) (s t : State) : Prop where
  view : slotView t = slotView s
  outbox : s.outbox ⊆ t.outbox
  sends : t.fab.sends.filter keep = s.fab.sends.filter keep

theorem SlotKeeps.refl (s : State) : SlotKeeps keep s s := ⟨rfl, List.Subset.refl _, rfl⟩

theorem SlotKeeps.trans {u : State} (h : SlotKeeps keep s t) (h' : SlotKeeps keep t u) : SlotKeeps keep s u :=
  ⟨h'.view.trans h.view, List.Subset.trans h.outbox h'.outbox, h'.sends.trans h.sends⟩

theorem SlotKeeps.foldl {ι : Type} {f : State → ι → State} {l : List ι} (hf : ∀ s, ∀ i ∈ l, SlotKeeps keep s (f s i))
    (s : State) : SlotKeeps keep s (l.foldl f s) := by
  induction l generalizing s with
  | nil => exact .refl s
  | cons i l ih =>
    exact (hf s i List.mem_cons_self).trans (ih (fun s j hj => hf s j (List.mem_cons_of_mem i hj)) _)

/-- What commands, messages and collectives become has no part in it. -/
theorem SlotKeeps.of_flightless (h : flightless t = flightless s) : SlotKeeps keep s t where
  view := eq_of_flightless (fun _ => rfl) h
  outbox := by
    rw [eq_of_flightless (p := State.outbox) (fun _ => rfl) h]
    exact List.Subset.refl _
  sends := eq_of_flightless (p := fun u => u.fab.sends.filter keep) (fun _ => rfl) h

theorem SlotKeeps.emit (x : SentFlit) (s : State) : SlotKeeps keep s (emit x s) :=
  ⟨rfl, List.subset_append_left _ _, rfl⟩

theorem SlotKeeps.spend (k : Nat) (s : State) : SlotKeeps keep s (spend k s) := ⟨rfl, List.Subset.refl _, rfl⟩

/-! ### The entries (R45) -/

variable {tab : LinkTable} {n : Nat} {e : BitVec 128}

/-- R386. An entry takes the SEND flits of its own port alone. -/
theorem sendSend_keeps (hk : ∀ q, keep q = true → q.port ≠ ltPort e) (s : State) : SlotKeeps keep s (sendSend tab n e s) := by
  unfold sendSend
  extract_lets mine s1
  have h1 : SlotKeeps keep s s1 := .foldl (fun u i _ => .emit _ u) s
  refine h1.trans ⟨rfl, List.Subset.refl _, ?_⟩
  rw [List.filter_filter]
  refine List.filter_congr fun q _ => ?_
  by_cases hq : keep q = true
  · have hmine : mine q = false := by
      unfold mine
      rw [decide_eq_false (hk q hq), Bool.false_and]
    rw [hmine]
    exact Bool.and_true _
  · rw [Bool.eq_false_iff.2 hq, Bool.false_and]

theorem sendCopy_keeps (s : State) : SlotKeeps keep s (sendCopy tab n e s) := by
  unfold sendCopy
  split
  · exact .refl s
  · next r _ =>
    extract_lets +onlyGivenNames go s1
    have h1 : SlotKeeps keep s s1 := .foldl (fun u x _ => .emit _ u) s
    exact h1.trans (.of_flightless flightless_modCore_running)

theorem sendSig_keeps (s : State) : SlotKeeps keep s (sendSig tab n e s) := by
  unfold sendSig
  extract_lets may
  split
  · exact .refl s
  · next m _ => exact ((SlotKeeps.emit _ s).trans (.emit _ _)).trans (.of_flightless rfl)

theorem sendColl_keeps (s : State) : SlotKeeps keep s (sendColl tab n e s) := by
  unfold sendColl
  split
  · exact .refl s
  · next c _ =>
    extract_lets +onlyGivenNames k s1
    have h1 : SlotKeeps keep s s1 := .foldl (fun u i _ => (SlotKeeps.emit _ u).trans (.spend 32 _)) s
    exact h1.trans (.of_flightless rfl)

theorem sendFwd_keeps (s : State) : SlotKeeps keep s (sendFwd tab n e s) := by
  unfold sendFwd
  split
  · exact .refl s
  · exact .foldl (fun u x _ => .emit _ u) s

theorem sendServ_keeps (s : State) : SlotKeeps keep s (sendServ tab n e s) := by
  unfold sendServ
  extract_lets +onlyGivenNames mine rs qs fab1 s1
  have h1 : SlotKeeps keep s s1 := ⟨rfl, List.Subset.refl _, rfl⟩
  exact h1.trans (.foldl (fun u x _ => .emit _ u) s1)

theorem sendReplay_keeps (s : State) : SlotKeeps keep s (sendReplay tab n e s) := by
  unfold sendReplay
  extract_lets +onlyGivenNames mine all fab1 s1 s2
  have h1 : SlotKeeps keep s s1 := ⟨rfl, List.Subset.refl _, rfl⟩
  have h2 : SlotKeeps keep s1 s2 := .foldl (fun u x _ => .emit _ u) s1
  exact (h1.trans h2).trans (.foldl (fun u x _ => .of_flightless flightless_finalFlit) s2)

theorem sendEntry_keeps (hk : ∀ q, keep q = true → q.port ≠ ltPort e) (s : State) : SlotKeeps keep s (sendEntry tab n e s) := by
  unfold sendEntry
  extract_lets k
  split
  · exact .refl s
  split
  · exact sendSend_keeps hk s
  split
  · exact sendCopy_keeps s
  split
  · exact sendColl_keeps s
  split
  · exact sendFwd_keeps s
  split
  · exact sendServ_keeps s
  split
  · exact sendSig_keeps s
  · exact sendReplay_keeps s

/-! ### The rest of a slot -/

theorem turnInjection_keeps (s : State) : SlotKeeps keep s (turnInjection n s) := ⟨rfl, List.Subset.refl _, rfl⟩

theorem sendHeader_keeps (p : Nat) (s : State) : SlotKeeps keep s (sendHeader n p s) :=
  ⟨rfl, List.subset_append_left _ _, rfl⟩

theorem dropHeld_keeps (s : State) : SlotKeeps keep s (dropHeld tab n s) := ⟨rfl, List.Subset.refl _, rfl⟩

theorem failStranded_keeps (g : Nat) (s : State) : SlotKeeps keep s (failStranded g s) := by
  unfold failStranded
  split
  · exact .refl s
  · extract_lets has
    split
    · exact .refl s
    · exact .of_flightless flightless_modCore_running

theorem dropStrandedSigs_keeps (s : State) : SlotKeeps keep s (dropStrandedSigs s) := .of_flightless rfl

/-- R40. The headers, in port order. -/
def sendHeaders (n : Nat) (s : State) : State :=
  ((List.range 32).filter fun p => s.maps.port.getLsbD p).foldl (fun s p => sendHeader n p s) s

/-- R45. The entries of a slot of a table, in port order. -/
def sendEntries (tab : LinkTable) (n : Nat) (s : State) : State :=
  (tab.live.filter fun e => decide (ltSlot e = ltIndex tab n)).foldl (fun s e => sendEntry tab n e s) s

/-- R45, R388. What the slot's beginning means for the commands and messages whose entries are gone. -/
def closeSlot (n : Nat) (s : State) : State :=
  dropStrandedSigs ((liveCores s).foldl (fun s g => failStranded g s) { s with fab := { s.fab with sentThrough := n + 1 } })

/-- R40, R45. The entries of slot `n`, under the table in force. -/
def sendTable (n : Nat) (s : State) : State :=
  match s.fab.table with
  | none => s
  | some t => if n < t.slotA then s else dropHeld t n (sendEntries t n s)

theorem exec_slotSend (hd : slotDue s = true) : exec .slotSend s = .next (
    closeSlot (s.cyc / 88) (sendTable (s.cyc / 88) (sendHeaders (s.cyc / 88) (turnInjection (s.cyc / 88) s)))) :=
  if_neg (by rw [hd]; exact Bool.false_ne_true)

theorem sendHeaders_keeps (s : State) : SlotKeeps keep s (sendHeaders n s) :=
  .foldl (fun u p _ => sendHeader_keeps p u) s

theorem sendEntries_keeps (s : State) : SlotKeeps (fun _ => false) s (sendEntries tab n s) :=
  .foldl (fun u _ _ => sendEntry_keeps (fun _ h => absurd h Bool.false_ne_true) u) s

theorem sendTable_keeps (n : Nat) (s : State) : SlotKeeps (fun _ => false) s (sendTable n s) := by
  unfold sendTable
  split
  · exact .refl s
  · split
    · exact .refl s
    · exact (sendEntries_keeps s).trans (dropHeld_keeps _)

/-- The closing of a slot keeps all but the slot that is sent through. -/
theorem closeSlot_spec (n : Nat) (s : State) : s.outbox ⊆ (closeSlot n s).outbox
    ∧ slotView (closeSlot n s) = (s.mem, s.core.sreg, s.maps, s.fab.table, n + 1, s.boot.domain) := by
  have h : SlotKeeps (fun _ => false) { s with fab := { s.fab with sentThrough := n + 1 } } (closeSlot n s) :=
    (SlotKeeps.foldl (fun u g _ => failStranded_keeps g u) _).trans (dropStrandedSigs_keeps _)
  exact ⟨h.outbox, h.view⟩

theorem outbox_subset_foldl {ι : Type} {f : State → ι → State} {l : List ι} (h : ∀ s, ∀ j ∈ l, s.outbox ⊆ (f s j).outbox)
    (s : State) : s.outbox ⊆ (l.foldl f s).outbox := by
  induction l generalizing s with
  | nil => exact List.Subset.refl _
  | cons j l ih =>
    exact List.Subset.trans (h s j List.mem_cons_self) (ih (fun s k hk => h s k (List.mem_cons_of_mem j hk)) _)

/-- The item that a step sends is sent when all steps are done. -/
theorem mem_outbox_foldl {ι : Type} {f : State → ι → State} {l : List ι} {i : ι} (hi : i ∈ l) {P : Outgoing → Prop}
    {I : State → Prop} (hI : ∀ s, ∀ j ∈ l, I s → I (f s j)) (hkeep : ∀ s, ∀ j ∈ l, s.outbox ⊆ (f s j).outbox)
    (hsend : ∀ s, I s → ∃ x ∈ (f s i).outbox, P x) (s : State) (hs : I s) : ∃ x ∈ (l.foldl f s).outbox, P x := by
  induction l generalizing s with
  | nil => exact absurd hi List.not_mem_nil
  | cons j l ih =>
    have hkeep' : ∀ s, ∀ k ∈ l, s.outbox ⊆ (f s k).outbox := fun s k hk => hkeep s k (List.mem_cons_of_mem j hk)
    rcases List.mem_cons.1 hi with rfl | hi
    · obtain ⟨x, hx, hP⟩ := hsend s hs
      exact ⟨x, outbox_subset_foldl hkeep' _ hx, hP⟩
    · exact ih hi (fun s k hk => hI s k (List.mem_cons_of_mem j hk)) hkeep' _ (hI s j List.mem_cons_self hs)

/-- R35, R40. The header of each port that is in the map. -/
theorem sendHeaders_sends {p : Nat} (hp : p < 32) (hm : s.maps.port.getLsbD p = true) :
    ∃ mgmt st late, Outgoing.header p n ⟨s.boot.domain, 88 * n⟩ mgmt st late ∈ (sendHeaders n s).outbox := by
  have hmem : p ∈ (List.range 32).filter fun p => s.maps.port.getLsbD p := by
    rw [List.mem_filter]
    exact ⟨List.mem_range.2 hp, hm⟩
  obtain ⟨x, hx, mgmt, st, late, rfl⟩ := mem_outbox_foldl (f := fun s p => sendHeader n p s) hmem
    (P := fun x => ∃ mgmt st late, x = .header p n ⟨s.boot.domain, 88 * n⟩ mgmt st late)
    (I := fun u => u.boot.domain = s.boot.domain) (fun _ _ _ h => h) (fun u q _ => (sendHeader_keeps (keep := fun _ => false) q u).outbox)
    (fun u hu => ⟨_, List.mem_append_right _ List.mem_cons_self, _, _, _, by rw [hu]⟩) s rfl
  exact ⟨mgmt, st, late, hx⟩

/-- R386. The flit of one index of a port's slot. -/
def sendData (s : State) (p n i : Nat) : List Byte :=
  ((s.fab.sends.find? fun q => decide (q.port = p) && decide (q.slot = n) && decide (q.idx = i)).map SendFlit.data).getD
    (List.replicate 256 0)

theorem sendData_of_filter {p : Nat} (h : t.fab.sends.filter (fun q => decide (q.port = p)) =
    s.fab.sends.filter (fun q => decide (q.port = p))) (n i : Nat) : sendData t p n i = sendData s p n i := by
  have hfind : ∀ l : List SendFlit, l.find? (fun q => decide (q.port = p) && decide (q.slot = n) && decide (q.idx = i))
      = (l.filter fun q => decide (q.port = p)).find? fun q => decide (q.slot = n) && decide (q.idx = i) := by
    intro l
    rw [List.find?_filter]
    simp only [Bool.and_assoc, decide_eq_true_eq, Bool.decide_and, Bool.decide_eq_true]
  unfold sendData
  rw [hfind, hfind, h]

/-- R386. A SEND entry sends every flit that it reserves. -/
theorem sendSend_sends {i : Nat} (hi : i < ltFlits e) (s : State) : ∃ x ∈ (sendSend tab n e s).outbox,
    ∃ f : Flit, x = .flit f ∧ f.port = ltPort e ∧ f.slot = n ∧ f.idx = i ∧ f.body = .send (sendData s (ltPort e) n i) := by
  unfold sendSend
  extract_lets mine s1
  refine mem_outbox_foldl (I := fun u => u.fab.sends = s.fab.sends) (List.mem_range.2 hi) ?_ ?_ (fun u hu => ?_) s rfl
  · exact fun _ _ _ h => h
  · exact fun u j _ => (SlotKeeps.emit (keep := fun _ => false) _ u).outbox
  refine ⟨_, List.mem_append_right _ List.mem_cons_self, _, rfl, rfl, rfl, rfl, ?_⟩
  unfold sendData
  rw [← hu]
  rfl

/-- R45, R386. So it does among the entries of its slot, where it is the only one of its port. -/
theorem sendEntries_sends {i : Nat} (hlive : e ∈ tab.live) (hslot : ltSlot e = ltIndex tab n) (hkind : ltKind e = kSend)
    (honly : ∀ x ∈ tab.live, ltSlot x = ltSlot e → ltPort x = ltPort e → x = e)
    (hm : s.maps.port.getLsbD (ltPort e) = true) (hi : i < ltFlits e) : ∃ x ∈ (sendEntries tab n s).outbox,
    ∃ f : Flit, x = .flit f ∧ f.port = ltPort e ∧ f.slot = n ∧ f.idx = i ∧ f.body = .send (sendData s (ltPort e) n i) := by
  unfold sendEntries
  have he : e ∈ tab.live.filter fun e => decide (ltSlot e = ltIndex tab n) :=
    List.mem_filter.2 ⟨hlive, decide_eq_true hslot⟩
  obtain ⟨l1, l2, hl, hnot⟩ := List.eq_append_cons_of_mem he
  have hothers : ∀ x ∈ l1, ltPort x ≠ ltPort e := by
    intro x hx hport
    have hx' : x ∈ tab.live.filter fun e => decide (ltSlot e = ltIndex tab n) := hl ▸ List.mem_append_left _ hx
    obtain ⟨hxl, hxs⟩ := List.mem_filter.1 hx'
    exact hnot (honly x hxl ((of_decide_eq_true hxs).trans hslot.symm) hport ▸ hx)
  rw [hl, List.foldl_append, List.foldl_cons]
  have h1 : SlotKeeps (fun q => decide (q.port = ltPort e)) s (l1.foldl (fun s x => sendEntry tab n x s) s) :=
    .foldl (fun u x hx => sendEntry_keeps (fun q hq => of_decide_eq_true hq ▸ (hothers x hx).symm) u) s
  generalize l1.foldl (fun s x => sendEntry tab n x s) s = u at h1
  have hentry : sendEntry tab n e u = sendSend tab n e u := by
    have hmaps : u.maps = s.maps := congrArg (fun v => v.2.2.1) h1.view
    unfold sendEntry
    dsimp only
    rw [hmaps, hm, hkind]
    rfl
  obtain ⟨x, hx, f, hf⟩ := sendSend_sends (tab := tab) (n := n) hi u
  rw [sendData_of_filter h1.sends] at hf
  have h2 : SlotKeeps (fun _ => false) (sendEntry tab n e u)
      (l2.foldl (fun s x => sendEntry tab n x s) (sendEntry tab n e u)) :=
    .foldl (fun v _ _ => sendEntry_keeps (fun _ h => absurd h Bool.false_ne_true) v) _
  exact ⟨x, h2.outbox (hentry ▸ hx), f, hf⟩

/-- R35, R40, R45, R386. What a slot sends. -/
theorem slotSend_completes (hd : slotDue s = true) {n : Nat} (hn : s.cyc / 88 = n) : Completes .slotSend s fun t =>
    t.fab.sentThrough = n + 1 ∧ t.core.sreg = s.core.sreg ∧ t.mem = s.mem ∧ (∀ x ∈ s.outbox, x ∈ t.outbox)
    ∧ (∀ p, p < 32 → s.maps.port.getLsbD p = true → ∃ mgmt st late,
        Outgoing.header p n ⟨s.boot.domain, 88 * n⟩ mgmt st late ∈ t.outbox)
    ∧ ∀ tab e i, s.fab.table = some tab → tab.slotA ≤ n → e ∈ tab.live → ltSlot e = ltIndex tab n → ltKind e = kSend →
        (∀ x ∈ tab.live, ltSlot x = ltSlot e → ltPort x = ltPort e → x = e) → s.maps.port.getLsbD (ltPort e) = true →
        i < ltFlits e → ∃ f, Outgoing.flit f ∈ t.outbox ∧ f.port = ltPort e ∧ f.slot = n ∧ f.idx = i
          ∧ f.body = .send (sendData s (ltPort e) n i) := by
  refine ⟨_, exec_slotSend hd, ?_⟩
  rw [hn]
  have h1 : SlotKeeps (fun _ => true) s (sendHeaders n (turnInjection n s)) :=
    (turnInjection_keeps s).trans (sendHeaders_keeps _)
  have hheaders : ∀ p, p < 32 → s.maps.port.getLsbD p = true → ∃ mgmt st late,
      Outgoing.header p n ⟨s.boot.domain, 88 * n⟩ mgmt st late ∈ (sendHeaders n (turnInjection n s)).outbox :=
    fun p hp hm => sendHeaders_sends (s := turnInjection n s) hp hm
  generalize sendHeaders n (turnInjection n s) = u at h1 hheaders
  have h2 := sendTable_keeps n u
  obtain ⟨hout, hview⟩ := closeSlot_spec n (sendTable n u)
  generalize closeSlot n (sendTable n u) = w at hout hview
  have h1v := h1.view
  have h2v := h2.view
  simp only [slotView, Prod.mk.injEq] at h1v h2v hview
  obtain ⟨h1mem, h1reg, h1maps, h1tab, h1sent, h1dom⟩ := h1v
  obtain ⟨h2mem, h2reg, h2maps, h2tab, h2sent, h2dom⟩ := h2v
  obtain ⟨wmem, wreg, wmaps, wtab, wsent, wdom⟩ := hview
  refine ⟨wsent, wreg.trans (h2reg.trans h1reg), wmem.trans (h2mem.trans h1mem),
    fun x hx => hout (h2.outbox (h1.outbox hx)), ?_, ?_⟩
  · intro p hp hm
    obtain ⟨mgmt, st, late, h⟩ := hheaders p hp hm
    exact ⟨mgmt, st, late, hout (h2.outbox h)⟩
  · intro tab e i htab hslotA hlive hslot hkind honly hm hi
    obtain ⟨x, hx, f, rfl, hf⟩ := sendEntries_sends hlive hslot hkind honly (h1maps ▸ hm) hi
    have hsends : u.fab.sends = s.fab.sends := by simpa using h1.sends
    rw [sendData_of_filter (s := s) (congrArg (List.filter _) hsends)] at hf
    refine ⟨f, hout ?_, hf⟩
    unfold sendTable
    rw [h1tab, htab]
    dsimp only
    rw [if_neg (Nat.not_lt.2 hslotA)]
    exact hx

end Sys2Proof.Machine
end

section
/-! SUPPORT. Link timetables (R44, R286, R425), groups (R49) and the injection register (R69). -/

namespace Sys2Proof.Machine

variable {s : State}

theorem exec_of_released {i : Instr} {e : String} {r : Res} (h : exec i s = fromHost e s r) (hr : released s = true) :
    exec i s = r :=
  h.trans (if_pos hr)

theorem exec_ltarm_some (hr : released s = true) {a : Word64} {t : LinkTable} (h : ltCheck a.toNat s = some t) :
    exec (.ltarm a) s = .next { s with fab := { s.fab with
      pending := (s.fab.pending.filter fun q => decide (q.slotA < a.toNat)) ++ [t] } } := by
  rw [exec_of_released rfl hr, h]

theorem exec_ltarm_none (hr : released s = true) {a : Word64} (h : ltCheck a.toNat s = none) :
    exec (.ltarm a) s = .next { s with fab := { s.fab with err := true } } := by
  rw [exec_of_released rfl hr, h]

theorem exec_ltstop (hr : released s = true) (a : Word64) : exec (.ltstop a) s = .next (
    if a.getLsbD 0 && s.fab.table.isSome then { s with fab := { s.fab with stopAt := some (s.cyc / 88 + 1) } } else s) :=
  exec_of_released rfl hr

theorem exec_ltstop_table (hr : released s = true) {a : Word64} (ha : a.getLsbD 0 = true) (ht : s.fab.table ≠ none) :
    exec (.ltstop a) s = .next { s with fab := { s.fab with stopAt := some (s.cyc / 88 + 1) } } := by
  rw [exec_ltstop hr, if_pos (by rw [ha, Option.isSome_iff_ne_none.2 ht]; rfl)]

theorem exec_ltstop_nothing (hr : released s = true) {a : Word64} (h : a.getLsbD 0 = false ∨ s.fab.table = none) :
    exec (.ltstop a) s = .next s := by
  rw [exec_ltstop hr]
  rcases h with h | h
  · rw [h]
    rfl
  · rw [h, Option.isSome_none, Bool.and_false]
    rfl

/-! ### The end of a timetable -/

/-- R425. The fabric, the collectives and the messages when the timetable in force ends. -/
def cutTable (s : State) : State :=
  let a := (s.fab.table.map LinkTable.slotA).getD 0
  { s with
    fab := { s.fab with
      table := none, stopAt := none, sends := s.fab.sends.filter (fun q => !decide (q.tab = a)), reqq := [], respq := []
      held := [], replays := [], sent := s.fab.sent.map fun x => { x with replayAt := none }
      sigs := s.fab.sigs.filter fun m => m.local_ || m.sent || decide (m.tab ≠ a) }
    colls := s.colls.map fun c =>
      if c.left ≠ 0 ∨ c.start.isNone then { c with left := 0, cut := true, ok := false } else c }

/-- R51, R425. And the flits that waited for a replay slot are finally uncorrectable. -/
def failReplays (s : State) : State :=
  (s.fab.replays.map Prod.snd).foldl (fun u x => finalFlit x false u.cyc u) (cutTable s)

/-- R286, R425. What the end of the timetable armed for slot `a` is to a core. -/
def cutCore (a g : Nat) (s : State) : State :=
  spend 1 (modCore g (fun c => endNwait s.cyc (freeDetail s) (cutCommands a c)) s)

theorem endTable_eq (s : State) : endTable s =
    (liveCores (failReplays s)).foldl (fun u g => cutCore ((s.fab.table.map LinkTable.slotA).getD 0) g u) (failReplays s) :=
  rfl

theorem flightless_failReplays (s : State) : flightless (failReplays s) = flightless (cutTable s) := by
  unfold failReplays
  generalize s.fab.replays.map Prod.snd = l
  generalize cutTable s = u
  induction l generalizing u with
  | nil => rfl
  | cons x l ih => exact (ih _).trans flightless_finalFlit

@[simp] theorem cutCore_fab {a g : Nat} : (cutCore a g s).fab = s.fab := modCore_fab

@[simp] theorem cutCore_mem {a g : Nat} : (cutCore a g s).mem = s.mem := modCore_mem

theorem cutCore_current (a g : Nat) (s : State) : (cutCore a g s).coreNo = s.coreNo ∧ (cutCore a g s).cyc = s.cyc := by
  unfold cutCore modCore
  split
  · exact ⟨rfl, rfl⟩
  · exact ⟨rfl, rfl⟩

theorem cutCore_core_of_ne {a g : Nat} (h : g ≠ s.coreNo) : (cutCore a g s).core = s.core := by
  unfold cutCore modCore
  rw [if_neg h]
  rfl

theorem cutCore_core_self (a : Nat) (s : State) :
    (cutCore a s.coreNo s).core = endNwait s.cyc (freeDetail s) (cutCommands a s.core) := by
  unfold cutCore modCore
  rw [if_pos rfl]
  rfl

/-- The cores that are not current leave the current one alone. -/
theorem foldl_cutCore_others {a : Nat} {l : List Nat} (h : s.coreNo ∉ l) :
    (l.foldl (fun u g => cutCore a g u) s).core = s.core ∧ (l.foldl (fun u g => cutCore a g u) s).coreNo = s.coreNo
      ∧ (l.foldl (fun u g => cutCore a g u) s).cyc = s.cyc := by
  induction l generalizing s with
  | nil => exact ⟨rfl, rfl, rfl⟩
  | cons g l ih =>
    have hg : g ≠ s.coreNo := fun hg => h (hg ▸ List.mem_cons_self)
    obtain ⟨hno, hcyc⟩ := cutCore_current a g s
    obtain ⟨ih1, ih2, ih3⟩ := ih (s := cutCore a g s) (hno ▸ fun hm => h (List.mem_cons_of_mem g hm))
    exact ⟨ih1.trans (cutCore_core_of_ne hg), ih2.trans hno, ih3.trans hcyc⟩

/-- Each live core is met once, the current one included. -/
theorem foldl_cutCore_liveCores (a : Nat) (s : State) : ∃ d,
    ((liveCores s).foldl (fun u g => cutCore a g u) s).core = endNwait s.cyc d (cutCommands a s.core) := by
  have hbefore : s.coreNo ∉ (s.others.map Prod.fst).filter fun k => decide (k < s.coreNo) := by simp
  have hafter : s.coreNo ∉ (s.others.map Prod.fst).filter fun k => decide (s.coreNo < k) := by simp
  unfold liveCores
  dsimp only
  rw [List.foldl_append, List.foldl_append, List.foldl_cons, List.foldl_nil]
  obtain ⟨hcore, hno, hcyc⟩ := foldl_cutCore_others (a := a) hbefore
  generalize ((s.others.map Prod.fst).filter fun k => decide (k < s.coreNo)).foldl (fun u g => cutCore a g u) s = u
    at hcore hno hcyc
  rw [← hno] at hafter ⊢
  obtain ⟨hno', -⟩ := cutCore_current a u.coreNo u
  obtain ⟨hcore', -⟩ := foldl_cutCore_others (a := a) (s := cutCore a u.coreNo u) (by rw [hno']; exact hafter)
  exact ⟨freeDetail u, by rw [hcore', cutCore_core_self, hcore, hcyc]⟩

theorem endTable_mem (s : State) : (endTable s).mem = s.mem := by
  rw [endTable_eq, mem_foldl fun _ _ => cutCore_mem]
  exact (eq_of_flightless (p := State.mem) (fun _ => rfl) (flightless_failReplays s)).trans rfl

/-- R425. What the end of a timetable leaves of the fabric's state, the messages apart. -/
theorem endTable_fab (s : State) : ∃ M, (endTable s).fab = { (cutTable s).fab with sigs := M } := by
  refine ⟨(failReplays s).fab.sigs, ?_⟩
  have h : { (failReplays s).fab with sigs := [] } = { (cutTable s).fab with sigs := [] } :=
    congrArg State.fab (flightless_failReplays s)
  rw [endTable_eq, fab_foldl fun _ _ => cutCore_fab]
  exact congrArg (fun F : Fabric => { F with sigs := (failReplays s).fab.sigs }) h

/-- R286. A core that waits for a slot of the ended timetable waits no longer. -/
theorem endTable_nwait {n : Nat} (hn : s.core.nwait = some n) (hlate : s.cyc ≤ 88 * n) :
    (endTable s).core.nwait = none ∧ (endTable s).core.holdc = 0 ∧ (endTable s).core.holding = false
      ∧ ∃ d, (endTable s).core.reports = s.core.reports ++ [⟨0x07, 7, false, true, d, false⟩] := by
  have hcyc : (failReplays s).cyc = s.cyc :=
    (eq_of_flightless (p := State.cyc) (fun _ => rfl) (flightless_failReplays s)).trans rfl
  have hnw : (failReplays s).core.nwait = some n :=
    (eq_of_flightless (p := fun u => u.core.nwait) (fun _ => rfl) (flightless_failReplays s)).trans hn
  have hrep : (failReplays s).core.reports = s.core.reports :=
    (eq_of_flightless (p := fun u => u.core.reports) (fun _ => rfl) (flightless_failReplays s)).trans rfl
  obtain ⟨d, hd⟩ := foldl_cutCore_liveCores ((s.fab.table.map LinkTable.slotA).getD 0) (failReplays s)
  rw [endTable_eq, hd]
  unfold endNwait cutCommands
  dsimp only
  rw [hnw]
  dsimp only
  rw [if_neg (by omega), hrep]
  exact ⟨rfl, rfl, rfl, _, rfl⟩

theorem linkTimetableEnd_completes (h : tableStops s = true) : Completes .linkTimetableEnd s fun u =>
    u.fab.table = none ∧ u.fab.stopAt = none ∧ u.fab.reqq = [] ∧ u.fab.respq = [] ∧ u.fab.held = [] ∧ u.mem = s.mem
    ∧ (∀ t, s.fab.table = some t → u.fab.sends = s.fab.sends.filter fun q => !decide (q.tab = t.slotA))
    ∧ ∀ n, s.core.nwait = some n → s.cyc ≤ 88 * n → u.core.nwait = none ∧ u.core.holdc = 0 ∧ u.core.holding = false
      ∧ ∃ d, u.core.reports = s.core.reports ++ [⟨0x07, 7, false, true, d, false⟩] := by
  obtain ⟨M, hM⟩ := endTable_fab s
  refine ⟨endTable s, if_neg (by rw [h]; exact Bool.false_ne_true), ?_⟩
  have hnwait := fun n => endTable_nwait (s := s) (n := n)
  have hmem := endTable_mem s
  dsimp only
  rw [hM]
  refine ⟨rfl, rfl, rfl, rfl, rfl, hmem, fun t ht => ?_, hnwait⟩
  unfold cutTable
  rw [ht]
  rfl

theorem linkTimetableStart_completes {t : LinkTable} (h : startingTable s = some t) : Completes .linkTimetableStart s fun u =>
    u.fab.table = some t ∧ u.fab.stopAt = none ∧ u.mem = s.mem
    ∧ (s.fab.table = none → u.core = s.core ∧ u.fab.sends = s.fab.sends) := by
  have hexec : exec .linkTimetableStart s = .next (
      let u := if s.fab.table.isSome then endTable s else s
      { u with fab := { u.fab with
        table := some t, stopAt := none, pending := u.fab.pending.filter fun q => !decide (q = t) } }) := by
    change execLinkTimetableStart s = _
    unfold execLinkTimetableStart
    rw [h]
  refine ⟨_, hexec, rfl, rfl, mem_ite (endTable_mem s) rfl, fun hnone => ?_⟩
  dsimp only
  rw [hnone, if_neg (by simp)]
  exact ⟨rfl, rfl⟩

/-! ### Groups and injections -/

theorem groupActivate_completes (hg : mwf 0 s.fab.groupGen = true) (ha : mwf false s.fab.groupActive = true)
    (g : BitVec 10) (v : Byte) (hr : released s = true) : Completes (.groupActivate g v) s fun t =>
      mget false t.fab.groupActive g.toNat = v.getLsbD 7
      ∧ mget 0 t.fab.groupGen g.toNat = (if v.getLsbD 7 = true ∧ mget false s.fab.groupActive g.toNat = false then
          mget 0 s.fab.groupGen g.toNat + 1 else mget 0 s.fab.groupGen g.toNat)
      ∧ ∀ k, k ≠ g.toNat → mget 0 t.fab.groupGen k = mget 0 s.fab.groupGen k := by
  refine ⟨_, exec_of_released rfl hr, mget_mset_self ha _ _, (mget_mset_self hg _ _).trans ?_,
    fun k hk => mget_mset_of_ne hg hk _⟩
  simp only [Bool.and_eq_true, Bool.not_eq_true']

/-- R69. A write to word 1, then an arming that comes too late. -/
theorem finjWrite_completes (v : Word64) (hr : released s = true) :
    Completes (.finjWrite true v) s (fun t => t.finj.word1 = v ∧ (s.cyc ≤ 88 * v.toNat → t.finj.word0 = s.finj.word0))
    ∧ Completes (.finjWrite false v) s fun t => t.finj.word1 = s.finj.word1
      ∧ (v.getLsbD 31 = false ∨ s.cyc ≤ 88 * s.finj.word1.toNat → t.finj.word0 = v &&& 0x801FFFFF)
      ∧ (v.getLsbD 31 = true → 88 * s.finj.word1.toNat < s.cyc →
          t.finj.word0.getLsbD 31 = false ∧ t.finj.word0.getLsbD 32 = true) := by
  have hkeeps : (v &&& 0x801FFFFF#64).getLsbD 31 = v.getLsbD 31 := by simp
  refine ⟨⟨_, exec_of_released rfl hr, rfl, fun hlate => ?_⟩, ⟨_, exec_of_released rfl hr, rfl, fun h => ?_, fun ha hlate => ?_⟩⟩
  · exact if_neg (by simp; omega)
  · refine if_neg ?_
    rw [if_neg Bool.false_ne_true, if_neg Bool.false_ne_true, hkeeps, Bool.and_eq_true]
    rintro ⟨harmed, hlate⟩
    rcases h with h | h
    · exact absurd (h.symm.trans harmed) Bool.false_ne_true
    · exact absurd (of_decide_eq_true hlate) (Nat.not_lt.2 h)
  · dsimp only
    rw [if_neg Bool.false_ne_true, if_neg Bool.false_ne_true, hkeeps, ha, if_pos (by simpa using hlate)]
    constructor
    · simp
    · simp

end Sys2Proof.Machine
end

section
/-! SUPPORT. SIGNAL_APPLY (R48, R152, R160, R388). -/

namespace Sys2Proof.Machine

variable {s : State}

/-- R48. What a message to this module does next: a piece of its payload that is due, or its signal after them. -/
theorem msgAct_cases {m : SigMsg} {act : SigAct} (h : msgAct s m = some act) :
    (∃ x, act = .piece m x ∧ x ∈ m.pieces ∧ x.1 ≤ s.cyc)
    ∨ (act = .own m ∧ m.pieces = [] ∧ m.sigAt ≤ s.cyc ∧ ∀ k ∈ m.waits, outstanding s k = false) := by
  unfold msgAct at h
  split at h
  · exact nomatch h
  · split at h
    · next x hx =>
      obtain rfl := Option.some.inj h
      exact .inl ⟨x, rfl, List.mem_of_find?_eq_some hx, of_decide_eq_true (List.find?_some hx :)⟩
    · split at h
      · next hc =>
        obtain ⟨hpieces, hat, hwaits, -⟩ := hc
        obtain rfl := Option.some.inj h
        refine .inr ⟨rfl, hpieces, hat, ?_⟩
        simpa using hwaits
      · exact nomatch h

/-- An action of SIGNAL_APPLY is one of a message here, or of one that arrived. -/
theorem sigAct_cases {act : SigAct} (h : sigAct s = some act) :
    (∃ m, msgAct s m = some act) ∨ ∃ r a v, act = .far r a v := by
  unfold sigAct at h
  split at h
  · next hm =>
    obtain rfl := Option.some.inj h
    obtain ⟨m, -, hm⟩ := List.exists_of_findSome?_eq_some hm
    exact .inl ⟨m, hm⟩
  · obtain ⟨r, -, hr⟩ := List.exists_of_findSome?_eq_some h
    unfold rxSigAct at hr
    split at hr
    · obtain ⟨x, -, rfl⟩ := Option.map_eq_some_iff.1 hr
      exact .inr ⟨r, x.1, x.2, rfl⟩
    · exact nomatch hr

/-- The signal of a message here follows its payload and what it waits for. -/
theorem sigAct_own {m : SigMsg} (h : sigAct s = some (.own m)) :
    m.pieces = [] ∧ m.sigAt ≤ s.cyc ∧ ∀ k ∈ m.waits, outstanding s k = false := by
  obtain ⟨q, hq⟩ | ⟨r, a, v, hr⟩ := sigAct_cases h
  · obtain ⟨x, hx, -⟩ | ⟨hown, hdue⟩ := msgAct_cases hq
    · exact nomatch hx
    · obtain rfl := SigAct.own.inj hown
      exact hdue
  · exact nomatch hr

theorem sigAct_piece {m : SigMsg} {x : Nat × WriteUnit} (h : sigAct s = some (.piece m x)) : x ∈ m.pieces ∧ x.1 ≤ s.cyc := by
  obtain ⟨q, hq⟩ | ⟨r, a, v, hr⟩ := sigAct_cases h
  · obtain ⟨y, hy, hdue⟩ | ⟨hown, -⟩ := msgAct_cases hq
    · obtain ⟨rfl, rfl⟩ := SigAct.piece.inj hy
      exact hdue
    · exact nomatch hown
  · exact nomatch hr

/-- What SIGNAL_APPLY does for an action. -/
def applyAct (act : SigAct) (s : State) : State :=
  match act with
  | .piece m x => landPiece m.id x s
  | .own m => applyOwn m s
  | .far r a v => applyFar r.src a v { s with fab := { s.fab with rsigs := s.fab.rsigs.filter fun q => !decide (q = r) } }

theorem exec_signalApply {act : SigAct} (h : sigAct s = some act) : exec .signalApply s = .next (applyAct act s) := by
  change execSignalApply s = _
  unfold execSignalApply
  rw [h]
  cases act <;> rfl

theorem homeUnit_fab {w : Nat × List Byte} : (homeUnit w s).2.fab = s.fab := agentUnit_fab

/-- R48, R160. The arrival of another module's message stands among its updates. -/
theorem signalApply_arrival {r : RxSig} {a : Nat} (h : sigAct s = some (.far r a none)) : Completes .signalApply s fun t =>
    t.mem = s.mem ∧ r ∉ t.fab.rsigs ∧ ∃ u : BarrierUpd, t.barq = s.barq ++ [u] ∧ s.cyc ≤ u.due ∧ u.addr = a ∧ u.kind = 0
      ∧ u.n = 1 ∧ u.core = farAgent r.src ∧ u.bte = false ∧ u.sig = none ∧ u.waits = [] := by
  refine ⟨_, exec_signalApply h, rfl, ?_, _, rfl, ?_, rfl, rfl, rfl, rfl, rfl, rfl, rfl⟩
  · exact fun hr => by simpa using (List.mem_filter.1 hr).2
  · exact Nat.le_max_left ..

/-- R48, R152. A flag is written at its home. -/
theorem signalApply_far_flag (hok : s.memOk) {r : RxSig} {a : Nat} {v : Word64} (h : sigAct s = some (.far r a (some v)))
    (hw : Writable s a 8) : Completes .signalApply s fun t =>
      StoredBytes s.mem t.mem a (natToBytes 8 v.toNat) ∧ r ∉ t.fab.rsigs := by
  have hlen : (natToBytes 8 v.toNat).length = 8 := natToBytes_length ..
  obtain ⟨t, ht, hst⟩ := homeUnit_stores (s := { s with fab := { s.fab with
    rsigs := s.fab.rsigs.filter fun q => !decide (q = r) } }) hok (bs := natToBytes 8 v.toNat) (hlen.symm ▸ hw)
  have hfab := homeUnit_fab (w := (a, natToBytes 8 v.toNat)) (s := { s with fab := { s.fab with
    rsigs := s.fab.rsigs.filter fun q => !decide (q = r) } })
  rw [ht] at hfab
  refine ⟨_, exec_signalApply h, ?_⟩
  unfold applyAct applyFar
  dsimp only
  rw [ht]
  refine ⟨hst, fun hr => ?_⟩
  have hr' : r ∈ t.fab.rsigs := hr
  rw [hfab] at hr'
  simpa using (List.mem_filter.1 hr').2

theorem signalApply_own_flag (hok : s.memOk) {m : SigMsg} {v : Word64} (h : sigAct s = some (.own m)) (hflag : m.flag = some v)
    (hw : Writable s m.sigAddr 8) : Completes .signalApply s fun t =>
      StoredBytes s.mem t.mem m.sigAddr (natToBytes 8 v.toNat) ∧ m ∉ t.fab.sigs := by
  have hlen : (natToBytes 8 v.toNat).length = 8 := natToBytes_length ..
  obtain ⟨t, ht, hst⟩ := homeUnit_stores (s := { s with fab := { s.fab with
    sigs := s.fab.sigs.filter fun q => !decide (q.id = m.id) } }) hok (bs := natToBytes 8 v.toNat) (hlen.symm ▸ hw)
  have hfab := homeUnit_fab (w := (m.sigAddr, natToBytes 8 v.toNat)) (s := { s with fab := { s.fab with
    sigs := s.fab.sigs.filter fun q => !decide (q.id = m.id) } })
  rw [ht] at hfab
  refine ⟨_, exec_signalApply h, ?_⟩
  unfold applyAct applyOwn
  dsimp only
  rw [hflag]
  dsimp only
  rw [ht]
  refine ⟨hst, fun hm => ?_⟩
  have hm' : m ∈ t.fab.sigs := hm
  rw [hfab] at hm'
  simpa using (List.mem_filter.1 hm').2

theorem signalApply_piece {m : SigMsg} {x : Nat × WriteUnit} (h : sigAct s = some (.piece m x))
    (hw : ∀ w ∈ x.2, place w.1 ≠ .coded ∧ Writable s w.1 w.2.length) : Completes .signalApply s fun t =>
      t.mem = x.2.foldl (fun y w => y.writeBytes w.1 w.2) s.mem := by
  obtain ⟨t, ht, hmem⟩ := agentUnit_stores hw
  refine ⟨_, exec_signalApply h, ?_⟩
  unfold applyAct landPiece
  dsimp only
  rw [ht]
  exact hmem

end Sys2Proof.Machine
end

section
/-! SUPPORT. The fabric's events together. -/

namespace Sys2Proof.Machine

/-- Settles O49, a clause at a time: headers, flits, slots, remote requests and responses, link timetables, groups, the
injection register, signals. -/
theorem fabricEvents : Obligations.FabricEvents := by
  unfold Obligations.FabricEvents
  intro s hctr hgen hact hok sat
  refine ⟨fun p n sk e o st late hp hm => slotHeaderReceive_completes hctr hp hm, ?flit,
    fun hd => slotSend_completes hd rfl, ?request, ?response, ?tables, fun t => linkTimetableStart_completes,
    linkTimetableEnd_completes, fun g v => groupActivate_completes hgen hact g v, finjWrite_completes,
    fun r a => signalApply_arrival, ?own, ?piece, fun r a v h _ => signalApply_far_flag hok h⟩
  case flit =>
    intro f hp hm hserv hlo hhi st here hin hout
    by_cases hh : here
    · have hmay := mayArrive_of hlo hhi (here := true) (fun _ => hin hh) nofun
      obtain ⟨t, ht, hstat, hreg, hunc, hstale, hseen, hcopy, hsend⟩ := flitReceive_here hctr hok hp hm hserv hmay hh
      exact ⟨t, ht, hstat, hreg, hunc, hstale, fun _ => hseen, fun h => absurd hh h, fun a bs tags hst _ => hcopy a bs tags hst,
        fun data _ => hsend data⟩
    · have hmay := mayArrive_of hlo hhi (here := false) nofun (fun _ => hout hh)
      obtain ⟨t, ht, hstat, hreg, hunc, hstale, hmem, hheld⟩ := flitReceive_away hctr hp hm hserv hmay hh
      exact ⟨t, ht, hstat, hreg, hunc, hstale, fun h => absurd h hh, fun _ => ⟨hmem, hheld⟩, fun _ _ _ _ h => absurd h hh,
        fun _ h => absurd h hh⟩
  case request =>
    intro f id addr op tab hp hm hlo hhi htab hin hout answer
    have hmay : mayArrive (localPart s addr).isSome f.slot s = true :=
      mayArrive_of hlo hhi (fun h => hin (Option.isSome_iff_ne_none.1 h)) fun h => hout (by simpa using h)
    exact ⟨remoteRequest_not_ok hp hm hmay,
      fun a n hst hl hop hpos ha hs => hop ▸ remoteRequest_load hp hm hmay hst hl htab hs hpos ha,
      fun a bs hst hl hop hpos ha hw => hop ▸ remoteRequest_store hok hp hm hmay hst hl htab hw hpos ha,
      fun hst hl hp24 => remoteRequest_no_path hp24 hm hmay hst hl htab,
      fun h hst hl => remoteRequest_passed hp hm hmay hst hl htab⟩
  case response =>
    intro f id answer a hp hm hlo hhi hseen hmine ha u
    have hmay := mayArrive_of hlo hhi (here := true) (fun _ => hseen) nofun
    exact ⟨remoteResponse_not_ok hp hm hmay hmine, fun data n w hst => remoteResponse_data hp hm hmay hmine ha hst,
      fun hst => remoteResponse_failure hp hm hmay hmine ha hst⟩
  case tables =>
    exact fun hr a => ⟨fun t => exec_ltarm_some hr, exec_ltarm_none hr, exec_ltstop_table hr, exec_ltstop_nothing hr⟩
  case own =>
    intro m h
    obtain ⟨hpieces, hat, hwaits⟩ := sigAct_own h
    exact ⟨hpieces, hat, hwaits, fun v hv _ => signalApply_own_flag hok h hv⟩
  case piece =>
    intro m x h
    obtain ⟨hmem, hdue⟩ := sigAct_piece h
    exact ⟨hmem, hdue, signalApply_piece h⟩

end Sys2Proof.Machine
end

section
/-! SUPPORT. A load that fails writes the fault log (R61, R66, R253): what the load of another module's image does, and where the
bytes of the log's entry go. -/

namespace Sys2Proof.Machine

variable {s : State} {a : Nat}

/-- R66. An entry that finds room in an enabled log, over storage that can be written, stands at FL_HEAD. -/
theorem faultLog_mem {kind die core cause taskId entry tepc info addr : Nat} (hon : flogEnabled s.flog = true)
    (hroom : (s.flog.head.toNat + 1) % s.flog.size.toNat ≠ s.flog.tail.toNat)
    (hlocal : localPart s (s.flog.base.toNat + 32 * s.flog.head.toNat) = some a) (hwritable : writable s a 32 = true) :
    (faultLog kind die core cause taskId entry tepc info addr s).mem
      = s.mem.writeBytes a (flogBytes s.cyc kind die core cause taskId entry tepc info addr) := by
  unfold faultLog faultLogAt faultLogN
  extract_lets f lost
  rw [if_neg (by simp [f, hon]), if_neg hroom, hlocal]
  change (if writable s a 32 = true then _ else _ : State).mem = _
  rw [if_pos hwritable]
  extract_lets s1
  have hs1 : s1.mem = s.mem.writeBytes a (flogBytes s.cyc kind die core cause taskId entry tepc info addr) := memWrite_mem
  clear_value s1
  split
  · exact hs1
  · exact hs1

/-- R17, R253. An error at a location that no unit owns is logged as lasting. -/
theorem classify_unowned (h : ∀ inL2, unitOf inL2 a = none) : classify a s = faultLog 5 0 0x1FF 0 0 0xFFFF 0 0 a s := by
  unfold classify
  dsimp only
  rw [h]

/-- R61, R135. Text in another module's memory cannot be read: the load fails, and the failure is classified. -/
theorem loadCode_text_afar {g : Nat} {l : Launch} (hlen : pdTextLen l.pd ≠ 0) (h : localPart s (pdText l.pd) = none) :
    loadCode g l s = (false, classify (pdText l.pd) s) := by
  unfold loadCode codeRanges walkReads
  dsimp only
  rw [if_neg (by omega), h]

/-- R75. The preload of such a task changes memory as the classification of its failure does. -/
theorem codePreload_text_afar {g i : Nat} {q : Incoming} (hi : preloadIdx (coreAt s g) = some i)
    (hq : (coreAt s g).queue[i]? = some q) (hlen : pdTextLen q.l.pd ≠ 0) (h : localPart s (pdText q.l.pd) = none) :
    Completes (.codePreload g) s fun t => t.mem = (classify (pdText q.l.pd) s).mem := by
  have hnext : exec (.codePreload g) s
      = .next (setQueued g i { q with code := some (s.cyc + clb q.l), failed := true } (classify (pdText q.l.pd) s)) := by
    have hexec : exec (.codePreload g) s = execCodePreload g s := rfl
    rw [hexec, execCodePreload]
    dsimp only
    rw [hi, Option.bind_some, hq, Option.map_some]
    dsimp only
    rw [loadCode_text_afar hlen h]
    rfl
  exact ⟨_, hnext, modCore_mem⟩

end Sys2Proof.Machine
end

section
/-! TASKS. The counterexample to O46. -/

namespace Sys2Proof.Machine

/-- R61. A task to preload whose one line of text stands at 2^44, in the memory of module 1. -/
def afarTask : Incoming where
  l := {
    pool := none, die := 0, entry := 0, pass := 0, bit := 0, tick := 0, cls := 1, pre := true, dep := false, rerun := false
    latep := 0, prev := none, budget := 0, pdAddr := 0, args := 0, imgAddr := 0, imgSize := 0, taskId := 0
    pd := BitVec.ofNat 512 (2 ^ 44 + 2 ^ 64) }
  code := none
  spad := none
  late := false
  isRerun := false
  failed := false
  inits := []
  asked := false
  firstEnd := (0, 0)

/-- R66. Module 0 after reset, with a fault log of 16 entries at address 0 and that task queued on core 0. -/
def loggingState : State :=
  { State.reset with
    flog := { FaultLog.reset with size := 16 }
    core := { Core.idle with queue := [afarTask] } }

/-- The failed preload leaves memory with an entry of kind 5 in the log. -/
theorem loggingState_preload : Completes (.codePreload 0) loggingState fun t =>
    t.mem = Memory.writeBytes [] 0 (flogBytes 0 5 0 0x1FF 0 0 0xFFFF 0 0 (2 ^ 44)) := by
  have htext : pdText afarTask.l.pd = 2 ^ 44 := by decide +kernel
  obtain ⟨t, ht, hmem⟩ := codePreload_text_afar (s := loggingState) (g := 0) (i := 0) (q := afarTask) (by decide +kernel)
    rfl (by decide +kernel) (by decide +kernel)
  have hunowned : ∀ inL2, unitOf inL2 (2 ^ 44) = none := by decide
  refine ⟨t, ht, ?_⟩
  beta_reduce
  rw [hmem, htext, classify_unowned hunowned]
  exact faultLog_mem (s := loggingState) (by decide) (by decide) (by decide) (by decide)

/-- Refutes O46: a code preload that fails does not leave memory as it was where the fault log is on, since the failed read is
classified and its entry is written (R253, R66). -/
theorem not_taskEvents : ¬ Obligations.TaskEvents := by
  unfold Obligations.TaskEvents
  intro h
  obtain ⟨-, hfails, -⟩ := h 0 loggingState rfl rfl
  obtain ⟨t, ht, -, hsame⟩ := hfails 0 afarTask (by decide +kernel) rfl rfl (by decide +kernel)
  obtain ⟨u, hu, hlogged⟩ := loggingState_preload
  obtain rfl : t = u := by
    rw [ht] at hu
    injection hu
  have hbyte : Memory.read [] 8 = 5 := by
    rw [hsame] at hlogged
    exact (congrArg (Memory.read · 8) hlogged).trans (by decide)
  exact absurd hbyte (by decide)

end Sys2Proof.Machine
end

section
/-! TIMETABLES AND THE POOL. The counterexample to O47. -/

namespace Sys2Proof.Machine

/-- R199. Two bytes that begin a malformed block of the coded view, and before them one of core 0's text window: no canonical list,
for the keys do not rise, so that the bytes of the block read 0 as long as the one before them is listed. -/
def shadowedBytes : Memory := [(0xEC00000000, 1), (0x50000, 0xFF), (0x50001, 0x07)]

/-- R70, R194. A task stands in the pool: its descriptor at 0x40100 names one line of text at 0x40000, and its input image is one
sector of the coded view, whose backing at 0x50000 those bytes hold. -/
def shadowedState : State :=
  { State.reset with
    cyc := 1
    mem := Memory.writeBytes [] 0x40100 (natToBytes 64 (0x40000 + 2 ^ 64)) ++ shadowedBytes
    region := [(0, { Region.none with lbase := 0x10000000000, len := 4096, pbase := 0x50000, v := true })]
    pool := { Pool.reset with
      entries := [(0, BitVec.ofNat 512 (0x40100 * 2 ^ 64 + 0x10000000000 * 2 ^ 192 + 16 * 2 ^ 256 + 2 ^ 361))] } }

/-- Which of the loads of core `g`'s queued tasks have failed, after a step. -/
def failedLoads (g : Nat) : Res → List Bool
  | .next t => (coreAt t g).queue.map Incoming.failed
  | .fault _ => []
  | .refused _ => []

/-- Core 0 may take the task, and every image of it can be read. -/
theorem shadowedState_takes :
    takeDue shadowedState = true ∧ firstPool shadowedState = some 0 ∧ poolCore shadowedState 0 = some 0
    ∧ (let l := poolLaunch shadowedState 0 0
       readGa shadowedState l.pdAddr.toNat 64 ≠ none ∧ imageFieldsOk l.pdAddr.toNat l.imgAddr.toNat l.imgSize.toNat = true
       ∧ descriptorOk shadowedState l = true) := by
  decide +kernel

/-- The code load stores a 0 in the text window and so drops the entry that hid the malformed block: the input image cannot be read
any more. -/
theorem shadowedState_fails : failedLoads 0 (exec .poolTake shadowedState) = [true] := by
  decide +kernel

/-- Refutes O47: nothing in it asks memory to be canonical, as O46 does and as the memory of every state reached from reset is (O57,
O58). Where it is not, a take's own load of the text can change what its input image reads. -/
theorem not_schedulerRegisters : ¬ Obligations.SchedulerRegisters := by
  unfold Obligations.SchedulerRegisters
  intro h
  obtain ⟨-, -, -, -, htake, -, -⟩ := h shadowedState rfl (by decide +kernel) rfl
  obtain ⟨hdue, hfirst, hcore, hread, hfields, hok⟩ := shadowedState_takes
  obtain ⟨t, ht, -, -, -, -, inits, hqueue⟩ := htake 0 0 hdue rfl hfirst hcore hread hfields hok
  have hfailed := shadowedState_fails
  rw [ht, failedLoads, hqueue, List.map_cons] at hfailed
  injection hfailed with hhead _
  exact Bool.false_ne_true hhead

end Sys2Proof.Machine
end

section
/-! SUPPORT. The end of a task (R86, R249, R258): the commands that have not started fail their tokens, and how the task ended is
recorded. -/

namespace Sys2Proof.Machine

variable {s : State}

/-- The tokens after the commands `cs` have completed done-error. -/
def failTokens (cs : List Cmd) (m : SMap TokState) : SMap TokState :=
  cs.foldl (fun m c => if c.produce = 0 then m else mset .ok m c.produce.toNat .err) m

theorem setTok_eq (n : Tok) (v : TokState) (s : State) : setTok n v s =
    { s with core := { s.core with dt := if n = 0 then s.core.dt else mset .ok s.core.dt n.toNat v } } := by
  unfold setTok
  split
  · rfl
  · rfl

theorem foldl_setTok_err (cs : List Cmd) (s : State) : cs.foldl (fun s c => setTok c.produce .err s) s =
    { s with core := { s.core with dt := failTokens cs s.core.dt } } := by
  induction cs generalizing s with
  | nil => rfl
  | cons c cs ih =>
    rw [List.foldl_cons, ih, setTok_eq]
    rfl

/-- R86, R258. Discarding the commands that have not started changes their tokens and empties the buffer. -/
theorem discardBte_eq (s : State) : discardBte s =
    { s with core := { s.core with dt := failTokens s.core.bte s.core.dt, bte := [] } } := by
  unfold discardBte
  rw [foldl_setTok_err]

theorem mget_failTokens {cs : List Cmd} {m : SMap TokState} (hm : mwf .ok m = true) {k : Tok} (hk : k ≠ 0) :
    mget .ok (failTokens cs m) k.toNat = if ∃ x ∈ cs, x.produce = k then .err else mget .ok m k.toNat := by
  induction cs generalizing m with
  | nil => simp [failTokens]
  | cons c cs ih =>
    have hstep : failTokens (c :: cs) m
        = failTokens cs (if c.produce = 0 then m else mset .ok m c.produce.toNat .err) := rfl
    rw [hstep, ih (mwf_ite hm (mwf_mset hm _ _))]
    simp only [List.exists_mem_cons_iff]
    by_cases hcs : ∃ x ∈ cs, x.produce = k
    · rw [if_pos hcs, if_pos (.inr hcs)]
    · rw [if_neg hcs]
      by_cases hc : c.produce = k
      · have hor : c.produce = k ∨ ∃ x ∈ cs, x.produce = k := .inl hc
        rw [if_pos hor, if_neg (hc ▸ hk), hc, mget_mset_self hm]
      · have hne : k.toNat ≠ c.produce.toNat := fun h => hc (BitVec.eq_of_toNat_eq h.symm)
        rw [if_neg (not_or.2 ⟨hc, hcs⟩)]
        split
        · rfl
        · exact mget_mset_of_ne hm hne _

/-- R86, R249. After any ending but DONE. -/
theorem endTask_eq {k : EndKind} (hk : k ≠ .done) (s : State) : endTask k s = { s with core := { s.core with
    phase := .ended, ending := some k, endCyc := s.cyc, wait := none, entering := none, raised := none, reports := []
    drainReq := none, memerr := none, dt := failTokens s.core.bte s.core.dt, bte := [] } } := by
  unfold endTask
  rw [if_neg hk, discardBte_eq]

theorem endTask_done (s : State) : endTask .done s = { s with core := { s.core with
    phase := .ended, ending := some .done, endCyc := s.cyc, wait := none, entering := none, raised := none, reports := []
    drainReq := none, memerr := none } } := rfl

/-- R86. `t` is `s` with its task ended in this cycle as `k` says; registers, the register array, memory, TCAUSE and TEPC stay. -/
def EndsTask (k : EndKind) (s t : State) : Prop :=
  t.core.phase = .ended ∧ t.core.ending = some k ∧ t.core.endCyc = s.cyc
    ∧ t.core.sreg = s.core.sreg ∧ t.core.greg = s.core.greg ∧ t.core.tile = s.core.tile ∧ t.mem = s.mem
    ∧ t.core.tcause = s.core.tcause ∧ t.core.tepc = s.core.tepc

theorem endTask_endsTask (k : EndKind) (s : State) : EndsTask k s (endTask k s) := by
  by_cases hk : k = .done
  · rw [hk, endTask_done]
    exact ⟨rfl, rfl, rfl, rfl, rfl, rfl, rfl, rfl, rfl⟩
  · rw [endTask_eq hk]
    exact ⟨rfl, rfl, rfl, rfl, rfl, rfl, rfl, rfl, rfl⟩

/-! ### Causes of an operation (R250) -/

theorem orRaise_some {slot code detail : Nat} {c : Option (Nat × Nat)} {cs : List (Option (Nat × Nat))} {k : State → State}
    (h : c = some (code, detail)) : orRaise slot (c :: cs) k s = raise code slot detail s := by
  rw [h]
  rfl

theorem orRaise_none {slot : Nat} {c : Option (Nat × Nat)} {cs : List (Option (Nat × Nat))} {k : State → State} (h : c = none) :
    orRaise slot (c :: cs) k s = orRaise slot cs k s := by
  rw [h]
  rfl

theorem orRaise_nil {slot : Nat} {k : State → State} : orRaise slot [] k s = k s := rfl

theorem causeIf_true {b : Bool} (h : b = true) (code detail : Nat) : causeIf b code detail = some (code, detail) := if_pos h

theorem causeIf_false {b : Bool} (h : b = false) (code detail : Nat) : causeIf b code detail = none :=
  if_neg (h ▸ Bool.false_ne_true)

end Sys2Proof.Machine
end

section
/-! SUPPORT. A store of the current core at a local physical address (R123, R130, R156, R373): what it changes, and from when on its
own loads see it. -/

namespace Sys2Proof.Machine

variable {s : State}

/-! ### L2 (R130–R132) -/

/-- `t` is `s` but for what L2 holds and has displaced, and the draws made. -/
def OnlyL2 (s t : State) : Prop := { t with l2 := s.l2, evq := s.evq, free := s.free } = s

theorem OnlyL2.refl (s : State) : OnlyL2 s s := rfl

theorem OnlyL2.trans {t u : State} (h : OnlyL2 s t) (h' : OnlyL2 t u) : OnlyL2 s u := by
  have := congrArg (fun x : State => { x with l2 := s.l2, evq := s.evq, free := s.free }) h'
  exact this.trans h

theorem OnlyL2.foldl {ι : Type} {f : State → ι → State} (hf : ∀ s i, OnlyL2 s (f s i)) (l : List ι) (s : State) :
    OnlyL2 s (l.foldl f s) := by
  induction l generalizing s with
  | nil => exact .refl s
  | cons i l ih => exact (hf s i).trans (ih _)

theorem OnlyL2.ite {p : Prop} {_ : Decidable p} {t u : State} (ht : OnlyL2 s t) (hu : OnlyL2 s u) :
    OnlyL2 s (if p then t else u) := by
  split
  · exact ht
  · exact hu

theorem l2Drop_onlyL2 (die line : Nat) (s : State) : OnlyL2 s (l2Drop die line s) := by
  unfold l2Drop
  extract_lets k x
  split
  · exact .refl s
  · exact .refl s

theorem l2Line_onlyL2 (pol : Nat) (wr : Bool) (die line : Nat) (mask : BitVec 4) (s : State) :
    OnlyL2 s (l2Line pol wr die line mask s) := by
  unfold l2Line
  extract_lets k x ws put d
  have hput : ∀ w l t, OnlyL2 t (put w l t) := fun _ _ t => .refl t
  have htwin : ∀ line t, OnlyL2 t (l2Twin die line t) := fun _ t => .ite (l2Drop_onlyL2 ..) (.refl t)
  split
  · exact hput ..
  · split
    · exact .refl s
    · split
      · exact hput ..
      · refine OnlyL2.trans ?_ ((htwin ..).trans (hput ..))
        exact .ite (.refl s) (.refl s)

theorem l2Touch_onlyL2 (pol : Nat) (wr : Bool) (a n : Nat) (s : State) : OnlyL2 s (l2Touch pol wr a n s) := by
  have hnext : ∀ t, OnlyL2 t (nextAccess t) := fun t => .ite (.refl t) (.refl t)
  unfold l2Touch
  exact (OnlyL2.ite (.refl s) (.foldl (fun _ _ => l2Line_onlyL2 ..) _ _)).trans (hnext _)

theorem OnlyL2.slow {t : State} (h : OnlyL2 s t) : t.slow = s.slow := (congrArg State.slow h :)
theorem OnlyL2.mem {t : State} (h : OnlyL2 s t) : t.mem = s.mem := (congrArg State.mem h :)

/-! ### What a store leaves (R123, R156, R373) -/

/-- `t` is `s` but for memory, L2, the draws made and the records of what readers may still see of earlier contents. -/
def OnlyStore (s t : State) : Prop :=
  { t with
    mem := s.mem, l2 := s.l2, evq := s.evq, vers := s.vers, slow := s.slow, free := s.free
    core := { t.core with bold := s.core.bold } } = s

theorem OnlyStore.trans {t u : State} (h : OnlyStore s t) (h' : OnlyStore t u) : OnlyStore s u := by
  have := congrArg (fun x : State => { x with
    mem := s.mem, l2 := s.l2, evq := s.evq, vers := s.vers, slow := s.slow, free := s.free
    core := { x.core with bold := s.core.bold } }) h'
  exact this.trans h

theorem OnlyL2.onlyStore {t : State} (h : OnlyL2 s t) : OnlyStore s t := by
  have := congrArg (fun x : State => { x with
    mem := s.mem, vers := s.vers, slow := s.slow, core := { x.core with bold := s.core.bold } }) h
  exact this

theorem OnlyStore.coreNo {t : State} (h : OnlyStore s t) : t.coreNo = s.coreNo := (congrArg State.coreNo h :)

theorem OnlyStore.icnt {t : State} (h : OnlyStore s t) : t.core.icnt = s.core.icnt :=
  (congrArg (fun u : State => u.core.icnt) h :)

theorem OnlyStore.onlyMemory {t : State} (h : OnlyStore s t) : OnlyMemory s t := by
  have hothers : t.others = s.others := (congrArg State.others h :)
  refine ⟨?_, fun _ g => by rw [hothers]⟩
  have := congrArg (fun x : State => { x with
    core := { x.core with unfetched := s.core.unfetched, l1 := s.core.l1 }, others := s.others }) h
  exact this

theorem OnlyStore.foldl_noteStore {due : Option Nat} {old : State → Nat → List Byte} {dirty : Byte}
    {runs : List (Nat × List Byte)} (gs : List Nat) (s : State) :
    OnlyStore s (gs.foldl (fun s g => noteStore due g (old s g) dirty runs s) s) := by
  induction gs generalizing s with
  | nil => rfl
  | cons g gs ih => exact OnlyStore.trans (t := noteStore due g (old s g) dirty runs s) rfl (ih _)

theorem foldl_noteStore_mem {due : Option Nat} {old : State → Nat → List Byte} {dirty : Byte} {runs : List (Nat × List Byte)}
    (gs : List Nat) (s : State) : (gs.foldl (fun s g => noteStore due g (old s g) dirty runs s) s).mem = s.mem :=
  mem_foldl (f := fun s g => noteStore due g (old s g) dirty runs s) (fun _ _ => rfl) gs s

theorem keepBold_onlyStore (a n : Nat) (s : State) : OnlyStore s (keepBold a n s) := rfl

theorem homeWrite_onlyStore (due : Option Nat) (a : Nat) (bs : List Byte) (s : State) : OnlyStore s (homeWrite due a bs s) := by
  unfold homeWrite
  extract_lets s1 s2
  have hs1 : OnlyStore s s1 := (l2Touch_onlyL2 0 true a bs.length s).onlyStore.trans (keepBold_onlyStore ..)
  have hs2 : OnlyStore s1 s2 := OnlyStore.foldl_noteStore (old := fun s g => s.mem.readBytes g 16) _ s1
  clear_value s2
  exact hs1.trans hs2

theorem homeWrite_mem (due : Option Nat) (a : Nat) (bs : List Byte) (s : State) :
    (homeWrite due a bs s).mem = s.mem.writeBytes a bs := by
  unfold homeWrite
  extract_lets s1 s2
  have hs2 : s2.mem = s1.mem := foldl_noteStore_mem (old := fun s g => s.mem.readBytes g 16) _ s1
  have hs1 : s1.mem = s.mem := (l2Touch_onlyL2 0 true a bs.length s).mem
  exact congrArg (fun m : Memory => m.writeBytes a bs) (hs2.trans hs1)

/-- R373. The bytes hidden from the core's loads are those hidden before, or those of this store, until `d`. -/
theorem foldl_noteStore_slow {d : Nat} {old : State → Nat → List Byte} {dirty : Byte} {runs : List (Nat × List Byte)}
    {gs : List Nat} (h : mwf [] s.slow = true) {k : Nat} {v : Slow}
    (hv : v ∈ mget [] (gs.foldl (fun s g => noteStore (some d) g (old s g) dirty runs s) s).slow k) :
    v ∈ mget [] s.slow k ∨ v.due = d := by
  induction gs generalizing s with
  | nil => exact .inl hv
  | cons g gs ih =>
    rcases ih (s := noteStore (some d) g (old s g) dirty runs s) (mwf_mset h _ _) hv with hv | hv
    · change v ∈ mget [] (mset [] s.slow (g / 16) _) k at hv
      by_cases hk : k = g / 16
      · rw [hk, mget_mset_self h] at hv
        rcases List.mem_append.1 hv with hv | hv
        · exact .inl (hk ▸ (List.mem_filter.1 hv).1)
        · exact .inr (List.mem_singleton.1 hv ▸ rfl)
      · rw [mget_mset_of_ne h hk] at hv
        exact .inl hv
    · exact .inr hv

theorem homeWrite_slow {d a : Nat} {bs : List Byte} (h : mwf [] s.slow = true) {k : Nat} {v : Slow}
    (hv : v ∈ mget [] (homeWrite (some d) a bs s).slow k) : v ∈ mget [] s.slow k ∨ v.due = d := by
  unfold homeWrite at hv
  extract_lets s1 s2 at hv
  have hs1 : s1.slow = s.slow := (l2Touch_onlyL2 0 true a bs.length s).slow
  exact hs1 ▸ foldl_noteStore_slow (old := fun s g => s.mem.readBytes g 16) (hs1 ▸ h) hv

/-! ### What the core's loads see (R123, R373) -/

theorem slowOf_eq_none_iff {g : Nat} :
    slowOf s g = none ↔ ∀ v ∈ mget [] s.slow (g / 16), v.core = s.coreNo → v.due ≤ s.core.icnt := by
  unfold slowOf
  rw [Option.map_eq_none_iff, List.find?_eq_none]
  simp

/-- A byte that neither the bundle's own stores nor an earlier one hide reads as the home has it. -/
theorem readOld_eq_read {x : Nat} (hb : s.core.bold = []) (hs : slowOf s (granule x).1 = none) : readOld s x = s.mem.read x := by
  unfold readOld
  rw [hb, mget_nil, hs]

/-! ### What landing leaves of memory (R99) -/

/-- What the core's loads of a module's own memory depend on. -/
def loadView (s : State) : Nat × Nat × Memory × SMap (List Slow) × SMap (Option Byte) :=
  (s.coreNo, s.core.icnt, s.mem, s.slow, s.core.bold)

theorem loadView_applyEffect (e : Effect) (s : State) : loadView (applyEffect e s) = loadView s := by
  cases e
  case sys n v =>
    have h : SysWrite v s.core n (applySys n v s.core) := applySys_sysWrite n v s.core
    change (s.coreNo, (applySys n v s.core).icnt, s.mem, s.slow, (applySys n v s.core).bold) = _
    generalize applySys n v s.core = c at h ⊢
    cases h <;> rfl
  all_goals rfl

theorem loadView_applyFlag (e : Effect) (s : State) : loadView (applyFlag e s) = loadView s := by
  cases e <;> rfl

theorem loadView_later (n : Nat) (s : State) :
    loadView (later n s) = (s.coreNo, s.core.icnt + n, s.mem, s.slow, s.core.bold) := by
  have hfold {f : Effect → State → State} (hf : ∀ e s, loadView (f e s) = loadView s) (es : List Effect) (s : State) :
      loadView (es.foldl (fun s e => f e s) s) = loadView s := by
    induction es generalizing s with
    | nil => rfl
    | cons e es ih => exact (ih _).trans (hf e s)
  unfold later landAll
  extract_lets ds s1
  rw [hfold loadView_applyFlag, hfold loadView_applyEffect]
  rfl

/-- R373. A store that shows from `d` on is seen `n` issue cycles later where no older one hides the byte. -/
theorem readOld_later_of_shown {t : State} {d n x : Nat} (hno : t.coreNo = s.coreNo) (hicnt : t.core.icnt = s.core.icnt)
    (hb : t.core.bold = []) (hslow : ∀ k, ∀ v ∈ mget [] t.slow k, v ∈ mget [] s.slow k ∨ v.due = d)
    (hd : d ≤ s.core.icnt + n) (hx : slowOf s (granule x).1 = none) : readOld (later n t) x = t.mem.read x := by
  have hlater := loadView_later n t
  simp only [loadView, Prod.mk.injEq] at hlater
  obtain ⟨hno', hicnt', hm', hs', hb'⟩ := hlater
  rw [← hm']
  refine readOld_eq_read (hb'.trans hb) (slowOf_eq_none_iff.2 fun v hv hcore => ?_)
  rw [hs'] at hv
  rw [hno', hno] at hcore
  rw [hicnt', hicnt]
  rcases hslow _ v hv with hv | rfl
  · exact Nat.le_add_right_of_le (slowOf_eq_none_iff.1 hx v hv hcore)
  · exact hd

end Sys2Proof.Machine
end

section
/-! SUPPORT. The record of SAVEX and RESTX (R256, R257): its fields side by side. -/

namespace Sys2Proof.Machine

variable {s : State}

/-- Fields, each of a width and a value, side by side from digit 0 upward, in base `b`. -/
def packFields (b : Nat) : List (Nat × Nat) → Nat
  | [] => 0
  | f :: fs => f.2 + b ^ f.1 * packFields b fs

/-- The bits that the fields take up. -/
def fieldsWidth (fs : List (Nat × Nat)) : Nat := (fs.map Prod.fst).sum

/-- Every value fits the width of its field. -/
def FieldsFit (fs : List (Nat × Nat)) : Prop := ∀ f ∈ fs, f.2 < 2 ^ f.1

theorem packFields_append (b : Nat) (fs gs : List (Nat × Nat)) :
    packFields b (fs ++ gs) = packFields b fs + b ^ fieldsWidth fs * packFields b gs := by
  induction fs with
  | nil => simp [packFields, fieldsWidth]
  | cons f fs ih =>
    have hw : fieldsWidth (f :: fs) = f.1 + fieldsWidth fs := rfl
    rw [List.cons_append, packFields, ih, packFields, hw, Nat.pow_add]
    ring

theorem packFields_lt {fs : List (Nat × Nat)} (h : FieldsFit fs) : packFields 2 fs < 2 ^ fieldsWidth fs := by
  induction fs with
  | nil => exact Nat.one_pos
  | cons f fs ih =>
    have hf : f.2 < 2 ^ f.1 := h f List.mem_cons_self
    have hfs : packFields 2 fs + 1 ≤ 2 ^ fieldsWidth fs := ih fun x hx => h x (List.mem_cons_of_mem _ hx)
    have hw : fieldsWidth (f :: fs) = f.1 + fieldsWidth fs := rfl
    rw [hw, Nat.pow_add]
    calc packFields 2 (f :: fs) < 2 ^ f.1 + 2 ^ f.1 * packFields 2 fs := Nat.add_lt_add_right hf _
      _ = 2 ^ f.1 * (packFields 2 fs + 1) := by ring
      _ ≤ 2 ^ f.1 * 2 ^ fieldsWidth fs := Nat.mul_le_mul_left _ hfs

/-- The bits of field `i`, above the fields before it, hold its value. -/
theorem natBits_packFields {fs : List (Nat × Nat)} (h : FieldsFit fs) {i w v lo hi : Nat} (hf : fs[i]? = some (w, v))
    (hlo : ((fs.map Prod.fst).take i).sum = lo) (hhi : hi + 1 = lo + w) : natBits (packFields 2 fs) hi lo = v := by
  rw [← List.map_take] at hlo
  change fieldsWidth (fs.take i) = lo at hlo
  obtain ⟨hi', hget⟩ := List.getElem?_eq_some_iff.1 hf
  have hsplit : fs.take i ++ (w, v) :: fs.drop (i + 1) = fs := by
    rw [← hget, ← List.drop_eq_getElem_cons hi', List.take_append_drop]
  have hpre : packFields 2 (fs.take i) < 2 ^ lo := hlo ▸ packFields_lt fun f hf => h f (List.mem_of_mem_take hf)
  have hv : v < 2 ^ w := h (w, v) (List.mem_of_getElem? hf)
  rw [← hsplit, packFields_append, hlo, packFields]
  unfold natBits
  rw [Nat.shiftRight_eq_div_pow, Nat.add_mul_div_left _ _ (Nat.two_pow_pos lo), Nat.div_eq_of_lt hpre, Nat.zero_add, hhi,
    Nat.add_sub_cancel_left, Nat.add_mul_mod_self_left, Nat.mod_eq_of_lt hv]

/-- R256. The fields of the save record, the reserved ones as 0. -/
def recordFields (c : Core) : List (Nat × Nat) :=
  [(32, c.trip.toNat), (32, c.kix.toNat), (32, c.olc.toNat), (6, c.rot.toNat), (10, 0), (32, c.holdc.toNat), (12, c.pausec.toNat),
    (1, c.waitr.toNat), (3, 0), (15, c.tepc.toNat), (1, 0), (8, c.tcause.toNat), (18, c.rsd0.toNat), (40, c.waitop.toNat), (14, 0)]
  ++ (List.range 8).map fun j => (64, (mget 0 c.preg (8 + j)).toNat)

/-- R256. The widths of these fields. -/
def recordWidths : List Nat :=
  [32, 32, 32, 6, 10, 32, 12, 1, 3, 15, 1, 8, 18, 40, 14, 64, 64, 64, 64, 64, 64, 64, 64]

theorem map_fst_recordFields (c : Core) : (recordFields c).map Prod.fst = recordWidths := rfl

theorem recordFields_fit (c : Core) : FieldsFit (recordFields c) := by
  unfold FieldsFit recordFields
  simp only [List.forall_mem_append, List.forall_mem_cons, List.forall_mem_map]
  have hzero (w : Nat) : 0 < 2 ^ w := Nat.two_pow_pos w
  exact ⟨⟨BitVec.isLt _, BitVec.isLt _, BitVec.isLt _, BitVec.isLt _, hzero 10, BitVec.isLt _, BitVec.isLt _, Bool.toNat_lt _,
    hzero 3, BitVec.isLt _, hzero 1, BitVec.isLt _, BitVec.isLt _, BitVec.isLt _, hzero 14, List.forall_mem_nil _⟩,
    fun _ _ => BitVec.isLt _⟩

/-- Where the fields of the record stand: their digits as R256 numbers them, in any base. -/
theorem packFields_record (b trip kix olc rot holdc pausec waitr tepc tcause rsd0 waitop : Nat) (p : Nat → Nat) :
    trip + kix * b ^ 32 + olc * b ^ 64 + rot * b ^ 96 + holdc * b ^ 112 + pausec * b ^ 144 + waitr * b ^ 156 + tepc * b ^ 160
      + tcause * b ^ 176 + rsd0 * b ^ 184 + waitop * b ^ 202
      + ((List.range 8).map fun j => p j * b ^ (256 + 64 * j)).foldl (fun x y => x + y) 0
    = packFields b ([(32, trip), (32, kix), (32, olc), (6, rot), (10, 0), (32, holdc), (12, pausec), (1, waitr), (3, 0),
        (15, tepc), (1, 0), (8, tcause), (18, rsd0), (40, waitop), (14, 0)] ++ (List.range 8).map fun j => (64, p j)) := by
  have hrange : List.range 8 = [0, 1, 2, 3, 4, 5, 6, 7] := rfl
  simp only [hrange, List.map, List.foldl, List.cons_append, List.nil_append, packFields]
  ring

theorem saveRecord_eq (s : State) : saveRecord s = packFields 2 (recordFields s.core) := by
  have hwaitr : (if s.core.waitr then 2 ^ 156 else 0) = s.core.waitr.toNat * 2 ^ 156 := by
    cases s.core.waitr
    · exact (Nat.zero_mul _).symm
    · exact (Nat.one_mul _).symm
  unfold saveRecord recordFields
  rw [← packFields_record]
  dsimp only
  rw [hwaitr]

/-- R256. A field of the save record. -/
theorem natBits_saveRecord {i w v lo hi : Nat} (hf : (recordFields s.core)[i]? = some (w, v))
    (hlo : (recordWidths.take i).sum = lo) (hhi : hi + 1 = lo + w) : natBits (saveRecord s) hi lo = v :=
  saveRecord_eq s ▸ natBits_packFields (recordFields_fit s.core) hf ((map_fst_recordFields s.core).symm ▸ hlo) hhi

/-- R256. `r` is the save record of a core: its fields, and 0 in the reserved ones. -/
def RecordOf (c : Core) (r : Nat) : Prop :=
  natBits r 31 0 = c.trip.toNat ∧ natBits r 63 32 = c.kix.toNat ∧ natBits r 95 64 = c.olc.toNat
    ∧ natBits r 101 96 = c.rot.toNat ∧ natBits r 111 102 = 0 ∧ natBits r 143 112 = c.holdc.toNat
    ∧ natBits r 155 144 = c.pausec.toNat ∧ natBits r 156 156 = c.waitr.toNat ∧ natBits r 159 157 = 0
    ∧ natBits r 174 160 = c.tepc.toNat ∧ natBits r 175 175 = 0 ∧ natBits r 183 176 = c.tcause.toNat
    ∧ natBits r 201 184 = c.rsd0.toNat ∧ natBits r 241 202 = c.waitop.toNat ∧ natBits r 255 242 = 0
    ∧ ∀ j, j < 8 → natBits r (256 + 64 * j + 63) (256 + 64 * j) = (mget 0 c.preg (8 + j)).toNat

theorem recordOf_saveRecord (s : State) : RecordOf s.core (saveRecord s) := by
  refine ⟨natBits_saveRecord (i := 0) rfl rfl rfl, natBits_saveRecord (i := 1) rfl rfl rfl,
    natBits_saveRecord (i := 2) rfl rfl rfl, natBits_saveRecord (i := 3) rfl rfl rfl,
    natBits_saveRecord (i := 4) rfl rfl rfl, natBits_saveRecord (i := 5) rfl rfl rfl,
    natBits_saveRecord (i := 6) rfl rfl rfl, natBits_saveRecord (i := 7) rfl rfl rfl,
    natBits_saveRecord (i := 8) rfl rfl rfl, natBits_saveRecord (i := 9) rfl rfl rfl,
    natBits_saveRecord (i := 10) rfl rfl rfl, natBits_saveRecord (i := 11) rfl rfl rfl,
    natBits_saveRecord (i := 12) rfl rfl rfl, natBits_saveRecord (i := 13) rfl rfl rfl,
    natBits_saveRecord (i := 14) rfl rfl rfl, fun j hj => ?_⟩
  have hfield : (recordFields s.core)[15 + j]? = some (64, (mget 0 s.core.preg (8 + j)).toNat) := by
    rw [recordFields, List.getElem?_append_right (Nat.le_add_right 15 j)]
    simp [hj]
  have hwidth : ∀ j < 8, (recordWidths.take (15 + j)).sum = 256 + 64 * j := by decide
  exact natBits_saveRecord hfield (hwidth j hj) rfl

theorem natBits_lt (x hi lo : Nat) : natBits x hi lo < 2 ^ (hi + 1 - lo) := Nat.mod_lt _ (Nat.two_pow_pos _)

/-! ### What RESTX restores (R257, R409) -/

/-- R257. What the record `r` makes of a core when its state lands, but for P8–P15. -/
def restoredCore (r : Nat) (c : Core) : Core :=
  { c with
    trip := BitVec.setWidth 32 (BitVec.ofNat 64 (natBits r 31 0)), kix := BitVec.setWidth 32 (BitVec.ofNat 64 (natBits r 63 32))
    olc := BitVec.setWidth 32 (BitVec.ofNat 64 (natBits r 95 64)), rot := BitVec.setWidth 6 (BitVec.ofNat 64 (natBits r 101 96))
    holdc := BitVec.setWidth 32 (BitVec.ofNat 64 (natBits r 143 112))
    pausec := BitVec.setWidth 12 (BitVec.ofNat 64 (natBits r 155 144))
    rsdepth := BitVec.ofNat 18 (natBits r 201 184), rs := [] }

/-- R257. P8–P15 with the record's stage predicates. -/
def restoredStages (r : Nat) (m : SMap (BitVec 64)) : SMap (BitVec 64) :=
  (List.range 8).foldl (fun m j => mset 0 m (8 + j) (BitVec.ofNat 64 (natBits r (256 + 64 * j + 63) (256 + 64 * j)))) m

theorem foldl_applyEffect_pAll (n : Nat → Nat) (v : Nat → BitVec 64) (js : List Nat) (s : State) :
    (js.map fun j => Effect.pAll (n j) (v j)).foldl (fun s e => applyEffect e s) s =
      { s with core := { s.core with preg := js.foldl (fun m j => mset 0 m (n j) (v j)) s.core.preg } } := by
  induction js generalizing s with
  | nil => rfl
  | cons j js ih =>
    rw [List.map_cons, List.foldl_cons, ih]
    rfl

theorem foldl_applyFlag_pAll (n : Nat → Nat) (v : Nat → BitVec 64) (js : List Nat) (s : State) :
    (js.map fun j => Effect.pAll (n j) (v j)).foldl (fun s e => applyFlag e s) s = s := by
  induction js with
  | nil => rfl
  | cons j js ih => exact ih

theorem applySys_rawTrip (v : Word64) (c : Core) : applySys rawTrip v c = { c with trip := v.setWidth 32 } := rfl
theorem applySys_rawKix (v : Word64) (c : Core) : applySys rawKix v c = { c with kix := v.setWidth 32 } := rfl
theorem applySys_olc (v : Word64) (c : Core) : applySys 0x012 v c = { c with olc := v.setWidth 32 } := rfl
theorem applySys_rot (v : Word64) (c : Core) : applySys 0x013 v c = { c with rot := v.setWidth 6 } := rfl
theorem applySys_holdc (v : Word64) (c : Core) : applySys 0x014 v c = { c with holdc := v.setWidth 32 } := rfl
theorem applySys_pausec (v : Word64) (c : Core) : applySys 0x015 v c = { c with pausec := v.setWidth 12 } := rfl

theorem landEffects_restoreEffects (r : Nat) (s : State) : landEffects (restoreEffects r) s =
    { s with core := { restoredCore r s.core with preg := restoredStages r s.core.preg } } := by
  unfold landEffects restoreEffects
  rw [List.foldl_append, List.foldl_append, foldl_applyEffect_pAll, foldl_applyFlag_pAll]
  simp only [List.foldl_cons, List.foldl_nil, applyEffect, applyFlag, applySys_rawTrip, applySys_rawKix, applySys_olc,
    applySys_rot, applySys_holdc, applySys_pausec]
  rfl

theorem flagFree_restx (d : BitVec 18) : FlagFree (.restx d) := fun f s => by cases f <;> rfl

theorem restoreEffects_flagFree (r : Nat) : ∀ e ∈ restoreEffects r, FlagFree e := by
  unfold restoreEffects
  simp only [List.forall_mem_append, List.forall_mem_cons, List.forall_mem_map]
  have hsys {n : Nat} (h : n ≠ 0x004) (v : Word64) : FlagFree (.sys n v) := flagFree_sys h v
  exact ⟨⟨hsys (by decide) _, hsys (by decide) _, hsys (by decide) _, hsys (by decide) _, hsys (by decide) _,
    hsys (by decide) _, flagFree_restx _, List.forall_mem_nil _⟩, fun _ _ => flagFree_pAll _ _⟩

theorem mget_restoredStages {m : SMap (BitVec 64)} (hm : mwf 0 m = true) (r : Nat) {j : Nat} (hj : j < 8) :
    (mget 0 (restoredStages r m) (8 + j)).toNat = natBits r (256 + 64 * j + 63) (256 + 64 * j) := by
  have hget := mget_foldl_mset_in (8 + ·) (fun j => BitVec.ofNat 64 (natBits r (256 + 64 * j + 63) (256 + 64 * j)))
    List.nodup_range (fun _ _ _ _ => Nat.add_left_cancel) hm (List.mem_range.2 hj)
  unfold restoredStages
  rw [hget, BitVec.toNat_ofNat, Nat.mod_eq_of_lt]
  have hlt := natBits_lt r (256 + 64 * j + 63) (256 + 64 * j)
  rwa [show 256 + 64 * j + 63 + 1 - (256 + 64 * j) = 64 by omega] at hlt

/-- A field of at most 64 bits goes through a system register's write unchanged. -/
theorem toNat_setWidth_natBits (x : Nat) {hi lo w : Nat} (hw : hi + 1 - lo = w) (h : w ≤ 64) :
    (BitVec.setWidth w (BitVec.ofNat 64 (natBits x hi lo))).toNat = natBits x hi lo := by
  have hlt : natBits x hi lo < 2 ^ w := hw ▸ natBits_lt x hi lo
  rw [BitVec.toNat_setWidth, BitVec.toNat_ofNat, Nat.mod_eq_of_lt (Nat.lt_of_lt_of_le hlt (Nat.pow_le_pow_right Nat.two_pos h)),
    Nat.mod_eq_of_lt hlt]

/-! ### Landing beside a branch (R98, R99) -/

theorem applySys_branch (n : Nat) (v : Word64) (d : DelayOf) (t : Option Redir) (c : Core) :
    applySys n v { c with nextDelay := d, nextRedir := t } = { applySys n v c with nextDelay := d, nextRedir := t } := by
  have : ∀ c : Core, ({ c with nextDelay := d, nextRedir := t } : Core)
    = (fun c : Core => { c with nextDelay := d, nextRedir := t }) c := fun _ => rfl
  simp only [applySys]
  rw [this, this]
  simp only [apply_ite (fun c : Core => ({ c with nextDelay := d, nextRedir := t } : Core))]
  rfl

theorem applyEffect_branchTo (e : Effect) (d : DelayOf) (t : Option Redir) (s : State) :
    applyEffect e (branchTo d t s) = branchTo d t (applyEffect e s) := by
  cases e
  case sys n v => exact congrArg (fun c => ({ s with core := c } : State)) (applySys_branch n v d t s.core)
  all_goals rfl

theorem applyFlag_branchTo (e : Effect) (d : DelayOf) (t : Option Redir) (s : State) :
    applyFlag e (branchTo d t s) = branchTo d t (applyFlag e s) := by
  cases e <;> rfl

/-- What lands does not depend on the branch that the bundle takes. -/
theorem later_branchTo (n : Nat) (d : DelayOf) (t : Option Redir) (s : State) :
    later n (branchTo d t s) = branchTo d t (later n s) := by
  have hland (es : List Effect) (s : State) : landEffects es (branchTo d t s) = branchTo d t (landEffects es s) := by
    unfold landEffects
    rw [List.foldl_hom (branchTo d t) fun s e => applyEffect_branchTo e d t s,
      List.foldl_hom (branchTo d t) fun s e => applyFlag_branchTo e d t s]
  have hland := hland (dueBy n s) (passCycles n s)
  rw [later_eq, later_eq]
  exact congrArg (setPend (openAt n s)) hland

theorem applyEffect_preg_wf {e : Effect} {s : State} (h : mwf 0 s.core.preg = true) : mwf 0 (applyEffect e s).core.preg = true := by
  cases e
  case p n l v => exact mwf_mset h _ _
  case pAll n v => exact mwf_mset h _ _
  case sys n v =>
    have hw : SysWrite v s.core n (applySys n v s.core) := applySys_sysWrite n v s.core
    change mwf 0 (applySys n v s.core).preg = true
    generalize applySys n v s.core = c at hw ⊢
    cases hw
    case trip => exact mwf_foldl_mset h
    case kix => exact mwf_foldl_mset h
    all_goals exact h
  all_goals exact h

theorem later_preg_wf {n : Nat} (h : mwf 0 s.core.preg = true) : mwf 0 (later n s).core.preg = true := by
  have hfold {f : Effect → State → State} (hf : ∀ {e s}, mwf 0 s.core.preg = true → mwf 0 (f e s).core.preg = true)
      (es : List Effect) {s : State} (hs : mwf 0 s.core.preg = true) :
      mwf 0 (es.foldl (fun s e => f e s) s).core.preg = true := by
    induction es generalizing s with
    | nil => exact hs
    | cons e es ih => exact ih (hf hs)
  have hflag {e : Effect} {s : State} (hs : mwf 0 s.core.preg = true) : mwf 0 (applyFlag e s).core.preg = true := by
    cases e <;> exact hs
  exact hfold hflag _ (hfold applyEffect_preg_wf _ h)

end Sys2Proof.Machine
end

section
/-! SUPPORT. DONE, TRAP, EBREAK and YIELD (R86, R245, R246, R249, R258, R407). -/

namespace Sys2Proof.Machine

variable {s : State} {g : Guard}

theorem exec_done_off (h : guardOn s g = false) : exec (.done g) s = .next s := by
  change execDone g s = _
  rw [execDone, if_neg (by simp [h])]

theorem done_completes (h : guardOn s g = true) :
    Completes (.done g) s (EndsTask (if s.core.handler then .fault s.core.tcause else .done) s) := by
  refine ⟨_, ?_, endTask_endsTask _ s⟩
  change execDone g s = _
  rw [execDone, if_pos h]

/-! ### TRAP and EBREAK -/

variable {e : BitVec 14}

theorem trapInDelay_none {op : Nat} (h : s.core.delay = .none) : trapInDelay op s = none := causeIf_false (by simp [h]) _ _

theorem trapInDelay_some {op : Nat} (h : s.core.delay ≠ .none) : trapInDelay op s = some (cIllegalOp, op) :=
  causeIf_true (by simp [h]) _ _

theorem exec_trap_inDelay (h : s.core.delay ≠ .none) : Traps (.trap g e) s 0x01 0 0x0F := by
  change execTrap g e s = _
  rw [execTrap, orRaise_some (trapInDelay_some h)]
  rfl

theorem exec_ebreak_inDelay (h : s.core.delay ≠ .none) : Traps (.ebreak g e) s 0x01 0 0x12 := by
  change execEbreak g e s = _
  rw [execEbreak, orRaise_some (trapInDelay_some h)]
  rfl

theorem exec_trap (h : s.core.delay = .none) : exec (.trap g e) s = .next (
    if !guardOn s g then s else if s.core.handler then endTask (.fault s.core.tcause) s else raise cTrapi 0 e.toNat s) := by
  change execTrap g e s = _
  rw [execTrap, orRaise_none (trapInDelay_none h), orRaise_nil]

theorem exec_ebreak (h : s.core.delay = .none) :
    exec (.ebreak g e) s = .next (if guardOn s g then raise cBreak 0 e.toNat s else s) := by
  change execEbreak g e s = _
  rw [execEbreak, orRaise_none (trapInDelay_none h), orRaise_nil]

theorem exec_trap_off (h : s.core.delay = .none) (hg : guardOn s g = false) : exec (.trap g e) s = .next s := by
  rw [exec_trap h, hg]
  rfl

theorem exec_ebreak_off (h : s.core.delay = .none) (hg : guardOn s g = false) : exec (.ebreak g e) s = .next s := by
  rw [exec_ebreak h, hg]
  rfl

theorem exec_ebreak_on (h : s.core.delay = .none) (hg : guardOn s g = true) : Traps (.ebreak g e) s 0x14 0 e.toNat := by
  rw [Traps, exec_ebreak h, hg]
  rfl

theorem exec_trap_on (h : s.core.delay = .none) (hg : guardOn s g = true) (hh : s.core.handler = false) :
    Traps (.trap g e) s 0x13 0 e.toNat := by
  rw [Traps, exec_trap h, hg, hh]
  rfl

/-- R249. TRAP in handler mode. -/
theorem trap_completes (h : s.core.delay = .none) (hg : guardOn s g = true) (hh : s.core.handler = true) :
    Completes (.trap g e) s (EndsTask (.fault s.core.tcause) s) := by
  refine ⟨_, ?_, endTask_endsTask _ s⟩
  rw [exec_trap h, hg, hh]
  rfl

/-! ### YIELD -/

variable {p : BitVec 15}

theorem exec_yield_outside (h : s.core.phase ≠ .drain) : Traps (.yield g p) s 0x01 0 0x0E := by
  change execYield g p s = _
  rw [execYield, orRaise_some (causeIf_true (by simp [h]) _ _)]
  rfl

theorem exec_yield (h : s.core.phase = .drain) : exec (.yield g p) s = .next (
    if !guardOn s g then s
    else orRaise 0 [causeIf (notQuiet s) cSchedule (freeDetail s),
      causeIf (!inHalf s.core p.toNat) cOperand (freeDetail s)] (yieldEnds p) s) := by
  change execYield g p s = _
  rw [execYield, orRaise_none (causeIf_false (by simp [h]) _ _), orRaise_nil]

theorem exec_yield_off (h : s.core.phase = .drain) (hg : guardOn s g = false) : exec (.yield g p) s = .next s := by
  rw [exec_yield h, hg]
  rfl

theorem exec_yield_busy (h : s.core.phase = .drain) (hg : guardOn s g = true) (hq : notQuiet s = true) :
    Traps (.yield g p) s 0x07 0 (freeDetail s) := by
  rw [Traps, exec_yield h, hg, orRaise_some (causeIf_true hq _ _)]
  rfl

theorem exec_yield_otherHalf (h : s.core.phase = .drain) (hg : guardOn s g = true) (hq : notQuiet s = false)
    (hp : inHalf s.core p.toNat = false) : Traps (.yield g p) s 0x11 0 (freeDetail s) := by
  rw [Traps, exec_yield h, hg, orRaise_none (causeIf_false hq _ _), orRaise_some (causeIf_true (by rw [hp]; rfl) _ _)]
  rfl

theorem exec_yield_ends (h : s.core.phase = .drain) (hg : guardOn s g = true) (hq : notQuiet s = false)
    (hp : inHalf s.core p.toNat = true) : exec (.yield g p) s = .next (yieldEnds p s) := by
  rw [exec_yield h, hg, orRaise_none (causeIf_false hq _ _), orRaise_none (causeIf_false (by rw [hp]; rfl) _ _), orRaise_nil]
  rfl

/-- R86, R90. The YIELD of an overrun, or of a thermal stop. -/
theorem yieldEnds_overrun (h : s.core.drainWhy = .overrun) : yieldEnds p s = endTask .overrun s := by
  unfold yieldEnds
  rw [h]

theorem yieldEnds_thermal (h : s.core.drainWhy = .thermal) : yieldEnds p s = endTask .thermal s := by
  unfold yieldEnds
  rw [h]

/-- R81, R258. The suspension slot is taken. -/
theorem yieldEnds_pool_full (h : s.core.drainWhy = .pool) (hs : s.core.susp ≠ none) : yieldEnds p s = endTask (.kill 0x20) s := by
  unfold yieldEnds
  rw [h]
  exact if_pos (Option.isSome_iff_ne_none.2 hs)

theorem yieldEnds_suspends (h : s.core.drainWhy = .late ∨ (s.core.drainWhy = .pool ∧ s.core.susp = none)) :
    yieldEnds p s = suspend p (discardBte s) := by
  unfold yieldEnds
  rcases h with h | ⟨h, hs⟩
  · rw [h]
  · rw [h]
    exact if_neg (by simp [hs])

/-- R81, R258. `t` is `s` with its task `t0` in the suspension slot, with the rest of its budget and the stub `p`, and the core
free. -/
def Suspends (t0 : Task) (p : BitVec 15) (s t : State) : Prop :=
  t.core.phase = .idle ∧ t.core.task = none ∧ t.core.bte = [] ∧ t.core.sreg = s.core.sreg ∧ t.mem = s.mem
    ∧ t.core.susp = some ⟨{ t0 with budget := t0.budget.map fun d => d - s.cyc }, p, none, false, []⟩

theorem suspend_discardBte {t0 : Task} (h : s.core.task = some t0) : Suspends t0 p s (suspend p (discardBte s)) := by
  rw [discardBte_eq]
  unfold suspend
  dsimp only
  rw [h]
  exact ⟨rfl, rfl, rfl, rfl, rfl, rfl⟩

end Sys2Proof.Machine
end

section
/-! SUPPORT. SAVEX and RESTX (R256, R257, R373, R408, R409). -/

namespace Sys2Proof.Machine

variable {s : State} {g : Guard} {a : SReg} {o : Nat}

/-! ### The causes that the record's place has (R408) -/

theorem orRaise_recordCauses_protect (h : 0x200000 < o + 96) (cs : List (Option (Nat × Nat))) (k : State → State) :
    orRaise 0 (recordCauses o ++ cs) k s = raise 0x0A 0 o s :=
  orRaise_some (causeIf_true (decide_eq_true h) _ _)

theorem orRaise_recordCauses_align (h : o + 96 ≤ 0x200000) (ha : o % 16 ≠ 0) (cs : List (Option (Nat × Nat)))
    (k : State → State) : orRaise 0 (recordCauses o ++ cs) k s = raise 0x0B 0 o s :=
  (orRaise_none (causeIf_false (decide_eq_false (Nat.not_lt.2 h)) _ _)).trans
    (orRaise_some (causeIf_true (decide_eq_true ha) _ _))

theorem orRaise_recordCauses (h : o + 96 ≤ 0x200000) (ha : o % 16 = 0) (cs : List (Option (Nat × Nat))) (k : State → State) :
    orRaise 0 (recordCauses o ++ cs) k s = orRaise 0 cs k s :=
  (orRaise_none (causeIf_false (decide_eq_false (Nat.not_lt.2 h)) _ _)).trans
    (orRaise_none (causeIf_false (decide_eq_false (not_not.2 ha)) _ _))

/-! ### SAVEX -/

theorem exec_savex_off (hg : guardOn s g = false) : exec (.savex g a) s = .next s := by
  change execSavex g a s = _
  rw [execSavex, if_neg (by simp [hg])]

theorem exec_savex_protect (hg : guardOn s g = true) (ho : 0x200000 < (rdS s a).toNat + 96) :
    Traps (.savex g a) s 0x0A 0 (rdS s a).toNat := by
  change execSavex g a s = _
  rw [execSavex, if_pos hg]
  exact congrArg _ (orRaise_recordCauses_protect ho _ _)

theorem exec_savex_align (hg : guardOn s g = true) (ho : (rdS s a).toNat + 96 ≤ 0x200000) (ha : (rdS s a).toNat % 16 ≠ 0) :
    Traps (.savex g a) s 0x0B 0 (rdS s a).toNat := by
  change execSavex g a s = _
  rw [execSavex, if_pos hg]
  exact congrArg _ (orRaise_recordCauses_align ho ha _ _)

theorem spillAll_of_empty (h : s.core.rs = []) : spillAll s = s := by
  have hs : s = { s with core := { s.core with rs := [] } } := h ▸ rfl
  unfold spillAll
  dsimp only
  rw [h]
  exact hs.symm

/-- The issue count from which the core's loads see the record that a SAVEX writes in `s` (log 116). -/
def saveDue (s : State) : Nat := s.core.icnt + 1 + freeBelow s 0 8

theorem saveDue_le (s : State) : saveDue s ≤ s.core.icnt + 8 := by
  have h : freeBelow s 0 8 < 8 := Nat.mod_lt _ (by decide)
  unfold saveDue
  omega

/-- R256. The state with the record of a core that holds no return position in hardware written at `l`. -/
def saveAt (l : Nat) (s : State) : State := homeWrite (some (saveDue s)) l (natToBytes 96 (saveRecord s)) (spend 1 s)

theorem exec_savex (hg : guardOn s g = true) (ho : (rdS s a).toNat + 96 ≤ 0x200000) (ha : (rdS s a).toNat % 16 = 0)
    (hbad : badAddr s (spadBase s.coreNo + (rdS s a).toNat) 96 = none) (hrs : s.core.rs = [])
    (hroom : rsBase s.core + 8 * s.core.rsdepth.toNat ≤ rsLimit s.core) :
    exec (.savex g a) s = .next (put 8 .nothing (saveAt (spadBase s.coreNo + (rdS s a).toNat) s)) := by
  have hfits : saveFaults s = false := by
    unfold saveFaults rstack
    rw [decide_eq_false (Nat.not_lt.2 hroom), hrs]
    rfl
  change execSavex g a s = _
  rw [execSavex, if_pos hg]
  refine congrArg _ ((orRaise_recordCauses ho ha _ _).trans ((orRaise_none (causeIf_false hfits _ _)).trans ?_))
  rw [orRaise_nil, hbad]
  dsimp only
  rw [spillAll_of_empty (s := spend 1 s) hrs]
  rfl

theorem saveAt_onlyStore (l : Nat) (s : State) : OnlyStore s (saveAt l s) :=
  OnlyStore.trans (t := spend 1 s) rfl (homeWrite_onlyStore ..)

theorem saveAt_slow (h : mwf [] s.slow = true) {l k : Nat} {v : Slow} (hv : v ∈ mget [] (saveAt l s).slow k) :
    v ∈ mget [] s.slow k ∨ v.due = saveDue s :=
  homeWrite_slow (s := spend 1 s) h hv

theorem saveAt_storedBytes (hm : s.memOk) (l : Nat) : StoredBytes s.mem (saveAt l s).mem l (natToBytes 96 (saveRecord s)) := by
  have hmem : (saveAt l s).mem = s.mem.writeBytes l (natToBytes 96 (saveRecord s)) := homeWrite_mem ..
  rw [hmem]
  exact storedBytes_writeBytes hm

/-- R373, log 116. The record shows to the core's loads within 8 cycles. -/
theorem saveAt_shown (h : mwf [] s.slow = true) (l : Nat) {x : Nat} (hx : slowOf s (granule x).1 = none) :
    let t := put 8 .nothing (saveAt l s)
    readOld (later 8 { t with core := { t.core with bold := [] } }) x = t.mem.read x := by
  have honly : OnlyStore s (saveAt l s) := saveAt_onlyStore l s
  have hslow : ∀ k, ∀ v ∈ mget [] (saveAt l s).slow k, v ∈ mget [] s.slow k ∨ v.due = saveDue s :=
    fun _ _ hv => saveAt_slow h hv
  generalize saveAt l s = u at honly hslow ⊢
  exact readOld_later_of_shown (s := s) honly.coreNo honly.icnt rfl hslow (saveDue_le s) hx

/-! ### RESTX -/

/-- The record that a RESTX of offset `o` reads. -/
def recordAt (s : State) (o : Nat) : Nat := bytesToNat (readHome s (spadBase s.coreNo + o) 96)

/-- R257. The wait that the record holds. -/
def waitOf (r : Nat) : Option (BitVec 40) := if natBits r 156 156 = 1 then some (BitVec.ofNat 40 (natBits r 241 202)) else none

theorem exec_restx_off (hg : guardOn s g = false) : exec (.restx g a) s = .next (branchTo .branch none s) := by
  change execRestx g a s = _
  rw [execRestx, if_neg (by simp [hg])]

theorem exec_restx_protect (hg : guardOn s g = true) (ho : 0x200000 < (rdS s a).toNat + 96) :
    Traps (.restx g a) s 0x0A 0 (rdS s a).toNat := by
  change execRestx g a s = _
  rw [execRestx, if_pos hg]
  exact congrArg _ (orRaise_recordCauses_protect ho [] _)

theorem exec_restx_align (hg : guardOn s g = true) (ho : (rdS s a).toNat + 96 ≤ 0x200000) (ha : (rdS s a).toNat % 16 ≠ 0) :
    Traps (.restx g a) s 0x0B 0 (rdS s a).toNat := by
  change execRestx g a s = _
  rw [execRestx, if_pos hg]
  exact congrArg _ (orRaise_recordCauses_align ho ha [] _)

theorem exec_restx (hg : guardOn s g = true) (ho : (rdS s a).toNat + 96 ≤ 0x200000) (ha : (rdS s a).toNat % 16 = 0)
    (hbad : badAddr s (spadBase s.coreNo + (rdS s a).toNat) 96 = none) : exec (.restx g a) s = .next (
      let r := recordAt s (rdS s a).toNat
      orRaise 0 [causeIf (recordBad s.core r) cOperand (freeDetail s)] (fun s =>
        branchTo .branch (some ⟨BitVec.ofNat 15 (natBits r 174 160), .restx (waitOf r)⟩)
          (putMany 2 (restoreEffects r) s)) s) := by
  change execRestx g a s = _
  rw [execRestx, if_pos hg]
  refine congrArg _ ((orRaise_recordCauses ho ha [] _).trans ?_)
  rw [orRaise_nil, hbad]
  rfl

theorem exec_restx_bad (hg : guardOn s g = true) (ho : (rdS s a).toNat + 96 ≤ 0x200000) (ha : (rdS s a).toNat % 16 = 0)
    (hbad : badAddr s (spadBase s.coreNo + (rdS s a).toNat) 96 = none)
    (hr : recordBad s.core (recordAt s (rdS s a).toNat) = true) :
    Traps (.restx g a) s 0x11 0 (freeDetail s) := by
  rw [Traps, exec_restx hg ho ha hbad]
  exact congrArg _ (orRaise_some (causeIf_true hr _ _))

/-- R257, R409. The state after a RESTX of a good record `r`. -/
def restoreFrom (r : Nat) (s : State) : State :=
  branchTo .branch (some ⟨BitVec.ofNat 15 (natBits r 174 160), .restx (waitOf r)⟩) (putMany 2 (restoreEffects r) s)

theorem exec_restx_good (hg : guardOn s g = true) (ho : (rdS s a).toNat + 96 ≤ 0x200000) (ha : (rdS s a).toNat % 16 = 0)
    (hbad : badAddr s (spadBase s.coreNo + (rdS s a).toNat) 96 = none)
    (hr : recordBad s.core (recordAt s (rdS s a).toNat) = false) :
    exec (.restx g a) s = .next (restoreFrom (recordAt s (rdS s a).toNat) s) := by
  rw [exec_restx hg ho ha hbad]
  exact congrArg _ (orRaise_none (causeIf_false hr _ _))

/-- R257. Two issue cycles later the record's state is in force, over whatever else has landed by then. -/
theorem later_restoreFrom (r : Nat) (s : State) : later 2 (restoreFrom r s) =
    branchTo .branch (some ⟨BitVec.ofNat 15 (natBits r 174 160), .restx (waitOf r)⟩) { later 2 s with core :=
      { restoredCore r (later 2 s).core with preg := restoredStages r (later 2 s).core.preg } } := by
  unfold restoreFrom
  rw [later_branchTo, (putMany_lands (restoreEffects_flagFree r) 2 s).2, landEffects_restoreEffects]

/-- R257, R409. `y` holds the state of the record `r`; P8–P15 are its stage predicates. -/
def Restored (r : Nat) (y : Core) : Prop :=
  y.trip.toNat = natBits r 31 0 ∧ y.kix.toNat = natBits r 63 32 ∧ y.olc.toNat = natBits r 95 64
    ∧ y.rot.toNat = natBits r 101 96 ∧ y.holdc.toNat = natBits r 143 112
    ∧ y.pausec.toNat = natBits r 155 144 ∧ y.rsdepth.toNat = natBits r 201 184 ∧ y.rs = []
    ∧ ∀ j, j < 8 → (mget 0 y.preg (8 + j)).toNat = natBits r (256 + 64 * j + 63) (256 + 64 * j)

theorem restored_restoredCore {m : SMap (BitVec 64)} (hm : mwf 0 m = true) (r : Nat) (c : Core) :
    Restored r { restoredCore r c with preg := restoredStages r m } := by
  have hrsd : (BitVec.ofNat 18 (natBits r 201 184)).toNat = natBits r 201 184 := by
    rw [BitVec.toNat_ofNat, Nat.mod_eq_of_lt (natBits_lt r 201 184)]
  exact ⟨toNat_setWidth_natBits r rfl (by decide), toNat_setWidth_natBits r rfl (by decide),
    toNat_setWidth_natBits r rfl (by decide), toNat_setWidth_natBits r rfl (by decide),
    toNat_setWidth_natBits r rfl (by decide), toNat_setWidth_natBits r rfl (by decide), hrsd, rfl,
    fun j hj => mget_restoredStages hm r hj⟩

theorem Restored.branch {r : Nat} {c : Core} (h : Restored r c) (d : DelayOf) (t : Option Redir) :
    Restored r { c with nextDelay := d, nextRedir := t } := h

theorem later_restoreFrom_restored (hp : mwf 0 s.core.preg = true) (r : Nat) : Restored r (later 2 (restoreFrom r s)).core := by
  rw [later_restoreFrom]
  exact (restored_restoredCore (later_preg_wf hp) r (later 2 s).core).branch ..

theorem later_restoreFrom_frame (r : Nat) (s : State) :
    (later 2 (restoreFrom r s)).core.sreg = (later 2 s).core.sreg ∧ (later 2 (restoreFrom r s)).mem = (later 2 s).mem := by
  rw [later_restoreFrom]
  exact ⟨rfl, rfl⟩

end Sys2Proof.Machine
end

section
/-! SUPPORT. What ends, traps, saves and restores a task together. -/

namespace Sys2Proof.Machine

/-- Settles O43: each ending by `endTask_endsTask`, the traps by their causes, the record by its fields, its restoration by what
lands two cycles later. -/
theorem taskControl : Obligations.TaskControl := by
  unfold Obligations.TaskControl
  intro s g a p e on ends
  refine ⟨fun hg => ⟨exec_done_off hg, exec_savex_off hg, fun hd => ⟨exec_trap_off hd hg, exec_ebreak_off hd hg⟩,
      fun hp => exec_yield_off hp hg, exec_restx_off hg⟩,
    fun hg => done_completes hg, fun hd => ⟨exec_trap_inDelay hd, exec_ebreak_inDelay hd⟩,
    fun hd hg => ⟨exec_ebreak_on hd hg, exec_trap_on hd hg, trap_completes hd hg⟩, exec_yield_outside, ?yield, ?record⟩
  case yield =>
    refine fun hp hg => ⟨fun hq => ⟨_, exec_yield_busy hp hg hq⟩, fun hq hin => ⟨_, exec_yield_otherHalf hp hg hq hin⟩,
      fun hq hin t0 ht0 => ?_⟩
    have hexec := exec_yield_ends hp hg hq hin
    refine ⟨fun hw => ?_, fun hw => ?_, fun hw hs => ?_, fun hw => ?_⟩
    · exact ⟨_, hexec, yieldEnds_overrun hw ▸ endTask_endsTask .overrun s⟩
    · exact ⟨_, hexec, yieldEnds_thermal hw ▸ endTask_endsTask .thermal s⟩
    · exact ⟨_, hexec, yieldEnds_pool_full hw hs ▸ endTask_endsTask (.kill 0x20) s⟩
    · exact ⟨_, hexec, yieldEnds_suspends hw ▸ suspend_discardBte ht0⟩
  case record =>
    intro o l hg
    refine ⟨fun ho => ⟨exec_savex_protect hg ho, exec_restx_protect hg ho⟩,
      fun ho ha => ⟨exec_savex_align hg ho ha, exec_restx_align hg ho ha⟩, fun ho ha hbad => ⟨fun hrs hroom hm => ?_, ?_⟩⟩
    · exact ⟨_, exec_savex hg ho ha hbad hrs hroom, _, _, rfl, (saveAt_onlyStore l s).onlyMemory, saveAt_storedBytes hm l,
        fun hslow x hx => saveAt_shown hslow l hx, recordOf_saveRecord s⟩
    · refine ⟨fun hr => ⟨_, exec_restx_bad hg ho ha hbad hr⟩,
        fun hr hp => ⟨_, exec_restx_good hg ho ha hbad hr, rfl, rfl, rfl, ?_⟩⟩
      obtain ⟨htrip, hkix, holc, hrot, hholdc, hpausec, hrsd, hrs, hstages⟩ := later_restoreFrom_restored hp (recordAt s o)
      exact ⟨htrip, hkix, holc, hrot, hholdc, hpausec, hrsd, hrs, hstages, later_restoreFrom_frame (recordAt s o) s⟩

end Sys2Proof.Machine
end

section
/-! SUPPORT. Entering the handler (R93, R123, R245–R250). -/

namespace Sys2Proof.Machine

variable {s : State} {t : TrapRec}

/-- R93. A drain request of this very cycle lapses at a fault. -/
theorem lapse_eq (s : State) : lapse s =
    { s with core := { s.core with drainReq := s.core.drainReq.filter fun q => decide (q.last ≠ s.cyc) } } := by
  have hself (o) (h : s.core.drainReq = o) : s = { s with core := { s.core with drainReq := o } } := h ▸ rfl
  unfold lapse
  split
  · next r hr =>
    rw [hr, Option.filter_some]
    split
    · next hnow => rw [if_neg (by simpa using hnow)]
    · next hnow =>
      rw [if_pos (by simpa using hnow)]
      exact hself _ hr
  · next hr =>
    rw [hr]
    exact hself _ hr

/-- A drain request counts neither for CLEAN nor for the entry into the handler. -/
theorem isClean_lapse (s : State) (n : Nat) : isClean (lapse s).core n = isClean s.core n := by
  rw [lapse_eq]
  rfl

/-- R245, R246. A trapping bundle outside the handler and outside a drain: the trap is on its way, everything else stays. -/
theorem faulted_enters (hh : s.core.handler = false) (hp : s.core.phase ≠ .drain) (t : TrapRec) (pos : BitVec 15) :
    faulted t pos s = { s with free := s.free + trapDraws, core := { s.core with
      wait := none, raised := none, icnt := s.core.icnt + 1, turn := s.cyc + 1
      drainReq := s.core.drainReq.filter fun q => decide (q.last ≠ s.cyc)
      entering := some ⟨t, pos, isClean s.core s.core.icnt && !t.async,
        Nat.max (s.core.icnt + 1) (latestLanding s.core)⟩ } } := by
  unfold faulted takeCauseAt
  dsimp only
  rw [isClean_lapse, lapse_eq, if_neg (by simp [hh, hp])]
  rfl

/-- R249, R255. In handler mode or in a drain the task ends by fault, with the cause recorded as a trap entry records it. -/
theorem faulted_ends (h : s.core.handler = true ∨ s.core.phase = .drain) (t : TrapRec) (pos : BitVec 15) :
    faulted t pos s = { s with free := s.free + trapDraws, core := { s.core with
      phase := .ended, ending := some (.fault t.code), endCyc := s.cyc, wait := none, entering := none, raised := none
      reports := [], drainReq := none, memerr := none, dt := failTokens s.core.bte s.core.dt, bte := []
      icnt := s.core.icnt + 1, turn := s.cyc + 1
      tcause := t.code, tepc := pos, tinfo := tinfoOf t (isClean s.core s.core.icnt && !t.async) } } := by
  unfold faulted takeCauseAt
  dsimp only
  rw [isClean_lapse, lapse_eq, if_pos (by rw [Bool.or_eq_true, decide_eq_true_eq]; exact h),
    endTask_eq (fun h => EndKind.noConfusion h)]
  rfl

/-- R250. A bundle whose operations have a cause by themselves. -/
theorem issueBundle_of_cause {w n : Nat} (h : bundleCause (startBundle s) (slotsOf w) = some t) :
    issueBundle w n s = .next (faulted t (trapPos s.core) (startBundle s)) := by
  unfold issueBundle
  dsimp only
  rw [h]
  rfl

/-- R86. The tokens of the commands that have not started, after the task has ended by fault. -/
theorem rdTok_of_failTokens {u : State} (hu : u.core.dt = failTokens s.core.bte s.core.dt) (hm : mwf .ok s.core.dt = true)
    (k : Tok) : rdTok u k = if k ≠ 0 ∧ ∃ x ∈ s.core.bte, x.produce = k then .err else rdTok s k := by
  unfold rdTok
  by_cases hk : k = 0
  · rw [if_pos hk, if_pos hk, if_neg fun h => h.1 hk]
  · rw [if_neg hk, if_neg hk, hu, mget_failTokens hm hk]
    simp only [ne_eq, hk, not_false_eq_true, true_and]

/-- R245, R247. The first bundle of the handler is next. -/
theorem exec_trapEntry {g : Nat} {e : TrapEntry} (he : (select g s).core.entering = some e)
    (hdue : e.due ≤ (select g s).core.icnt) : exec (.trapEntry g) s = .next (enterHandler e (select g s)) := by
  change execTrapEntry g s = _
  unfold execTrapEntry
  dsimp only
  rw [he]
  exact if_neg (Nat.not_lt.2 hdue)

/-! ### TINFO (R247) -/

/-- A field of one bit. -/
theorem getLsbD_oneAt (b : Bool) (n : Nat) {i : Nat} (hi : i < 64) :
    ((if b then 1#64 else 0#64) <<< n).getLsbD i = (b && decide (i = n)) := by
  cases b
  · simp
  · rw [if_pos rfl, BitVec.getLsbD_shiftLeft, BitVec.getLsbD_one]
    by_cases hn : i = n
    · simp [hn, hn ▸ hi]
    · simp [hn, hi]; omega

/-- R247. TINFO, bit by bit. -/
theorem getLsbD_tinfoOf (t : TrapRec) (clean : Bool) {i : Nat} (hi : i < 64) : (tinfoOf t clean).getLsbD i =
    (t.detail.getLsbD i || (!t.whole && decide (56 ≤ i) && t.slot.getLsbD (i - 56)) || (t.whole && decide (i = 59))
      || (t.async && decide (i = 60)) || (clean && decide (i = 63))) := by
  have hslot : ((if t.whole then 0#64 else t.slot.setWidth 64) <<< 56).getLsbD i
      = (!t.whole && decide (56 ≤ i) && t.slot.getLsbD (i - 56)) := by
    rw [BitVec.getLsbD_shiftLeft]
    cases t.whole
    · have hlt : i - 56 < 64 := by omega
      have hge : decide (56 ≤ i) = !decide (i < 56) := by rw [Bool.eq_iff_iff]; simp
      simp [hi, hlt, hge]
    · simp
  unfold tinfoOf
  rw [BitVec.getLsbD_or, BitVec.getLsbD_or, BitVec.getLsbD_or, BitVec.getLsbD_or, hslot, getLsbD_oneAt _ _ hi, getLsbD_oneAt _ _ hi,
    getLsbD_oneAt _ _ hi, BitVec.getLsbD_setWidth, decide_eq_true hi, Bool.true_and]

/-- R247. The fields of TINFO. -/
theorem tinfoOf_fields (t : TrapRec) (clean : Bool) :
    (tinfoOf t clean).extractLsb' 0 56 = t.detail ∧ (tinfoOf t clean).extractLsb' 56 3 = (if t.whole then 0 else t.slot)
      ∧ (tinfoOf t clean).getLsbD 59 = t.whole ∧ (tinfoOf t clean).getLsbD 60 = t.async
      ∧ (tinfoOf t clean).extractLsb' 61 2 = 0 ∧ (tinfoOf t clean).getLsbD 63 = clean := by
  have hdetail {i : Nat} (hi : 56 ≤ i) : t.detail.getLsbD i = false := BitVec.getLsbD_of_ge _ _ hi
  have hslot {i : Nat} (hi : 3 ≤ i) : t.slot.getLsbD i = false := BitVec.getLsbD_of_ge _ _ hi
  have hbit {i : Nat} (hlo : 59 ≤ i) (hi : i < 64) : (tinfoOf t clean).getLsbD i =
      (t.whole && decide (i = 59) || t.async && decide (i = 60) || clean && decide (i = 63)) := by
    rw [getLsbD_tinfoOf t clean hi, hdetail (by omega), hslot (by omega)]
    simp
  refine ⟨BitVec.eq_of_getLsbD_eq fun i hi => ?detail, BitVec.eq_of_getLsbD_eq fun i hi => ?slot, ?_, ?_,
    BitVec.eq_of_getLsbD_eq fun i hi => ?reserved, ?_⟩
  case detail =>
    rw [BitVec.getLsbD_extractLsb', Nat.zero_add, getLsbD_tinfoOf t clean (by omega), decide_eq_false (show ¬56 ≤ i by omega),
      decide_eq_false (show i ≠ 59 by omega), decide_eq_false (show i ≠ 60 by omega), decide_eq_false (show i ≠ 63 by omega)]
    simp [hi]
  case slot =>
    rw [BitVec.getLsbD_extractLsb', getLsbD_tinfoOf t clean (by omega), hdetail (Nat.le_add_right 56 i),
      decide_eq_false (show 56 + i ≠ 59 by omega), decide_eq_false (show 56 + i ≠ 60 by omega),
      decide_eq_false (show 56 + i ≠ 63 by omega), Nat.add_sub_cancel_left]
    cases t.whole
    · simp [hi]
    · simp
  case reserved =>
    rw [BitVec.getLsbD_extractLsb', hbit (by omega) (by omega), decide_eq_false (show 61 + i ≠ 59 by omega),
      decide_eq_false (show 61 + i ≠ 60 by omega), decide_eq_false (show 61 + i ≠ 63 by omega)]
    simp
  all_goals
    rw [hbit (by decide) (by decide)]
    simp

end Sys2Proof.Machine
end

section
/-! SUPPORT. The trap of a bundle and its entry into the handler together. -/

namespace Sys2Proof.Machine

/-- Settles O44: a trapping bundle by `faulted_enters` and `faulted_ends`, the entry by `exec_trapEntry`, TINFO by its bits. -/
theorem trapTaken : Obligations.TrapTaken := by
  unfold Obligations.TrapTaken
  refine ⟨?bundle, ?entry, tinfoOf_fields⟩
  case bundle =>
    intro s w n t h pos b clean
    refine ⟨_, issueBundle_of_cause h, ?_⟩
    by_cases hends : s.core.handler = true ∨ s.core.phase = .drain
    · rw [faulted_ends (s := startBundle s) hends]
      exact ⟨rfl, fun hh hp => absurd hends (not_or.2 ⟨by simp [hh], hp⟩),
        fun _ => ⟨rfl, fun hm k => rdTok_of_failTokens rfl hm k⟩⟩
    · obtain ⟨hh, hp⟩ := not_or.1 hends
      rw [faulted_enters (s := startBundle s) (Bool.eq_false_iff.2 hh) hp]
      exact ⟨rfl, fun _ _ => rfl, fun h => absurd h hends⟩
  case entry =>
    intro g s e he hdue
    exact ⟨_, exec_trapEntry he hdue, rfl, rfl, rfl, rfl, rfl, rfl, rfl, rfl, rfl, rfl, rfl, rfl, rfl, rfl, rfl, rfl, rfl, rfl⟩

end Sys2Proof.Machine
end
